-- ==== Sys2Proof/Word.lean ====
section
/-! DEFINITION. Word.lean: the word and byte types and their plainest arithmetic (spec 00 R2: little-endian). -/

namespace Sys2Proof

/-- A 64-bit word: a register, an instruction word, a command word. -/
abbrev Word := BitVec 64

/-- One byte of memory. -/
abbrev Byte := BitVec 8

/-- Two to the power `n`. -/
abbrev pow2 (n : Nat) : Nat := 2 ^ n

/-- The word that holds `n` modulo 2^64. -/
abbrev word (n : Nat) : Word := BitVec.ofNat 64 n

end Sys2Proof
end

