-- ==== Sys2Proof/Syntax.lean ====
section
/-! DEFINITION. Syntax.lean: the instructions, engine commands and events of the Beltor-8, one constructor of `Instr`
for each row of spec/opcode_table.json; the rows without an operand stand last. Register numbers are `Fin`; immediates that are added or
compared are 32-bit vectors, as the word carries them (spec 02 R39 to R55). -/

namespace Sys2Proof

/-- A scalar register number x0 to x63 (02 R41). -/
abbrev XReg := Fin 64

/-- A capability register number c0 to c15 (02 R41). -/
abbrev CReg := Fin 16

/-- A scheduled engine, in the order of an "eng" operand (02 R46). -/
inductive Eng where
  | copy | matrix | vector
deriving DecidableEq, Repr

/-- The storage spaces of LD and ST (02 R44). -/
inductive Space where
  | spad | stage | global | host
deriving DecidableEq, Repr

/-- An ordering immediate (02 R45): the agent scope code and the storage-scope mask. -/
structure Ord where
  ascope : Fin 8
  host   : Bool
  digest : Bool
  global : Bool
  stage  : Bool
  spad   : Bool
deriving DecidableEq, Repr

/-- The WAIT and SIG bytes of a command word (02 R47): wait kind and value, slot set, slot checked. -/
structure Hdr where
  wk   : Fin 4
  wv   : Fin 64
  sset : Fin 16
  schk : Fin 16
deriving DecidableEq, Repr

/-- Where a command record comes from (22 R390). -/
inductive Src where
  | host | sideband | kernel
deriving DecidableEq, Repr

/-- What a command record carries besides its operands: its source, its TAG and the partition it acts for (22 R390). -/
structure CmdCtx where
  src : Src
  tag : BitVec 8
  pid : Fin 16
deriving DecidableEq, Repr

/-- The registers that REGISTER_WRITE reaches: the plain registers of the base configuration object (09 R201) and of
BAR0 (22 R389). -/
inductive PlainReg where
  | slstat (g : Nat) | pway (g p : Nat) | nwgt (p : Nat) | hpid
deriving DecidableEq, Repr

/-- The instructions, commands and events: one constructor for each row of spec/opcode_table.json. -/
inductive Instr where
  -- SYS group (05 R115 to R121)
  | hint (k : Fin 8)
  | trap (code : BitVec 16)
  | csrr (a : XReg) (csr : Fin 4096)
  | csrw (csr : Fin 4096) (b : XReg)
  | csrset (csr : Fin 4096) (b : XReg)
  | csrclr (csr : Fin 4096) (b : XReg)
  | gtime (a : XReg)
  | rngnext (a : XReg)
  -- ALU group (05 R122, R123)
  | add (a b c : XReg)
  | sub (a b c : XReg)
  | and (a b c : XReg)
  | or (a b c : XReg)
  | xor (a b c : XReg)
  | sll (a b c : XReg)
  | srl (a b c : XReg)
  | sra (a b c : XReg)
  | mul (a b c : XReg)
  | mulh (a b c : XReg)
  | div (a b c : XReg)
  | divn (a b c : XReg)
  | rem (a b c : XReg)
  | remn (a b c : XReg)
  | min (a b c : XReg)
  | max (a b c : XReg)
  | minn (a b c : XReg)
  | maxn (a b c : XReg)
  | slt (a b c : XReg)
  | sltn (a b c : XReg)
  | clz (a b : XReg)
  | ctz (a b : XReg)
  | popc (a b : XReg)
  | clmul (a b c : XReg)
  | clmulh (a b c : XReg)
  -- ALUI group (05 R124)
  | addi (a b : XReg) (imm : BitVec 32)
  | andi (a b : XReg) (imm : BitVec 32)
  | ori (a b : XReg) (imm : BitVec 32)
  | xori (a b : XReg) (imm : BitVec 32)
  | slli (a b : XReg) (sh : Fin 64)
  | srli (a b : XReg) (sh : Fin 64)
  | srai (a b : XReg) (sh : Fin 64)
  | slti (a b : XReg) (imm : BitVec 32)
  | sltni (a b : XReg) (imm : BitVec 32)
  | movhi (a b : XReg) (imm : BitVec 32)
  -- control transfer (05 R126, R127)
  | beq (b c : XReg) (imm : BitVec 32)
  | bne (b c : XReg) (imm : BitVec 32)
  | blt (b c : XReg) (imm : BitVec 32)
  | bge (b c : XReg) (imm : BitVec 32)
  | bltn (b c : XReg) (imm : BitVec 32)
  | bgen (b c : XReg) (imm : BitVec 32)
  | jal (a : XReg) (imm : BitVec 32)
  | jalr (a b : XReg) (imm : BitVec 32)
  -- loads and stores (05 R128, R129)
  | ld (sp : Space) (sgn : Bool) (size : Fin 4) (a : XReg) (b : CReg) (c : XReg) (imm : BitVec 32)
  | st (sp : Space) (size : Fin 4) (a : XReg) (b : CReg) (c : XReg) (imm : BitVec 32)
  -- CAP group (05 R130 to R135)
  | cderive (a b : CReg) (c : XReg)
  | crestrict (a b : CReg) (perm : BitVec 8)
  | csetoff (a b : CReg) (c : XReg)
  | cincoff (a b : CReg) (imm : BitVec 32)
  | cgetbase (a : XReg) (b : CReg)
  | cgetlen (a : XReg) (b : CReg)
  | cgetoff (a : XReg) (b : CReg)
  | cldc (a b : CReg) (c : XReg) (imm : BitVec 32)
  | cstc (a b : CReg) (c : XReg) (imm : BitVec 32)
  -- ENG group (05 R136 to R141)
  | rtail (e : Eng) (b : XReg)
  | rstat (a : XReg) (e : Eng)
  | salign (n : Fin 64) (cls : Fin 4)
  | fpush (b : XReg)
  | slotrd (a : XReg) (slot : Fin 16)
  | ecsrr (a : XReg) (e : Eng) (ecsr : Fin 256)
  | ecsrw (e : Eng) (ecsr : Fin 256) (b : XReg)
  -- TILE group (05 R142 to R147)
  | stgput (b : XReg)
  | stgget (b : XReg)
  | dispatch (b : XReg) (table : Fin 4194304)
  | launch (a : XReg) (b : CReg)
  -- ATOM group (12 R283 to R285)
  | aadd (a : XReg) (b : CReg) (c : XReg) (imm : BitVec 32)
  | aand (a : XReg) (b : CReg) (c : XReg) (imm : BitVec 32)
  | aor (a : XReg) (b : CReg) (c : XReg) (imm : BitVec 32)
  | axor (a : XReg) (b : CReg) (c : XReg) (imm : BitVec 32)
  | amin (a : XReg) (b : CReg) (c : XReg) (imm : BitVec 32)
  | amax (a : XReg) (b : CReg) (c : XReg) (imm : BitVec 32)
  | aminn (a : XReg) (b : CReg) (c : XReg) (imm : BitVec 32)
  | amaxn (a : XReg) (b : CReg) (c : XReg) (imm : BitVec 32)
  | aswp (a : XReg) (b : CReg) (c : XReg) (imm : BitVec 32)
  | acas (a : XReg) (b : CReg) (c : XReg) (imm : BitVec 32)
  | fadd (a : XReg) (b : CReg) (c : XReg) (imm : BitVec 32)
  | lr (a : XReg) (b : CReg) (imm : BitVec 32)
  | sc (a : XReg) (b : CReg) (c : XReg) (imm : BitVec 32)
  -- SYNC group (12 R286 to R296)
  | fence (ord : Ord)
  | binit (b : CReg) (expect : Fin 1048576) (kind : Fin 256)
  | bxfer (b : CReg) (c : XReg)
  | barr (a : XReg) (b : CReg) (c : XReg)
  | bwait (b : CReg) (c : XReg) (ord : Ord)
  | barrw (a : XReg) (b : CReg) (c : XReg) (ord : Ord)
  | bfree (b : CReg)
  | soinit (b : CReg)
  | acq (b : CReg) (ord : Ord)
  | rel (b : CReg) (ord : Ord)
  | rbind (b c : CReg)
  | rmode (b : CReg) (mode : Bool)
  -- DIG group (12 R297 to R299)
  | dcfg (b : CReg) (c : XReg)
  | dq (a : XReg) (b : CReg) (imm : BitVec 32)
  | drebuild (b : CReg) (c : XReg)
  -- PAGE group (12 R300 to R307)
  | pgmap (a : XReg) (b c : CReg) (tag : Fin 16)
  | pgunmap (a : XReg) (b : CReg) (c : XReg)
  | pgfetch (a : XReg) (b : CReg) (imm : BitVec 32)
  | sptag (b : CReg) (c : XReg) (tag : Fin 16)
  | spret (a : XReg) (b : CReg) (tag : Fin 16) (mode : Bool)
  | sptrunc (a : XReg) (b : CReg) (c : XReg)
  | spposGet (a : XReg) (b : CReg) (c : XReg)
  | spposSet (a : XReg) (b : CReg) (c : XReg)
  -- ring entries of any engine (02 R48, R50)
  | align (e : Eng) (n : Fin 64)
  | engineHint (e : Eng) (h : Hdr) (k : Fin 16)
  -- copy commands (07 R174 to R190)
  | cnop (h : Hdr)
  | qld (h : Hdr) (qd : Fin 16) (off : Fin 65536)
  | cpy (h : Hdr) (ch : Fin 4) (qd qs : Fin 16) (bc : Bool)
  | fill (h : Hdr) (ch : Fin 4) (qd : Fin 16) (bc : Bool) (poff : Fin 524288)
  | gather (h : Hdr) (ch : Fin 4) (qd qs qx : Fin 16) (bc : Bool)
  | scatter (h : Hdr) (ch : Fin 4) (qd qs qx : Fin 16) (bc : Bool)
  | scatadd (h : Hdr) (ch : Fin 4) (qd qs qx : Fin 16) (bc : Bool)
  | topkr (h : Hdr) (ch : Fin 4) (qd qs qx : Fin 16) (bc tab : Bool) (k : Fin 65536)
  | topkc (h : Hdr) (ch : Fin 4) (qd qs qx : Fin 16) (bc : Bool) (k : Fin 65536)
  | topkcTab (h : Hdr) (ch : Fin 4) (qd qs qx : Fin 16) (bc : Bool) (e0 : Fin 4096) (kcap : Fin 512)
  | compact (h : Hdr) (ch : Fin 4) (qd qs qx : Fin 16) (bc : Bool) (coff : Fin 524288)
  | expand (h : Hdr) (ch : Fin 4) (qd qs qx : Fin 16) (bc z : Bool)
  | accrd (h : Hdr) (ch : Fin 4) (qd qs : Fin 16) (bc : Bool) (rm : Fin 4)
  | accwr (h : Hdr) (ch : Fin 4) (qd qs : Fin 16) (bc : Bool) (rm : Fin 4) (acc : Bool)
  | dscan (h : Hdr) (ch : Fin 4) (qd qs : Fin 16) (bc : Bool)
  | dskip (h : Hdr) (ch : Fin 4) (qd qs qx : Fin 16) (bc : Bool) (dcls : Fin 8) (poff : Fin 524288)
  | prefetch (h : Hdr) (qs : Fin 16) (res : Bool)
  | evict (h : Hdr) (qs : Fin 16) (inv : Bool)
  | chkarm (h : Hdr) (qs : Fin 16) (off clr : Bool) (k : Fin 4)
  -- matrix commands (16 R338 to R350)
  | mnop (h : Hdr)
  | wload (h : Hdr) (spa : Fin 16384) (we : Fin 128)
  | wconst (h : Hdr) (ty : Fin 16) (we : Fin 128) (ord : Fin 4) (cb kb : Fin 8)
  | wfree (h : Hdr) (we : Fin 128)
  | mma (h : Hdr) (tile : Fin 16) (spa : Fin 16384) (we : Fin 128) (lbl : Fin 256) (nrow : Fin 128)
  | mmat (h : Hdr) (tile : Fin 16) (spa : Fin 16384) (we : Fin 128) (lbl : Fin 256) (nrow : Fin 128)
  | mmaz (h : Hdr) (tile : Fin 16) (spa : Fin 16384) (we : Fin 128) (lbl : Fin 256) (nrow : Fin 128)
  | accz (h : Hdr) (tile : Fin 16)
  | slmap (h : Hdr) (tile : Fin 16) (slot : Fin 8) (lbl : Fin 256)
  | slclr (h : Hdr) (tile : Fin 16) (all : Bool) (lbl : Fin 256)
  | slspill (h : Hdr) (tile : Fin 16) (lbl : Fin 256)
  | slfill (h : Hdr) (tile : Fin 16) (lbl : Fin 256)
  | bind (h : Hdr) (tile : Fin 16) (spa : Fin 16384) (ts : Fin 8) (acc : Bool) (cstr : Fin 256) (nrow : Fin 128)
  | drain (h : Hdr) (tile : Fin 16) (spa : Fin 16384) (nrow : Fin 128)
  | drainq (h : Hdr) (tile : Fin 16) (spa : Fin 16384) (nrow : Fin 128)
  -- vector commands (20 R367 to R386)
  | vnop (h : Hdr)
  | vwin (h : Hdr) (wt : Fin 16) (mode : Bool) (wr : Fin 128) (ws : Fin 8)
  | vmov (h : Hdr) (vd va : Fin 64) (m : Fin 8) (t : Fin 16) (fm : Bool)
  | vadd (h : Hdr) (vd va vb : Fin 64) (m : Fin 8) (t : Fin 16) (rm : Fin 4) (sat : Bool)
  | vsub (h : Hdr) (vd va vb : Fin 64) (m : Fin 8) (t : Fin 16) (rm : Fin 4) (sat : Bool)
  | vmul (h : Hdr) (vd va vb : Fin 64) (m : Fin 8) (t : Fin 16) (rm : Fin 4)
  | vfma (h : Hdr) (vd va vb : Fin 64) (m : Fin 8) (t : Fin 16) (rm : Fin 4)
  | vmin (h : Hdr) (vd va vb : Fin 64) (m : Fin 8) (t : Fin 16)
  | vmax (h : Hdr) (vd va vb : Fin 64) (m : Fin 8) (t : Fin 16)
  | vabs (h : Hdr) (vd va : Fin 64) (m : Fin 8) (t : Fin 16)
  | vneg (h : Hdr) (vd va : Fin 64) (m : Fin 8) (t : Fin 16)
  | vdiv (h : Hdr) (vd va vb : Fin 64) (m : Fin 8) (t : Fin 16) (rm : Fin 4)
  | vsqrt (h : Hdr) (vd va : Fin 64) (m : Fin 8) (t : Fin 16) (rm : Fin 4)
  | vrsq (h : Hdr) (vd va : Fin 64) (m : Fin 8) (t : Fin 16) (rm : Fin 4)
  | vrcp (h : Hdr) (vd va : Fin 64) (m : Fin 8) (t : Fin 16) (rm : Fin 4)
  | vexp2 (h : Hdr) (vd va : Fin 64) (m : Fin 8) (t : Fin 16) (rm : Fin 4)
  | vlog2 (h : Hdr) (vd va : Fin 64) (m : Fin 8) (t : Fin 16) (rm : Fin 4)
  | vcvt (h : Hdr) (vd va : Fin 64) (m : Fin 8) (t : Fin 16) (rm : Fin 4) (stt : Fin 16) (part : Fin 8)
  | vand (h : Hdr) (vd va vb : Fin 64) (m : Fin 8) (t : Fin 16)
  | vor (h : Hdr) (vd va vb : Fin 64) (m : Fin 8) (t : Fin 16)
  | vxor (h : Hdr) (vd va vb : Fin 64) (m : Fin 8) (t : Fin 16)
  | vshl (h : Hdr) (vd va vb : Fin 64) (m : Fin 8) (t : Fin 16) (count : Fin 64) (imf : Bool)
  | vshr (h : Hdr) (vd va vb : Fin 64) (m : Fin 8) (t : Fin 16) (count : Fin 64) (imf : Bool)
  | vshra (h : Hdr) (vd va vb : Fin 64) (m : Fin 8) (t : Fin 16) (count : Fin 64) (imf : Bool)
  | vpopc (h : Hdr) (vd va : Fin 64) (m : Fin 8) (t : Fin 16)
  | vctz (h : Hdr) (vd va : Fin 64) (m : Fin 8) (t : Fin 16)
  | vclmul (h : Hdr) (vd va vb : Fin 64) (m : Fin 8) (t : Fin 16) (hi : Bool)
  | vpxor (h : Hdr) (vd va vb : Fin 64) (m : Fin 8) (t : Fin 16) (excl seed : Bool)
  | vpsum (h : Hdr) (vd va : Fin 64) (m : Fin 8) (t : Fin 16) (rm : Fin 4)
  | vred (h : Hdr) (vd va : Fin 64) (m : Fin 8) (t : Fin 16) (rm : Fin 4) (op : Fin 8)
  | vcmp (h : Hdr) (mk : Fin 8) (va vb : Fin 64) (m : Fin 8) (t : Fin 16) (pred : Fin 8)
  | vsel (h : Hdr) (vd va vb : Fin 64) (m : Fin 8) (t : Fin 16)
  | vbcast (h : Hdr) (vd va : Fin 64) (m : Fin 8) (t : Fin 16) (src : Bool) (val : Fin 16384)
  | viota (h : Hdr) (vd : Fin 64) (m : Fin 8) (t : Fin 16) (idx : Bool)
  | vperm (h : Hdr) (vd va vb : Fin 64) (m : Fin 8) (t : Fin 16)
  | vcompr (h : Hdr) (vd va : Fin 64) (m : Fin 8) (t : Fin 16) (z : Bool)
  | vld (h : Hdr) (vd : Fin 64) (m : Fin 8) (t : Fin 16) (off : Fin 32768)
  | vldg (h : Hdr) (vd : Fin 64) (g : Fin 4) (m : Fin 8) (t : Fin 16) (off : Fin 4096) (mr : Fin 8)
  | vst (h : Hdr) (va : Fin 64) (m : Fin 8) (t : Fin 16) (off : Fin 32768)
  | vstg (h : Hdr) (va : Fin 64) (g : Fin 4) (m : Fin 8) (t : Fin 16) (off : Fin 4096)
  | vmtest (h : Hdr) (mk : Fin 8) (va vb : Fin 64) (m : Fin 8) (t : Fin 16) (row : Bool)
  | mand (h : Hdr) (mk mi mj : Fin 8) (nb : Bool)
  | mor (h : Hdr) (mk mi mj : Fin 8) (nb : Bool)
  | mnot (h : Hdr) (mk mi : Fin 8)
  | mpop (h : Hdr) (vd : Fin 64) (mi : Fin 8) (m : Fin 8) (t : Fin 16)
  -- events inside a core (01, 04, 06)
  | ringIdle (e : Eng)
  | dataArrival (core : Nat) (e : Eng) (entry : BitVec 16) (lo hi : Nat)
  | translationFaultReport (core : Nat) (e : Eng) (entry : BitVec 16) (o : Nat)
  | causeResolved (core : Nat)
  | copyStop (core : Nat) (ch : Fin 4) (sub : Fin 4)
  | restart (ch : Fin 4)
  | discard (ch : Fin 4)
  | rgcfgWrite (e : Eng) (v : Word)
  | registerWrite (r : PlainReg) (v : Word)
  | slcfgWrite (g : Nat) (v : Word)
  | pbktWrite (g p : Nat) (v : Word)
  | preemption (core : Nat)
  | contextResume (core : Nat) (pa : Nat)
  | launchWalk (queue : Fin 16)
  | leaseStart (launch : BitVec 32) (stage : Fin 8)
  | directoryProbe (core : Nat) (block : Nat) (first last : Fin 16)
  | retentionWakeWriteback (core : Nat)
  -- the vertical bus (08 R192)
  | transferParityError (die : Fin 8) (chan : Fin 16) (group : Fin 32) (pa : Nat)
  | memoryErrorReport (core : Nat) (e : Eng) (entry : BitVec 16)
  | transferRetry (die : Fin 8) (chan : Fin 16) (pass : Bool) (group : Fin 32)
  | channelRetrainDone (die : Fin 8) (chan : Fin 16) (ok : Bool)
  | halfWidthDone (die : Fin 8) (chan : Fin 16)
  -- the host and the management port (10 R250, 22)
  | hostRead (pa len : Nat)
  | hostWrite (pa : Nat) (data : List Byte)
  | hostAtomic (op : Fin 11) (pa : Nat) (v e : Word)
  | hostLineInvalidate (pa : Nat) (data : List Byte)
  | hcqtailWrite (v : Word)
  | hcqbaseWrite (v : Word)
  | sidebandMessage (rec : Vector Word 8)
  | sidebandLogRead (log : Fin 17) (off : Nat)
  | objset (c : CmdCtx) (pa : Nat)
  | objextResolve (c : CmdCtx) (oid : BitVec 24) (x : Nat) (pbase : Word)
  | objextFail (c : CmdCtx) (oid : BitVec 24) (x : Nat)
  | objinv (c : CmdCtx) (oid : BitVec 24) (timeout : Nat)
  | objinvTimeout (oid : BitVec 24)
  | objrd (c : CmdCtx) (oid : BitVec 24) (pa : Nat)
  | capstore (c : CmdCtx) (pa : Nat) (lo hi : Word)
  | spcreate (c : CmdCtx) (oid : BitVec 24) (tpp : Nat)
  | biasToHost (c : CmdCtx) (pa : Nat)
  | biasToDevice (c : CmdCtx) (pa : Nat) (lines : List (Nat × List Byte))
  | launchq (c : CmdCtx) (pa : Nat) (queue : Nat)
  | qcfg (c : CmdCtx) (queue : Nat) (mask : BitVec 16)
  | diefence (c : CmdCtx) (die : Nat)
  | diereset (c : CmdCtx) (die : Nat)
  | vbtrain (c : CmdCtx) (die chan : Nat) (ok : Bool)
  | lvcfg (c : CmdCtx) (die : Nat) (cap costs : Word)
  | capcfgStop (c : CmdCtx) (pa len : Nat)
  | capcfgFull (c : CmdCtx) (pa len : Nat)
  | capcfgWrap (c : CmdCtx) (pa len : Nat)
  | replay (c : CmdCtx) (pa len : Nat)
  | attest (c : CmdCtx) (noncePa quotePa : Nat)
  | fwload (c : CmdCtx) (pa : Nat)
  | thermalStep (temp : BitVec 8)
  | dieresetResponse (die : Fin 8)
  | contextRelease (pa : Nat)
  -- the rows without an operand, of every family (a constructor with operands must stand among the first 245)
  | nop
  | halt
  | eret
  | tretire
  | segmentRelease
  | powerLeaveGrant
  | engineReadStep
  | timedWritePerform
  | freezeResume
  | freezeTimeout
  | engineFaultTrap
  | homeTransaction
  | homeResponse
  | postedBarrRefusal
  | barrierRelease
  | reservationTimeout
  | storeBufferDrain
  | kernelDoorbell
  | powerThrottle
  | moduleReset
  | gtcCycle
  | mainRailDown
  | mainRailUp
deriving DecidableEq, Repr

end Sys2Proof
end

