-- ==== Sys2Proof/WellFormed.lean ====
section
/-! DEFINITION. WellFormed.lean: the instructions that some word encodes. Only the checks that the operand types do not
already make stand here: the SGN rule of LD (02 R44), the even register pair of DQ and the slot field of SLOTRD (02 R43),
and the wait kind of a command word, whose value 01 is kept for ALIGN (02 R48). -/

namespace Sys2Proof

/-- The wait kind 01 marks an ALIGN entry, so no other command carries it (02 R48). -/
def Hdr.wf (h : Hdr) : Bool := h.wk != 1

/-- `i.wf` says that some instruction word or command word encodes `i`; events have no word and are well formed. -/
def Instr.wf : Instr → Bool
  | .nop => true
  | .hint _ => true
  | .halt => true
  | .trap _ => true
  | .eret => true
  | .csrr _ _ => true
  | .csrw _ _ => true
  | .csrset _ _ => true
  | .csrclr _ _ => true
  | .gtime _ => true
  | .rngnext _ => true
  | .add _ _ _ => true
  | .sub _ _ _ => true
  | .and _ _ _ => true
  | .or _ _ _ => true
  | .xor _ _ _ => true
  | .sll _ _ _ => true
  | .srl _ _ _ => true
  | .sra _ _ _ => true
  | .mul _ _ _ => true
  | .mulh _ _ _ => true
  | .div _ _ _ => true
  | .divn _ _ _ => true
  | .rem _ _ _ => true
  | .remn _ _ _ => true
  | .min _ _ _ => true
  | .max _ _ _ => true
  | .minn _ _ _ => true
  | .maxn _ _ _ => true
  | .slt _ _ _ => true
  | .sltn _ _ _ => true
  | .clz _ _ => true
  | .ctz _ _ => true
  | .popc _ _ => true
  | .clmul _ _ _ => true
  | .clmulh _ _ _ => true
  | .addi _ _ _ => true
  | .andi _ _ _ => true
  | .ori _ _ _ => true
  | .xori _ _ _ => true
  | .slli _ _ _ => true
  | .srli _ _ _ => true
  | .srai _ _ _ => true
  | .slti _ _ _ => true
  | .sltni _ _ _ => true
  | .movhi _ _ _ => true
  | .beq _ _ _ => true
  | .bne _ _ _ => true
  | .blt _ _ _ => true
  | .bge _ _ _ => true
  | .bltn _ _ _ => true
  | .bgen _ _ _ => true
  | .jal _ _ => true
  | .jalr _ _ _ => true
  | .ld _ sgn size _ _ _ _ => !(sgn && size == 3)
  | .st _ _ _ _ _ _ => true
  | .cderive _ _ _ => true
  | .crestrict _ _ _ => true
  | .csetoff _ _ _ => true
  | .cincoff _ _ _ => true
  | .cgetbase _ _ => true
  | .cgetlen _ _ => true
  | .cgetoff _ _ => true
  | .cldc _ _ _ _ => true
  | .cstc _ _ _ _ => true
  | .rtail _ _ => true
  | .rstat _ _ => true
  | .salign _ _ => true
  | .fpush _ => true
  | .slotrd _ slot => slot != 0
  | .ecsrr _ _ _ => true
  | .ecsrw _ _ _ => true
  | .tretire => true
  | .stgput _ => true
  | .stgget _ => true
  | .dispatch _ _ => true
  | .launch _ _ => true
  | .aadd _ _ _ _ => true
  | .aand _ _ _ _ => true
  | .aor _ _ _ _ => true
  | .axor _ _ _ _ => true
  | .amin _ _ _ _ => true
  | .amax _ _ _ _ => true
  | .aminn _ _ _ _ => true
  | .amaxn _ _ _ _ => true
  | .aswp _ _ _ _ => true
  | .acas _ _ _ _ => true
  | .fadd _ _ _ _ => true
  | .lr _ _ _ => true
  | .sc _ _ _ _ => true
  | .fence _ => true
  | .binit _ _ _ => true
  | .bxfer _ _ => true
  | .barr _ _ _ => true
  | .bwait _ _ _ => true
  | .barrw _ _ _ _ => true
  | .bfree _ => true
  | .soinit _ => true
  | .acq _ _ => true
  | .rel _ _ => true
  | .rbind _ _ => true
  | .rmode _ _ => true
  | .dcfg _ _ => true
  | .dq a _ _ => a.val % 2 == 0
  | .drebuild _ _ => true
  | .pgmap _ _ _ _ => true
  | .pgunmap _ _ _ => true
  | .pgfetch _ _ _ => true
  | .sptag _ _ _ => true
  | .spret _ _ _ _ => true
  | .sptrunc _ _ _ => true
  | .spposGet _ _ _ => true
  | .spposSet _ _ _ => true
  | .align _ _ => true
  | .engineHint _ h _ => h.wf
  | .cnop h => h.wf
  | .qld h _ _ => h.wf
  | .cpy h _ _ _ _ => h.wf
  | .fill h _ _ _ _ => h.wf
  | .gather h _ _ _ _ _ => h.wf
  | .scatter h _ _ _ _ _ => h.wf
  | .scatadd h _ _ _ _ _ => h.wf
  | .topkr h _ _ _ _ _ _ _ => h.wf
  | .topkc h _ _ _ _ _ _ => h.wf
  | .topkcTab h _ _ _ _ _ _ _ => h.wf
  | .compact h _ _ _ _ _ _ => h.wf
  | .expand h _ _ _ _ _ _ => h.wf
  | .accrd h _ _ _ _ _ => h.wf
  | .accwr h _ _ _ _ _ _ => h.wf
  | .dscan h _ _ _ _ => h.wf
  | .dskip h _ _ _ _ _ _ _ => h.wf
  | .prefetch h _ _ => h.wf
  | .evict h _ _ => h.wf
  | .chkarm h _ _ _ _ => h.wf
  | .mnop h => h.wf
  | .wload h _ _ => h.wf
  | .wconst h _ _ _ _ _ => h.wf
  | .wfree h _ => h.wf
  | .mma h _ _ _ _ _ => h.wf
  | .mmat h _ _ _ _ _ => h.wf
  | .mmaz h _ _ _ _ _ => h.wf
  | .accz h _ => h.wf
  | .slmap h _ _ _ => h.wf
  | .slclr h _ _ _ => h.wf
  | .slspill h _ _ => h.wf
  | .slfill h _ _ => h.wf
  | .bind h _ _ _ _ _ _ => h.wf
  | .drain h _ _ _ => h.wf
  | .drainq h _ _ _ => h.wf
  | .vnop h => h.wf
  | .vwin h _ _ _ _ => h.wf
  | .vmov h _ _ _ _ _ => h.wf
  | .vadd h _ _ _ _ _ _ _ => h.wf
  | .vsub h _ _ _ _ _ _ _ => h.wf
  | .vmul h _ _ _ _ _ _ => h.wf
  | .vfma h _ _ _ _ _ _ => h.wf
  | .vmin h _ _ _ _ _ => h.wf
  | .vmax h _ _ _ _ _ => h.wf
  | .vabs h _ _ _ _ => h.wf
  | .vneg h _ _ _ _ => h.wf
  | .vdiv h _ _ _ _ _ _ => h.wf
  | .vsqrt h _ _ _ _ _ => h.wf
  | .vrsq h _ _ _ _ _ => h.wf
  | .vrcp h _ _ _ _ _ => h.wf
  | .vexp2 h _ _ _ _ _ => h.wf
  | .vlog2 h _ _ _ _ _ => h.wf
  | .vcvt h _ _ _ _ _ _ _ => h.wf
  | .vand h _ _ _ _ _ => h.wf
  | .vor h _ _ _ _ _ => h.wf
  | .vxor h _ _ _ _ _ => h.wf
  | .vshl h _ _ _ _ _ _ _ => h.wf
  | .vshr h _ _ _ _ _ _ _ => h.wf
  | .vshra h _ _ _ _ _ _ _ => h.wf
  | .vpopc h _ _ _ _ => h.wf
  | .vctz h _ _ _ _ => h.wf
  | .vclmul h _ _ _ _ _ _ => h.wf
  | .vpxor h _ _ _ _ _ _ _ => h.wf
  | .vpsum h _ _ _ _ _ => h.wf
  | .vred h _ _ _ _ _ _ => h.wf
  | .vcmp h _ _ _ _ _ _ => h.wf
  | .vsel h _ _ _ _ _ => h.wf
  | .vbcast h _ _ _ _ _ _ => h.wf
  | .viota h _ _ _ _ => h.wf
  | .vperm h _ _ _ _ _ => h.wf
  | .vcompr h _ _ _ _ _ => h.wf
  | .vld h _ _ _ _ => h.wf
  | .vldg h _ _ _ _ _ _ => h.wf
  | .vst h _ _ _ _ => h.wf
  | .vstg h _ _ _ _ _ => h.wf
  | .vmtest h _ _ _ _ _ _ => h.wf
  | .mand h _ _ _ _ => h.wf
  | .mor h _ _ _ _ => h.wf
  | .mnot h _ _ => h.wf
  | .mpop h _ _ _ _ => h.wf
  | .segmentRelease => true
  | .powerLeaveGrant => true
  | .ringIdle _ => true
  | .engineReadStep => true
  | .timedWritePerform => true
  | .dataArrival _ _ _ _ _ => true
  | .freezeResume => true
  | .freezeTimeout => true
  | .engineFaultTrap => true
  | .translationFaultReport _ _ _ _ => true
  | .causeResolved _ => true
  | .copyStop _ _ _ => true
  | .restart _ => true
  | .discard _ => true
  | .rgcfgWrite _ _ => true
  | .registerWrite _ _ => true
  | .slcfgWrite _ _ => true
  | .pbktWrite _ _ _ => true
  | .preemption _ => true
  | .contextResume _ _ => true
  | .launchWalk _ => true
  | .leaseStart _ _ => true
  | .homeTransaction => true
  | .homeResponse => true
  | .postedBarrRefusal => true
  | .barrierRelease => true
  | .reservationTimeout => true
  | .storeBufferDrain => true
  | .directoryProbe _ _ _ _ => true
  | .retentionWakeWriteback _ => true
  | .transferParityError _ _ _ _ => true
  | .memoryErrorReport _ _ _ => true
  | .transferRetry _ _ _ _ => true
  | .channelRetrainDone _ _ _ => true
  | .halfWidthDone _ _ => true
  | .hostRead _ _ => true
  | .hostWrite _ _ => true
  | .hostAtomic _ _ _ _ => true
  | .hostLineInvalidate _ _ => true
  | .hcqtailWrite _ => true
  | .hcqbaseWrite _ => true
  | .kernelDoorbell => true
  | .sidebandMessage _ => true
  | .sidebandLogRead _ _ => true
  | .objset _ _ => true
  | .objextResolve _ _ _ _ => true
  | .objextFail _ _ _ => true
  | .objinv _ _ _ => true
  | .objinvTimeout _ => true
  | .objrd _ _ _ => true
  | .capstore _ _ _ _ => true
  | .spcreate _ _ _ => true
  | .biasToHost _ _ => true
  | .biasToDevice _ _ _ => true
  | .launchq _ _ _ => true
  | .qcfg _ _ _ => true
  | .diefence _ _ => true
  | .diereset _ _ => true
  | .vbtrain _ _ _ _ => true
  | .lvcfg _ _ _ _ => true
  | .capcfgStop _ _ _ => true
  | .capcfgFull _ _ _ => true
  | .capcfgWrap _ _ _ => true
  | .replay _ _ _ => true
  | .attest _ _ _ => true
  | .fwload _ _ => true
  | .thermalStep _ => true
  | .powerThrottle => true
  | .moduleReset => true
  | .gtcCycle => true
  | .mainRailDown => true
  | .mainRailUp => true
  | .dieresetResponse _ => true
  | .contextRelease _ => true

end Sys2Proof
end

