-- ==== Sys2Proof/Decode.lean ====
section
/-! DEFINITION. Decode.lean: reading sequencer instruction words and engine command words, and writing them
(spec 02 R39 to R55). Reserved and unused fields are ignored on reading and written as 0. -/

namespace Sys2Proof

/-! ## Fields of a sequencer word -/

/-- The fields of a sequencer instruction word (02 R39). -/
structure SeqFields where
  maj : Fin 64
  a   : Fin 64
  b   : Fin 64
  c   : Fin 64
  fn  : Fin 256
  imm : BitVec 32
deriving DecidableEq, Repr

/-- The fields of the instruction word `w` (02 R39). -/
def SeqFields.unpack (w : Word) : SeqFields where
  maj := Fin.ofNat 64 (w.toNat / 2 ^ 58)
  a   := Fin.ofNat 64 (w.toNat / 2 ^ 52)
  b   := Fin.ofNat 64 (w.toNat / 2 ^ 46)
  c   := Fin.ofNat 64 (w.toNat / 2 ^ 40)
  fn  := Fin.ofNat 256 (w.toNat / 2 ^ 32)
  imm := BitVec.ofNat 32 w.toNat

/-- The instruction word with the fields `f` (05 R114). -/
def SeqFields.pack (f : SeqFields) : Word :=
  word (f.maj.val * 2 ^ 58 + f.a.val * 2 ^ 52 + f.b.val * 2 ^ 46 + f.c.val * 2 ^ 40 + f.fn.val * 2 ^ 32 + f.imm.toNat)

/-- The part of IMM from bit `lo` upward, modulo `m`. -/
def SeqFields.imn (f : SeqFields) (lo m : Nat) [NeZero m] : Fin m := Fin.ofNat m (f.imm.toNat / 2 ^ lo)

/-- Bit `i` of IMM. -/
def SeqFields.imb (f : SeqFields) (i : Nat) : Bool := f.imm.toNat.testBit i

/-- A c field: a value from 16 to 63 names no capability register (02 R41). -/
def creg (r : Fin 64) : Option CReg := if h : r.val < 16 then some ⟨r.val, h⟩ else none

/-- A capability register number in a 6-bit field. -/
def wide (r : CReg) : Fin 64 := ⟨r.val, Nat.lt_of_lt_of_le r.isLt (by decide)⟩

/-- The code of an engine in an "eng" operand (02 R46). -/
def Eng.code : Eng → Nat
  | .copy => 0 | .matrix => 1 | .vector => 2

/-- The engine of an "eng" operand code; 3 names none (02 R46). -/
def Eng.ofCode (n : Fin 4) : Option Eng :=
  if n = 0 then some .copy else if n = 1 then some .matrix else if n = 2 then some .vector else none

/-- An ordering immediate as it lies in IMM (02 R45). -/
def Ord.toNat (o : Ord) : Nat :=
  o.ascope.val * 256 + o.host.toNat * 16 + o.digest.toNat * 8 + o.global.toNat * 4 + o.stage.toNat * 2 + o.spad.toNat

/-- The ordering immediate that IMM holds; its reserved bits are ignored (02 R45). -/
def Ord.ofImm (n : Nat) : Ord where
  ascope := Fin.ofNat 8 (n / 256)
  host   := n.testBit 4
  digest := n.testBit 3
  global := n.testBit 2
  stage  := n.testBit 1
  spad   := n.testBit 0

/-- The space code of LD and ST (02 R44). -/
def Space.code : Space → Nat
  | .spad => 0 | .stage => 1 | .global => 2 | .host => 3

/-- The space of a code; 4 to 7 are not assigned (02 R44). -/
def Space.ofCode (n : Nat) : Option Space :=
  if n = 0 then some .spad else if n = 1 then some .stage else if n = 2 then some .global
  else if n = 3 then some .host else none

/-! ## The sequencer opcode map (02 R43, R44) -/

/-- The SYS group, MAJ 0x00 (02 R43). -/
def decodeSys (f : SeqFields) : Option Instr :=
  match f.fn.val with
  | 0 => some .nop
  | 1 => some .halt
  | 2 => some (.trap (f.imm.setWidth 16))
  | 3 => some .eret
  | 4 => some (.csrr f.a (f.imn 0 4096))
  | 5 => some (.csrw (f.imn 0 4096) f.b)
  | 6 => some (.csrset (f.imn 0 4096) f.b)
  | 7 => some (.csrclr (f.imn 0 4096) f.b)
  | 8 => some (.gtime f.a)
  | 9 => some (.rngnext f.a)
  | _ => none

/-- The ALU group, MAJ 0x01 (02 R43). -/
def decodeAlu (f : SeqFields) : Option Instr :=
  match f.fn.val with
  | 0 => some (.add f.a f.b f.c)
  | 1 => some (.sub f.a f.b f.c)
  | 2 => some (.and f.a f.b f.c)
  | 3 => some (.or f.a f.b f.c)
  | 4 => some (.xor f.a f.b f.c)
  | 5 => some (.sll f.a f.b f.c)
  | 6 => some (.srl f.a f.b f.c)
  | 7 => some (.sra f.a f.b f.c)
  | 8 => some (.mul f.a f.b f.c)
  | 9 => some (.mulh f.a f.b f.c)
  | 10 => some (.div f.a f.b f.c)
  | 11 => some (.divn f.a f.b f.c)
  | 12 => some (.rem f.a f.b f.c)
  | 13 => some (.remn f.a f.b f.c)
  | 14 => some (.min f.a f.b f.c)
  | 15 => some (.max f.a f.b f.c)
  | 16 => some (.minn f.a f.b f.c)
  | 17 => some (.maxn f.a f.b f.c)
  | 18 => some (.slt f.a f.b f.c)
  | 19 => some (.sltn f.a f.b f.c)
  | 20 => some (.clz f.a f.b)
  | 21 => some (.ctz f.a f.b)
  | 22 => some (.popc f.a f.b)
  | 23 => some (.clmul f.a f.b f.c)
  | 24 => some (.clmulh f.a f.b f.c)
  | _ => none

/-- The ALUI group, MAJ 0x02 (02 R43). -/
def decodeAlui (f : SeqFields) : Option Instr :=
  match f.fn.val with
  | 0 => some (.addi f.a f.b f.imm)
  | 1 => some (.andi f.a f.b f.imm)
  | 2 => some (.ori f.a f.b f.imm)
  | 3 => some (.xori f.a f.b f.imm)
  | 4 => some (.slli f.a f.b (f.imn 0 64))
  | 5 => some (.srli f.a f.b (f.imn 0 64))
  | 6 => some (.srai f.a f.b (f.imn 0 64))
  | 7 => some (.slti f.a f.b f.imm)
  | 8 => some (.sltni f.a f.b f.imm)
  | 9 => some (.movhi f.a f.b f.imm)
  | _ => none

/-- The branches, MAJ 0x03 (02 R43). -/
def decodeBr (f : SeqFields) : Option Instr :=
  match f.fn.val with
  | 0 => some (.beq f.b f.c f.imm)
  | 1 => some (.bne f.b f.c f.imm)
  | 2 => some (.blt f.b f.c f.imm)
  | 3 => some (.bge f.b f.c f.imm)
  | 4 => some (.bltn f.b f.c f.imm)
  | 5 => some (.bgen f.b f.c f.imm)
  | _ => none

/-- The jumps, MAJ 0x04 (02 R43). -/
def decodeJmp (f : SeqFields) : Option Instr :=
  match f.fn.val with
  | 0 => some (.jal f.a f.imm)
  | 1 => some (.jalr f.a f.b f.imm)
  | _ => none

/-- The CAP group, MAJ 0x07 (02 R43). -/
def decodeCap (f : SeqFields) : Option Instr :=
  match f.fn.val with
  | 0 => do let a ← creg f.a; let b ← creg f.b; some (.cderive a b f.c)
  | 1 => do let a ← creg f.a; let b ← creg f.b; some (.crestrict a b (f.imm.setWidth 8))
  | 2 => do let a ← creg f.a; let b ← creg f.b; some (.csetoff a b f.c)
  | 3 => do let a ← creg f.a; let b ← creg f.b; some (.cincoff a b f.imm)
  | 4 => do let b ← creg f.b; some (.cgetbase f.a b)
  | 5 => do let b ← creg f.b; some (.cgetlen f.a b)
  | 6 => do let b ← creg f.b; some (.cgetoff f.a b)
  | 7 => do let a ← creg f.a; let b ← creg f.b; some (.cldc a b f.c f.imm)
  | 8 => do let a ← creg f.a; let b ← creg f.b; some (.cstc a b f.c f.imm)
  | _ => none

/-- The ENG group, MAJ 0x08 (02 R43). -/
def decodeEng (f : SeqFields) : Option Instr :=
  match f.fn.val with
  | 0 => do let e ← Eng.ofCode (f.imn 16 4); some (.rtail e f.b)
  | 1 => do let e ← Eng.ofCode (f.imn 16 4); some (.rstat f.a e)
  | 2 => some (.salign (f.imn 0 64) (f.imn 8 4))
  | 3 => some (.fpush f.b)
  | 4 => if f.imn 0 16 = 0 then none else some (.slotrd f.a (f.imn 0 16))
  | 5 => do let e ← Eng.ofCode (f.imn 16 4); some (.ecsrr f.a e (f.imn 0 256))
  | 6 => do let e ← Eng.ofCode (f.imn 16 4); some (.ecsrw e (f.imn 0 256) f.b)
  | _ => none

/-- The TILE group, MAJ 0x09 (02 R43). -/
def decodeTile (f : SeqFields) : Option Instr :=
  match f.fn.val with
  | 0 => some .tretire
  | 1 => some (.stgput f.b)
  | 2 => some (.stgget f.b)
  | 3 => some (.dispatch f.b (f.imn 0 4194304))
  | 4 => do let b ← creg f.b; some (.launch f.a b)
  | _ => none

/-- The ATOM group, MAJ 0x0A (02 R43). -/
def decodeAtom (f : SeqFields) : Option Instr :=
  match f.fn.val with
  | 0 => do let b ← creg f.b; some (.aadd f.a b f.c f.imm)
  | 1 => do let b ← creg f.b; some (.aand f.a b f.c f.imm)
  | 2 => do let b ← creg f.b; some (.aor f.a b f.c f.imm)
  | 3 => do let b ← creg f.b; some (.axor f.a b f.c f.imm)
  | 4 => do let b ← creg f.b; some (.amin f.a b f.c f.imm)
  | 5 => do let b ← creg f.b; some (.amax f.a b f.c f.imm)
  | 6 => do let b ← creg f.b; some (.aminn f.a b f.c f.imm)
  | 7 => do let b ← creg f.b; some (.amaxn f.a b f.c f.imm)
  | 8 => do let b ← creg f.b; some (.aswp f.a b f.c f.imm)
  | 9 => do let b ← creg f.b; some (.acas f.a b f.c f.imm)
  | 10 => do let b ← creg f.b; some (.fadd f.a b f.c f.imm)
  | 11 => do let b ← creg f.b; some (.lr f.a b f.imm)
  | 12 => do let b ← creg f.b; some (.sc f.a b f.c f.imm)
  | _ => none

/-- The SYNC group, MAJ 0x0B (02 R43). -/
def decodeSync (f : SeqFields) : Option Instr :=
  match f.fn.val with
  | 0 => some (.fence (Ord.ofImm f.imm.toNat))
  | 1 => do let b ← creg f.b; some (.binit b (f.imn 0 1048576) (f.imn 20 256))
  | 2 => do let b ← creg f.b; some (.barr f.a b f.c)
  | 3 => do let b ← creg f.b; some (.bwait b f.c (Ord.ofImm f.imm.toNat))
  | 4 => do let b ← creg f.b; some (.barrw f.a b f.c (Ord.ofImm f.imm.toNat))
  | 5 => do let b ← creg f.b; some (.bxfer b f.c)
  | 6 => do let b ← creg f.b; some (.bfree b)
  | 7 => do let b ← creg f.b; some (.soinit b)
  | 8 => do let b ← creg f.b; some (.acq b (Ord.ofImm f.imm.toNat))
  | 9 => do let b ← creg f.b; some (.rel b (Ord.ofImm f.imm.toNat))
  | 10 => do let b ← creg f.b; let c ← creg f.c; some (.rbind b c)
  | 11 => do let b ← creg f.b; some (.rmode b (f.imb 0))
  | _ => none

/-- The DIG group, MAJ 0x0C (02 R43). -/
def decodeDig (f : SeqFields) : Option Instr :=
  match f.fn.val with
  | 0 => do let b ← creg f.b; some (.dcfg b f.c)
  | 1 => if f.a.val % 2 = 1 then none else do let b ← creg f.b; some (.dq f.a b f.imm)
  | 2 => do let b ← creg f.b; some (.drebuild b f.c)
  | _ => none

/-- The PAGE group, MAJ 0x0D (02 R43). -/
def decodePage (f : SeqFields) : Option Instr :=
  match f.fn.val with
  | 0 => do let b ← creg f.b; let c ← creg f.c; some (.pgmap f.a b c (f.imn 0 16))
  | 1 => do let b ← creg f.b; some (.pgunmap f.a b f.c)
  | 2 => do let b ← creg f.b; some (.pgfetch f.a b f.imm)
  | 3 => do let b ← creg f.b; some (.sptag b f.c (f.imn 0 16))
  | 4 => do let b ← creg f.b; some (.spret f.a b (f.imn 0 16) (f.imb 8))
  | 5 => do let b ← creg f.b; some (.sptrunc f.a b f.c)
  | 6 => do let b ← creg f.b; if f.imb 0 then some (.spposSet f.a b f.c) else some (.spposGet f.a b f.c)
  | _ => none

/-- LD, MAJ 0x05: FN is the field map of 02 R44. -/
def decodeLd (f : SeqFields) : Option Instr := do
  let sp ← Space.ofCode (f.fn.val / 8 % 8)
  let b ← creg f.b
  let sgn := f.fn.val.testBit 2
  let size := Fin.ofNat 4 f.fn.val
  if f.fn.val / 64 ≠ 0 ∨ (sgn = true ∧ size = 3) then none
  else some (.ld sp sgn size f.a b f.c f.imm)

/-- ST, MAJ 0x06: SGN must be 0 (02 R44). -/
def decodeSt (f : SeqFields) : Option Instr := do
  let sp ← Space.ofCode (f.fn.val / 8 % 8)
  let b ← creg f.b
  if f.fn.val / 64 ≠ 0 ∨ f.fn.val.testBit 2 = true then none
  else some (.st sp (Fin.ofNat 4 f.fn.val) f.a b f.c f.imm)

/-- The instruction with the fields `f`: MAJ 0x00 to 0x0D are assigned, 0x38 to 0x3F are hints, every other MAJ is
illegal (02 R42). -/
def seqOf (f : SeqFields) : Option Instr :=
  match f.maj.val with
  | 0 => decodeSys f
  | 1 => decodeAlu f
  | 2 => decodeAlui f
  | 3 => decodeBr f
  | 4 => decodeJmp f
  | 5 => decodeLd f
  | 6 => decodeSt f
  | 7 => decodeCap f
  | 8 => decodeEng f
  | 9 => decodeTile f
  | 10 => decodeAtom f
  | 11 => decodeSync f
  | 12 => decodeDig f
  | 13 => decodePage f
  | n => if 56 ≤ n then some (.hint (Fin.ofNat 8 (n - 56))) else none

/-- The instruction that a sequencer word encodes, or none for an illegal one (02 R42 to R46). -/
def decodeSeq (w : Word) : Option Instr := seqOf (SeqFields.unpack w)

/-! ## Fields of a command word -/

/-- The fields of an engine command word (02 R47). -/
structure CmdFields where
  wk   : Fin 4
  wv   : Fin 64
  sset : Fin 16
  schk : Fin 16
  eop  : Fin 256
  opf  : Fin 1099511627776
deriving DecidableEq, Repr

/-- The fields of the command word `w` (02 R47). -/
def CmdFields.unpack (w : Word) : CmdFields where
  wk   := Fin.ofNat 4 (w.toNat / 2 ^ 62)
  wv   := Fin.ofNat 64 (w.toNat / 2 ^ 56)
  sset := Fin.ofNat 16 (w.toNat / 2 ^ 52)
  schk := Fin.ofNat 16 (w.toNat / 2 ^ 48)
  eop  := Fin.ofNat 256 (w.toNat / 2 ^ 40)
  opf  := Fin.ofNat 1099511627776 w.toNat

/-- The command word with the fields `f` (02 R47). -/
def CmdFields.pack (f : CmdFields) : Word :=
  word (f.wk.val * 2 ^ 62 + f.wv.val * 2 ^ 56 + f.sset.val * 2 ^ 52 + f.schk.val * 2 ^ 48 + f.eop.val * 2 ^ 40
    + f.opf.val)

/-- The WAIT and SIG bytes of `f`. -/
def CmdFields.hdr (f : CmdFields) : Hdr := ⟨f.wk, f.wv, f.sset, f.schk⟩

/-- `n` as an operand field of 40 bits. -/
def opfOf (n : Nat) : Fin 1099511627776 := Fin.ofNat 1099511627776 n

/-- The copy operand field (02 R51). -/
structure CopyOpf where
  ch  : Fin 4
  qd  : Fin 16
  qs  : Fin 16
  qx  : Fin 16
  bc  : Fin 2
  mod : Fin 16
  imm : Fin 2097152
deriving DecidableEq, Repr

/-- The copy operand field that the 40 bits `o` hold (02 R51). -/
def CopyOpf.unpack (o : Nat) : CopyOpf where
  ch  := Fin.ofNat 4 (o / 2 ^ 38)
  qd  := Fin.ofNat 16 (o / 2 ^ 34)
  qs  := Fin.ofNat 16 (o / 2 ^ 30)
  qx  := Fin.ofNat 16 (o / 2 ^ 26)
  bc  := Fin.ofNat 2 (o / 2 ^ 25)
  mod := Fin.ofNat 16 (o / 2 ^ 21)
  imm := Fin.ofNat 2097152 o

/-- The 40 bits of a copy operand field (02 R51). -/
def CopyOpf.pack (f : CopyOpf) : Nat :=
  f.ch.val * 2 ^ 38 + f.qd.val * 2 ^ 34 + f.qs.val * 2 ^ 30 + f.qx.val * 2 ^ 26 + f.bc.val * 2 ^ 25
    + f.mod.val * 2 ^ 21 + f.imm.val

/-- The matrix operand field (02 R52). -/
structure MatOpf where
  tile : Fin 16
  spa  : Fin 16384
  we   : Fin 128
  lbl  : Fin 256
  nrow : Fin 128
deriving DecidableEq, Repr

/-- The matrix operand field that the 40 bits `o` hold (02 R52). -/
def MatOpf.unpack (o : Nat) : MatOpf where
  tile := Fin.ofNat 16 (o / 2 ^ 36)
  spa  := Fin.ofNat 16384 (o / 2 ^ 22)
  we   := Fin.ofNat 128 (o / 2 ^ 15)
  lbl  := Fin.ofNat 256 (o / 2 ^ 7)
  nrow := Fin.ofNat 128 o

/-- The 40 bits of a matrix operand field (02 R52). -/
def MatOpf.pack (f : MatOpf) : Nat :=
  f.tile.val * 2 ^ 36 + f.spa.val * 2 ^ 22 + f.we.val * 2 ^ 15 + f.lbl.val * 2 ^ 7 + f.nrow.val

/-- The vector operand field (02 R53). -/
structure VecOpf where
  vd  : Fin 64
  va  : Fin 64
  vb  : Fin 64
  m   : Fin 8
  t   : Fin 16
  imm : Fin 32768
deriving DecidableEq, Repr

/-- The vector operand field that the 40 bits `o` hold (02 R53). -/
def VecOpf.unpack (o : Nat) : VecOpf where
  vd  := Fin.ofNat 64 (o / 2 ^ 34)
  va  := Fin.ofNat 64 (o / 2 ^ 28)
  vb  := Fin.ofNat 64 (o / 2 ^ 22)
  m   := Fin.ofNat 8 (o / 2 ^ 19)
  t   := Fin.ofNat 16 (o / 2 ^ 15)
  imm := Fin.ofNat 32768 o

/-- The 40 bits of a vector operand field (02 R53). -/
def VecOpf.pack (f : VecOpf) : Nat :=
  f.vd.val * 2 ^ 34 + f.va.val * 2 ^ 28 + f.vb.val * 2 ^ 22 + f.m.val * 2 ^ 19 + f.t.val * 2 ^ 15 + f.imm.val

/-- The part of a field value from bit `lo` upward, modulo `m`. -/
def part (n lo m : Nat) [NeZero m] : Fin m := Fin.ofNat m (n / 2 ^ lo)

/-! ## The engine opcode maps (02 R55) -/

/-- Copy engine operations (02 R55, 07 R170). -/
def copyOf (h : Hdr) (eop : Nat) (o : CopyOpf) : Option Instr :=
  match eop with
  | 0 => some (.cnop h)
  | 1 => some (.qld h o.qd (part o.imm.val 0 65536))
  | 2 => some (.cpy h o.ch o.qd o.qs (o.bc.val.testBit 0))
  | 3 => some (.fill h o.ch o.qd (o.bc.val.testBit 0) (part o.imm.val 0 524288))
  | 4 => some (.gather h o.ch o.qd o.qs o.qx (o.bc.val.testBit 0))
  | 5 => some (.scatter h o.ch o.qd o.qs o.qx (o.bc.val.testBit 0))
  | 6 => some (.scatadd h o.ch o.qd o.qs o.qx (o.bc.val.testBit 0))
  | 7 => some (.topkr h o.ch o.qd o.qs o.qx (o.bc.val.testBit 0) (o.mod.val.testBit 0) (part o.imm.val 0 65536))
  | 8 => if o.mod.val.testBit 0 then some (.topkcTab h o.ch o.qd o.qs o.qx (o.bc.val.testBit 0) (part o.imm.val 0 4096) (part o.imm.val 12 512)) else some (.topkc h o.ch o.qd o.qs o.qx (o.bc.val.testBit 0) (part o.imm.val 0 65536))
  | 9 => some (.compact h o.ch o.qd o.qs o.qx (o.bc.val.testBit 0) (part o.imm.val 0 524288))
  | 10 => some (.expand h o.ch o.qd o.qs o.qx (o.bc.val.testBit 0) (o.mod.val.testBit 0))
  | 11 => some (.accrd h o.ch o.qd o.qs (o.bc.val.testBit 0) (part o.mod.val 0 4))
  | 12 => some (.accwr h o.ch o.qd o.qs (o.bc.val.testBit 0) (part o.mod.val 0 4) (o.mod.val.testBit 2))
  | 13 => some (.dscan h o.ch o.qd o.qs (o.bc.val.testBit 0))
  | 14 => some (.dskip h o.ch o.qd o.qs o.qx (o.bc.val.testBit 0) (part o.mod.val 0 8) (part o.imm.val 0 524288))
  | 15 => some (.prefetch h o.qs (o.mod.val.testBit 0))
  | 16 => some (.evict h o.qs (o.mod.val.testBit 0))
  | 17 => some (.chkarm h o.qs (o.mod.val.testBit 0) (o.mod.val.testBit 1) (part o.imm.val 0 4))
  | _ => none

/-- Matrix engine operations (02 R55, 15 R321). -/
def matOf (h : Hdr) (eop : Nat) (o : MatOpf) : Option Instr :=
  match eop with
  | 0 => some (.mnop h)
  | 1 => some (.wload h o.spa o.we)
  | 2 => some (.wconst h o.tile o.we (part o.lbl.val 0 4) (part o.lbl.val 2 8) (part o.lbl.val 5 8))
  | 3 => some (.wfree h o.we)
  | 4 => some (.mma h o.tile o.spa o.we o.lbl o.nrow)
  | 5 => some (.mmat h o.tile o.spa o.we o.lbl o.nrow)
  | 6 => some (.mmaz h o.tile o.spa o.we o.lbl o.nrow)
  | 7 => some (.accz h o.tile)
  | 8 => some (.slmap h o.tile (part o.we.val 0 8) o.lbl)
  | 9 => some (.slclr h o.tile (o.we.val.testBit 6) o.lbl)
  | 10 => some (.slspill h o.tile o.lbl)
  | 11 => some (.slfill h o.tile o.lbl)
  | 12 => some (.bind h o.tile o.spa (part o.we.val 0 8) (o.we.val.testBit 3) o.lbl o.nrow)
  | 13 => some (.drain h o.tile o.spa o.nrow)
  | 14 => some (.drainq h o.tile o.spa o.nrow)
  | _ => none

/-- Vector engine operations (02 R55, 20 R366). -/
def vecOf (h : Hdr) (eop : Nat) (o : VecOpf) : Option Instr :=
  match eop with
  | 0 => some (.vnop h)
  | 1 => some (.vwin h (part o.imm.val 0 16) (o.imm.val.testBit 4) (part o.imm.val 5 128) (part o.imm.val 12 8))
  | 2 => some (.vmov h o.vd o.va o.m o.t (o.imm.val.testBit 0))
  | 3 => some (.vadd h o.vd o.va o.vb o.m o.t (part o.imm.val 0 4) (o.imm.val.testBit 2))
  | 4 => some (.vsub h o.vd o.va o.vb o.m o.t (part o.imm.val 0 4) (o.imm.val.testBit 2))
  | 5 => some (.vmul h o.vd o.va o.vb o.m o.t (part o.imm.val 0 4))
  | 6 => some (.vfma h o.vd o.va o.vb o.m o.t (part o.imm.val 0 4))
  | 7 => some (.vmin h o.vd o.va o.vb o.m o.t)
  | 8 => some (.vmax h o.vd o.va o.vb o.m o.t)
  | 9 => some (.vabs h o.vd o.va o.m o.t)
  | 10 => some (.vneg h o.vd o.va o.m o.t)
  | 11 => some (.vdiv h o.vd o.va o.vb o.m o.t (part o.imm.val 0 4))
  | 12 => some (.vsqrt h o.vd o.va o.m o.t (part o.imm.val 0 4))
  | 13 => some (.vrsq h o.vd o.va o.m o.t (part o.imm.val 0 4))
  | 14 => some (.vrcp h o.vd o.va o.m o.t (part o.imm.val 0 4))
  | 15 => some (.vexp2 h o.vd o.va o.m o.t (part o.imm.val 0 4))
  | 16 => some (.vlog2 h o.vd o.va o.m o.t (part o.imm.val 0 4))
  | 17 => some (.vcvt h o.vd o.va o.m o.t (part o.imm.val 0 4) (part o.imm.val 2 16) (part o.imm.val 6 8))
  | 18 => some (.vand h o.vd o.va o.vb o.m o.t)
  | 19 => some (.vor h o.vd o.va o.vb o.m o.t)
  | 20 => some (.vxor h o.vd o.va o.vb o.m o.t)
  | 21 => some (.vshl h o.vd o.va o.vb o.m o.t (part o.imm.val 0 64) (o.imm.val.testBit 6))
  | 22 => some (.vshr h o.vd o.va o.vb o.m o.t (part o.imm.val 0 64) (o.imm.val.testBit 6))
  | 23 => some (.vshra h o.vd o.va o.vb o.m o.t (part o.imm.val 0 64) (o.imm.val.testBit 6))
  | 24 => some (.vpopc h o.vd o.va o.m o.t)
  | 25 => some (.vctz h o.vd o.va o.m o.t)
  | 26 => some (.vclmul h o.vd o.va o.vb o.m o.t (o.imm.val.testBit 0))
  | 27 => some (.vpxor h o.vd o.va o.vb o.m o.t (o.imm.val.testBit 0) (o.imm.val.testBit 1))
  | 28 => some (.vpsum h o.vd o.va o.m o.t (part o.imm.val 0 4))
  | 29 => some (.vred h o.vd o.va o.m o.t (part o.imm.val 0 4) (part o.imm.val 2 8))
  | 30 => some (.vcmp h (part o.vd.val 0 8) o.va o.vb o.m o.t (part o.imm.val 0 8))
  | 31 => some (.vsel h o.vd o.va o.vb o.m o.t)
  | 32 => some (.vbcast h o.vd o.va o.m o.t (o.imm.val.testBit 14) (part o.imm.val 0 16384))
  | 33 => some (.viota h o.vd o.m o.t (o.imm.val.testBit 0))
  | 34 => some (.vperm h o.vd o.va o.vb o.m o.t)
  | 35 => some (.vcompr h o.vd o.va o.m o.t (o.imm.val.testBit 0))
  | 36 => some (.vld h o.vd o.m o.t (part o.imm.val 0 32768))
  | 37 => some (.vldg h o.vd (part o.vb.val 0 4) o.m o.t (part o.imm.val 0 4096) (part o.imm.val 12 8))
  | 38 => some (.vst h o.va o.m o.t (part o.imm.val 0 32768))
  | 39 => some (.vstg h o.va (part o.vb.val 0 4) o.m o.t (part o.imm.val 0 4096))
  | 40 => some (.vmtest h (part o.vd.val 0 8) o.va o.vb o.m o.t (o.imm.val.testBit 0))
  | 41 => some (.mand h (part o.vd.val 0 8) (part o.va.val 0 8) (part o.vb.val 0 8) (o.imm.val.testBit 0))
  | 42 => some (.mor h (part o.vd.val 0 8) (part o.va.val 0 8) (part o.vb.val 0 8) (o.imm.val.testBit 0))
  | 43 => some (.mnot h (part o.vd.val 0 8) (part o.va.val 0 8))
  | 44 => some (.mpop h o.vd (part o.va.val 0 8) o.m o.t)
  | _ => none

/-- The command with the fields `f` in the ring of engine `e`: WK 01 is ALIGN (02 R48), EOP 0xF0 upward is the hint
region, and an unassigned EOP is none (02 R50). -/
def cmdOf (e : Eng) (f : CmdFields) : Option Instr :=
  if f.wk = 1 then some (.align e f.wv)
  else if 240 ≤ f.eop.val then some (.engineHint e f.hdr (Fin.ofNat 16 (f.eop.val - 240)))
  else match e with
    | .copy   => copyOf f.hdr f.eop.val (CopyOpf.unpack f.opf.val)
    | .matrix => matOf f.hdr f.eop.val (MatOpf.unpack f.opf.val)
    | .vector => vecOf f.hdr f.eop.val (VecOpf.unpack f.opf.val)

/-- The command that the ring word `w` of engine `e` encodes, or none for an illegal one (02 R47 to R55). -/
def decodeCmd (e : Eng) (w : Word) : Option Instr := cmdOf e (CmdFields.unpack w)

/-! ## Encoding -/

/-- The sequencer fields of an instruction; none for commands and events (02 R43, R44). -/
def seqFields : Instr → Option SeqFields
  | .nop => some ⟨0, 0, 0, 0, 0, 0⟩
  | .hint k => some ⟨Fin.ofNat 64 (56 + k.val), 0, 0, 0, 0, 0⟩
  | .halt => some ⟨0, 0, 0, 0, 1, 0⟩
  | .trap code => some ⟨0, 0, 0, 0, 2, (code.setWidth 32)⟩
  | .eret => some ⟨0, 0, 0, 0, 3, 0⟩
  | .csrr a csr => some ⟨0, a, 0, 0, 4, (BitVec.ofNat 32 (csr.val))⟩
  | .csrw csr b => some ⟨0, 0, b, 0, 5, (BitVec.ofNat 32 (csr.val))⟩
  | .csrset csr b => some ⟨0, 0, b, 0, 6, (BitVec.ofNat 32 (csr.val))⟩
  | .csrclr csr b => some ⟨0, 0, b, 0, 7, (BitVec.ofNat 32 (csr.val))⟩
  | .gtime a => some ⟨0, a, 0, 0, 8, 0⟩
  | .rngnext a => some ⟨0, a, 0, 0, 9, 0⟩
  | .add a b c => some ⟨1, a, b, c, 0, 0⟩
  | .sub a b c => some ⟨1, a, b, c, 1, 0⟩
  | .and a b c => some ⟨1, a, b, c, 2, 0⟩
  | .or a b c => some ⟨1, a, b, c, 3, 0⟩
  | .xor a b c => some ⟨1, a, b, c, 4, 0⟩
  | .sll a b c => some ⟨1, a, b, c, 5, 0⟩
  | .srl a b c => some ⟨1, a, b, c, 6, 0⟩
  | .sra a b c => some ⟨1, a, b, c, 7, 0⟩
  | .mul a b c => some ⟨1, a, b, c, 8, 0⟩
  | .mulh a b c => some ⟨1, a, b, c, 9, 0⟩
  | .div a b c => some ⟨1, a, b, c, 10, 0⟩
  | .divn a b c => some ⟨1, a, b, c, 11, 0⟩
  | .rem a b c => some ⟨1, a, b, c, 12, 0⟩
  | .remn a b c => some ⟨1, a, b, c, 13, 0⟩
  | .min a b c => some ⟨1, a, b, c, 14, 0⟩
  | .max a b c => some ⟨1, a, b, c, 15, 0⟩
  | .minn a b c => some ⟨1, a, b, c, 16, 0⟩
  | .maxn a b c => some ⟨1, a, b, c, 17, 0⟩
  | .slt a b c => some ⟨1, a, b, c, 18, 0⟩
  | .sltn a b c => some ⟨1, a, b, c, 19, 0⟩
  | .clz a b => some ⟨1, a, b, 0, 20, 0⟩
  | .ctz a b => some ⟨1, a, b, 0, 21, 0⟩
  | .popc a b => some ⟨1, a, b, 0, 22, 0⟩
  | .clmul a b c => some ⟨1, a, b, c, 23, 0⟩
  | .clmulh a b c => some ⟨1, a, b, c, 24, 0⟩
  | .addi a b imm => some ⟨2, a, b, 0, 0, imm⟩
  | .andi a b imm => some ⟨2, a, b, 0, 1, imm⟩
  | .ori a b imm => some ⟨2, a, b, 0, 2, imm⟩
  | .xori a b imm => some ⟨2, a, b, 0, 3, imm⟩
  | .slli a b sh => some ⟨2, a, b, 0, 4, (BitVec.ofNat 32 (sh.val))⟩
  | .srli a b sh => some ⟨2, a, b, 0, 5, (BitVec.ofNat 32 (sh.val))⟩
  | .srai a b sh => some ⟨2, a, b, 0, 6, (BitVec.ofNat 32 (sh.val))⟩
  | .slti a b imm => some ⟨2, a, b, 0, 7, imm⟩
  | .sltni a b imm => some ⟨2, a, b, 0, 8, imm⟩
  | .movhi a b imm => some ⟨2, a, b, 0, 9, imm⟩
  | .beq b c imm => some ⟨3, 0, b, c, 0, imm⟩
  | .bne b c imm => some ⟨3, 0, b, c, 1, imm⟩
  | .blt b c imm => some ⟨3, 0, b, c, 2, imm⟩
  | .bge b c imm => some ⟨3, 0, b, c, 3, imm⟩
  | .bltn b c imm => some ⟨3, 0, b, c, 4, imm⟩
  | .bgen b c imm => some ⟨3, 0, b, c, 5, imm⟩
  | .jal a imm => some ⟨4, a, 0, 0, 0, imm⟩
  | .jalr a b imm => some ⟨4, a, b, 0, 1, imm⟩
  | .ld sp sgn size a b c imm => some ⟨5, a, wide b, c, Fin.ofNat 256 (sp.code * 8 + sgn.toNat * 4 + size.val), imm⟩
  | .st sp size a b c imm => some ⟨6, a, wide b, c, Fin.ofNat 256 (sp.code * 8 + size.val), imm⟩
  | .cderive a b c => some ⟨7, (wide a), (wide b), c, 0, 0⟩
  | .crestrict a b perm => some ⟨7, (wide a), (wide b), 0, 1, (perm.setWidth 32)⟩
  | .csetoff a b c => some ⟨7, (wide a), (wide b), c, 2, 0⟩
  | .cincoff a b imm => some ⟨7, (wide a), (wide b), 0, 3, imm⟩
  | .cgetbase a b => some ⟨7, a, (wide b), 0, 4, 0⟩
  | .cgetlen a b => some ⟨7, a, (wide b), 0, 5, 0⟩
  | .cgetoff a b => some ⟨7, a, (wide b), 0, 6, 0⟩
  | .cldc a b c imm => some ⟨7, (wide a), (wide b), c, 7, imm⟩
  | .cstc a b c imm => some ⟨7, (wide a), (wide b), c, 8, imm⟩
  | .rtail e b => some ⟨8, 0, b, 0, 0, (BitVec.ofNat 32 (e.code * 65536))⟩
  | .rstat a e => some ⟨8, a, 0, 0, 1, (BitVec.ofNat 32 (e.code * 65536))⟩
  | .salign n cls => some ⟨8, 0, 0, 0, 2, (BitVec.ofNat 32 (n.val + cls.val * 256))⟩
  | .fpush b => some ⟨8, 0, b, 0, 3, 0⟩
  | .slotrd a slot => some ⟨8, a, 0, 0, 4, (BitVec.ofNat 32 (slot.val))⟩
  | .ecsrr a e ecsr => some ⟨8, a, 0, 0, 5, (BitVec.ofNat 32 (e.code * 65536 + ecsr.val))⟩
  | .ecsrw e ecsr b => some ⟨8, 0, b, 0, 6, (BitVec.ofNat 32 (e.code * 65536 + ecsr.val))⟩
  | .tretire => some ⟨9, 0, 0, 0, 0, 0⟩
  | .stgput b => some ⟨9, 0, b, 0, 1, 0⟩
  | .stgget b => some ⟨9, 0, b, 0, 2, 0⟩
  | .dispatch b table => some ⟨9, 0, b, 0, 3, (BitVec.ofNat 32 (table.val))⟩
  | .launch a b => some ⟨9, a, (wide b), 0, 4, 0⟩
  | .aadd a b c imm => some ⟨10, a, (wide b), c, 0, imm⟩
  | .aand a b c imm => some ⟨10, a, (wide b), c, 1, imm⟩
  | .aor a b c imm => some ⟨10, a, (wide b), c, 2, imm⟩
  | .axor a b c imm => some ⟨10, a, (wide b), c, 3, imm⟩
  | .amin a b c imm => some ⟨10, a, (wide b), c, 4, imm⟩
  | .amax a b c imm => some ⟨10, a, (wide b), c, 5, imm⟩
  | .aminn a b c imm => some ⟨10, a, (wide b), c, 6, imm⟩
  | .amaxn a b c imm => some ⟨10, a, (wide b), c, 7, imm⟩
  | .aswp a b c imm => some ⟨10, a, (wide b), c, 8, imm⟩
  | .acas a b c imm => some ⟨10, a, (wide b), c, 9, imm⟩
  | .fadd a b c imm => some ⟨10, a, (wide b), c, 10, imm⟩
  | .lr a b imm => some ⟨10, a, (wide b), 0, 11, imm⟩
  | .sc a b c imm => some ⟨10, a, (wide b), c, 12, imm⟩
  | .fence ord => some ⟨11, 0, 0, 0, 0, (BitVec.ofNat 32 (ord.toNat))⟩
  | .binit b expect kind => some ⟨11, 0, (wide b), 0, 1, (BitVec.ofNat 32 (expect.val + kind.val * 1048576))⟩
  | .bxfer b c => some ⟨11, 0, (wide b), c, 5, 0⟩
  | .barr a b c => some ⟨11, a, (wide b), c, 2, 0⟩
  | .bwait b c ord => some ⟨11, 0, (wide b), c, 3, (BitVec.ofNat 32 (ord.toNat))⟩
  | .barrw a b c ord => some ⟨11, a, (wide b), c, 4, (BitVec.ofNat 32 (ord.toNat))⟩
  | .bfree b => some ⟨11, 0, (wide b), 0, 6, 0⟩
  | .soinit b => some ⟨11, 0, (wide b), 0, 7, 0⟩
  | .acq b ord => some ⟨11, 0, (wide b), 0, 8, (BitVec.ofNat 32 (ord.toNat))⟩
  | .rel b ord => some ⟨11, 0, (wide b), 0, 9, (BitVec.ofNat 32 (ord.toNat))⟩
  | .rbind b c => some ⟨11, 0, (wide b), (wide c), 10, 0⟩
  | .rmode b mode => some ⟨11, 0, (wide b), 0, 11, (BitVec.ofNat 32 (mode.toNat))⟩
  | .dcfg b c => some ⟨12, 0, (wide b), c, 0, 0⟩
  | .dq a b imm => some ⟨12, a, (wide b), 0, 1, imm⟩
  | .drebuild b c => some ⟨12, 0, (wide b), c, 2, 0⟩
  | .pgmap a b c tag => some ⟨13, a, (wide b), (wide c), 0, (BitVec.ofNat 32 (tag.val))⟩
  | .pgunmap a b c => some ⟨13, a, (wide b), c, 1, 0⟩
  | .pgfetch a b imm => some ⟨13, a, (wide b), 0, 2, imm⟩
  | .sptag b c tag => some ⟨13, 0, (wide b), c, 3, (BitVec.ofNat 32 (tag.val))⟩
  | .spret a b tag mode => some ⟨13, a, (wide b), 0, 4, (BitVec.ofNat 32 (tag.val + mode.toNat * 256))⟩
  | .sptrunc a b c => some ⟨13, a, (wide b), c, 5, 0⟩
  | .spposGet a b c => some ⟨13, a, wide b, c, 6, 0⟩
  | .spposSet a b c => some ⟨13, a, wide b, c, 6, 1⟩
  | .align _ _ => none
  | .engineHint _ _ _ => none
  | .cnop _ => none
  | .qld _ _ _ => none
  | .cpy _ _ _ _ _ => none
  | .fill _ _ _ _ _ => none
  | .gather _ _ _ _ _ _ => none
  | .scatter _ _ _ _ _ _ => none
  | .scatadd _ _ _ _ _ _ => none
  | .topkr _ _ _ _ _ _ _ _ => none
  | .topkc _ _ _ _ _ _ _ => none
  | .topkcTab _ _ _ _ _ _ _ _ => none
  | .compact _ _ _ _ _ _ _ => none
  | .expand _ _ _ _ _ _ _ => none
  | .accrd _ _ _ _ _ _ => none
  | .accwr _ _ _ _ _ _ _ => none
  | .dscan _ _ _ _ _ => none
  | .dskip _ _ _ _ _ _ _ _ => none
  | .prefetch _ _ _ => none
  | .evict _ _ _ => none
  | .chkarm _ _ _ _ _ => none
  | .mnop _ => none
  | .wload _ _ _ => none
  | .wconst _ _ _ _ _ _ => none
  | .wfree _ _ => none
  | .mma _ _ _ _ _ _ => none
  | .mmat _ _ _ _ _ _ => none
  | .mmaz _ _ _ _ _ _ => none
  | .accz _ _ => none
  | .slmap _ _ _ _ => none
  | .slclr _ _ _ _ => none
  | .slspill _ _ _ => none
  | .slfill _ _ _ => none
  | .bind _ _ _ _ _ _ _ => none
  | .drain _ _ _ _ => none
  | .drainq _ _ _ _ => none
  | .vnop _ => none
  | .vwin _ _ _ _ _ => none
  | .vmov _ _ _ _ _ _ => none
  | .vadd _ _ _ _ _ _ _ _ => none
  | .vsub _ _ _ _ _ _ _ _ => none
  | .vmul _ _ _ _ _ _ _ => none
  | .vfma _ _ _ _ _ _ _ => none
  | .vmin _ _ _ _ _ _ => none
  | .vmax _ _ _ _ _ _ => none
  | .vabs _ _ _ _ _ => none
  | .vneg _ _ _ _ _ => none
  | .vdiv _ _ _ _ _ _ _ => none
  | .vsqrt _ _ _ _ _ _ => none
  | .vrsq _ _ _ _ _ _ => none
  | .vrcp _ _ _ _ _ _ => none
  | .vexp2 _ _ _ _ _ _ => none
  | .vlog2 _ _ _ _ _ _ => none
  | .vcvt _ _ _ _ _ _ _ _ => none
  | .vand _ _ _ _ _ _ => none
  | .vor _ _ _ _ _ _ => none
  | .vxor _ _ _ _ _ _ => none
  | .vshl _ _ _ _ _ _ _ _ => none
  | .vshr _ _ _ _ _ _ _ _ => none
  | .vshra _ _ _ _ _ _ _ _ => none
  | .vpopc _ _ _ _ _ => none
  | .vctz _ _ _ _ _ => none
  | .vclmul _ _ _ _ _ _ _ => none
  | .vpxor _ _ _ _ _ _ _ _ => none
  | .vpsum _ _ _ _ _ _ => none
  | .vred _ _ _ _ _ _ _ => none
  | .vcmp _ _ _ _ _ _ _ => none
  | .vsel _ _ _ _ _ _ => none
  | .vbcast _ _ _ _ _ _ _ => none
  | .viota _ _ _ _ _ => none
  | .vperm _ _ _ _ _ _ => none
  | .vcompr _ _ _ _ _ _ => none
  | .vld _ _ _ _ _ => none
  | .vldg _ _ _ _ _ _ _ => none
  | .vst _ _ _ _ _ => none
  | .vstg _ _ _ _ _ _ => none
  | .vmtest _ _ _ _ _ _ _ => none
  | .mand _ _ _ _ _ => none
  | .mor _ _ _ _ _ => none
  | .mnot _ _ _ => none
  | .mpop _ _ _ _ _ => none
  | .segmentRelease => none
  | .powerLeaveGrant => none
  | .ringIdle _ => none
  | .engineReadStep => none
  | .timedWritePerform => none
  | .dataArrival _ _ _ _ _ => none
  | .freezeResume => none
  | .freezeTimeout => none
  | .engineFaultTrap => none
  | .translationFaultReport _ _ _ _ => none
  | .causeResolved _ => none
  | .copyStop _ _ _ => none
  | .restart _ => none
  | .discard _ => none
  | .rgcfgWrite _ _ => none
  | .registerWrite _ _ => none
  | .slcfgWrite _ _ => none
  | .pbktWrite _ _ _ => none
  | .preemption _ => none
  | .contextResume _ _ => none
  | .launchWalk _ => none
  | .leaseStart _ _ => none
  | .homeTransaction => none
  | .homeResponse => none
  | .postedBarrRefusal => none
  | .barrierRelease => none
  | .reservationTimeout => none
  | .storeBufferDrain => none
  | .directoryProbe _ _ _ _ => none
  | .retentionWakeWriteback _ => none
  | .transferParityError _ _ _ _ => none
  | .memoryErrorReport _ _ _ => none
  | .transferRetry _ _ _ _ => none
  | .channelRetrainDone _ _ _ => none
  | .halfWidthDone _ _ => none
  | .hostRead _ _ => none
  | .hostWrite _ _ => none
  | .hostAtomic _ _ _ _ => none
  | .hostLineInvalidate _ _ => none
  | .hcqtailWrite _ => none
  | .hcqbaseWrite _ => none
  | .kernelDoorbell => none
  | .sidebandMessage _ => none
  | .sidebandLogRead _ _ => none
  | .objset _ _ => none
  | .objextResolve _ _ _ _ => none
  | .objextFail _ _ _ => none
  | .objinv _ _ _ => none
  | .objinvTimeout _ => none
  | .objrd _ _ _ => none
  | .capstore _ _ _ _ => none
  | .spcreate _ _ _ => none
  | .biasToHost _ _ => none
  | .biasToDevice _ _ _ => none
  | .launchq _ _ _ => none
  | .qcfg _ _ _ => none
  | .diefence _ _ => none
  | .diereset _ _ => none
  | .vbtrain _ _ _ _ => none
  | .lvcfg _ _ _ _ => none
  | .capcfgStop _ _ _ => none
  | .capcfgFull _ _ _ => none
  | .capcfgWrap _ _ _ => none
  | .replay _ _ _ => none
  | .attest _ _ _ => none
  | .fwload _ _ => none
  | .thermalStep _ => none
  | .powerThrottle => none
  | .moduleReset => none
  | .gtcCycle => none
  | .mainRailDown => none
  | .mainRailUp => none
  | .dieresetResponse _ => none
  | .contextRelease _ => none

/-- The engine and the command fields of an engine command; none for instructions and events (02 R55). -/
def cmdFields : Instr → Option (Eng × CmdFields)
  | .nop => none
  | .hint _ => none
  | .halt => none
  | .trap _ => none
  | .eret => none
  | .csrr _ _ => none
  | .csrw _ _ => none
  | .csrset _ _ => none
  | .csrclr _ _ => none
  | .gtime _ => none
  | .rngnext _ => none
  | .add _ _ _ => none
  | .sub _ _ _ => none
  | .and _ _ _ => none
  | .or _ _ _ => none
  | .xor _ _ _ => none
  | .sll _ _ _ => none
  | .srl _ _ _ => none
  | .sra _ _ _ => none
  | .mul _ _ _ => none
  | .mulh _ _ _ => none
  | .div _ _ _ => none
  | .divn _ _ _ => none
  | .rem _ _ _ => none
  | .remn _ _ _ => none
  | .min _ _ _ => none
  | .max _ _ _ => none
  | .minn _ _ _ => none
  | .maxn _ _ _ => none
  | .slt _ _ _ => none
  | .sltn _ _ _ => none
  | .clz _ _ => none
  | .ctz _ _ => none
  | .popc _ _ => none
  | .clmul _ _ _ => none
  | .clmulh _ _ _ => none
  | .addi _ _ _ => none
  | .andi _ _ _ => none
  | .ori _ _ _ => none
  | .xori _ _ _ => none
  | .slli _ _ _ => none
  | .srli _ _ _ => none
  | .srai _ _ _ => none
  | .slti _ _ _ => none
  | .sltni _ _ _ => none
  | .movhi _ _ _ => none
  | .beq _ _ _ => none
  | .bne _ _ _ => none
  | .blt _ _ _ => none
  | .bge _ _ _ => none
  | .bltn _ _ _ => none
  | .bgen _ _ _ => none
  | .jal _ _ => none
  | .jalr _ _ _ => none
  | .ld _ _ _ _ _ _ _ => none
  | .st _ _ _ _ _ _ => none
  | .cderive _ _ _ => none
  | .crestrict _ _ _ => none
  | .csetoff _ _ _ => none
  | .cincoff _ _ _ => none
  | .cgetbase _ _ => none
  | .cgetlen _ _ => none
  | .cgetoff _ _ => none
  | .cldc _ _ _ _ => none
  | .cstc _ _ _ _ => none
  | .rtail _ _ => none
  | .rstat _ _ => none
  | .salign _ _ => none
  | .fpush _ => none
  | .slotrd _ _ => none
  | .ecsrr _ _ _ => none
  | .ecsrw _ _ _ => none
  | .tretire => none
  | .stgput _ => none
  | .stgget _ => none
  | .dispatch _ _ => none
  | .launch _ _ => none
  | .aadd _ _ _ _ => none
  | .aand _ _ _ _ => none
  | .aor _ _ _ _ => none
  | .axor _ _ _ _ => none
  | .amin _ _ _ _ => none
  | .amax _ _ _ _ => none
  | .aminn _ _ _ _ => none
  | .amaxn _ _ _ _ => none
  | .aswp _ _ _ _ => none
  | .acas _ _ _ _ => none
  | .fadd _ _ _ _ => none
  | .lr _ _ _ => none
  | .sc _ _ _ _ => none
  | .fence _ => none
  | .binit _ _ _ => none
  | .bxfer _ _ => none
  | .barr _ _ _ => none
  | .bwait _ _ _ => none
  | .barrw _ _ _ _ => none
  | .bfree _ => none
  | .soinit _ => none
  | .acq _ _ => none
  | .rel _ _ => none
  | .rbind _ _ => none
  | .rmode _ _ => none
  | .dcfg _ _ => none
  | .dq _ _ _ => none
  | .drebuild _ _ => none
  | .pgmap _ _ _ _ => none
  | .pgunmap _ _ _ => none
  | .pgfetch _ _ _ => none
  | .sptag _ _ _ => none
  | .spret _ _ _ _ => none
  | .sptrunc _ _ _ => none
  | .spposGet _ _ _ => none
  | .spposSet _ _ _ => none
  | .align e n => some (e, ⟨1, n, 0, 0, 0, 0⟩)
  | .engineHint e h k => some (e, ⟨h.wk, h.wv, h.sset, h.schk, Fin.ofNat 256 (240 + k.val), 0⟩)
  | .cnop h => some (.copy, ⟨h.wk, h.wv, h.sset, h.schk, 0, opfOf (CopyOpf.pack ⟨0, 0, 0, 0, 0, 0, 0⟩)⟩)
  | .qld h qd off => some (.copy, ⟨h.wk, h.wv, h.sset, h.schk, 1, opfOf (CopyOpf.pack ⟨0, qd, 0, 0, 0, 0, (Fin.ofNat 2097152 (off.val))⟩)⟩)
  | .cpy h ch qd qs bc => some (.copy, ⟨h.wk, h.wv, h.sset, h.schk, 2, opfOf (CopyOpf.pack ⟨ch, qd, qs, 0, (Fin.ofNat 2 (bc.toNat)), 0, 0⟩)⟩)
  | .fill h ch qd bc poff => some (.copy, ⟨h.wk, h.wv, h.sset, h.schk, 3, opfOf (CopyOpf.pack ⟨ch, qd, 0, 0, (Fin.ofNat 2 (bc.toNat)), 0, (Fin.ofNat 2097152 (poff.val))⟩)⟩)
  | .gather h ch qd qs qx bc => some (.copy, ⟨h.wk, h.wv, h.sset, h.schk, 4, opfOf (CopyOpf.pack ⟨ch, qd, qs, qx, (Fin.ofNat 2 (bc.toNat)), 0, 0⟩)⟩)
  | .scatter h ch qd qs qx bc => some (.copy, ⟨h.wk, h.wv, h.sset, h.schk, 5, opfOf (CopyOpf.pack ⟨ch, qd, qs, qx, (Fin.ofNat 2 (bc.toNat)), 0, 0⟩)⟩)
  | .scatadd h ch qd qs qx bc => some (.copy, ⟨h.wk, h.wv, h.sset, h.schk, 6, opfOf (CopyOpf.pack ⟨ch, qd, qs, qx, (Fin.ofNat 2 (bc.toNat)), 0, 0⟩)⟩)
  | .topkr h ch qd qs qx bc tab k => some (.copy, ⟨h.wk, h.wv, h.sset, h.schk, 7, opfOf (CopyOpf.pack ⟨ch, qd, qs, qx, (Fin.ofNat 2 (bc.toNat)), (Fin.ofNat 16 (tab.toNat)), (Fin.ofNat 2097152 (k.val))⟩)⟩)
  | .topkc h ch qd qs qx bc k => some (.copy, ⟨h.wk, h.wv, h.sset, h.schk, 8, opfOf (CopyOpf.pack ⟨ch, qd, qs, qx, (Fin.ofNat 2 (bc.toNat)), 0, (Fin.ofNat 2097152 (k.val))⟩)⟩)
  | .topkcTab h ch qd qs qx bc e0 kcap => some (.copy, ⟨h.wk, h.wv, h.sset, h.schk, 8, opfOf (CopyOpf.pack ⟨ch, qd, qs, qx, (Fin.ofNat 2 (bc.toNat)), 1, (Fin.ofNat 2097152 (e0.val + kcap.val * 4096))⟩)⟩)
  | .compact h ch qd qs qx bc coff => some (.copy, ⟨h.wk, h.wv, h.sset, h.schk, 9, opfOf (CopyOpf.pack ⟨ch, qd, qs, qx, (Fin.ofNat 2 (bc.toNat)), 0, (Fin.ofNat 2097152 (coff.val))⟩)⟩)
  | .expand h ch qd qs qx bc z => some (.copy, ⟨h.wk, h.wv, h.sset, h.schk, 10, opfOf (CopyOpf.pack ⟨ch, qd, qs, qx, (Fin.ofNat 2 (bc.toNat)), (Fin.ofNat 16 (z.toNat)), 0⟩)⟩)
  | .accrd h ch qd qs bc rm => some (.copy, ⟨h.wk, h.wv, h.sset, h.schk, 11, opfOf (CopyOpf.pack ⟨ch, qd, qs, 0, (Fin.ofNat 2 (bc.toNat)), (Fin.ofNat 16 (rm.val)), 0⟩)⟩)
  | .accwr h ch qd qs bc rm acc => some (.copy, ⟨h.wk, h.wv, h.sset, h.schk, 12, opfOf (CopyOpf.pack ⟨ch, qd, qs, 0, (Fin.ofNat 2 (bc.toNat)), (Fin.ofNat 16 (rm.val + acc.toNat * 4)), 0⟩)⟩)
  | .dscan h ch qd qs bc => some (.copy, ⟨h.wk, h.wv, h.sset, h.schk, 13, opfOf (CopyOpf.pack ⟨ch, qd, qs, 0, (Fin.ofNat 2 (bc.toNat)), 0, 0⟩)⟩)
  | .dskip h ch qd qs qx bc dcls poff => some (.copy, ⟨h.wk, h.wv, h.sset, h.schk, 14, opfOf (CopyOpf.pack ⟨ch, qd, qs, qx, (Fin.ofNat 2 (bc.toNat)), (Fin.ofNat 16 (dcls.val)), (Fin.ofNat 2097152 (poff.val))⟩)⟩)
  | .prefetch h qs res => some (.copy, ⟨h.wk, h.wv, h.sset, h.schk, 15, opfOf (CopyOpf.pack ⟨0, 0, qs, 0, 0, (Fin.ofNat 16 (res.toNat)), 0⟩)⟩)
  | .evict h qs inv => some (.copy, ⟨h.wk, h.wv, h.sset, h.schk, 16, opfOf (CopyOpf.pack ⟨0, 0, qs, 0, 0, (Fin.ofNat 16 (inv.toNat)), 0⟩)⟩)
  | .chkarm h qs off clr k => some (.copy, ⟨h.wk, h.wv, h.sset, h.schk, 17, opfOf (CopyOpf.pack ⟨0, 0, qs, 0, 0, (Fin.ofNat 16 (off.toNat + clr.toNat * 2)), (Fin.ofNat 2097152 (k.val))⟩)⟩)
  | .mnop h => some (.matrix, ⟨h.wk, h.wv, h.sset, h.schk, 0, opfOf (MatOpf.pack ⟨0, 0, 0, 0, 0⟩)⟩)
  | .wload h spa we => some (.matrix, ⟨h.wk, h.wv, h.sset, h.schk, 1, opfOf (MatOpf.pack ⟨0, spa, we, 0, 0⟩)⟩)
  | .wconst h ty we ord cb kb => some (.matrix, ⟨h.wk, h.wv, h.sset, h.schk, 2, opfOf (MatOpf.pack ⟨ty, 0, we, (Fin.ofNat 256 (ord.val + cb.val * 4 + kb.val * 32)), 0⟩)⟩)
  | .wfree h we => some (.matrix, ⟨h.wk, h.wv, h.sset, h.schk, 3, opfOf (MatOpf.pack ⟨0, 0, we, 0, 0⟩)⟩)
  | .mma h tile spa we lbl nrow => some (.matrix, ⟨h.wk, h.wv, h.sset, h.schk, 4, opfOf (MatOpf.pack ⟨tile, spa, we, lbl, nrow⟩)⟩)
  | .mmat h tile spa we lbl nrow => some (.matrix, ⟨h.wk, h.wv, h.sset, h.schk, 5, opfOf (MatOpf.pack ⟨tile, spa, we, lbl, nrow⟩)⟩)
  | .mmaz h tile spa we lbl nrow => some (.matrix, ⟨h.wk, h.wv, h.sset, h.schk, 6, opfOf (MatOpf.pack ⟨tile, spa, we, lbl, nrow⟩)⟩)
  | .accz h tile => some (.matrix, ⟨h.wk, h.wv, h.sset, h.schk, 7, opfOf (MatOpf.pack ⟨tile, 0, 0, 0, 0⟩)⟩)
  | .slmap h tile slot lbl => some (.matrix, ⟨h.wk, h.wv, h.sset, h.schk, 8, opfOf (MatOpf.pack ⟨tile, 0, (Fin.ofNat 128 (slot.val)), lbl, 0⟩)⟩)
  | .slclr h tile all lbl => some (.matrix, ⟨h.wk, h.wv, h.sset, h.schk, 9, opfOf (MatOpf.pack ⟨tile, 0, (Fin.ofNat 128 (all.toNat * 64)), lbl, 0⟩)⟩)
  | .slspill h tile lbl => some (.matrix, ⟨h.wk, h.wv, h.sset, h.schk, 10, opfOf (MatOpf.pack ⟨tile, 0, 0, lbl, 0⟩)⟩)
  | .slfill h tile lbl => some (.matrix, ⟨h.wk, h.wv, h.sset, h.schk, 11, opfOf (MatOpf.pack ⟨tile, 0, 0, lbl, 0⟩)⟩)
  | .bind h tile spa ts acc cstr nrow => some (.matrix, ⟨h.wk, h.wv, h.sset, h.schk, 12, opfOf (MatOpf.pack ⟨tile, spa, (Fin.ofNat 128 (ts.val + acc.toNat * 8)), cstr, nrow⟩)⟩)
  | .drain h tile spa nrow => some (.matrix, ⟨h.wk, h.wv, h.sset, h.schk, 13, opfOf (MatOpf.pack ⟨tile, spa, 0, 0, nrow⟩)⟩)
  | .drainq h tile spa nrow => some (.matrix, ⟨h.wk, h.wv, h.sset, h.schk, 14, opfOf (MatOpf.pack ⟨tile, spa, 0, 0, nrow⟩)⟩)
  | .vnop h => some (.vector, ⟨h.wk, h.wv, h.sset, h.schk, 0, opfOf (VecOpf.pack ⟨0, 0, 0, 0, 0, 0⟩)⟩)
  | .vwin h wt mode wr ws => some (.vector, ⟨h.wk, h.wv, h.sset, h.schk, 1, opfOf (VecOpf.pack ⟨0, 0, 0, 0, 0, (Fin.ofNat 32768 (wt.val + mode.toNat * 16 + wr.val * 32 + ws.val * 4096))⟩)⟩)
  | .vmov h vd va m t fm => some (.vector, ⟨h.wk, h.wv, h.sset, h.schk, 2, opfOf (VecOpf.pack ⟨vd, va, 0, m, t, (Fin.ofNat 32768 (fm.toNat))⟩)⟩)
  | .vadd h vd va vb m t rm sat => some (.vector, ⟨h.wk, h.wv, h.sset, h.schk, 3, opfOf (VecOpf.pack ⟨vd, va, vb, m, t, (Fin.ofNat 32768 (rm.val + sat.toNat * 4))⟩)⟩)
  | .vsub h vd va vb m t rm sat => some (.vector, ⟨h.wk, h.wv, h.sset, h.schk, 4, opfOf (VecOpf.pack ⟨vd, va, vb, m, t, (Fin.ofNat 32768 (rm.val + sat.toNat * 4))⟩)⟩)
  | .vmul h vd va vb m t rm => some (.vector, ⟨h.wk, h.wv, h.sset, h.schk, 5, opfOf (VecOpf.pack ⟨vd, va, vb, m, t, (Fin.ofNat 32768 (rm.val))⟩)⟩)
  | .vfma h vd va vb m t rm => some (.vector, ⟨h.wk, h.wv, h.sset, h.schk, 6, opfOf (VecOpf.pack ⟨vd, va, vb, m, t, (Fin.ofNat 32768 (rm.val))⟩)⟩)
  | .vmin h vd va vb m t => some (.vector, ⟨h.wk, h.wv, h.sset, h.schk, 7, opfOf (VecOpf.pack ⟨vd, va, vb, m, t, 0⟩)⟩)
  | .vmax h vd va vb m t => some (.vector, ⟨h.wk, h.wv, h.sset, h.schk, 8, opfOf (VecOpf.pack ⟨vd, va, vb, m, t, 0⟩)⟩)
  | .vabs h vd va m t => some (.vector, ⟨h.wk, h.wv, h.sset, h.schk, 9, opfOf (VecOpf.pack ⟨vd, va, 0, m, t, 0⟩)⟩)
  | .vneg h vd va m t => some (.vector, ⟨h.wk, h.wv, h.sset, h.schk, 10, opfOf (VecOpf.pack ⟨vd, va, 0, m, t, 0⟩)⟩)
  | .vdiv h vd va vb m t rm => some (.vector, ⟨h.wk, h.wv, h.sset, h.schk, 11, opfOf (VecOpf.pack ⟨vd, va, vb, m, t, (Fin.ofNat 32768 (rm.val))⟩)⟩)
  | .vsqrt h vd va m t rm => some (.vector, ⟨h.wk, h.wv, h.sset, h.schk, 12, opfOf (VecOpf.pack ⟨vd, va, 0, m, t, (Fin.ofNat 32768 (rm.val))⟩)⟩)
  | .vrsq h vd va m t rm => some (.vector, ⟨h.wk, h.wv, h.sset, h.schk, 13, opfOf (VecOpf.pack ⟨vd, va, 0, m, t, (Fin.ofNat 32768 (rm.val))⟩)⟩)
  | .vrcp h vd va m t rm => some (.vector, ⟨h.wk, h.wv, h.sset, h.schk, 14, opfOf (VecOpf.pack ⟨vd, va, 0, m, t, (Fin.ofNat 32768 (rm.val))⟩)⟩)
  | .vexp2 h vd va m t rm => some (.vector, ⟨h.wk, h.wv, h.sset, h.schk, 15, opfOf (VecOpf.pack ⟨vd, va, 0, m, t, (Fin.ofNat 32768 (rm.val))⟩)⟩)
  | .vlog2 h vd va m t rm => some (.vector, ⟨h.wk, h.wv, h.sset, h.schk, 16, opfOf (VecOpf.pack ⟨vd, va, 0, m, t, (Fin.ofNat 32768 (rm.val))⟩)⟩)
  | .vcvt h vd va m t rm stt part => some (.vector, ⟨h.wk, h.wv, h.sset, h.schk, 17, opfOf (VecOpf.pack ⟨vd, va, 0, m, t, (Fin.ofNat 32768 (rm.val + stt.val * 4 + part.val * 64))⟩)⟩)
  | .vand h vd va vb m t => some (.vector, ⟨h.wk, h.wv, h.sset, h.schk, 18, opfOf (VecOpf.pack ⟨vd, va, vb, m, t, 0⟩)⟩)
  | .vor h vd va vb m t => some (.vector, ⟨h.wk, h.wv, h.sset, h.schk, 19, opfOf (VecOpf.pack ⟨vd, va, vb, m, t, 0⟩)⟩)
  | .vxor h vd va vb m t => some (.vector, ⟨h.wk, h.wv, h.sset, h.schk, 20, opfOf (VecOpf.pack ⟨vd, va, vb, m, t, 0⟩)⟩)
  | .vshl h vd va vb m t count imf => some (.vector, ⟨h.wk, h.wv, h.sset, h.schk, 21, opfOf (VecOpf.pack ⟨vd, va, vb, m, t, (Fin.ofNat 32768 (count.val + imf.toNat * 64))⟩)⟩)
  | .vshr h vd va vb m t count imf => some (.vector, ⟨h.wk, h.wv, h.sset, h.schk, 22, opfOf (VecOpf.pack ⟨vd, va, vb, m, t, (Fin.ofNat 32768 (count.val + imf.toNat * 64))⟩)⟩)
  | .vshra h vd va vb m t count imf => some (.vector, ⟨h.wk, h.wv, h.sset, h.schk, 23, opfOf (VecOpf.pack ⟨vd, va, vb, m, t, (Fin.ofNat 32768 (count.val + imf.toNat * 64))⟩)⟩)
  | .vpopc h vd va m t => some (.vector, ⟨h.wk, h.wv, h.sset, h.schk, 24, opfOf (VecOpf.pack ⟨vd, va, 0, m, t, 0⟩)⟩)
  | .vctz h vd va m t => some (.vector, ⟨h.wk, h.wv, h.sset, h.schk, 25, opfOf (VecOpf.pack ⟨vd, va, 0, m, t, 0⟩)⟩)
  | .vclmul h vd va vb m t hi => some (.vector, ⟨h.wk, h.wv, h.sset, h.schk, 26, opfOf (VecOpf.pack ⟨vd, va, vb, m, t, (Fin.ofNat 32768 (hi.toNat))⟩)⟩)
  | .vpxor h vd va vb m t excl seed => some (.vector, ⟨h.wk, h.wv, h.sset, h.schk, 27, opfOf (VecOpf.pack ⟨vd, va, vb, m, t, (Fin.ofNat 32768 (excl.toNat + seed.toNat * 2))⟩)⟩)
  | .vpsum h vd va m t rm => some (.vector, ⟨h.wk, h.wv, h.sset, h.schk, 28, opfOf (VecOpf.pack ⟨vd, va, 0, m, t, (Fin.ofNat 32768 (rm.val))⟩)⟩)
  | .vred h vd va m t rm op => some (.vector, ⟨h.wk, h.wv, h.sset, h.schk, 29, opfOf (VecOpf.pack ⟨vd, va, 0, m, t, (Fin.ofNat 32768 (rm.val + op.val * 4))⟩)⟩)
  | .vcmp h mk va vb m t pred => some (.vector, ⟨h.wk, h.wv, h.sset, h.schk, 30, opfOf (VecOpf.pack ⟨(Fin.ofNat 64 (mk.val)), va, vb, m, t, (Fin.ofNat 32768 (pred.val))⟩)⟩)
  | .vsel h vd va vb m t => some (.vector, ⟨h.wk, h.wv, h.sset, h.schk, 31, opfOf (VecOpf.pack ⟨vd, va, vb, m, t, 0⟩)⟩)
  | .vbcast h vd va m t src val => some (.vector, ⟨h.wk, h.wv, h.sset, h.schk, 32, opfOf (VecOpf.pack ⟨vd, va, 0, m, t, (Fin.ofNat 32768 (src.toNat * 16384 + val.val))⟩)⟩)
  | .viota h vd m t idx => some (.vector, ⟨h.wk, h.wv, h.sset, h.schk, 33, opfOf (VecOpf.pack ⟨vd, 0, 0, m, t, (Fin.ofNat 32768 (idx.toNat))⟩)⟩)
  | .vperm h vd va vb m t => some (.vector, ⟨h.wk, h.wv, h.sset, h.schk, 34, opfOf (VecOpf.pack ⟨vd, va, vb, m, t, 0⟩)⟩)
  | .vcompr h vd va m t z => some (.vector, ⟨h.wk, h.wv, h.sset, h.schk, 35, opfOf (VecOpf.pack ⟨vd, va, 0, m, t, (Fin.ofNat 32768 (z.toNat))⟩)⟩)
  | .vld h vd m t off => some (.vector, ⟨h.wk, h.wv, h.sset, h.schk, 36, opfOf (VecOpf.pack ⟨vd, 0, 0, m, t, (Fin.ofNat 32768 (off.val))⟩)⟩)
  | .vldg h vd g m t off mr => some (.vector, ⟨h.wk, h.wv, h.sset, h.schk, 37, opfOf (VecOpf.pack ⟨vd, 0, (Fin.ofNat 64 (g.val)), m, t, (Fin.ofNat 32768 (off.val + mr.val * 4096))⟩)⟩)
  | .vst h va m t off => some (.vector, ⟨h.wk, h.wv, h.sset, h.schk, 38, opfOf (VecOpf.pack ⟨0, va, 0, m, t, (Fin.ofNat 32768 (off.val))⟩)⟩)
  | .vstg h va g m t off => some (.vector, ⟨h.wk, h.wv, h.sset, h.schk, 39, opfOf (VecOpf.pack ⟨0, va, (Fin.ofNat 64 (g.val)), m, t, (Fin.ofNat 32768 (off.val))⟩)⟩)
  | .vmtest h mk va vb m t row => some (.vector, ⟨h.wk, h.wv, h.sset, h.schk, 40, opfOf (VecOpf.pack ⟨(Fin.ofNat 64 (mk.val)), va, vb, m, t, (Fin.ofNat 32768 (row.toNat))⟩)⟩)
  | .mand h mk mi mj nb => some (.vector, ⟨h.wk, h.wv, h.sset, h.schk, 41, opfOf (VecOpf.pack ⟨(Fin.ofNat 64 (mk.val)), (Fin.ofNat 64 (mi.val)), (Fin.ofNat 64 (mj.val)), 0, 0, (Fin.ofNat 32768 (nb.toNat))⟩)⟩)
  | .mor h mk mi mj nb => some (.vector, ⟨h.wk, h.wv, h.sset, h.schk, 42, opfOf (VecOpf.pack ⟨(Fin.ofNat 64 (mk.val)), (Fin.ofNat 64 (mi.val)), (Fin.ofNat 64 (mj.val)), 0, 0, (Fin.ofNat 32768 (nb.toNat))⟩)⟩)
  | .mnot h mk mi => some (.vector, ⟨h.wk, h.wv, h.sset, h.schk, 43, opfOf (VecOpf.pack ⟨(Fin.ofNat 64 (mk.val)), (Fin.ofNat 64 (mi.val)), 0, 0, 0, 0⟩)⟩)
  | .mpop h vd mi m t => some (.vector, ⟨h.wk, h.wv, h.sset, h.schk, 44, opfOf (VecOpf.pack ⟨vd, (Fin.ofNat 64 (mi.val)), 0, m, t, 0⟩)⟩)
  | .segmentRelease => none
  | .powerLeaveGrant => none
  | .ringIdle _ => none
  | .engineReadStep => none
  | .timedWritePerform => none
  | .dataArrival _ _ _ _ _ => none
  | .freezeResume => none
  | .freezeTimeout => none
  | .engineFaultTrap => none
  | .translationFaultReport _ _ _ _ => none
  | .causeResolved _ => none
  | .copyStop _ _ _ => none
  | .restart _ => none
  | .discard _ => none
  | .rgcfgWrite _ _ => none
  | .registerWrite _ _ => none
  | .slcfgWrite _ _ => none
  | .pbktWrite _ _ _ => none
  | .preemption _ => none
  | .contextResume _ _ => none
  | .launchWalk _ => none
  | .leaseStart _ _ => none
  | .homeTransaction => none
  | .homeResponse => none
  | .postedBarrRefusal => none
  | .barrierRelease => none
  | .reservationTimeout => none
  | .storeBufferDrain => none
  | .directoryProbe _ _ _ _ => none
  | .retentionWakeWriteback _ => none
  | .transferParityError _ _ _ _ => none
  | .memoryErrorReport _ _ _ => none
  | .transferRetry _ _ _ _ => none
  | .channelRetrainDone _ _ _ => none
  | .halfWidthDone _ _ => none
  | .hostRead _ _ => none
  | .hostWrite _ _ => none
  | .hostAtomic _ _ _ _ => none
  | .hostLineInvalidate _ _ => none
  | .hcqtailWrite _ => none
  | .hcqbaseWrite _ => none
  | .kernelDoorbell => none
  | .sidebandMessage _ => none
  | .sidebandLogRead _ _ => none
  | .objset _ _ => none
  | .objextResolve _ _ _ _ => none
  | .objextFail _ _ _ => none
  | .objinv _ _ _ => none
  | .objinvTimeout _ => none
  | .objrd _ _ _ => none
  | .capstore _ _ _ _ => none
  | .spcreate _ _ _ => none
  | .biasToHost _ _ => none
  | .biasToDevice _ _ _ => none
  | .launchq _ _ _ => none
  | .qcfg _ _ _ => none
  | .diefence _ _ => none
  | .diereset _ _ => none
  | .vbtrain _ _ _ _ => none
  | .lvcfg _ _ _ _ => none
  | .capcfgStop _ _ _ => none
  | .capcfgFull _ _ _ => none
  | .capcfgWrap _ _ _ => none
  | .replay _ _ _ => none
  | .attest _ _ _ => none
  | .fwload _ _ => none
  | .thermalStep _ => none
  | .powerThrottle => none
  | .moduleReset => none
  | .gtcCycle => none
  | .mainRailDown => none
  | .mainRailUp => none
  | .dieresetResponse _ => none
  | .contextRelease _ => none

/-- The sequencer word of an instruction. -/
def encodeSeq (i : Instr) : Option Word := (seqFields i).map SeqFields.pack

/-- The ring word of an engine command, with its engine. -/
def encodeCmd (i : Instr) : Option (Eng × Word) := (cmdFields i).map (fun p => (p.1, p.2.pack))

/-- The words of an instruction or command: one 64-bit word; an event has none. -/
def encode (i : Instr) : List Word :=
  match encodeSeq i with
  | some w => [w]
  | none => match encodeCmd i with
    | some p => [p.2]
    | none => []

/-! ## Bytes -/

/-- The eight bytes of a word as memory holds them, lowest address first (00 R2). -/
def wordBytes (w : Word) : List Byte := (List.range 8).map (fun k => BitVec.ofNat 8 (w.toNat / 2 ^ (8 * k)))

/-- The number that a list of bytes holds, least significant byte first (00 R2). -/
def bytesNat : List Byte → Nat
  | [] => 0
  | b :: bs => b.toNat + 256 * bytesNat bs

/-- `n` bytes of the number `v`, least significant first. -/
def natBytes (n v : Nat) : List Byte := (List.range n).map (fun k => BitVec.ofNat 8 (v / 2 ^ (8 * k)))

/-- Decoding from bytes: eight bytes make one instruction; the rest of the list comes back. -/
def decodeBytes (bs : List Byte) : Option (Instr × List Byte) :=
  if bs.length < 8 then none
  else (decodeSeq (word (bytesNat (bs.take 8)))).map (fun i => (i, bs.drop 8))

/-- The host's question: the instruction the decoder reads from the sequencer word whose bits are `w`. A Beltor word is
one 64-bit word, so `nbits` adds nothing: the bits above it are 0. -/
def decodeTableWord (nbits w : Nat) : Option Instr :=
  (decodeBytes (natBytes 8 (w % 2 ^ nbits))).map Prod.fst

end Sys2Proof
end

