-- ==== Sys2Proof/Config.lean ====
section
/-! DEFINITION. Config.lean: the figures of the module (spec 00 R1, 04 R108, 01 R26) and the values that the spec leaves
free: constants without a body, so no proof can use a value of one. -/

namespace Sys2Proof.Config

/-- Scratchpad size in bytes (00 R1). -/
def spadSize : Nat := 0x400000
/-- Accumulator store size in bytes (00 R1, 15 R314). -/
def accSize : Nat := 0x200000
/-- Cores of the module and cores of one die (00 R1). -/
def numCores : Nat := 320
def coresPerDie : Nat := 40
/-- Engine scratchpad bytes per SCC cycle (01 R16). -/
def portBudget : Nat := 1024
/-- In-flight records and held-data bytes of a core (01 R26, 04 R111). -/
def maxRecords : Nat := 512
def maxHeld : Nat := 262144
/-- A freeze of a check, of the format queue or of capacity lasts at most this many GTC cycles (01 R22). -/
def freezeLimit : Nat := 2 ^ 24
/-- Store buffer entries (05 R113), format queue words (01 R28), messages of a stage queue (05 R143). -/
def storeBufferSize : Nat := 16
def formatQueueSize : Nat := 32
def stageQueueSize : Nat := 256
/-- Sets and ways of a core's L1 of 2 MiB, in frames of 128 bytes (00 R1). -/
def l1Sets : Nat := 1024
def l1Ways : Nat := 16
/-- A reservation lives this many GTC cycles (09 R221), and a slice holds this many (09 R220). -/
def resvLife : Nat := 4096
def resvTable : Nat := 64
/-- Size of a context area (04 R108). -/
def ctxSize : Nat := 0x764000
/-- The object id of the core's own scratchpad (04 R407). -/
def spadOid : Nat := 0xFFFFFF
/-- A work queue holds one record more than this: the spec says that a queue may be full and gives no size (05 R147,
DESIGN CHOICE, log entry 36). -/
opaque queueExtra : Nat

/-! Free values (log entries 18, 19, 23, 38). -/

/-- The RSA-4096 key that the base ROM verifies images with, whose digest is fused: the free bits of its modulus and of
its exponent (22 R401). -/
opaque romKey : BitVec 4094
opaque romExponent : BitVec 4094
/-- The device identity key: the free bits of its modulus, its private exponent, and the salt that it draws for a
signature at a GTC (22 R402). -/
opaque deviceKey : BitVec 4094
opaque deviceExponent : BitVec 4096
opaque pssSalt : Nat → BitVec 512
/-- The identity certificate's bytes, zero-padded to 1,152 bytes (22 R402). -/
opaque certificate : BitVec 9216
/-- The SHA-512 measurement of the base ROM (22 R402). -/
opaque romMeasure : BitVec 512
/-- The kernel code objects and trap entries that a firmware image installs: for each partition the object id and the
entry offset (22 R401). -/
opaque firmwareKernel : List Byte → List (Nat × Nat)
/-- The bytes of the kernel code object that a firmware image installs for a partition (22 R401). -/
opaque firmwareCode : List (BitVec 8) → Nat → List (BitVec 8)
/-- The length of a firmware image in bytes, its signature included (22 R401). -/
opaque imageSize : Nat
/-- Whether a retraining that ends at a GTC succeeds, and how many cycles less one it takes, below 4,096 (08 R192, 22
R391). -/
opaque retrainOk : Nat → Bool
opaque retrainCycles : Nat → Fin 4096
/-- Whether a transfer passes parity that a channel sends again after what happened at a GTC, and the first group that
fails; by that GTC, die and channel. -/
opaque retryPasses : Nat → Fin 8 → Fin 16 → Bool
opaque retryGroup : Nat → Fin 8 → Fin 16 → Fin 32
/-- The cycles that the granule of such a transfer takes to reach the core that awaits it (08 R192). -/
opaque crossCycles : Nat → Nat
/-- The lines of a page that the host holds dirty when the base recalls the page at a GTC: addresses and bytes (10
R251). -/
opaque hostLines : Nat → Nat → List (Nat × List (BitVec 8))
/-- The frame that leaves a full set of a core's L1: its number among the sixteen, by GTC, core and the address that
needs room (log entry 23). -/
opaque l1Victim : Nat → Nat → Nat → Fin 16
/-- The DRAM layer that holds a granule (09 R206). -/
opaque layerOf : Nat → Bool

end Sys2Proof.Config
end

