-- ==== Sys2Proof/Machine/Exact.lean ====
section
/-! DEFINITION. Machine/Exact.lean: exact real values, as engine arithmetic forms them before it rounds (spec 03 R72,
R82 to R85). A finite nonzero value is a dyadic number. -/

namespace Sys2Proof.Machine

/-- Which zero an exact zero is: every addend +0, every addend −0, or a cancellation (03 R72). -/
inductive ZSign where
  | pos | neg | mix
deriving DecidableEq, Repr

/-- An exact value: NaN, an infinity (`true` is negative), a zero, or `m × 2^e` with `m ≠ 0`. -/
inductive XVal where
  | nan
  | inf (neg : Bool)
  | zero (z : ZSign)
  | fin (m : Int) (e : Int)
deriving DecidableEq, Repr

/-- What is added to an accumulator or table element; `ovfl` when it is an infinity, or the NaN of two, that finite
terms overflowed to, and so gives way to an infinite term (03 R82). -/
structure Addend where
  val  : XVal
  ovfl : Bool
deriving DecidableEq, Repr

end Sys2Proof.Machine
end

