-- ==== Sys2Proof/Machine/State.lean ====
section
/-! DEFINITION. Machine/State.lean: everything the spec gives the machine, as plain data; how a step can stop; and the
machine right after reset. The inventory (INVENTORY.md, heading State) names the rule of each field. -/

namespace Sys2Proof.Machine

/-- Memory: address and byte pairs, addresses rising, no listed byte 0 (DESIGN CHOICE, log entry 1). -/
abbrev Mem := List Host.Cell

/-! ## The core's own storage and the sequencer -/

/-- The stores of a core that engines read and write (15 R314, R318). -/
inductive Store where
  | spad | acc | wpl | side
deriving DecidableEq, Repr

/-- A capability register: 128 bits, tag and cursor (04 R88, R89). -/
structure Cap where
  bits   : BitVec 128
  tag    : Bool
  cursor : Word
deriving DecidableEq, Repr

/-- The sequencer's registers (04 R88, R91). -/
structure Seq where
  x  : Vector Word 64
  c  : Vector Cap 16
  pc : Word
deriving DecidableEq, Repr

/-- The sequencer's control and status registers, field by field (04 R92 to R96, R106, R107; 01 R12). The freeze bit of
STATUS is derived from the engines' freeze. -/
structure Csr where
  seg     : BitVec 6
  pclass  : BitVec 2
  epend   : Bool
  engt    : Bool
  pmode   : Bool
  mode    : Bool
  tvec    : Word
  epc     : Word
  cause   : Word
  badaddr : Word
  schmode : BitVec 2
  qk      : BitVec 4
  extdist : BitVec 12
  rngkey  : Word
  rngctr  : Word
  spflag  : BitVec 4
  spbad   : Word
  resf    : Word
  dstat   : BitVec 3
  scc     : Nat
  pid     : Fin 16
deriving DecidableEq, Repr

/-! ## Engines -/

/-- A ring: RGCFG and RGPTR (01 R6, R7), the TAIL that engines see (05 R136), the idle flag (01 R11), the earliest
issue cycle of the next entry before its idle count (01 R10), and the ALIGN number of an arrival that a resumed context
brought with it (01 R35, 04 R109). -/
structure Ring where
  en      : Bool
  lgsz    : Nat
  base    : Nat
  head    : BitVec 16
  tail    : BitVec 16
  vis     : BitVec 16
  idle    : Bool
  nextIss : Nat
  arr     : Option (Fin 64)
deriving DecidableEq, Repr

/-- The counts of a completion slot (01 R17). -/
structure SlotCnt where
  iss  : BitVec 16
  comp : BitVec 16
deriving DecidableEq, Repr

/-- A copy channel (06 R149 to R152): the positions of completed copies, the bytes issued, and whether it stopped and at
which destination offset. -/
structure Chan where
  wpBase  : Nat
  issued  : Nat
  stopped : Bool
  undel   : Word
deriving DecidableEq, Repr

/-- A stream descriptor, eight words (06 R153). -/
abbrev Desc := Vector Word 8

/-- An extent register (06 R157). -/
structure ExtReg where
  ostart : Nat
  pbase  : Nat
  npg    : Nat
  xidx   : Fin 4
  res    : Bool
  v      : Bool
deriving DecidableEq, Repr

/-- The current and next extent registers of a stream or global access register (06 R157). -/
structure ExtPair where
  cur : ExtReg
  nxt : ExtReg
deriving DecidableEq, Repr

/-- The slot state of an accumulator tile (15 R315): label map, use order (most recent first), spilled set, type code
(15 none). -/
structure Tile where
  slots   : Vector (Option (Fin 256)) 8
  use     : List (Fin 8)
  spilled : BitVec 256
  ttype   : Fin 16
deriving DecidableEq, Repr

/-- An object-table extent (22 R392). -/
structure Extent where
  pa  : Nat
  res : Bool
  npg : Nat
deriving DecidableEq, Repr

/-- What the base does with accesses to one of its firmware's own objects; ordinary objects are plain (09 R201, 22 R390,
06 R166; DESIGN CHOICE, log entry 9). -/
inductive Role where
  | plain | baseConfig | kernelCmd | capTable (pid : Fin 16)
deriving DecidableEq, Repr

/-- An object-table entry (22 R392). -/
structure ObjEnt where
  oid      : BitVec 24
  space    : Fin 8
  kernel   : Bool
  span     : Bool
  dielocal : Bool
  die      : Fin 8
  coh      : Bool
  conflict : Bool
  state    : Fin 4
  pins     : Nat
  basewr   : Bool
  len      : Nat
  sync     : Nat
  dcfg     : Word
  caddr    : Nat
  owner    : Fin 16
  exts     : List Extent
  role     : Role
deriving DecidableEq, Repr

/-- What a command reads of the machine when it issues, kept for all its steps (07 R171, 15 R332, 19 R359). -/
structure Snap where
  qd   : Desc
  qs   : Desc
  qx   : Desc
  lqd  : Desc
  lqs  : Desc
  capD : Cap
  capS : Cap
  capX : Cap
  capB : Cap
  objD : Option ObjEnt
  objS : Option ObjEnt
  objX : Option ObjEnt
  fmt  : Word
  slot : Fin 8
  ttype : Fin 16
  labels : List (Fin 8 × Fin 256)
  limits : List Nat
  qk   : Nat
  vfcr : Word
  vwst : Word
  gctl : Word
  gbase : Word
  mxspill : Word
deriving DecidableEq, Repr

/-- A command in flight (01 R27 PROGRESS): its ring entry number, the slot it sets, its issue cycle, `old` when that
lies in an ended segment; its next read step and the next step whose bytes it has to form, what it has gathered, and
the base granule that it read last, by object, number and bytes (10 R246); the destination positions that have
performed and `allIn` once all have; what it still owes; `clob` whether it has reported a dropped byte (09 R223); `chk`
the channel-check state that a resumed context's area gave it (01 R27). -/
structure Job where
  id     : Nat
  eng    : Eng
  entry  : BitVec 16
  cmd    : Instr
  sset   : Fin 16
  iss    : Nat
  old    : Bool
  step   : Nat
  formed : Nat
  nsteps : Nat
  snap   : Snap
  idx    : List Nat
  idx2   : List Nat
  buf    : List Byte
  gran   : Option (BitVec 24 × Nat × List Byte)
  cnt    : Nat
  npos   : Nat
  perf   : List (Nat × Nat)
  minDone : Nat
  held   : Nat
  bcOut  : Bool
  bcIn   : Bool
  stop   : Option Nat
  allIn  : Bool
  done   : Bool
  clob   : Bool
  chk    : Option Nat
deriving DecidableEq, Repr

/-- The data of an in-flight write: bytes for local addresses, accumulator ranges that become 0, values to add to
local elements, each with the addresses of its bytes (01 R27 ACCUMULATE), a mask, bytes of the masks by their number in
m0 to m7 (19 R358), or a whole weight entry with its tag. Addresses are exact (06 R154, 04 R104). -/
inductive PWrite where
  | bytes (st : Store) (ws : List (Int × Byte))
  | zero (ranges : List (Nat × Nat))
  | accum (st : Store) (ty : Fin 16) (rm : Fin 4) (hs : List (List Int × Addend))
  | mask (k : Fin 8) (v : BitVec 128)
  | maskPart (ws : List (Nat × Byte))
  | weight (we : Fin 128) (data side : List Byte) (tag : Fin 16)
deriving DecidableEq, Repr

/-- An in-flight write: its command, perform cycle, whether its data has arrived, `need` whether it has yet to be
requested (again), the destination positions it covers (01 R23, R27); the stage offset of a derived byte, and the GTC
from which it may perform (07 R173). -/
structure Pend where
  job     : Nat
  eng     : Eng
  pcyc    : Nat
  arrived : Bool
  need    : Bool
  pos     : Nat
  len     : Nat
  lag     : Nat
  ready   : Nat
  w       : PWrite
deriving DecidableEq, Repr

/-- What an engine write to the base does at its home: bytes, or an add to one element (01 R24, 07 R179). -/
inductive TWrite where
  | bytes (ws : List (Nat × Byte))
  | add (pa : Nat) (ty : Fin 16) (v : Nat)
  | capLoad (pa : Nat) (n : Nat)
deriving DecidableEq, Repr

/-- An engine write or count on its way to its home (01 R24), with the ring entry of its command; `need` when its data
has to be requested again (06 R159), the issue cycle of its command, none in an ended segment (10 R239), and the step
that formed it (04 R94). One that no
command's completion counts, a spill or a LOAD count, belongs to job 0 (15 R323, 06 R166). -/
structure Transit where
  job     : Nat
  eng     : Eng
  entry   : BitVec 16
  arrived : Bool
  need    : Bool
  pos     : Nat
  len     : Nat
  oid     : BitVec 24
  off     : Nat
  w       : TWrite
  iss     : Option Nat
  step    : Nat
deriving DecidableEq, Repr

/-- A freeze of the core (04 R110): cause, slot, engine, step, the GTC at which it began, the job whose step waits
(none for a command not yet issued), and for capacity the records, the held bytes and the channel that the command
needs. -/
structure Freeze where
  cause : Nat
  slot  : Fin 16
  eng   : Eng
  step  : Nat
  since : Nat
  job   : Option Nat
  need  : Nat
  bytes : Nat
  chan  : Option (Fin 4)
deriving DecidableEq, Repr

/-- An engine fault that the sequencer has not yet taken (04 R99). -/
structure EFault where
  code : Nat
  sub  : Nat
  eng  : Eng
  aux  : Nat
  step : Nat
  bad  : Word
deriving DecidableEq, Repr

/-- A translation fault or memory error of a command (01 R25): its job, engine, ring entry and step; cause 3 or 4, the
base offset, the destination position, the GTC of its detection, whether the report has reached the core, and the SUB
with which the base gave it up. -/
structure Report where
  job   : Nat
  eng   : Eng
  entry : BitVec 16
  step  : Nat
  cause : Nat
  oid   : BitVec 24
  off   : Nat
  pos   : Nat
  found : Nat
  sent  : Bool
  sub   : Option Nat
deriving DecidableEq, Repr

/-- The engine control registers as commands that issue now see them (04 R92, 19 R359, 15 R324, 03 R73). -/
structure EffCsr where
  qk      : BitVec 4
  extdist : BitVec 12
  vfcr    : Word
  mxspill : Word
  gctl    : Vector Word 4
  gbase   : Vector Word 4
deriving DecidableEq, Repr

/-- The state of a core's engines and their stores. `extJob` is the command that each pair of extent registers serves
(07 R171), 0 when none; `lateUse` counts the scratchpad bytes of late deliveries in this cycle (01 R16); `offMark` is
the engine and offset of an out-of-range access recorded in this cycle (04 R104), `chkNow` the checkers that captured
in it (06 R163, 07 R190). -/
structure Engines where
  rings   : Vector Ring 3
  fq      : List (Word × Nat)
  slots   : Vector SlotCnt 16
  chans   : Vector Chan 4
  qs      : Vector Desc 16
  ext     : Vector ExtPair 20
  extJob  : Vector Nat 20
  chkCfg  : Vector Word 4
  chkHit  : Vector Word 4
  mxspill : Word
  vfcr    : Word
  vwst    : Word
  gctl    : Vector Word 4
  gbase   : Vector Word 4
  eff     : EffCsr
  masks   : Vector (BitVec 128) 8
  tiles   : Vector Tile 16
  wtag    : Vector (Option (Fin 16)) 128
  spad    : Mem
  acc     : Mem
  wpl     : Mem
  side    : Mem
  jobs    : List Job
  pends   : List Pend
  transit : List Transit
  reports : List Report
  nextJob : Nat
  freeze  : Option Freeze
  efault  : Option EFault
  lateUse : Nat
  offMark : Option (Nat × Int)
  chkNow  : Vector Bool 4
  rstatL  : Vector Word 3
  slotL   : Vector Word 16
deriving DecidableEq, Repr

/-! ## Leases and the core -/

/-- An entry of a lease's journal (09 R228): barrier, operation (0 arrival, 1 INB, 2 OUTB), generation, and whether the
reissued lease has matched it. -/
structure JEnt where
  pa      : Nat
  kind    : Fin 3
  gen     : Nat
  matched : Bool
deriving DecidableEq, Repr

/-- A stage message (05 R143, R144): the putting lease, its put count, and the 64 bytes. -/
structure Msg where
  lease : BitVec 32
  num   : Nat
  data  : List Byte
deriving DecidableEq, Repr

/-- A lease (01 R31, 05 R143, R144, 09 R228, 12 R280). -/
structure Lease where
  id      : BitVec 32
  launch  : BitVec 32
  stage   : Fin 8
  idx     : Vector (BitVec 32) 4
  code    : BitVec 24
  abort   : Bool
  reissue : Bool
  journal : List JEnt
  resumeArr : Option (Nat × Nat)
  puts    : Nat
  held    : List Msg
  redo    : List Msg
  tread   : Nat
deriving DecidableEq, Repr

/-- What a sequencer instruction that has begun and not completed waits for (05 R148): the release of SALIGN with the
GTC of the last arrival and grant; a registered barrier wait, released or not; BARRW's arrival and its generation; a
residency fault of an object's extent (04 R106); a PGFETCH's response (12 R303); a release half, with the SCC of the
cycle in which its instruction began and, for REL, the regions bound at that moment (10 R239, R241); the draining of a
slice whose SLCFG it writes (09 R201); a failing vertical-bus channel, once the request of a home instruction has left
(08 R192, 12 R280); the end of a FAULTED lease, until what the core has sent is answered (04 R108). -/
inductive Wait where
  | none
  | order (scc : Nat) (bound : List (BitVec 24))
  | pgfetch (oid : BitVec 24) (x : Nat) (failed : Bool)
  | config (g : Nat)
  | channel
  | ending
  | salign (cls : Fin 4) (g : Option Nat)
  | bwait (pa : Nat) (released : Bool)
  | barrw (pa gen : Nat) (released : Bool)
  | resid (oid : BitVec 24) (x : Nat) (failed : Bool)
deriving DecidableEq, Repr

/-- A store buffer entry (10 R232): object, offset, bytes, and the tag a CSTC carries. -/
structure SbEnt where
  oid  : BitVec 24
  off  : Nat
  data : List Byte
  tag  : Option Bool
deriving DecidableEq, Repr

/-- A valid L1 word (10 R233): its physical address, its object and offset, its value, the tag of its granule as the
core sees it (04 R90), whether it is dirty, and whether it is dirty by a CSTC, whose two words reach the home as one
unit (10 R249). -/
structure L1Word where
  pa    : Nat
  oid   : BitVec 24
  off   : Nat
  val   : Word
  tag   : Bool
  dirty : Bool
  pair  : Bool
deriving DecidableEq, Repr

/-- A core's cached object-table entry (04 R103); `long` marks a pin that lasts until the launch completes (22 R393). -/
structure TEnt where
  oid  : BitVec 24
  long : Bool
deriving DecidableEq, Repr

/-- A core. `power` is the held power class; `posted` the extents that posted PGFETCHes still await (10 R239);
`refusal` the barrier offset of a refused posted BARR and the mode it was posted in (12 R279, 02 R62); `busy` the
cycles before the next instruction may start (05 R113); `gated` whether the core is power-gated (09 R219); `saving`
whether the base has frozen it to save its context (01 R35). -/
structure Core where
  id      : Nat
  seq     : Seq
  csr     : Csr
  eng     : Engines
  l1      : List L1Word
  sb      : List SbEnt
  tcache  : List TEnt
  resvSeq : BitVec 16
  wait    : Wait
  busy    : Nat
  posted  : List (BitVec 24 × Nat)
  refusal : Option (Word × Bool)
  power   : Option (Fin 4)
  gated   : Bool
  throttled : Bool
  saving  : Bool
  lease   : Option Lease
deriving DecidableEq, Repr

/-! ## The base -/

/-- A live barrier or sync object (09 R222 to R226): reload counts, freshness, and the cores that wait. -/
structure LiveObj where
  pa      : Nat
  isBar   : Bool
  xin     : BitVec 32
  xout    : BitVec 32
  fresh   : Bool
  waiters : List Nat
deriving DecidableEq, Repr

/-- A reservation (09 R220), most recently used first in its list. -/
structure Resv where
  slice : Nat
  core  : Nat
  lease : BitVec 32
  pa    : Nat
  gtc   : Nat
  seq   : BitVec 16
deriving DecidableEq, Repr

/-- A holder's record in a directory entry: core and word span of its 128-byte block (09 R216). -/
structure Sharer where
  core  : Nat
  first : Nat
  last  : Nat
  dirty : Bool
deriving DecidableEq, Repr

/-- A directory entry (09 R216): up to four records, or the overflow form with the dies and the union of the spans. -/
structure DirEnt where
  block    : Nat
  holders  : List Sharer
  overflow : Option (BitVec 8 × Nat × Nat)
deriving DecidableEq, Repr

/-- A line in the base's cache or digest ways (09 R200, R208): the slice that holds it, granule, way, dirty, and the
partition that allocated it. -/
structure CLine where
  home  : Nat
  gran  : Nat
  way   : Fin 24
  dirty : Bool
  pid   : Fin 16
deriving DecidableEq, Repr

/-- A packet that waits at an output port (09 R211): its virtual channel, partition, flits, cycle of arrival, and the
input port it came through (0 local core, 1 local slice, 2 north, 3 east, 4 south, 5 west). -/
structure Packet where
  vc    : Fin 4
  pid   : Fin 16
  flits : Nat
  since : Nat
  inp   : Fin 6
deriving DecidableEq, Repr

/-- An output port of the base network (09 R212): `choice` is the packet that `wrr_choice` gives and the cycle since
which it does, `sending` the flits still to send of the packet that has started. -/
structure Port where
  id      : Nat
  waiting : List Packet
  cur     : Fin 16
  used    : Vector Nat 16
  wgt     : Vector Nat 16
  choice  : Option (Packet × Nat)
  sending : Nat
deriving DecidableEq, Repr

/-- The sequence of a failing vertical-bus transfer (08 R192): granule, first failing group of the sequence, what
comes next, since when, whether the channel has retrained, and whether it has been halved. `attempt` n below 3 is a
failed attempt n whose retry comes next; 3 is retraining, 4 halving, 5 the send after either. -/
structure VSeq where
  pa        : Nat
  group     : Fin 32
  attempt   : Nat
  since     : Nat
  retrained : Bool
  halved    : Bool
deriving DecidableEq, Repr

/-- A granule whose transfer queues on a channel behind a failing one (08 R192): its slice and way kind, its number,
the core and partition it is for, and whether the line becomes dirty. -/
structure VReq where
  home  : Nat
  kind  : Nat
  gran  : Nat
  core  : Nat
  pid   : Fin 16
  dirty : Bool
deriving DecidableEq, Repr

/-- A vertical-bus channel that has left its reset state (08 R192, R195): width, the sequence in progress, and the
transfers that queue behind it, first come first. -/
structure VChan where
  die   : Fin 8
  chan  : Fin 16
  width : Fin 4
  vseq  : Option VSeq
  queue : List VReq
deriving DecidableEq, Repr

/-- A DRAM word with bits in error (08 R191), as the world left it: 32-byte word address, failing bit, and whether two
bits fail. -/
structure EccErr where
  pa  : Nat
  bit : Nat
  two : Bool
deriving DecidableEq, Repr

/-- An accepted launch record that waits in a work queue (22 R397). -/
structure Queued where
  id   : BitVec 32
  pid  : Fin 16
  data : List Byte
  tag  : Bool
deriving DecidableEq, Repr

/-- A stage of a launch (22 R397): core set, code object, scratchpad image, iterations started. -/
structure StageRec where
  cores : BitVec 320
  code  : BitVec 24
  image : BitVec 24
  next  : Nat
deriving DecidableEq, Repr

/-- An entry of a completion record (22 R397). -/
structure CompEnt where
  idx   : Vector (BitVec 32) 4
  stage : Fin 8
  kind  : Fin 3
  lease : BitVec 32
  ctx   : Nat
deriving DecidableEq, Repr

/-- A live launch (01 R29 to R31, 22 R397): header, loop nest, stages, leases that wait to be reissued, and what the
completion record will report. -/
structure Launch where
  id       : BitVec 32
  pid      : Fin 16
  abort    : Bool
  seed     : Word
  capBits  : BitVec 128
  capTag   : Bool
  loops    : Vector Word 4
  total    : Nat
  stages   : List StageRec
  rerun    : List Lease
  live     : Nat
  retired  : Nat
  interrupts : Nat
  faulted  : Nat
  aborted  : Bool
  ents     : List CompEnt
  complOid : BitVec 24
  complOff : Nat
  area     : Nat
  pins     : List (BitVec 24)
deriving DecidableEq, Repr

/-- The queue between two adjacent stages of a launch (05 R143, R144): messages not yet taken, and the tags of all
messages put. -/
structure StageQ where
  launch : BitVec 32
  stage  : Nat
  msgs   : List Msg
  seen   : List (BitVec 32 × Nat)
deriving DecidableEq, Repr

/-- What a saved context keeps besides the bytes of its area (04 R108, R109, 06 R168; DESIGN CHOICE, log entry 11):
its lease and pins, the engine commands and writes in flight, an engine fault or a barrier refusal not yet taken, the
checkers' CSRs, the commands that the extent registers serve, and each ring's earliest issue cycle. -/
structure Ctx where
  pa      : Nat
  faulted : Bool
  scc     : Nat
  lease   : Lease
  pid     : Fin 16
  pins    : List TEnt
  jobs    : List Job
  pends   : List Pend
  transit : List Transit
  reports : List Report
  freeze  : Option Freeze
  efault  : Option EFault
  refusal : Option (Word × Bool)
  chkCfg  : Vector Word 4
  chkHit  : Vector Word 4
  extJob  : Vector Nat 20
  nextIss : Vector Nat 3
deriving DecidableEq, Repr

/-- A compute die on the base's side (22 R396, R399). -/
structure Die where
  fenced   : Bool
  resetting : Bool
  cap      : Nat
  costs    : Vector Nat 4
  waiting  : List (Nat × Fin 4)
deriving DecidableEq, Repr

/-- A command that waits before it responds (22 R395, R396): its source and tag, object or die, and deadline. -/
structure CmdWait where
  c        : CmdCtx
  oid      : Option (BitVec 24)
  die      : Fin 8
  deadline : Nat
deriving DecidableEq, Repr

/-- The replay capture (22 R403): mode 0 off, 1 stop when full, 2 wrap; buffer; next record; lease starts so far. -/
structure Capture where
  mode   : Fin 3
  pa     : Nat
  len    : Nat
  pos    : Nat
  starts : Nat
deriving DecidableEq, Repr

/-- A command record that has arrived and waits its turn (22 R390); the record itself stands here for the side-band
port, else in the ring or in the kernel command object. -/
structure CmdArr where
  src : Src
  pid : Fin 16
  w   : Vector Word 8
deriving DecidableEq, Repr

/-- A replay in progress (22 R404): the command that started it, the records that remain, as 64-byte lists, lease
starts so far, the timer values still to be returned, each with its lease and its order there, and the launches that it
has brought. -/
structure Replay where
  c       : CmdCtx
  pa      : Nat
  recs    : List (List Byte)
  starts  : Nat
  timers  : List (BitVec 32 × Nat × Word)
  brought : List (BitVec 32)
deriving DecidableEq, Repr

/-- The kernel code object and trap entry that firmware installed for a partition (04 R91, R92, 22 R401). -/
structure KCode where
  oid  : BitVec 24
  trap : Word
deriving DecidableEq, Repr

/-- The Lazan base and the host side. `cmdq` holds the commands of all sources in arrival order, `hostData` what the
last host request returned, `slpend` the accepted SLCFG writes that still drain (09 R203), `plvl` each bucket's level
with the GTC at which it stood, and `sideData` what the side-band port last sent; `wakes` holds the probes that wait for
the data array of a power-gated core to wake, each with its core, bytes and GTC (09 R219), and `fetched` the granules
with words in error that the controllers have read and logged, each with its home and the last GTC cycle whose accesses
that reading serves (08 R191); `image` is the firmware for the next module reset and `firmware` the one that runs (22
R389, R390, R400, R401). -/
structure Base where
  mem      : Mem
  tags     : List Nat
  objs     : List ObjEnt
  live     : List LiveObj
  releases : List (Nat × Nat)
  resv     : List Resv
  dir      : List DirEnt
  lines    : List CLine
  slcfg    : List (Nat × Word)
  slstat   : List (Nat × Word)
  slpend   : List (Nat × Word)
  pway     : List (Nat × Word)
  pbkt     : List (Nat × Word)
  plvl     : List (Nat × Nat × Nat)
  nwgt     : Vector Word 16
  ports    : List Port
  vbus     : List VChan
  ecc      : List EccErr
  queues   : Vector (List Queued) 16
  qcfg     : Vector (BitVec 16) 16
  launches : List Launch
  stageqs  : List StageQ
  ctxs     : List Ctx
  kcode    : Vector (Option KCode) 16
  hcqbase  : Word
  hcqtail  : BitVec 9
  hcqhead  : BitVec 9
  hpid     : Fin 16
  evtcount : Word
  temp     : BitVec 8
  hot      : Bool
  cmdWaits : List CmdWait
  kbell    : List (Fin 16)
  cmdq     : List CmdArr
  hostData : List Byte
  sideData : List Byte
  bias     : List Nat
  wakes    : List (Nat × Nat × Nat × Nat)
  fetched  : List (Nat × Nat × Nat)
  dies     : Vector Die 8
  capture  : Capture
  replay   : Option Replay
  image    : Option (List Byte)
  firmware : List Byte
  rail     : Bool
deriving DecidableEq, Repr

/-! ## The machine -/

/-- Who moves next inside a GTC cycle (DESIGN CHOICE, log entry 4): the base; the current core's engines, its timed
writes, its store buffer, its sequencer; then the next core; then the cycle itself. -/
inductive Phase where
  | base | eng | perf | drain | seq | turn | cycle
deriving DecidableEq, Repr

/-- Bytes of a command that come late: core, engine, ring entry, and the destination positions (DESIGN CHOICE, log
entry 8). -/
structure Hold where
  core  : Nat
  eng   : Eng
  entry : BitVec 16
  lo    : Nat
  hi    : Nat
deriving DecidableEq, Repr

/-- The machine. `core` is the core whose turn it is; `others` the other listed cores in turn order; a core that is
not listed is free and holds lease-start state. `inputs` and `holds` are the world's schedule (DESIGN CHOICE, log
entry 8). -/
structure State where
  core       : Core
  others     : List Core
  rot        : Nat
  phase      : Phase
  gtc        : Nat
  base       : Base
  inputs     : List (Nat × Instr)
  holds      : List Hold
  nextLid    : Nat
  nextLaunch : Nat
  nextCtx    : Nat
deriving DecidableEq, Repr

/-- How a step can stop with a fault: in no way. The spec gives every instruction an effect or an exception it takes;
an address outside the ranges of 09 R204 is answered too (log entries 35, 38). -/
inductive Fault where
deriving DecidableEq, Repr

/-- How a step can refuse. -/
inductive Refusal where
  /-- An instruction without a meaning in this model, by its mnemonic. Raised by the dispatch only. Safe. -/
  | notModelled (mnemonic : String)
deriving DecidableEq, Repr

/-- The outcome of one step. -/
abbrev Out := Host.Outcome State Fault Refusal

/-! ## The machine after reset -/

/-- A capability register of zero bits and tag 0 (04 R88). -/
def Cap.null : Cap := ⟨0, false, 0⟩

/-- A ring at lease start (01 R6, R7, R11, R32). -/
def Ring.start : Ring := ⟨false, 4, 0, 0, 0, 0, true, 0, none⟩

/-- An extent register that holds nothing (06 R157). -/
def ExtReg.none : ExtReg := ⟨0, 0, 0, 0, false, false⟩

/-- A tile at lease start (15 R315). -/
def Tile.start : Tile := ⟨Vector.replicate 8 none, [], 0, 15⟩

/-- The engine control registers at lease start. -/
def EffCsr.start : EffCsr := ⟨0, 0x010, 0, 0, Vector.replicate 4 0, Vector.replicate 4 0⟩

/-- RSTAT of a ring at lease start: IDLE and LGSZ 4 (05 R137). -/
def rstatStart : Word := 0x4400000000#64

/-- The engines at lease start (01 R32). -/
def Engines.start : Engines where
  rings   := Vector.replicate 3 Ring.start
  fq      := []
  slots   := Vector.replicate 16 ⟨0, 0⟩
  chans   := Vector.replicate 4 ⟨0, 0, false, 0⟩
  qs      := Vector.replicate 16 (Vector.replicate 8 0)
  ext     := Vector.replicate 20 ⟨ExtReg.none, ExtReg.none⟩
  extJob  := Vector.replicate 20 0
  chkCfg  := Vector.replicate 4 0
  chkHit  := Vector.replicate 4 0
  mxspill := 0
  vfcr    := 0
  vwst    := 0
  gctl    := Vector.replicate 4 0
  gbase   := Vector.replicate 4 0
  eff     := EffCsr.start
  masks   := Vector.replicate 8 0
  tiles   := Vector.replicate 16 Tile.start
  wtag    := Vector.replicate 128 none
  spad    := []
  acc     := []
  wpl     := []
  side    := []
  jobs    := []
  pends   := []
  transit := []
  reports := []
  nextJob := 0
  freeze  := none
  efault  := none
  lateUse := 0
  offMark := none
  chkNow  := Vector.replicate 4 false
  rstatL  := Vector.replicate 3 rstatStart
  slotL   := Vector.replicate 16 0

/-- The control and status registers at lease start (04 R92), before the launch's values go in. -/
def Csr.start : Csr where
  seg     := 0
  pclass  := 0
  epend   := false
  engt    := false
  pmode   := false
  mode    := false
  tvec    := 0
  epc     := 0
  cause   := 0
  badaddr := 0
  schmode := 0
  qk      := 0
  extdist := 0x010
  rngkey  := 0
  rngctr  := 0
  spflag  := 0
  spbad   := 0
  resf    := 0
  dstat   := 0
  scc     := 0
  pid     := 0

/-- A free core at lease-start state (DESIGN CHOICE, log entry 2). -/
def Core.free (id : Nat) : Core where
  id      := id
  seq     := ⟨Vector.replicate 64 0, Vector.replicate 16 Cap.null, 0⟩
  csr     := Csr.start
  eng     := Engines.start
  l1      := []
  sb      := []
  tcache  := []
  resvSeq := 0
  wait    := .none
  busy    := 0
  posted  := []
  refusal := none
  power   := none
  gated   := false
  throttled := false
  saving  := false
  lease   := none

/-- A compute die after module reset (22 R399). -/
def Die.start : Die := ⟨false, false, 300, #v[0, 3, 6, 9], []⟩

/-- The base after module reset, without the firmware's own objects (DESIGN CHOICE, log entry 9). -/
def Base.start : Base where
  mem      := []
  tags     := []
  objs     := []
  live     := []
  releases := []
  resv     := []
  dir      := []
  lines    := []
  slcfg    := []
  slstat   := []
  slpend   := []
  pway     := []
  pbkt     := []
  plvl     := []
  nwgt     := Vector.replicate 16 1
  ports    := []
  vbus     := []
  ecc      := []
  queues   := Vector.replicate 16 []
  qcfg     := Vector.replicate 16 1
  launches := []
  stageqs  := []
  ctxs     := []
  kcode    := Vector.replicate 16 none
  hcqbase  := 0
  hcqtail  := 0
  hcqhead  := 0
  hpid     := 0
  evtcount := 0
  temp     := 0
  hot      := false
  cmdWaits := []
  kbell    := []
  cmdq     := []
  hostData := []
  sideData := []
  bias     := []
  wakes    := []
  fetched  := []
  dies     := Vector.replicate 8 Die.start
  capture  := ⟨0, 0, 0, 0, 0⟩
  replay   := none
  image    := none
  firmware := []
  rail     := true

/-- The object ids of the firmware's own objects (DESIGN CHOICE, log entry 9): array log and vertical-bus log of each
die, the event log, the base configuration object, the kernel command object, and the capacity table of each
partition. -/
def oidArrayLog (d : Nat) : Nat := 0xFFFF00 + d
def oidVbusLog (d : Nat) : Nat := 0xFFFF08 + d
def oidEventLog : Nat := 0xFFFF10
def oidBaseConfig : Nat := 0xFFFF11
def oidKernelCmd : Nat := 0xFFFF12
def oidCapTable (p : Nat) : Nat := 0xFFFF20 + p

/-- The physical address of staging byte `o` of slice `g` (09 R204). -/
def stagePa (g o : Nat) : Nat := 0x80000000000000 + g * 2 ^ 25 + o

/-- Where firmware places its objects (DESIGN CHOICE, log entry 9): in way 15 of slice 0. -/
def fwPa (k : Nat) : Nat := stagePa 0 (0xF00000 + 0x1000 * k)

/-- A firmware object's entry (DESIGN CHOICE, log entry 9). -/
def fwObj (oid : Nat) (kernel basewr : Bool) (len pa npg : Nat) (role : Role) : ObjEnt :=
  ⟨BitVec.ofNat 24 oid, 1, kernel, false, false, 0, false, false, 1, 0, basewr, len, 0, 0, 0, 0, [⟨pa, true, npg⟩], role⟩

/-- The firmware's own objects after reset (08 R193, 22 R390, R398, 09 R201, 06 R166). -/
def fwObjs : List ObjEnt :=
  (List.range 8).map (fun d => fwObj (oidArrayLog d) false true 8192 (fwPa (2 * d)) 2 .plain) ++
  (List.range 8).map (fun d => fwObj (oidVbusLog d) false true 8192 (fwPa (16 + 2 * d)) 2 .plain) ++
  [fwObj oidEventLog false true 8192 (fwPa 32) 2 .plain,
   fwObj oidBaseConfig true false 0x100080 (fwPa 34) 0 .baseConfig,
   fwObj oidKernelCmd true false 4096 (fwPa 34) 1 .kernelCmd] ++
  (List.finRange 16).map (fun p => fwObj (oidCapTable p.val) false false 36864 (fwPa (35 + 9 * p.val)) 9 (.capTable p))

/-- The machine right after module reset: no lease, no launch, memory with nothing listed (22 R391, R392, R398). -/
def State.reset : State where
  core       := Core.free 0
  others     := []
  rot        := 0
  phase      := .base
  gtc        := 0
  base       := { Base.start with objs := fwObjs }
  inputs     := []
  holds      := []
  nextLid    := 0
  nextLaunch := 0
  nextCtx    := 0

end Sys2Proof.Machine
end

