-- ==== Sys2Proof/Machine/Memory.lean ====
section
/-! DEFINITION. Machine/Memory.lean: reading and writing memories, registers and sparse register tables; physical
addresses, homes, and the object table's translation (spec 00 R2, 02 R41, 04 R88, R103, 09 R204, R205). -/

namespace Sys2Proof.Machine

/-! ## Bytes -/

/-- Bits `hi` to `lo` of `n`. -/
def bitsOf (n hi lo : Nat) : Nat := n / 2 ^ lo % 2 ^ (hi + 1 - lo)

/-- A bit as a number. -/
def b2n (b : Bool) (i : Nat) : Nat := if b then 2 ^ i else 0

/-- The byte at `a`; an unlisted address reads 0 (DESIGN CHOICE, log entry 1). -/
def memRead : Mem → Nat → Byte
  | [], _ => 0
  | (k, v) :: t, a => if k = a then v else if a < k then 0 else memRead t a

/-- Writing one byte keeps the list canonical: a 0 is not listed. -/
def memWrite : Mem → Nat → Byte → Mem
  | [], a, v => if v = 0 then [] else [(a, v)]
  | (k, w) :: t, a, v =>
    if a < k then (if v = 0 then (k, w) :: t else (a, v) :: (k, w) :: t)
    else if a = k then (if v = 0 then t else (k, v) :: t)
    else (k, w) :: memWrite t a v

/-- `n` bytes from `a`, lowest address first. -/
def memReadN (m : Mem) (a n : Nat) : List Byte := (List.range n).map (fun i => memRead m (a + i))

/-- Writing a list of bytes from `a` upward. -/
def memWriteL (m : Mem) (a : Nat) : List Byte → Mem
  | [] => m
  | b :: bs => memWriteL (memWrite m a b) (a + 1) bs

/-- Writing bytes at listed addresses, in order. -/
def memWrites (m : Mem) : List (Nat × Byte) → Mem
  | [] => m
  | p :: ps => memWrites (memWrite m p.1 p.2) ps

/-- Every byte from `a` to `a + n - 1` becomes 0. -/
def memClear (m : Mem) (a n : Nat) : Mem := m.filter (fun c => c.1 < a || a + n ≤ c.1)

/-- The `n`-byte little-endian number at `a` (00 R2). -/
def memNat (m : Mem) (a n : Nat) : Nat := bytesNat (memReadN m a n)

/-- The 8-byte word at `a`. -/
def memWord (m : Mem) (a : Nat) : Word := word (memNat m a 8)

/-- Writing the `n`-byte little-endian number `v` at `a` (00 R2). -/
def memPut (m : Mem) (a n v : Nat) : Mem := memWriteL m a (natBytes n v)

/-- The listed part of a memory from `a`, `n` bytes, moved to address `b`. -/
def memMove (m : Mem) (a n b : Nat) : Mem :=
  (m.filter (fun c => a ≤ c.1 && c.1 < a + n)).map (fun c => (c.1 - a + b, c.2))

/-- The canonical form: addresses rise and no listed byte is 0. -/
def Memory.wf : Mem → Bool
  | [] => true
  | [(_, v)] => v != 0
  | (a, v) :: (b, w) :: t => v != 0 && a < b && Memory.wf ((b, w) :: t)

/-! ## Sequencer registers -/

/-- Register x0 reads 0 (02 R41). -/
def getX (c : Core) (r : XReg) : Word := if r = 0 then 0 else c.seq.x[r]

/-- A write of x0 is discarded (02 R41). -/
def setX (c : Core) (r : XReg) (v : Word) : Core :=
  if r = 0 then c else { c with seq := { c.seq with x := c.seq.x.set r v } }

/-- The capability register `r`. -/
def getC (c : Core) (r : CReg) : Cap := c.seq.c[r]

/-- Writing the capability register `r`. -/
def setC (c : Core) (r : CReg) (v : Cap) : Core := { c with seq := { c.seq with c := c.seq.c.set r v } }

/-- The register `r` of the current core. -/
def rdX (s : State) (r : XReg) : Word := getX s.core r

/-- Writing register `r` of the current core. -/
def wrX (s : State) (r : XReg) (v : Word) : State := { s with core := setX s.core r v }

/-- The capability register `r` of the current core. -/
def rdC (s : State) (r : CReg) : Cap := getC s.core r

/-- Writing capability register `r` of the current core. -/
def wrC (s : State) (r : CReg) (v : Cap) : State := { s with core := setC s.core r v }

/-- The current core's pc becomes `v`. -/
def setPc (s : State) (v : Word) : State := { s with core := { s.core with seq := { s.core.seq with pc := v } } }

/-- An instruction of `n` GTC cycles completes: the pc advances by 8, and the next instruction starts no earlier than
`n` cycles after this one (05 R113, DEDUCED, log entry 33); the end of this cycle counts one of them. -/
def retire (n : Nat) (s : State) : State :=
  { s with core := { s.core with seq := { s.core.seq with pc := s.core.seq.pc + 8 }, busy := n } }

/-- The same for an instruction that sets the pc itself. -/
def jumpTo (n : Nat) (t : Word) (s : State) : State :=
  { s with core := { s.core with seq := { s.core.seq with pc := t }, busy := n } }

/-- Changing the current core's engines. -/
def onEng (s : State) (f : Engines → Engines) : State := { s with core := { s.core with eng := f s.core.eng } }

/-- Changing the current core's control registers. -/
def onCsr (s : State) (f : Csr → Csr) : State := { s with core := { s.core with csr := f s.core.csr } }

/-- Changing the base. -/
def onBase (s : State) (f : Base → Base) : State := { s with base := f s.base }

/-! ## Capabilities (04 R89) -/

/-- The object id of a capability. -/
def capOid (c : Cap) : BitVec 24 := c.bits.extractLsb' 104 24
/-- The permission byte: bit 0 R, 1 W, 2 A, 3 Q, 4 S, 5 X, 6 G, 7 P. -/
def capPerm (c : Cap) : BitVec 8 := c.bits.extractLsb' 96 8
/-- The start offset of a capability. -/
def capLo (c : Cap) : Nat := (c.bits.extractLsb' 48 48).toNat
/-- The length of a capability. -/
def capLen (c : Cap) : Nat := (c.bits.extractLsb' 0 48).toNat

/-- The 128 bits of a capability with these fields. -/
def capBits (oid : BitVec 24) (perm : BitVec 8) (lo len : Nat) : BitVec 128 :=
  oid ++ perm ++ BitVec.ofNat 48 lo ++ BitVec.ofNat 48 len

/-- The permissions as need masks. -/
def permR : BitVec 8 := 1
def permW : BitVec 8 := 2
def permA : BitVec 8 := 4
def permQ : BitVec 8 := 8
def permS : BitVec 8 := 16
def permG : BitVec 8 := 64

/-- The capability of the core's own scratchpad (04 R407). -/
def spadCap : Cap := ⟨capBits (BitVec.ofNat 24 Config.spadOid) 3 0 Config.spadSize, true, 0⟩

/-! ## Cores -/

/-- Core `id`, if it is listed. -/
def findCore (s : State) (id : Nat) : Option Core :=
  if s.core.id = id then some s.core else s.others.find? (fun c => c.id == id)

/-- Changing core `id`, if it is listed. -/
def onCore (s : State) (id : Nat) (f : Core → Core) : State :=
  if s.core.id = id then { s with core := f s.core }
  else { s with others := s.others.map (fun c => if c.id = id then f c else c) }

/-- Changing every listed core. -/
def onCores (s : State) (f : Core → Core) : State := { s with core := f s.core, others := s.others.map f }

/-- Insertion into a list that `key` orders, after equal keys. -/
def insertBy {α : Type} (key : α → Nat) (a : α) : List α → List α
  | [] => [a]
  | b :: bs => if key a < key b then a :: b :: bs else b :: insertBy key a bs

/-- A list in rising order of `key`, equal keys in their old order. -/
def sortBy {α : Type} (key : α → Nat) (l : List α) : List α := l.foldl (fun acc a => insertBy key a acc) []

/-- All listed cores in ascending id. -/
def allCores (s : State) : List Core := sortBy (fun c => c.id) (s.core :: s.others)

/-- The die of a core (00 R1). -/
def dieOf (id : Nat) : Fin 8 := Fin.ofNat 8 (id / Config.coresPerDie)

/-! ## Sparse register tables -/

/-- The register `k`; an unlisted one holds `d`. -/
def regGet {α : Type} (l : List (Nat × α)) (k : Nat) (d : α) : α :=
  match l with
  | [] => d
  | (j, v) :: t => if j = k then v else regGet t k d

/-- Writing register `k`, in rising order of keys. -/
def regSet {α : Type} (l : List (Nat × α)) (k : Nat) (v : α) : List (Nat × α) :=
  match l with
  | [] => [(k, v)]
  | (j, w) :: t => if j = k then (k, v) :: t else if k < j then (k, v) :: (j, w) :: t else (j, w) :: regSet t k v

/-! ## Physical addresses and homes (09 R204, R205) -/

/-- First staging address. -/
def stageBase : Nat := 0x80000000000000

/-- The parts of a range of bytes inside one 256-byte granule: address, index, length. -/
def granules (a n : Nat) : List (Nat × Nat × Nat) :=
  (List.range ((a % 256 + n + 255) / 256)).map (fun i =>
    let lo := max a ((a / 256 + i) * 256)
    let hi := min (a + n) ((a / 256 + i + 1) * 256)
    (lo, lo - a, hi - lo))

/-- The kinds of memory a physical address names. -/
inductive PaKind where
  | window | dieWindow (d : Nat) | lpddr | host | stage (g o : Nat) | none
deriving DecidableEq, Repr

/-- The range that holds `pa` (09 R204). -/
def paKind (pa : Nat) : PaKind :=
  if pa < 0x4000000000 then .window
  else if pa < 0x8000000000 then .dieWindow ((pa - 0x4000000000) / 0x800000000)
  else if 0x10000000000 ≤ pa ∧ pa < 0x20000000000 then .lpddr
  else if 0x1000000000000 ≤ pa ∧ pa < 0x2000000000000 then .host
  else if stageBase ≤ pa ∧ pa < stageBase + 256 * 2 ^ 25 ∧ (pa - stageBase) % 2 ^ 25 < 0x1800000 then
    .stage ((pa - stageBase) / 2 ^ 25) ((pa - stageBase) % 2 ^ 25)
  else .none

/-- Every byte of the range lies in one memory of 09 R204. -/
def paRangeOk (pa n : Nat) : Bool :=
  n == 0 || (paKind pa != .none && match paKind pa, paKind (pa + n - 1) with
    | .stage g _, .stage g' _ => g == g'
    | a, b => a == b)

/-- The die and slice hash of a granule (09 R205). -/
def hashDie (pa : Nat) : Nat := bitsOf pa 15 13 ^^^ bitsOf pa 24 22 ^^^ bitsOf pa 33 31 ^^^ bitsOf pa 42 40
def hashSlice (pa : Nat) : Nat :=
  bitsOf pa 12 8 ^^^ bitsOf pa 21 17 ^^^ bitsOf pa 30 26 ^^^ bitsOf pa 39 35 ^^^ bitsOf pa 48 44

/-- Whether a region has digests, and log2 of its block size (11 R254). -/
def dcfgEn (w : Word) : Bool := w.getLsbD 0
def dcfgLgB (w : Word) : Nat := bitsOf w.toNat 11 8 + 3

/-- The home slice of the byte at `pa` of object `o` (09 R205). -/
def homeOf (o : ObjEnt) (pa : Nat) : Nat :=
  match paKind pa with
  | .stage g _ => g
  | _ =>
    let lg := if dcfgEn o.dcfg then dcfgLgB o.dcfg else 8
    let pa := if lg > 8 then pa / 2 ^ lg * 2 ^ lg else pa
    (if o.dielocal then o.die.val else hashDie pa) * 32 + hashSlice pa

/-- The home slice of a physical address that no object names. -/
def homeOfPa (pa : Nat) : Nat :=
  match paKind pa with
  | .stage g _ => g
  | .dieWindow d => d * 32 + hashSlice pa
  | _ => hashDie pa * 32 + hashSlice pa

/-! ## The object table (04 R103, R407, 22 R392) -/

/-- The built-in entry of the core's scratchpad (04 R407). -/
def spadObj : ObjEnt :=
  ⟨BitVec.ofNat 24 Config.spadOid, 0, false, false, false, 0, false, false, 1, 0, false, Config.spadSize, 0, 0, 0, 0, [],
    .plain⟩

/-- The entry of `oid`, if the table holds one. -/
def findObj (s : State) (oid : BitVec 24) : Option ObjEnt :=
  if oid = BitVec.ofNat 24 Config.spadOid then some spadObj else s.base.objs.find? (fun o => o.oid == oid)

/-- Changing the entry of `oid`. -/
def onObj (s : State) (oid : BitVec 24) (f : ObjEnt → ObjEnt) : State :=
  { s with base := { s.base with objs := s.base.objs.map (fun o => if o.oid = oid then f o else o) } }

/-- The extent that holds offset `off`, counting from extent `i` at offset `start`: index, extent and its start. -/
def extFind : List Extent → Nat → Nat → Nat → Option (Nat × Extent × Nat)
  | [], _, _, _ => none
  | e :: es, off, i, start =>
    if off < start + e.npg * 4096 then some (i, e, start) else extFind es off (i + 1) (start + e.npg * 4096)

/-- The extent of object `o` that holds `off`. -/
def extOf (o : ObjEnt) (off : Nat) : Option (Nat × Extent × Nat) := extFind o.exts off 0 0

/-- The physical address of offset `off`, when an extent covers it. -/
def paOf (o : ObjEnt) (off : Nat) : Option Nat := (extOf o off).map (fun p => p.2.1.pa + (off - p.2.2))

/-- Whether offset `off` lies in a resident extent. -/
def residentAt (o : ObjEnt) (off : Nat) : Bool :=
  match extOf o off with
  | some (_, e, _) => e.res
  | none => false

/-- The entry that the core's full translation cache gives up: which one is not said (DESIGN CHOICE, log entry 69: the
oldest); one whose object is REVOKING is not replaced while the lease runs (04 R103). -/
def tcacheVictim (s : State) : Option TEnt :=
  let revoking := fun (t : TEnt) => s.base.objs.any (fun o => o.oid == t.oid && o.state == 2)
  s.core.tcache.find? (fun t => !revoking t)

/-- An entry leaves the core's translation cache: its pin ends, or stays with the launch when a capability with P
looked it up (22 R393). -/
def tcacheDrop (s : State) (t : TEnt) : State :=
  let s := { s with core := { s.core with tcache := s.core.tcache.filter (fun u => u.oid != t.oid) } }
  match t.long, s.core.lease with
  | true, some l =>
    let ls := s.base.launches.map (fun e => if e.id = l.launch then { e with pins := e.pins ++ [t.oid] } else e)
    { s with base := { s.base with launches := ls } }
  | _, _ => onObj s t.oid (fun o => { o with pins := o.pins - 1 })

/-- A look-up of object `oid` leaves it in the core's translation cache of 64 entries, pinned; `long` when the
capability has P (04 R103, 22 R393). Where no entry can be replaced it is not cached (DESIGN CHOICE, log entry 69). -/
def touchObj (s : State) (oid : BitVec 24) (long : Bool) : State :=
  if oid = BitVec.ofNat 24 Config.spadOid then s
  else if s.core.tcache.any (fun t => t.oid == oid) then
    let mark := fun (t : TEnt) => if t.oid = oid then ⟨oid, t.long || long⟩ else t
    { s with core := { s.core with tcache := s.core.tcache.map mark } }
  else
    let add := fun (s : State) =>
      onObj { s with core := { s.core with tcache := s.core.tcache ++ [⟨oid, long⟩] } } oid (fun o => { o with pins := o.pins + 1 })
    if s.core.tcache.length < 64 then add s
    else match tcacheVictim s with
      | some v => add (tcacheDrop s v)
      | none => s

end Sys2Proof.Machine
end

