-- ==== Sys2Proof/Machine/Float.lean ====
section
/-! DEFINITION. Machine/Float.lean: the element types, exact arithmetic, rounding, conversions and the glq4 codebook
(spec 03 R54, R63 to R87). A value is formed exactly and rounded once. -/

namespace Sys2Proof.Machine

/-! ## Types (02 R54) -/

/-- Bytes of an element of type code `t`; glq4 and the reserved code have none. -/
def tySize (t : Nat) : Nat := ([8, 4, 2, 2, 1, 1, 0, 1, 2, 4, 8, 1, 2, 4, 8] : List Nat).getD t 0

/-- Bits of an element. -/
def tyBits (t : Nat) : Nat := 8 * tySize t

/-- f64, f32, bf16, f16, e4m3, e5m2. -/
def tyFloat (t : Nat) : Bool := t < 6
/-- s8, s16, s32, s64. -/
def tySigned (t : Nat) : Bool := 7 ≤ t && t ≤ 10
/-- n8, n16, n32, n64. -/
def tyUnsigned (t : Nat) : Bool := 11 ≤ t && t ≤ 14
/-- An integer type. -/
def tyInt (t : Nat) : Bool := 7 ≤ t && t ≤ 14
/-- The fraction width of a floating type (03 R65). -/
def tyFrac (t : Nat) : Nat := ([52, 23, 7, 10, 3, 2] : List Nat).getD t 0
/-- The exponent width of a floating type (03 R65). -/
def tyExp (t : Nat) : Nat := ([11, 8, 8, 5, 4, 5] : List Nat).getD t 0
/-- The exponent bias of a floating type (03 R65). -/
def tyBias (t : Nat) : Nat := 2 ^ (tyExp t - 1) - 1
/-- The infinity's bits without sign; e4m3 has none, and there this is its NaN (03 R67). -/
def infBits (t : Nat) : Nat := if t = 4 then 0x7F else (2 ^ tyExp t - 1) * 2 ^ tyFrac t
/-- The largest finite value's bits without sign (03 R65). -/
def maxBits (t : Nat) : Nat := infBits t - 1
/-- The canonical quiet NaN (03 R67). -/
def nanBits (t : Nat) : Nat := ([0x7FF8000000000000, 0x7FC00000, 0x7FC0, 0x7E00, 0x7F, 0x7F] : List Nat).getD t 0
/-- The sign bit's weight. -/
def signBit (t : Nat) : Nat := 2 ^ (tyBits t - 1)

/-- The integer that `n` bits of `v` hold in two's complement. -/
def sextN (n v : Nat) : Int := if v % 2 ^ n < 2 ^ (n - 1) then (v % 2 ^ n : Nat) else (v % 2 ^ n : Nat) - (2 ^ n : Nat)

/-- An integer in `n` bits, modulo 2^n. -/
def wrapN (n : Nat) (i : Int) : Nat := (i % (2 ^ n : Nat)).toNat

/-- The integer value of an element of an integer type (03 R63). -/
def intVal (t v : Nat) : Int := if tySigned t then sextN (tyBits t) v else (v % 2 ^ tyBits t : Nat)

/-- Least and greatest value of an integer type (03 R63). -/
def intMin (t : Nat) : Int := if tySigned t then -(2 ^ (tyBits t - 1) : Nat) else 0
def intMax (t : Nat) : Int := if tySigned t then (2 ^ (tyBits t - 1) : Nat) - 1 else (2 ^ tyBits t : Nat) - 1

/-- Clamping to the range of an integer type, as bits. -/
def clampBits (t : Nat) (i : Int) : Nat := wrapN (tyBits t) (max (intMin t) (min (intMax t) i))

/-! ## Exact values -/

/-- A zero with the sign `neg`. -/
def xzero (neg : Bool) : XVal := .zero (if neg then .neg else .pos)

/-- The exact value of an integer; 0 counts as +0 (03 R77). -/
def xint (i : Int) : XVal := if i = 0 then .zero .pos else .fin i 0

/-- The exact value of the bits `v` of floating type `t` (03 R66, R67). -/
def fdec (t v : Nat) : XVal :=
  let fw := tyFrac t
  let neg := v / signBit t % 2 = 1
  let mag := v % signBit t
  let e := mag / 2 ^ fw
  let f := mag % 2 ^ fw
  if mag > infBits t ∨ (t = 4 ∧ mag = 0x7F) then .nan
  else if mag = infBits t then .inf neg
  else if mag = 0 then xzero neg
  else
    let sig := if e = 0 then f else 2 ^ fw + f
    .fin (if neg then -(sig : Int) else sig) ((max e 1 : Nat) - (tyBias t : Int) - fw)

/-- The exact value of an element of any type but glq4. -/
def xval (t v : Nat) : XVal := if tyFloat t then fdec t v else xint (intVal t v)

/-- Whether a value is negative, zeros by their sign. -/
def xneg? : XVal → Bool
  | .nan => false
  | .inf n => n
  | .zero z => z == .neg
  | .fin m _ => m < 0

/-- Whether a value is a NaN. -/
def xnan? : XVal → Bool
  | .nan => true
  | _ => false

/-- Whether a value is a NaN or an infinity: a special of 03 R82. -/
def xspecial? : XVal → Bool
  | .nan => true
  | .inf _ => true
  | _ => false

/-- The negated value. -/
def xnegate : XVal → XVal
  | .nan => .nan
  | .inf n => .inf !n
  | .zero .pos => .zero .neg
  | .zero .neg => .zero .pos
  | .zero .mix => .zero .mix
  | .fin m e => .fin (-m) e

/-- The exact sum; a zero keeps which zeros made it (03 R72, R82). -/
def xadd : XVal → XVal → XVal
  | .nan, _ => .nan
  | _, .nan => .nan
  | .inf a, .inf b => if a = b then .inf a else .nan
  | .inf a, _ => .inf a
  | _, .inf b => .inf b
  | .zero a, .zero b => if a = b then .zero a else .zero .mix
  | .zero _, .fin m e => .fin m e
  | .fin m e, .zero _ => .fin m e
  | .fin m e, .fin n f =>
    let g := min e f
    let s := m * 2 ^ (e - g).toNat + n * 2 ^ (f - g).toNat
    if s = 0 then .zero .mix else .fin s g

/-- The exact sum of an element and what is added to it: an infinite element is a term, and decides over an infinity
that finite terms overflowed to (03 R82). -/
def addTo (x : XVal) (h : Addend) : XVal :=
  match x with
  | .inf n => if h.ovfl then .inf n else xadd x h.val
  | x => xadd x h.val

/-- The exact product (03 R72, R82). -/
def xmul : XVal → XVal → XVal
  | .nan, _ => .nan
  | _, .nan => .nan
  | .inf _, .zero _ => .nan
  | .zero _, .inf _ => .nan
  | .inf a, y => .inf (a != xneg? y)
  | x, .inf b => .inf (xneg? x != b)
  | .zero a, y => xzero ((a == .neg) != xneg? y)
  | x, .zero b => xzero (xneg? x != (b == .neg))
  | .fin m e, .fin n f => .fin (m * n) (e + f)

/-- The order of two values that are not NaN: −0 and +0 are equal (03 R71). -/
def xlt : XVal → XVal → Bool
  | .nan, _ => false
  | _, .nan => false
  | .inf a, .inf b => a && !b
  | .inf a, _ => a
  | _, .inf b => !b
  | .zero _, .zero _ => false
  | .zero _, .fin n _ => 0 < n
  | .fin m _, .zero _ => m < 0
  | .fin m e, .fin n f =>
    let g := min e f
    m * 2 ^ (e - g).toNat < n * 2 ^ (f - g).toNat

/-- Equality of values under 03 R71. -/
def xeq (a b : XVal) : Bool := !xnan? a && !xnan? b && !xlt a b && !xlt b a

/-! ## Rounding (03 R72, R76) -/

/-- Whether a magnitude `sig + rem / 2^sh` rounds up in mode `rm` (0 RNE, 1 RTZ, 2 RUP, 3 RDN). -/
def roundUp (rm : Nat) (neg : Bool) (sig rem sh : Nat) : Bool :=
  match rm with
  | 0 => 2 ^ sh < 2 * rem || (2 * rem == 2 ^ sh && sig % 2 == 1)
  | 1 => false
  | 2 => rem != 0 && !neg
  | _ => rem != 0 && neg

/-- What a finite result beyond the largest finite value becomes, without its sign (03 R76). -/
def overflowBits (rm t : Nat) (neg : Bool) : Nat :=
  if t = 4 then 0x7E
  else match rm with
    | 0 => infBits t
    | 1 => maxBits t
    | 2 => if neg then maxBits t else infBits t
    | _ => if neg then infBits t else maxBits t

/-- The bits of floating type `t` for an exact value, rounded once in mode `rm` (03 R68, R72, R76). -/
def roundTo (rm t : Nat) (x : XVal) : Nat :=
  match x with
  | .nan => nanBits t
  | .inf n => (if t = 4 then 0x7E else infBits t) + (if n then signBit t else 0)
  | .zero z => if z = .neg ∨ (z = .mix ∧ rm = 3) then signBit t else 0
  | .fin m e =>
    let mag := m.natAbs
    let neg := decide (m < 0)
    let fw := tyFrac t
    let qmin : Int := 1 - (tyBias t : Int) - fw
    let q : Int := max ((Nat.log2 mag : Int) + e - fw) qmin
    let sh := q - e
    let sig := if sh ≤ 0 then mag * 2 ^ (-sh).toNat else mag / 2 ^ sh.toNat
    let rem := if sh ≤ 0 then 0 else mag % 2 ^ sh.toNat
    let sig := if roundUp rm neg sig rem sh.toNat then sig + 1 else sig
    let b := (q - qmin).toNat * 2 ^ fw + sig
    let b := if b > maxBits t then overflowBits rm t neg else b
    b + (if neg then signBit t else 0)

/-- The integer nearest an exact finite value in mode `rm` (03 R77). -/
def roundInt (rm : Nat) (m e : Int) : Int :=
  if 0 ≤ e then m * 2 ^ e.toNat
  else
    let sh := (-e).toNat
    let sig := m.natAbs / 2 ^ sh
    let sig := if roundUp rm (m < 0) sig (m.natAbs % 2 ^ sh) sh then sig + 1 else sig
    if m < 0 then -(sig : Int) else sig

/-- Converting an exact value to type `t` (03 R75 to R77). -/
def convTo (rm t : Nat) (x : XVal) : Nat :=
  if tyFloat t then roundTo rm t x
  else match x with
    | .nan => 0
    | .inf n => clampBits t (if n then intMin t else intMax t)
    | .zero _ => 0
    | .fin m e => clampBits t (roundInt rm m e)

/-- Converting bits of type `st` to type `t` (03 R75 to R77). An integer source keeps its exact value. -/
def convert (rm st t v : Nat) : Nat := convTo rm t (xval st v)

/-! ## Flush to zero (03 R73, R74) -/

/-- Whether the bits are a subnormal of type `t`. -/
def subnormal? (t v : Nat) : Bool := tyFloat t && v % signBit t != 0 && v % signBit t < 2 ^ tyFrac t

/-- An operand of floating type `t` under FZI of the VFCR value. -/
def flushIn (vfcr t v : Nat) : Nat := if vfcr.testBit t && subnormal? t v then v / signBit t * signBit t else v

/-- A result of floating type `t` under FZO of the VFCR value. -/
def flushOut (vfcr t v : Nat) : Nat := if vfcr.testBit (8 + t) && subnormal? t v then v / signBit t * signBit t else v

/-! ## Minimum, maximum, sums -/

/-- IEEE minimumNumber on exact values: −0 is less than +0, a NaN gives way (03 R71). -/
def xminNum (a b : XVal) : XVal :=
  if xnan? a then b else if xnan? b then a
  else if xlt a b then a else if xlt b a then b else if xneg? a then a else b

/-- IEEE maximumNumber on exact values (03 R71). -/
def xmaxNum (a b : XVal) : XVal :=
  if xnan? a then b else if xnan? b then a
  else if xlt a b then b else if xlt b a then a else if xneg? a then b else a

/-- The exact sum of a list of values; the empty sum is +0. -/
def xsum : List XVal → XVal
  | [] => .zero .pos
  | x :: xs => xs.foldl xadd x

/-- Addition of two elements of type `t`: one rounding, or wrapping for integers (03 R64, R72). -/
def addTy (rm t a b : Nat) : Nat :=
  if tyFloat t then roundTo rm t (xadd (fdec t a) (fdec t b)) else (a + b) % 2 ^ tyBits t

/-! ## Quotients and roots (20 R372) -/

/-- An exact magnitude `q × 2^e` whose lost part, if any, is marked by one more low bit. -/
def xsticky (neg : Bool) (q : Nat) (lost : Bool) (e : Int) : XVal :=
  let m : Nat := 2 * q + (if lost then 1 else 0)
  if m = 0 then xzero neg else .fin (if neg then -(m : Int) else m) (e - 1)

/-- The quotient of two values, exact up to a sticky bit far below every type's precision. -/
def xdiv : XVal → XVal → XVal
  | .nan, _ => .nan
  | _, .nan => .nan
  | .inf _, .inf _ => .nan
  | .zero _, .zero _ => .nan
  | .inf a, y => .inf (a != xneg? y)
  | x, .inf b => xzero (xneg? x != b)
  | x, .zero z => .inf (xneg? x != (z == .neg))
  | .zero z, y => xzero ((z == .neg) != xneg? y)
  | .fin m e, .fin n f =>
    let k := 130 + Nat.log2 n.natAbs
    let a := m.natAbs * 2 ^ k
    xsticky ((m < 0) != (n < 0)) (a / n.natAbs) (a % n.natAbs != 0) (e - f - k)

/-- The integer square root, bit by bit from bit `k`. -/
def isqrtGo (n : Nat) : Nat → Nat → Nat
  | 0, r => if (r + 1) * (r + 1) ≤ n then r + 1 else r
  | k + 1, r => isqrtGo n k (if (r + 2 ^ (k + 1)) * (r + 2 ^ (k + 1)) ≤ n then r + 2 ^ (k + 1) else r)

/-- The integer square root. -/
def isqrt (n : Nat) : Nat := isqrtGo n (Nat.log2 n / 2 + 1) 0

/-- The square root, exact up to a sticky bit. -/
def xsqrt : XVal → XVal
  | .nan => .nan
  | .inf n => if n then .nan else .inf false
  | .zero z => .zero z
  | .fin m e =>
    if m < 0 then .nan
    else
      let (a, f) := if e % 2 = 0 then (m.natAbs, e) else (2 * m.natAbs, e - 1)
      let a := a * 2 ^ 260
      let r := isqrt a
      xsticky false r (r * r != a) (f / 2 - 130)

/-- One over the square root, exact up to a sticky bit. -/
def xrsq : XVal → XVal
  | .nan => .nan
  | .inf n => if n then .nan else .zero .pos
  | .zero z => .inf (z == .neg)
  | .fin m e =>
    if m < 0 then .nan
    else
      let (a, f) := if e % 2 = 0 then (m.natAbs, e) else (2 * m.natAbs, e - 1)
      let k := 130 + Nat.log2 a
      let r := isqrt (2 ^ (2 * k) / a)
      xsticky false r (r * r * a != 2 ^ (2 * k)) (-(f / 2) - k)

/-! ## 2^a and log2 a, truncated (20 R372; DEDUCED, log entry 20)

Fixed point with `p` fraction bits; a result is used when its error bound cannot change the truncated value. -/

/-- 2 × Σ z^(2i+1) / (2i+1), the logarithm of (1+z)/(1−z), with `p` fraction bits and `n` terms. -/
def lnSeries (p z2 : Nat) : Nat → Nat → Nat → Nat → Nat
  | 0, _, _, acc => 2 * acc
  | n + 1, i, pw, acc => lnSeries p z2 n (i + 1) (pw * z2 / 2 ^ p) (acc + pw / (2 * i + 1))

/-- The natural logarithm of 2 with `p` fraction bits. -/
def ln2Fix (p : Nat) : Nat := lnSeries p (2 ^ p / 9) (p / 3 + 4) 0 (2 ^ p / 3) 0

/-- e^y for 0 ≤ y < 1 with `p` fraction bits, by the power series. -/
def expSeries (p y : Nat) : Nat → Nat → Nat → Nat → Nat
  | 0, _, _, acc => acc
  | n + 1, i, term, acc => expSeries p y n (i + 1) (term * y / 2 ^ p / (i + 1)) (acc + term)

/-- Truncation to type `t` of a positive fixed-point value known within `err` units; a longer computation is tried while
the two bounds truncate differently. -/
def truncTry (t : Nat) (neg : Bool) (f : Nat → Nat) (e : Int) : Nat → Nat → Nat
  | 0, p => roundTo 1 t (xsticky neg (f p) true (e - p))
  | fuel + 1, p =>
    let v := f p
    let lo := roundTo 1 t (xsticky neg (v - 4096) true (e - p))
    let hi := roundTo 1 t (xsticky neg (v + 4096) true (e - p))
    if lo = hi then lo else truncTry t neg f e fuel (2 * p)

/-- 2^a truncated toward zero to type `t`. -/
def exp2Bits (t : Nat) (x : XVal) : Nat :=
  match x with
  | .nan => nanBits t
  | .inf n => if n then 0 else roundTo 1 t (.inf false)
  | .zero _ => roundTo 1 t (.fin 1 0)
  | .fin m e =>
    if 0 ≤ e ∨ m % 2 ^ (-e).toNat = 0 then
      let a := if 0 ≤ e then m * 2 ^ e.toNat else m / 2 ^ (-e).toNat
      roundTo 1 t (.fin 1 (max (-4000) (min 4000 a)))
    else
      let sh := (-e).toNat
      let n : Int := max (-4000) (min 4000 (m / 2 ^ sh))
      let f := (m % 2 ^ sh).toNat
      -- within 2^-70 of the next power of two the truncated value is the one just below it
      if 2 ^ sh < f + 2 ^ (sh - 70) ∧ 70 < sh then roundTo 1 t (.fin (2 ^ 70 - 1) (n + 1 - 70))
      else truncTry t false (fun p => expSeries p (f * ln2Fix p / 2 ^ sh) (p / 2 + 20) 0 (2 ^ p) 0) n 4 192

/-- log2 a truncated toward zero to type `t`. -/
def log2Bits (t : Nat) (x : XVal) : Nat :=
  match x with
  | .nan => nanBits t
  | .inf n => if n then nanBits t else roundTo 1 t (.inf false)
  | .zero _ => roundTo 1 t (.inf true)
  | .fin m e =>
    if m < 0 then nanBits t
    else
      let a := m.natAbs
      let k := Nat.log2 a
      let ex : Int := e + k
      if a = 2 ^ k then roundTo 1 t (xint ex)
      else
        -- log2 a = ex + log2(a / 2^k); the fraction part lies in (0, 1)
        let frac := fun p =>
          let z := (a - 2 ^ k) * 2 ^ p / (a + 2 ^ k)
          lnSeries p (z * z / 2 ^ p) (p / 3 + 4) 0 z 0 * 2 ^ p / ln2Fix p
        if 0 ≤ ex then truncTry t false (fun p => ex.toNat * 2 ^ p + frac p) 0 4 256
        else truncTry t true (fun p => (-ex).toNat * 2 ^ p - frac p) 0 4 256

/-! ## glq4 (03 R78 to R81) -/

/-- The codebook in units of 1/128 (03 R78). -/
def cbTable : List Int := [-128, -88, -64, -48, -36, -24, -12, 0, 10, 20, 32, 44, 60, 80, 104, 128]

/-- Codebook value of code `c`. -/
def cbVal (c : Nat) : XVal :=
  let v := cbTable.getD c 0
  if v = 0 then .zero .pos else .fin v (-7)

/-- The block scale of scale byte `s` with super-scale bits `sup`, as f32 bits (03 R80). -/
def glqScale (sup s : Nat) : Nat := roundTo 0 1 (xdiv (xmul (fdec 1 sup) (xint s)) (xint 254))

/-- The exact value of an element with code `c`, scale byte `s` and super-scale bits `sup` (03 R80). -/
def glqVal (sup s c : Nat) : XVal := if s = 255 then .nan else xmul (cbVal c) (fdec 1 (glqScale sup s))

/-- The code that comes nearest `x / b`: ties go to the smaller magnitude, then to code 7 (03 R81). -/
def glqCode (x b : XVal) : Nat :=
  match x with
  | .nan => 7
  | .zero _ => 7
  | .inf n => if n then 0 else 15
  | .fin _ _ =>
    let dist := fun c => match xadd x (xnegate (xmul (cbVal c) b)) with
      | .fin m e => XVal.fin m.natAbs e
      | y => y
    let better := fun c d =>
      xlt (dist c) (dist d) ||
        (!xlt (dist d) (dist c) && ((cbTable.getD c 0).natAbs < (cbTable.getD d 0).natAbs))
    (List.range 16).foldl (fun best c => if better c best then c else best) 7

/-- Quantising a block of accumulator values of type `t` with super-scale bits `sup` (already substituted): scale byte
and codes (03 R81). -/
def glqBlock (t sup : Nat) (xs : List Nat) : Nat × List Nat :=
  let vs := xs.map (fdec t)
  if vs.any xnan? then (255, xs.map (fun _ => 7))
  else
    let amax := vs.foldl (fun m v => let a := if xneg? v then xnegate v else v; if xlt m a then a else m) (.zero .pos)
    let s := match amax with
      | .inf _ => 254
      | a => match xdiv (xmul (xint 254) a) (fdec 1 sup) with
        | .fin m e => (max 0 (min 254 (roundInt 0 m e))).toNat
        | .inf _ => 254
        | _ => 0
    let b := glqScale sup s
    if s = 0 ∨ b = 0 then (s, xs.map (fun _ => 7)) else (s, vs.map (fun v => glqCode v (fdec 1 b)))

/-- The super-scale DRAINQ uses, and whether it substituted 1.0 (03 R81). -/
def glqSuper (sup : Nat) : Nat × Bool :=
  match fdec 1 sup with
  | .fin m _ => if 0 < m then (sup, false) else (0x3F800000, true)
  | _ => (0x3F800000, true)

end Sys2Proof.Machine
end

