-- ==== Sys2Proof/Machine/Digest.lean ====
section
/-! DEFINITION. Machine/Digest.lean: the digests of a region: configuration, store, update rules and rebuilds (spec 11
R254 to R267). -/

namespace Sys2Proof.Machine

/-- The fields of a digest configuration word (11 R254). -/
def dcfgStore (w : Word) : Nat := bitsOf w.toNat 63 35 * 4096
def dcfgType (w : Word) : Nat := bitsOf w.toNat 7 4
def dcfgRmw (w : Word) : Bool := w.getLsbD 3
def dcfgKind (w : Word) : Nat := bitsOf w.toNat 2 1
def dcfgB (w : Word) : Nat := 2 ^ dcfgLgB w

/-- The number of blocks of a region (11 R256). -/
def digBlocks (o : ObjEnt) : Nat := (o.len + dcfgB o.dcfg - 1) / dcfgB o.dcfg

/-- Bytes of the digest store, rounded up to 4 KiB (11 R256). -/
def digStoreLen (o : ObjEnt) (w : Word) : Nat :=
  let nb := (o.len + dcfgB w - 1) / dcfgB w
  (16 * nb + (nb + 3) / 4 + 4095) / 4096 * 4096

/-- A digest: its two words and its state, 0 EXACT, 1 WIDE, 2 BUILDING (11 R257, R258). -/
structure Digest where
  a  : Nat
  b  : Nat
  st : Nat
deriving DecidableEq, Repr

/-- Reading the digest of block `j` from the store (11 R256). -/
def digRead (m : Mem) (o : ObjEnt) (j : Nat) : Digest :=
  let p := dcfgStore o.dcfg
  let nb := digBlocks o
  ⟨memNat m (p + 16 * j) 8, memNat m (p + 16 * j + 8) 8, (memRead m (p + 16 * nb + j / 4)).toNat / 4 ^ (j % 4) % 4⟩

/-- Writing the digest of block `j` to the store (11 R256). -/
def digWrite (m : Mem) (o : ObjEnt) (j : Nat) (d : Digest) : Mem :=
  let p := dcfgStore o.dcfg
  let q := p + 16 * digBlocks o + j / 4
  let old := (memRead m q).toNat
  let new := old - old / 4 ^ (j % 4) % 4 * 4 ^ (j % 4) + d.st % 4 * 4 ^ (j % 4)
  memWrite (memPut (memPut m (p + 16 * j) 8 d.a) (p + 16 * j + 8) 8 d.b) q (BitVec.ofNat 8 new)

/-- An element widened to s64, n64 or f64 bits (11 R257). -/
def digWiden (t v : Nat) : Nat :=
  if tyFloat t then convert 0 t 0 v else wrapN 64 (intVal t v)

/-- The type in which a region's BOUNDS and SUM stand: f64, s64 or n64 (11 R257). -/
def digWide (t : Nat) : Nat := if tyFloat t then 0 else if tySigned t then 10 else 14

/-- The widened minimum and maximum of a type: the infinities for floating types (11 R259). -/
def digMin (t : Nat) : Nat := if tyFloat t then infBits 0 + signBit 0 else wrapN 64 (intMin t)
def digMax (t : Nat) : Nat := if tyFloat t then infBits 0 else wrapN 64 (intMax t)

/-- Order of two widened values. -/
def digLt (t a b : Nat) : Bool := xlt (xval (digWide t) a) (xval (digWide t) b)

/-- Equality of two widened values. -/
def digEq (t a b : Nat) : Bool := xeq (xval (digWide t) a) (xval (digWide t) b)

/-- Whether an element is a NaN. -/
def digNan (t v : Nat) : Bool := tyFloat t && xnan? (fdec t v)

/-- The claim-nothing contents (11 R259). -/
def digNothing (kind t : Nat) : Digest :=
  match kind with
  | 0 => ⟨digMin t, digMax t, 2⟩
  | 3 => ⟨2 ^ 64 - 1, 2 ^ 64 - 1, 2⟩
  | _ => ⟨0, 0, 2⟩

/-- The three filter bits of an element (11 R264). -/
def sketchBits (v : Nat) : List Nat :=
  [0x9E3779B97F4A7C15, 0xC2B2AE3D27D4EB4F, 0x165667B19E3779F9].map (fun k => (v + 1) * k % 2 ^ 64 / 2 ^ 57)

/-- Setting bit `i` of a 128-bit digest. -/
def digSet (d : Digest) (i : Nat) : Digest :=
  if i < 64 then { d with a := d.a ||| 2 ^ i } else { d with b := d.b ||| 2 ^ (i - 64) }

/-- Clearing bit `i` of a 128-bit digest. -/
def digClear (d : Digest) (i : Nat) : Digest :=
  if i < 64 then { d with a := d.a - (if d.a.testBit i then 2 ^ i else 0) }
  else { d with b := d.b - (if d.b.testBit (i - 64) then 2 ^ (i - 64) else 0) }

/-- Bit `i` of a 128-bit digest. -/
def digBit (d : Digest) (i : Nat) : Bool := if i < 64 then d.a.testBit i else d.b.testBit (i - 64)

/-- A written element: its index in its block, its old bits and its new bits where known (11 R260). -/
structure DigElem where
  i   : Nat
  old : Option Nat
  new : Option Nat
deriving DecidableEq, Repr

/-- BOUNDS after one element (11 R261). -/
def boundsStep (t : Nat) (rmw : Bool) (d : Digest) (e : DigElem) : Digest :=
  let was := match e.old with
    | some v => rmw && !digNan t v && (digEq t (digWiden t v) d.a || digEq t (digWiden t v) d.b) && e.new != some v
    | none => false
  let d' := match e.new with
    | none => ⟨digMin t, digMax t, 1⟩
    | some v =>
      if digNan t v then d
      else
        let w := digWiden t v
        { d with a := if digLt t w d.a then w else d.a, b := if digLt t d.b w then w else d.b }
  if !rmw || was then { d' with st := 1 } else d'

/-- SUM after one element (11 R262). -/
def sumStep (t : Nat) (d : Digest) (e : DigElem) : Digest :=
  if tyFloat t then
    let a := match e.old with
      | some v => roundTo 0 0 (xadd (fdec 0 d.a) (xnegate (fdec 0 (digWiden t v))))
      | none => d.a
    let a := match e.new with
      | some v => roundTo 0 0 (xadd (fdec 0 a) (fdec 0 (digWiden t v)))
      | none => a
    { d with a := a, st := 1 }
  else
    match e.old with
    | some v => { d with a := (d.a + 2 ^ 64 - digWiden t v + (e.new.map (digWiden t)).getD 0) % 2 ^ 64 }
    | none => { d with a := (d.a + (e.new.map (digWiden t)).getD 0) % 2 ^ 64, st := 1 }

/-- The group of element `i` among `n` elements (11 R263). -/
def zmapGroup (n i : Nat) : Nat := i * min n 128 / n

/-- ZMAP after the elements written in group `g` (11 R263). -/
def zmapGroupStep (d : Digest) (g : Nat) (es : List DigElem) : Digest :=
  let unknown := es.any (fun e => e.new.isNone)
  if unknown || es.any (fun e => e.new != some 0) then
    { digClear d g with st := if unknown then 1 else d.st }
  else if digBit d g then d else { d with st := 1 }

/-- SKETCH after one element (11 R264). -/
def sketchStep (d : Digest) (e : DigElem) : Digest :=
  match e.new with
  | none => ⟨2 ^ 64 - 1, 2 ^ 64 - 1, 1⟩
  | some v =>
    let d' := (sketchBits v).foldl digSet d
    if e.old = some v then d' else { d' with st := 1 }

/-- A digest after the elements `es` of its block were written, in ascending order (11 R260 to R264). -/
def digUpdate (kind t n : Nat) (rmw : Bool) (d : Digest) (es : List DigElem) : Digest :=
  if d.st = 2 then d
  else
    match kind with
    | 0 => es.foldl (boundsStep t rmw) d
    | 1 => es.foldl (sumStep t) d
    | 2 => ((es.map (fun e => zmapGroup n e.i)).eraseDups).foldl
        (fun d g => zmapGroupStep d g (es.filter (fun e => zmapGroup n e.i == g))) d
    | _ => es.foldl sketchStep d

/-- The element at object offset `off`, of `n` bytes, in memory `m`. -/
def objNat (m : Mem) (o : ObjEnt) (off n : Nat) : Nat :=
  match paOf o off with
  | some pa => memNat m pa n
  | none => 0

/-- The digests after a write of object bytes `off` to `off + n - 1` took memory `old` to `new`; `atomic` writes read
the old value in any mode (11 R260). -/
def digAfterWrite (o : ObjEnt) (atomic : Bool) (old new : Mem) (off n : Nat) : Mem :=
  if !dcfgEn o.dcfg || n = 0 then new
  else
    let w := o.dcfg
    let t := dcfgType w
    let sz := tySize t
    let bsz := dcfgB w
    let rmw := dcfgRmw w || atomic
    let j0 := off / bsz
    (List.range ((off + n - 1) / bsz + 1 - j0)).foldl (fun m dj =>
      let j := j0 + dj
      let es := (List.range (bsz / sz)).filterMap (fun i =>
        let q := j * bsz + i * sz
        if q + sz ≤ off ∨ off + n ≤ q ∨ o.len < q + sz then none
        else
          let whole := off ≤ q && q + sz ≤ off + n
          some ⟨i, if rmw then some (objNat old o q sz) else none, if whole || rmw then some (objNat new o q sz) else none⟩)
      digWrite m o j (digUpdate (dcfgKind w) t (bsz / sz) rmw (digRead m o j) es)) new

/-- The digest that a rebuild computes from the elements of a block (11 R265). -/
def digRebuildOf (kind t n : Nat) (es : List Nat) : Digest :=
  match kind with
  | 0 =>
    es.foldl (fun d v =>
      if digNan t v then d
      else
        let w := digWiden t v
        { d with a := if digLt t w d.a then w else d.a, b := if digLt t d.b w then w else d.b })
      ⟨digMax t, digMin t, 0⟩
  | 1 =>
    if tyFloat t then
      match es with
      | [] => ⟨0, 0, 0⟩
      | v :: vs => ⟨vs.foldl (fun s v => roundTo 0 0 (xadd (fdec 0 s) (fdec 0 (digWiden t v)))) (digWiden t v), 0, 0⟩
    else ⟨es.foldl (fun s v => (s + digWiden t v) % 2 ^ 64) 0, 0, 0⟩
  | 2 =>
    let zs := es.zipIdx.filter (fun p => p.1 != 0)
    let full := (List.range (min n 128)).foldl digSet ⟨0, 0, 0⟩
    zs.foldl (fun d p => digClear d (zmapGroup n p.2)) full
  | _ => es.foldl (fun d v => (sketchBits v).foldl digSet d) ⟨0, 0, 0⟩

/-- Rebuilding block `j` (11 R265). -/
def digRebuild (m : Mem) (o : ObjEnt) (j : Nat) : Mem :=
  let w := o.dcfg
  let t := dcfgType w
  let sz := tySize t
  let bsz := dcfgB w
  let es := (List.range (bsz / sz)).filterMap (fun i =>
    let q := j * bsz + i * sz
    if o.len < q + sz then none else some (objNat m o q sz))
  digWrite m o j (digRebuildOf (dcfgKind w) t (bsz / sz) es)

/-- The store of a newly configured region: every digest BUILDING (11 R256, R297). -/
def digInit (m : Mem) (o : ObjEnt) : Mem :=
  (List.range (digBlocks o)).foldl (fun m j => digWrite m o j (digNothing (dcfgKind o.dcfg) (dcfgType o.dcfg))) m

/-- Whether a configuration word with EN = 1 is valid for an object (11 R255). -/
def dcfgValid (o : ObjEnt) (w : Word) : Bool :=
  let t := dcfgType w
  bitsOf w.toNat 34 12 == 0 && bitsOf w.toNat 11 8 ≤ 13 &&
  [7, 11, 8, 12, 9, 13, 10, 3, 2, 1, 0].contains t &&
  (let p := dcfgStore w
   let n := digStoreLen o w
   paRangeOk p n && (match paKind p with
     | .window => true
     | .dieWindow _ => true
     | .lpddr => true
     | _ => false)) &&
  (o.exts.foldl (fun (acc : Nat × Bool) e =>
    (acc.1 + e.npg * 4096, acc.2 && e.pa % dcfgB w == 0 && acc.1 % dcfgB w == 0)) (0, true)).2

end Sys2Proof.Machine
end

