-- ==== Sys2Proof/Machine/Net.lean ====
section
/-! DEFINITION. Machine/Net.lean: the base network as its packets show it: routers, virtual channels, and what an output port
starts next (spec 09 R197 to R199, R211 to R213). -/

namespace Sys2Proof.Machine

/-! ## Routers (09 R197, R199) -/

/-- The router of a core: its row and column. -/
def coreRouter (id : Nat) : Nat × Nat :=
  let d := id / Config.coresPerDie
  let c := id % Config.coresPerDie
  (5 * (d / 4) + c / 8, 8 * (d % 4) + c % 8)

/-- The router of a slice is that of the core with its number in its die. -/
def sliceRouter (g : Nat) : Nat × Nat := coreRouter (g / 32 * Config.coresPerDie + g % 32)

/-- The hop count between two routers (09 R199). -/
def hops (a b : Nat × Nat) : Nat := (a.1 - b.1) + (b.1 - a.1) + ((a.2 - b.2) + (b.2 - a.2))

/-- The input port through which a packet from router `a` reaches router `b`: packets go along the row first and then
along the column, so it is north or south when the rows differ; `own` is the local port it leaves from on `b` itself.
Rows count from north to south and columns from west to east (DESIGN CHOICE, log entry 26: the spec does not orient
the mesh). -/
def inPort (a b : Nat × Nat) (own : Fin 6) : Fin 6 :=
  if a.1 < b.1 then 2 else if b.1 < a.1 then 4 else if a.2 < b.2 then 5 else if b.2 < a.2 then 3 else own

/-! ## Packets (09 R198, R211) -/

/-- What a packet carries. -/
inductive PacketKind where
  | request | response | bulk | control
deriving DecidableEq, Repr

/-- The virtual channel of a packet (09 R211). -/
def vcOf (k : PacketKind) : Fin 4 :=
  match k with
  | .request => 0
  | .response => 1
  | .bulk => 2
  | .control => 3

/-- The flits of a packet with `n` bytes of data: a header, then 64 bytes each, at most five in all (09 R198). -/
def flitsOf (n : Nat) : Nat := min 5 (1 + (n + 63) / 64)

/-- A port as it is at reset (09 R212, R213). -/
def Port.start (id : Nat) : Port := ⟨id, [], 0, Vector.replicate 16 0, Vector.replicate 16 1, none, 0⟩

/-- The local output ports: of slice `g`, and of the core `id`. -/
def slicePort (g : Nat) : Nat := g
def corePort (id : Nat) : Nat := 256 + id

/-- Port `id`; one that no packet has reached is as at reset (09 R212). -/
def portOf (b : Base) (id : Nat) : Port := (b.ports.find? (fun p => p.id == id)).getD (Port.start id)

/-- A packet arrives at a port. -/
def post (s : State) (port : Nat) (k : PacketKind) (pid : Fin 16) (n : Nat) (inp : Fin 6) : State :=
  let p := portOf s.base port
  let p := { p with waiting := p.waiting ++ [⟨vcOf k, pid, flitsOf n, s.gtc, inp⟩] }
  onBase s (fun b => { b with ports := p :: b.ports.filter (fun q => q.id != port) })

/-! ## The choice of a port (09 R211 to R213) -/

/-- The packets of VC0 and VC2 of a port. -/
def lowPackets (p : Port) : List Packet := p.waiting.filter (fun k => k.vc == 0 || k.vc == 2)

/-- Whether a packet goes before another: by age, then by input port (09 R211). -/
def before (j k : Packet) : Bool := j.since < k.since || (j.since == k.since && j.inp < k.inp)

/-- The oldest of a list of packets. -/
def oldest : List Packet → Option Packet
  | [] => none
  | k :: t => match oldest t with
    | some j => if before j k then some j else some k
    | none => some k

/-- The next partition above `p`, modulo 16, with a waiting low packet. -/
def nextPid (p : Port) : Fin 16 :=
  (((List.range 16).map (fun i => Fin.ofNat 16 (p.cur.val + 1 + i))).find? (fun q => (lowPackets p).any (fun k => k.pid == q))).getD p.cur

/-- The weighted round robin of a port (09 R212): a reset of `used` takes the weight in force (09 R213). -/
def wrrChoice (nwgt : Vector Word 16) : Nat → Port → Port × Option Packet
  | 0, p => (p, none)
  | fuel + 1, p =>
    let mine := (lowPackets p).filter (fun k => k.pid == p.cur)
    if (lowPackets p).isEmpty then (p, none)
    else if mine.isEmpty || p.used[p.cur] == p.wgt[p.cur] then
      let p := { p with used := p.used.set p.cur 0, wgt := p.wgt.set p.cur (nwgt[p.cur]).toNat }
      wrrChoice nwgt fuel { p with cur := nextPid p }
    else (p, oldest mine)

/-- A packet starts at a port: it sends one flit in each cycle. -/
def startPacket (p : Port) (k : Packet) (low : Bool) : Port :=
  { p with
    waiting := p.waiting.erase k
    sending := k.flits
    used := if low then p.used.set p.cur (p.used[p.cur] + 1) else p.used
    choice := if low then none else p.choice }

/-- A port that is free at GTC `t` makes its choice; the cycle in which a packet became the choice stays while it is. -/
def chooseAt (nwgt : Vector Word 16) (t : Nat) (p : Port) : Port :=
  let (p, c) := wrrChoice nwgt 34 p
  match c with
  | none => { p with choice := none }
  | some k => { p with choice := some (k, match p.choice with
      | some (j, since) => if j = k then since else t
      | none => t) }

/-- A port in the cycle `t`: a free port starts its next packet, VC1 and VC3 first but for a choice that has waited 64
cycles. -/
def cyclePort (nwgt : Vector Word 16) (t : Nat) (p : Port) : Port :=
  if 1 < p.sending then { p with sending := p.sending - 1 }
  else
    let p := chooseAt nwgt t { p with sending := 0 }
    match p.choice, oldest (p.waiting.filter (fun k => k.vc == 1 || k.vc == 3)) with
    | some (k, since), some h => if since + 64 ≤ t then startPacket p k true else startPacket p h false
    | some (k, _), none => startPacket p k true
    | none, some h => startPacket p h false
    | none, none => p

end Sys2Proof.Machine
end

