-- ==== Sys2Proof/Machine/Array.lean ====
section
/-! DEFINITION. Machine/Array.lean: what stands between a home and its backing memory: the logs, a slice's bandwidth buckets, its
cache and digest ways, and the DRAM array with its errors (spec 08 R191 to R195, 09 R200, R206 to R210, 22 R398). The contents
of a home stand in `Base.mem` whichever way holds them; the ways show in their lines (DESIGN CHOICE, log entry 25). -/

namespace Sys2Proof.Machine

/-! ## What a commit ends (04 R90, 09 R221) -/

/-- Inserting a granule number in rising order. -/
def tagInsert (g : Nat) : List Nat → List Nat
  | [] => [g]
  | h :: t => if g < h then g :: h :: t else if g = h then h :: t else h :: tagInsert g t

/-- Clearing the tags of every granule that the bytes reach, then setting the first granule's tag if `tag`. -/
def tagsAfter (ts : List Nat) (pa n : Nat) (tag : Bool) : List Nat :=
  let ts := ts.filter (fun g => (g + 1) * 16 ≤ pa || pa + n ≤ g * 16)
  if tag then tagInsert (pa / 16) ts else ts

/-- A write removes every reservation on a word it touches (09 R221). -/
def resvAfter (rs : List Resv) (pa n : Nat) : List Resv := rs.filter (fun r => r.pa + 8 ≤ pa || pa + n ≤ r.pa)

/-- The base's own write of the `n` bytes at `pa`, the memory being `m` after it: no tag and no reservation of those
bytes stays. -/
def Base.wrote (b : Base) (m : Mem) (pa n : Nat) : Base :=
  { b with mem := m, tags := tagsAfter b.tags pa n false, resv := resvAfter b.resv pa n }

/-! ## The logs (08 R193, 22 R398) -/

/-- Appending an entry of three words to the log object at `pa`, at sequence number COUNT, and then counting it; word 3
is completed with SEQ (08 R193). -/
def logAppend (s : State) (pa : Nat) (w0 w1 w2 w3 : Nat) : State :=
  let n := memNat s.base.mem pa 8
  let a := pa + 0x40 + 32 * (n % 254)
  let m := memPut (memPut (memPut s.base.mem a 8 w0) (a + 8) 8 w1) (a + 16) 8 w2
  let m := memPut m (a + 24) 8 w3
  { s with base := (s.base.wrote m a 32).wrote (memPut m pa 8 (n + 1)) pa 8 }

/-- The PA of the event log, and of die `d`'s array log and vertical-bus log (DESIGN CHOICE, log entry 9). -/
def eventLogPa : Nat := fwPa 32
def arrayLogPa (d : Nat) : Nat := fwPa (2 * d)
def vbusLogPa (d : Nat) : Nat := fwPa (16 + 2 * d)

/-- An event-log entry: word 0 GTC, word 1 the address, word 2 KIND, die and PID, word 3 SEQ (22 R398). -/
def logEvent (s : State) (kind addr die pid : Nat) : State :=
  let n := memNat s.base.mem eventLogPa 8
  let s := logAppend s eventLogPa s.gtc addr (kind + die * 256 + pid * 65536) (n % 2 ^ 32)
  { s with base := { s.base with evtcount := word (n + 1) } }

/-- An array-log entry (08 R194). -/
def logArray (s : State) (die : Fin 8) (chan : Fin 16) (pa bit kind core : Nat) : State :=
  let p := arrayLogPa die.val
  let n := memNat s.base.mem p 8
  logAppend s p (n % 2 ^ 32 + core * 2 ^ 32 + b2n (Config.layerOf (pa / 256)) 51 + chan.val * 2 ^ 52 + die.val * 2 ^ 56)
    (kind + bit * 256) pa s.gtc

/-! ## Bandwidth buckets (09 R209, R210) -/

/-- PBKT of partition `p` at slice `g`. -/
def pbktOf (b : Base) (g p : Nat) : Word := regGet b.pbkt (g * 16 + p) (if p = 0 then 0x100000003000 else 0)

/-- PLVL: the level of a bucket, in 1/64 byte; each GTC cycle adds RATE up to 64 × DEPTH. -/
def levelOf (s : State) (g p : Nat) : Nat :=
  let w := (pbktOf s.base g p).toNat
  let (lv, at_) := regGet s.base.plvl (g * 16 + p) (0, 0)
  min (64 * bitsOf w 51 32) (lv + bitsOf w 15 0 * (s.gtc - at_))

/-- The bytes for which a request counts: the data bytes it moves, or 32 without data (09 R209). -/
def requestBytes (up down : Nat) : Nat := if up + down = 0 then 32 else up + down

/-- A slice serves a request of partition `p`: allotted when the level covers it, else spare (09 R209). -/
def drawBucket (s : State) (g n : Nat) (p : Fin 16) : State :=
  let lv := levelOf s g p.val
  if 64 * n ≤ lv then { s with base := { s.base with plvl := regSet s.base.plvl (g * 16 + p.val) (lv - 64 * n, s.gtc) } } else s

/-- A request of core `src` (none: of the host or the base) to slice `g` that carries `up` bytes and is answered with
`down`: its packets and what its partition's bucket pays (09 R207, R209, R211). Copies use VC2 both ways; an L1's
write-back goes on VC3 and is acknowledged on VC1. -/
def serve (s : State) (g up down : Nat) (p : Fin 16) (k : PacketKind := .request) (src : Option Nat := some s.core.id) : State :=
  let s := match src with
    | some c =>
      let s := post s (slicePort g) k p up (inPort (coreRouter c) (sliceRouter g) 0)
      post s (corePort c) (if k = .bulk then .bulk else .response) p down (inPort (sliceRouter g) (coreRouter c) 1)
    | none => post s (slicePort g) k p up 1
  drawBucket s g (requestBytes up down) p

/-- A control message from slice `g` to core `id`: a probe, a wake-up, a barrier release or a lease message; and one of
the core to the slice: a freeze report or a lease message; on VC3 (09 R211). -/
def tellCore (s : State) (g id : Nat) (pid : Fin 16) : State :=
  post s (corePort id) .control pid 0 (inPort (sliceRouter g) (coreRouter id) 1)
def tellSlice (s : State) (g id : Nat) (pid : Fin 16) : State :=
  post s (slicePort g) .control pid 0 (inPort (coreRouter id) (sliceRouter g) 0)

/-- The slice that sends and takes the lease messages of core `id`: the first of its die (DESIGN CHOICE, log entry 26:
the spec does not place the walker). -/
def leaseSlice (id : Nat) : Nat := 32 * (dieOf id).val

/-! ## Power-gated cores (09 R219) -/

/-- Whether the region of an L1 word is COHERENT (09 R216). -/
def cohWord (s : State) (w : L1Word) : Bool := ((findObj s w.oid).map (fun o => o.coh)).getD false

/-- Whether a word overlaps the bytes. -/
def overlaps (w : L1Word) (pa n : Nat) : Bool := w.pa < pa + n && pa < w.pa + 8

/-- A probe reaches core `id`, whose data array is in retention and holds dirty words of the bytes: the array begins to
wake, once. -/
def wake (s : State) (id pa n : Nat) : State :=
  if s.base.wakes.any (fun w => w.1 == id && w.2.1 ≤ pa && pa + n ≤ w.2.1 + w.2.2.1) then s
  else onBase s (fun b => { b with wakes := b.wakes ++ [(id, pa, n, s.gtc)] })

/-- Whether a core is power-gated and holds dirty words of a COHERENT region in the bytes. -/
def retains (s : State) (pa n : Nat) (c : Core) : Bool :=
  c.gated && c.l1.any (fun w => w.dirty && overlaps w pa n && cohWord s w)

/-! ## The array (08 R191, R192, 09 R206) -/

/-- The die and vertical-bus channel of a stacked DRAM address whose home is slice `h` (09 R206). -/
def chanAt (h pa : Nat) : Option (Fin 8 × Fin 16) :=
  match paKind pa with
  | .window => some (Fin.ofNat 8 (h / 32), Fin.ofNat 16 (h % 32 / 2))
  | .dieWindow _ => some (Fin.ofNat 8 (h / 32), Fin.ofNat 16 (h % 32 / 2))
  | _ => none

/-- The die and vertical-bus channel of a stacked DRAM address of an object. -/
def dramChan (o : Option ObjEnt) (pa : Nat) : Option (Fin 8 × Fin 16) :=
  chanAt (match o with
    | some o => homeOf o pa
    | none => homeOfPa pa) pa

/-- The channel as the base holds it: full width when not listed (08 R192). -/
def vchanOf (b : Base) (die : Fin 8) (chan : Fin 16) : VChan :=
  (b.vbus.find? (fun v => v.die == die && v.chan == chan)).getD ⟨die, chan, 0, none, []⟩

/-- Replacing a channel; one at full width without a sequence is not listed. -/
def putVchan (s : State) (v : VChan) : State :=
  let rest := s.base.vbus.filter (fun w => !(w.die == v.die && w.chan == v.chan))
  onBase s (fun b => { b with vbus := if v.width = 0 ∧ v.vseq.isNone then rest else rest ++ [v] })

/-- A granule's transfer queues on its channel, once (08 R192). -/
def queueOn (s : State) (v : VChan) (r : VReq) : State :=
  if v.queue.any (fun q => q.home == r.home && q.gran == r.gran && (q.dirty || !r.dirty)) then s
  else putVchan s { v with queue := v.queue ++ [r] }

/-- The width of a vertical-bus channel: 0 full, 1 and 2 half, 3 disabled (08 R195). -/
def chanWidth (b : Base) (die : Fin 8) (chan : Fin 16) : Fin 4 := (vchanOf b die chan).width

/-- Whether a granule's reading, its errors logged, still serves the accesses of this cycle. -/
def readNow (s : State) (home gran : Nat) : Bool := s.base.fetched.any (fun f => f.1 == home && f.2.1 == gran && s.gtc ≤ f.2.2)

/-- The reading of a granule serves accesses up to GTC cycle `t`. -/
def servesUntil (s : State) (home gran t : Nat) : State :=
  onBase s (fun b => { b with fetched := (home, gran, t) :: b.fetched.filter (fun f => s.gtc ≤ f.2.2) })

/-- The words in error that overlap the bytes. -/
def eccIn (b : Base) (pa n : Nat) : List EccErr := b.ecc.filter (fun e => e.pa < pa + n && pa < e.pa + 32)

/-- Logging the words in error that the controller has read (08 R191, R194). -/
def logErrors (s : State) (d : Fin 8) (ch : Fin 16) (es : List EccErr) (core : Nat) : State :=
  es.foldl (fun s e => logArray s d ch e.pa (if e.two then 0xFF else e.bit) (if e.two then 2 else 1) core) s

/-- Bytes written to the array: a word that is written whole holds no error any more (DESIGN CHOICE, log entry 25). -/
def eccWritten (b : Base) (pa n : Nat) : Base := { b with ecc := b.ecc.filter (fun e => !(pa ≤ e.pa && e.pa + 32 ≤ pa + n)) }

/-! ## Cache and digest ways (09 R200, R202, R207, R208) -/

/-- A way's kind in slice `g`: 0 STAGE, 1 CACHE, 2 DIGEST (09 R202). -/
def wayKind (b : Base) (g w : Nat) : Nat := (regGet b.slcfg g 0x555500000000).toNat / 4 ^ w % 4

/-- The ways partition `p` may allocate into in slice `g` (09 R208). -/
def wayMask (b : Base) (g p : Nat) : Nat := (regGet b.pway (g * 16 + p) 0xFFFFFF).toNat

/-- Whether a line is that of granule `gran` in slice `home`. -/
def CLine.is (l : CLine) (home gran : Nat) : Bool := l.home == home && l.gran == gran

/-- A dirty line reaches its backing memory, as a request of the partition that allocated it (09 R200, R207). -/
def lineBack (s : State) (l : CLine) : State :=
  if l.dirty then onBase (serve s l.home 256 0 l.pid .request none) (fun b => eccWritten b (l.gran * 256) 256) else s

/-- The set of a way that a granule falls into: a way of 1 MiB holds 4,096 lines (DESIGN CHOICE, log entry 25: the
spec gives no index). -/
def setOf (gran : Nat) : Nat := gran % 4096

/-- Using a granule through the ways of its home: a hit becomes most recent; a miss takes an eligible free way of its
set, or the least recently used eligible line's, which goes back first; with no eligible way nothing is allocated (09
R208). -/
def useLine (s : State) (home gran kind : Nat) (pid : Fin 16) (dirty : Bool) : State :=
  let b := s.base
  match b.lines.find? (fun l => l.is home gran) with
  | some l =>
    onBase s (fun b => { b with lines := { l with dirty := l.dirty || dirty } :: b.lines.filter (fun k => !k.is home gran) })
  | none =>
    let ways := (List.finRange 24).filter (fun w => wayKind b home w.val == kind && (wayMask b home pid.val).testBit w.val)
    let inSet := b.lines.filter (fun l => l.home == home && setOf l.gran == setOf gran)
    match ways.find? (fun w => !inSet.any (fun l => l.way == w)) with
    | some w => onBase s (fun b => { b with lines := ⟨home, gran, w, dirty, pid⟩ :: b.lines })
    | none =>
      match (inSet.filter (fun l => ways.contains l.way)).getLast? with
      | some v =>
        onBase (lineBack s v) (fun b =>
          { b with lines := ⟨home, gran, v.way, dirty, pid⟩ :: b.lines.filter (fun l => !l.is home v.gran) })
      | none => s

/-- How a read of backing memory ends: with its data; waiting while the channel carries a failing transfer (08 R192);
or on a word that cannot be corrected or a channel that is disabled (08 R191, R192). -/
inductive Fetch where
  | ok | busy | bad
deriving DecidableEq, Repr

/-- What the channel says to an access to granule `gran` in slice `home`: a line that a way holds needs none; a disabled
one carries nothing, and one that carries a failing transfer queues the access (08 R192). -/
def wayAsk (s : State) (home kind : Nat) (chan : Option (Fin 8 × Fin 16)) (gran core : Nat) (pid : Fin 16) : State × Fetch :=
  if s.base.lines.any (fun l => l.is home gran) then (s, .ok)
  else match chan with
    | none => (s, .ok)
    | some (d, ch) =>
      let v := vchanOf s.base d ch
      if v.width = 3 then (s, .bad)
      else if v.vseq.isSome then (queueOn s v ⟨home, kind, gran, core, pid, false⟩, .busy)
      else (s, .ok)

/-- The controller reads a granule of the array and logs its words in error; one reading serves all accesses of its GTC
cycle (08 R191, DESIGN CHOICE, log entry 25). -/
def arrayRead (s : State) (d : Fin 8) (ch : Fin 16) (home gran core : Nat) : State :=
  let es := eccIn s.base (gran * 256) 256
  if es.isEmpty || readNow s home gran then s else logErrors (servesUntil s home gran s.gtc) d ch es core

/-- Whether bytes reach a word that cannot be corrected (08 R191). -/
def uncorrectable (b : Base) (pa n : Nat) : Bool := (eccIn b pa n).any (fun e => e.two)

/-- Reading bytes of one granule through the ways of slice `home` (kind 1 cache, 2 digest); `chan` is where the array
holds it. A miss reads the whole granule, checks and logs its eight words and allocates it; while the channel carries
a failing transfer it queues there. A granule with an uncorrectable word is allocated in no way: each access reads it
again, and fails where it needs such a word (DESIGN CHOICE, log entry 25). -/
def wayRead (s : State) (home kind : Nat) (chan : Option (Fin 8 × Fin 16)) (pa n core : Nat) (pid : Fin 16) : State × Fetch :=
  let gran := pa / 256
  match wayAsk s home kind chan gran core pid with
  | (s, .ok) =>
    (match (if s.base.lines.any (fun l => l.is home gran) then none else chan) with
    | none => (useLine s home gran kind pid false, .ok)
    | some (d, ch) =>
      let s := arrayRead s d ch home gran core
      if uncorrectable s.base (gran * 256) 256 then (s, if uncorrectable s.base pa n then .bad else .ok)
      else (useLine s home gran kind pid false, .ok))
  | r => r

/-- Writing bytes of one granule through the ways of slice `home`: a miss that covers it in part reads it first, as
`wayRead` does for `core`; the line becomes dirty. A granule that still holds an uncorrectable word is written in the
array alone, and so is one whose channel is disabled, by a write that no engine makes (an engine's is given up before it
lands); one whose channel carries a failing transfer takes its line when that ends (DESIGN CHOICE, log entry 25). -/
def wayWrite (s : State) (home kind : Nat) (chan : Option (Fin 8 × Fin 16)) (pa n core : Nat) (pid : Fin 16) : State :=
  let gran := pa / 256
  let hit := s.base.lines.any (fun l => l.is home gran)
  let v := chan.map (fun c => vchanOf s.base c.1 c.2)
  let open_ := (v.map (fun v => v.width != 3 && v.vseq.isNone)).getD true
  let s := if hit || !open_ || n = 256 then s else (wayRead s home kind chan pa n core pid).1
  let s := onBase s (fun b => eccWritten b pa n)
  if hit || (open_ && !uncorrectable s.base (gran * 256) 256) then useLine s home gran kind pid true
  else match v with
    | some v => if v.width != 3 && v.vseq.isSome then queueOn s v ⟨home, kind, gran, core, pid, true⟩ else s
    | none => s

/-- Whether every way has passed a fetch. -/
def Fetch.and (a b : Fetch) : Fetch :=
  match a, b with
  | .bad, _ => .bad
  | _, .bad => .bad
  | .busy, _ => .busy
  | _, .busy => .busy
  | .ok, .ok => .ok

/-- An answer about each granule of an object's bytes, in turn. -/
def eachGranule (s : State) (o : ObjEnt) (off n : Nat) (f : State → Nat → Nat → State × Fetch) : State × Fetch :=
  (granules off n).foldl (fun (acc : State × Fetch) g =>
    match paOf o g.1 with
    | none => acc
    | some pa => let r := f acc.1 pa g.2.2; (r.1, acc.2.and r.2)) (s, .ok)

/-- Whether the write-back of a line waits, because its channel carries a failing transfer (08 R192). -/
def backHeld (b : Base) (l : CLine) : Bool :=
  let pa := l.gran * 256
  let fails := fun (c : Fin 8 × Fin 16) => (vchanOf b c.1 c.2).width != 3 && (vchanOf b c.1 c.2).vseq.isSome
  l.dirty && ((if wayKind b l.home l.way.val = 2 then dramChan none pa else chanAt l.home pa).map fails).getD false

/-- Bytes of a COHERENT region whose dirty words power-gated cores hold: the home probes those cores and waits for their
write-backs (09 R219). -/
def wakeAsk (s : State) (o : ObjEnt) (off n : Nat) : State × Fetch :=
  if o.coh then eachGranule s o off n (fun s pa n =>
    match (s.core :: s.others).filter (retains s pa n) with
    | [] => (s, .ok)
    | cs => (cs.foldl (fun s c => wake s c.id pa n) s, .busy))
  else (s, .ok)

/-- A home read of GLOBAL or HOST bytes waits for the dirty words of power-gated cores, and passes the cache ways of its
homes, granule by granule; STAGE is the ways themselves (08 R191, R192, 09 R200, R219). -/
def dramRead (s : State) (o : ObjEnt) (off n : Nat) (core : Nat) (pid : Fin 16 := s.core.csr.pid) : State × Fetch :=
  if o.space = 1 then (s, .ok)
  else
    let a := wakeAsk s o off n
    let r := eachGranule a.1 o off n (fun s pa n => wayRead s (homeOf o pa) 1 (dramChan (some o) pa) pa n core pid)
    (r.1, a.2.and r.2)

/-- Whether an engine's write can pass to its homes: the same waits, and a disabled channel takes no write (08 R192). -/
def dramAsk (s : State) (o : ObjEnt) (off n : Nat) (core : Nat) (pid : Fin 16 := s.core.csr.pid) : State × Fetch :=
  if o.space = 1 then (s, .ok)
  else
    let a := wakeAsk s o off n
    let r := eachGranule a.1 o off n (fun s pa _ => wayAsk s (homeOf o pa) 1 (dramChan (some o) pa) (pa / 256) core pid)
    (r.1, a.2.and r.2)

/-- A home write of GLOBAL or HOST bytes passes the same ways. -/
def dramWrite (s : State) (o : ObjEnt) (off n core : Nat) (pid : Fin 16) : State :=
  if o.space = 1 then s
  else (granules off n).foldl (fun s g =>
    match paOf o g.1 with
    | none => s
    | some pa => wayWrite s (homeOf o pa) 1 (dramChan (some o) pa) pa g.2.2 core pid) s

end Sys2Proof.Machine
end

