-- ==== Sys2Proof/Machine/Home.lean ====
section
/-! DEFINITION. Machine/Home.lean: what a home does with reads and writes (tags, reservations, digests, the capacity
table's epoch word), the directory, the L1s and the store buffer (spec 04 R90, 06 R166, 09 R215 to R223, 10 R229 to R236, R248 to
R251). -/

namespace Sys2Proof.Machine

/-! ## Tags, live lines, reservations -/

/-- Whether a tag block that overlaps the bytes `pa` to `pa + n - 1` holds a live barrier or sync object (09 R223). -/
def tagged (b : Base) (pa n : Nat) : Bool :=
  b.live.any (fun l => l.pa / 64 * 64 < pa + n && pa < l.pa / 64 * 64 + 64)

/-- The tag bit of the granule that holds `pa` (04 R90). -/
def tagAt (b : Base) (pa : Nat) : Bool := b.tags.contains (pa / 16)

/-! ## The capacity table (06 R166) -/

/-- The update of one entry under shift `sh`: LIMIT moves to min(CAPMAX, RNE(x)), LOAD to 0. -/
def capEntryStep (e sh : Nat) : Nat :=
  let load := bitsOf e 63 48
  let capmax := bitsOf e 31 16
  let limit := bitsOf e 15 0
  let x : Int := load + limit * (2 ^ sh - 1)
  let n := (if x = 0 then 0 else roundInt 0 x (-(sh : Int))).toNat
  bitsOf e 47 16 * 2 ^ 16 + min capmax n

/-- The epoch update of group `g` in the capacity table at `pa`. -/
def capEpoch (m : Mem) (pa g : Nat) : Mem :=
  let sh := memNat m (pa + 0x8000 + 8 * g) 8 % 16
  (List.range 16).foldl (fun m k =>
    let a := pa + 8 * (16 * g + k)
    memPut m a 8 (capEntryStep (memNat m a 8) sh)) m

/-- Whether the object is a capacity table. -/
def isCapTable (o : ObjEnt) : Bool :=
  match o.role with
  | .capTable _ => true
  | _ => false

/-- The bytes of a write to an object that take effect: the reserved bytes of a capacity table ignore stores (06
R166). -/
def putBytes (o : ObjEnt) (off : Nat) (bs : List Byte) : List Byte := if isCapTable o then bs.take (0x8808 - off) else bs

/-! ## The digest store (11 R256, R260, R267) -/

/-- The blocks that the bytes `off` to `off + n - 1` of a digested region reach. -/
def digBlocksOf (o : ObjEnt) (off n : Nat) : List Nat :=
  if !dcfgEn o.dcfg || n = 0 then []
  else (List.range ((off + n - 1) / dcfgB o.dcfg + 1 - off / dcfgB o.dcfg)).map (fun k => off / dcfgB o.dcfg + k)

/-- The home slice of block `j` (09 R205). -/
def digHome (o : ObjEnt) (j : Nat) : Nat := homeOf o ((paOf o (j * dcfgB o.dcfg)).getD 0)

/-- Where the digest of block `j` and its state stand in the store (11 R256). -/
def digPa (o : ObjEnt) (j : Nat) : Nat := dcfgStore o.dcfg + 16 * j
def digStatePa (o : ObjEnt) (j : Nat) : Nat := dcfgStore o.dcfg + 16 * digBlocks o + j / 4

/-- A store line with an uncorrectable word: every digest that has its contents or its state in the line claims
nothing, in state BUILDING, and the line is written anew (11 R267). -/
def digLose (s : State) (o : ObjEnt) (home gran : Nat) (pid : Fin 16) : State :=
  let js := (List.range (digBlocks o)).filter (fun j => digPa o j / 256 == gran || digStatePa o j / 256 == gran)
  let s := onBase s (fun b => { b with
    mem := js.foldl (fun m j => digWrite m o j (digNothing (dcfgKind o.dcfg) (dcfgType o.dcfg))) b.mem })
  wayWrite s home 2 (dramChan none (gran * 256)) (gran * 256) 256 0x3FF pid

/-- One line of the digest store, that of `pa`, read whole through the digest ways of `home`; one with an error claims
nothing, and the read has its digests all the same (11 R256, R267). -/
def digLine (s : State) (o : ObjEnt) (home pa core : Nat) (pid : Fin 16) : State × Fetch :=
  let (s, r) := wayRead s home 2 (dramChan none pa) (pa / 256 * 256) 256 core pid
  if r = .bad then (digLose s o home (pa / 256) pid, .ok) else (s, r)

/-- The two lines of block `j`'s digest, in the digest ways of the block's home (11 R256); `write` when the digest then
changes, of `n` bytes and of one byte. -/
def digLines (s : State) (o : ObjEnt) (j core : Nat) (pid : Fin 16) (write : Bool) : State × Fetch :=
  let home := digHome o j
  [(digPa o j, 16), (digStatePa o j, 1)].foldl (fun acc p =>
    let (s, r) := digLine acc.1 o home p.1 core pid
    (if write then wayWrite s home 2 (dramChan none p.1) p.1 p.2 core pid else s, acc.2.and r)) (s, .ok)

/-! ## Home reads and writes -/

/-- The committed bytes of an object from `off`; a byte no extent covers reads 0. -/
def objBytes (s : State) (o : ObjEnt) (off n : Nat) : List Byte :=
  (List.range n).map (fun i => match paOf o (off + i) with
    | some pa => memRead s.base.mem pa
    | none => 0)

/-- The memory after a commit: the bytes, the digests of their blocks, and the group of a capacity table whose epoch
word they reach (09 R215, 11 R260, 06 R166). -/
def commitMem (o : ObjEnt) (atomic : Bool) (old : Mem) (pa off : Nat) (bs : List Byte) : Mem :=
  let new := digAfterWrite o atomic old (memWriteL old pa bs) off bs.length
  if isCapTable o && off < 0x8808 && 0x8800 < off + bs.length then
    capEpoch new (pa - off) (memRead new (pa - off + 0x8800)).toNat
  else new

/-- The entry words that a write to a capacity table's epoch word changes: where they begin and their bytes (06 R166).
-/
def epochWords (o : ObjEnt) (m : Mem) (pa off n : Nat) : Nat × Nat :=
  if isCapTable o && off < 0x8808 && 0x8800 < off + n then (pa - off + 128 * (memRead m (pa - off + 0x8800)).toNat, 128)
  else (0, 0)

/-- Bytes written inside one extent: they commit, tags are cleared or set, reservations on the words end, and the
digests follow; the lines of both become dirty. The entry words that an epoch update changes are written too. -/
def homePutAt (s : State) (o : ObjEnt) (tag atomic : Bool) (pid : Fin 16) (off : Nat) (bs : List Byte) : State :=
  match paOf o off with
  | none => s
  | some pa =>
    let n := bs.length
    let s := (digBlocksOf o off n).foldl (fun s j => (digLines s o j 0x3FF pid true).1) (dramWrite s o off n 0x3FF pid)
    let m := commitMem o atomic s.base.mem pa off bs
    let e := epochWords o m pa off n
    { s with base := { s.base with
        mem := m, tags := tagsAfter (tagsAfter s.base.tags pa n tag) e.1 e.2 false,
        resv := resvAfter (resvAfter s.base.resv pa n) e.1 e.2 } }

/-- Bytes from offset `off`, cut where one extent ends and the next begins. -/
def extParts : List Extent → Nat → Nat → List Byte → List (Nat × List Byte)
  | [], _, _, _ => []
  | e :: es, start, off, bs =>
    let fin := start + e.npg * 4096
    if bs.isEmpty then []
    else if fin ≤ off then extParts es fin off bs
    else (off, bs.take (fin - off)) :: extParts es fin fin (bs.drop (fin - off))

/-- One home transaction that writes bytes of an object, in whichever extents they lie (09 R200, R215, R221, 04 R90, 11
R256, R260). -/
def homePut (s : State) (o : ObjEnt) (off : Nat) (bs : List Byte) (tag atomic : Bool) (pid : Fin 16 := s.core.csr.pid) : State :=
  (extParts o.exts 0 off (putBytes o off bs)).foldl (fun s p => homePutAt s o tag atomic pid p.1 p.2) s

/-- The object and offset that a device address belongs to, if an extent covers it. -/
def objAtPa (s : State) (pa : Nat) : Option (ObjEnt × Nat) :=
  s.base.objs.findSome? (fun o =>
    (o.exts.foldl (fun (acc : Nat × Option Nat) e =>
      (acc.1 + e.npg * 4096,
        if acc.2.isNone && e.pa ≤ pa && pa < e.pa + e.npg * 4096 then some (acc.1 + (pa - e.pa)) else acc.2)) (0, none)).2.map
      (fun off => (o, off)))

/-- A write at a physical address that no object covers passes the cache ways of its home, but for STAGE addresses,
which are the ways themselves (09 R200, R208). -/
def paWrite (s : State) (pa n : Nat) (pid : Fin 16) : State :=
  match paKind pa with
  | .stage _ _ => s
  | .none => s
  | _ => (granules pa n).foldl (fun s g => wayWrite s (homeOfPa g.1) 1 (dramChan none g.1) g.1 g.2.2 0x3FF pid) s

/-- A home write at a physical address, through the object that covers it when there is one. -/
def homePutPa (s : State) (pa : Nat) (bs : List Byte) (tag atomic : Bool) (pid : Fin 16 := s.core.csr.pid) : State :=
  match objAtPa s pa with
  | some (o, off) => homePut s o off bs tag atomic pid
  | none =>
    let s := paWrite s pa bs.length pid
    { s with base := { s.base with
        mem := memWriteL s.base.mem pa bs, tags := tagsAfter s.base.tags pa bs.length tag,
        resv := resvAfter s.base.resv pa bs.length } }

/-- Whether a write of the host or of the base itself is dropped: a live tag block, a span table or a log (09 R223, 11
R268, 08 R193; of the base's own writes DEDUCED, log entry 66). -/
def hostDrops (s : State) (pa n : Nat) : Bool :=
  tagged s.base pa n || ((objAtPa s pa).map (fun o => o.1.span || o.1.basewr)).getD false

/-- Whether an HDM decoder maps an address, so that the host can hold its line (22 R388). -/
def hostMapped (pa : Nat) : Bool := paKind pa == .window || paKind pa == .lpddr

/-- A page in host bias: a device request to it first takes the lines of its granule that the host holds dirty (10
R251). -/
def hostRecall (s : State) (pa : Nat) : State :=
  if s.base.bias.contains (pa / 4096) && hostMapped pa then
    ((Config.hostLines s.gtc (pa / 4096)).filter (fun l => l.1 / 256 == pa / 256)).foldl
      (fun s l => homePutPa s l.1 l.2 false false s.base.hpid) s
  else s

/-! ## The directory (09 R216, DESIGN CHOICE, log entry 24) -/

/-- Adding or widening a core's record in an entry; a fifth holder turns it into the overflow form. -/
def dirEntAdd (d : DirEnt) (core : Nat) (first last : Nat) (dirty : Bool) : DirEnt :=
  match d.overflow with
  | some (dies, f, l) => { d with overflow := some (dies ||| BitVec.ofNat 8 (2 ^ (dieOf core).val), min f first, max l last) }
  | none =>
    let hs := if d.holders.any (fun h => h.core == core) then
        d.holders.map (fun h => if h.core = core then ⟨core, min h.first first, max h.last last, h.dirty || dirty⟩ else h)
      else d.holders ++ [⟨core, first, last, dirty⟩]
    if hs.length ≤ 4 then { d with holders := hs }
    else
      let dies := hs.foldl (fun b h => b ||| BitVec.ofNat 8 (2 ^ (dieOf h.core).val)) 0
      let f := hs.foldl (fun m h => min m h.first) 15
      let l := hs.foldl (fun m h => max m h.last) 0
      { d with holders := [], overflow := some (dies, f, l) }

/-- The directory after `core` took the words that the bytes `pa` to `pa + n - 1` reach (within one block). -/
def dirAdd (ds : List DirEnt) (core pa n : Nat) (dirty : Bool) : List DirEnt :=
  let b := pa / 128
  let f := pa % 128 / 8
  let l := (pa % 128 + n - 1) / 8
  if ds.any (fun d => d.block == b) then ds.map (fun d => if d.block = b then dirEntAdd d core f l dirty else d)
  else ds ++ [dirEntAdd ⟨b, [], none⟩ core f l dirty]

/-- The directory entry of a block as the cores' tags show it: holders that still hold a word of it in a COHERENT region
(09 R216). -/
def dirRefresh (s : State) (b : Nat) : State :=
  let holders := (allCores s).filterMap (fun c =>
    let ws := c.l1.filter (fun w => w.pa / 128 == b && cohWord s w)
    match ws with
    | [] => none
    | _ => some (Sharer.mk c.id
        (ws.foldl (fun m w => min m (w.pa % 128 / 8)) 15)
        (ws.foldl (fun m w => max m (w.pa % 128 / 8)) 0) (ws.any (fun w => w.dirty))))
  let ds := s.base.dir.filter (fun d => d.block != b)
  { s with base := { s.base with dir :=
      if holders.isEmpty then ds
      else if holders.length ≤ 4 then ds ++ [⟨b, holders, none⟩]
      else ds ++ [holders.foldl (fun d h => dirEntAdd d h.core h.first h.last h.dirty) ⟨b, [], none⟩] } }

/-! ## The L1s -/

/-- The units in which words sorted by address are written back: the two words of one CSTC together, else one word (10
R233, R249). -/
def wbUnits : List L1Word → List (List L1Word)
  | [] => []
  | [a] => [[a]]
  | a :: b :: t => if a.pa % 16 == 0 && b.pa == a.pa + 8 && a.pair && b.pair then [a, b] :: wbUnits t
    else [a] :: wbUnits (b :: t)

/-- Writing one unit of core `id` back to its home, where it commits (10 R233); the request carries the core's
partition and its bytes count at the slice (09 R207, R209); it travels on VC3 whatever caused it (09 R211 names the
write-backs of probes; DESIGN CHOICE, log entry 26); in host bias the host's line comes first (10 R251). -/
def wbUnit (id : Nat) (pid : Fin 16) (s : State) (ws : List L1Word) : State :=
  match ws with
  | [] => s
  | w :: _ =>
    let bs := ws.flatMap (fun w => wordBytes w.val)
    match findObj s w.oid with
    | some o => homePut (hostRecall (serve s (homeOf o w.pa) bs.length 0 pid .control (some id)) w.pa) o w.off bs w.tag false pid
    | none => homePutPa (hostRecall (serve s (homeOfPa w.pa) bs.length 0 pid .control (some id)) w.pa) w.pa bs w.tag false pid

/-- The dirty words of a core that a write-back of the words that satisfy `p` takes: with a word of a CSTC goes its
other word, since the 16 bytes and the tag reach the home as one unit (04 R90, 10 R249). -/
def wbTakes (c : Core) (p : L1Word → Bool) (w : L1Word) : Bool :=
  w.dirty && (p w || (w.pair && c.l1.any (fun v => v.pa / 16 == w.pa / 16 && v.dirty && v.pair && p v)))

/-- A word that has been written back: valid and clean. -/
def L1Word.clean (w : L1Word) : L1Word := { w with dirty := false, pair := false }

/-- Writing back, in ascending address, the dirty words of core `id` that satisfy `p`; they stay valid and clean. The
directory keeps the core's record as it stands: 09 R217 changes one by a request or a probe only (DESIGN CHOICE, log
entry 24). -/
def writeBack (s : State) (id : Nat) (p : L1Word → Bool) : State :=
  match findCore s id with
  | none => s
  | some c =>
    let ws := sortBy (fun w => w.pa) (c.l1.filter (wbTakes c p))
    onCore ((wbUnits ws).foldl (wbUnit id c.csr.pid) s) id (fun c =>
      { c with l1 := c.l1.map (fun w => if wbTakes c p w then w.clean else w) })

/-- Dropping the L1 words of core `id` that satisfy `p`. -/
def dropWords (s : State) (id : Nat) (p : L1Word → Bool) : State :=
  onCore s id (fun c => { c with l1 := c.l1.filter (fun w => !p w) })

/-- Whether a probe for the bytes goes to core `c`: its directory record overlaps them, or its die is marked in the
overflow form (09 R217). -/
def probeGoes (s : State) (c : Core) (pa n : Nat) : Bool :=
  s.base.dir.any (fun d => d.block * 128 < pa + n && pa < d.block * 128 + 128 &&
    match d.overflow with
    | some (dies, _, _) => dies.getLsbD (dieOf c.id).val
    | none => d.holders.any (fun h => h.core == c.id && d.block * 128 + 8 * h.first < pa + n && pa < d.block * 128 + 8 * h.last + 8))

/-- The 128-byte blocks that bytes reach. -/
def blocksOf (pa n : Nat) : List Nat := (List.range ((pa + n - 1) / 128 + 1 - pa / 128)).map (fun k => pa / 128 + k)

/-- Probing every core but `me` for words that overlap the bytes: dirty words are written back; then the words are
invalidated, or, for a read, only the dirty ones (09 R217, 10 R236, DESIGN CHOICE, log entry 24). Probes travel on VC3
(09 R211). -/
def probe (s : State) (me : Option Nat) (pa n : Nat) (read : Bool) : State :=
  let s := (allCores s).foldl (fun s c =>
    if some c.id = me then s
    else
      let s := if probeGoes s c pa n then tellCore s (homeOfPa pa) c.id c.csr.pid else s
      let s := writeBack s c.id (fun w => overlaps w pa n)
      dropWords s c.id (fun w => overlaps w pa n && (!read || (c.l1.any (fun v => v.pa == w.pa && v.dirty))))) s
  (blocksOf pa n).foldl (fun s b => if s.base.dir.any (fun d => d.block == b) then dirRefresh s b else s) s

/-- Before bytes are read at their homes, or written unless `read`: in host bias the lines that the host holds come
back, and in a COHERENT region the L1s' dirty copies do, or the other holders lose the words (10 R236, R250, R251, 09
R217). -/
def takeBack (s : State) (me : Option Nat) (o : ObjEnt) (off n : Nat) (read : Bool := true) : State :=
  (granules off n).foldl (fun s g => match paOf o g.1 with
    | none => s
    | some pa => if o.coh then probe (hostRecall s pa) me pa g.2.2 read else hostRecall s pa) s

/-- The bytes of an object as a home request reads them. The request carries the partition of its core's lease, or the
host's (09 R207). -/
def homeGet (s : State) (me : Option Nat) (o : ObjEnt) (off n : Nat) (pid : Fin 16 := s.core.csr.pid)
    (k : PacketKind := .request) (src : Option Nat := me) : State × List Byte :=
  match paOf o off with
  | none => (s, objBytes s o off n)
  | some pa =>
    let s := takeBack (serve s (homeOf o pa) 0 n pid k src) me o off n
    (s, objBytes s o off n)

/-- A home request that writes: a COHERENT region's other holders lose the words first (09 R217). -/
def homeStore (s : State) (me : Option Nat) (o : ObjEnt) (off : Nat) (bs : List Byte) (tag atomic : Bool)
    (pid : Fin 16 := s.core.csr.pid) (k : PacketKind := .request) (src : Option Nat := me) : State :=
  match paOf o off with
  | none => s
  | some pa =>
    homePut (takeBack (serve s (homeOf o pa) bs.length 0 pid k src) me o off bs.length false) o off bs tag atomic pid

/-- A read-modify-write of `n` bytes of an object, one transaction at their home with its operand and its result: the
state that it leaves before it writes, and the bytes it has read (09 R209, R215; which bytes it moves is a DESIGN
CHOICE, log entry 71). -/
def homeTake (s : State) (me : Option Nat) (o : ObjEnt) (off n : Nat) (pid : Fin 16 := s.core.csr.pid)
    (k : PacketKind := .request) (src : Option Nat := me) : State × List Byte :=
  match paOf o off with
  | none => (s, objBytes s o off n)
  | some pa =>
    let s := takeBack (serve s (homeOf o pa) n n pid k src) me o off n false
    (s, objBytes s o off n)

/-- In host bias the host's lines of a block come back; its L1 words do not: the digest then describes the block as
committed (10 R248, R251, 14 R313). -/
def digRecall (s : State) (o : ObjEnt) (j : Nat) : State :=
  (granules (j * dcfgB o.dcfg) (dcfgB o.dcfg)).foldl (fun s g => ((paOf o g.1).map (hostRecall s)).getD s) s

/-- The digest of block `j` as a home read returns it, none while its line waits: ordered as a read of the block, of
which the L1s' words have no part; an error in its store line makes it claim nothing (10 R248, 11 R256, R267). -/
def digGet (s : State) (o : ObjEnt) (j core : Nat) (pid : Fin 16 := s.core.csr.pid) : State × Option Digest :=
  let r := digLines (digRecall s o j) o j core pid false
  (r.1, if r.2 = .busy then none else some (digRead r.1.base.mem o j))

/-- The frames of a core in the set that block `b` falls into, the longest held first (00 R1; the set of a block is a
DESIGN CHOICE, log entry 23). -/
def l1Frames (c : Core) (b : Nat) : List Nat :=
  ((c.l1.filter (fun w => w.pa / 128 % Config.l1Sets == b % Config.l1Sets)).map (fun w => w.pa / 128)).eraseDups

/-- Room for a frame of the bytes at `pa` in the current core's L1: a full set loses a frame, whose dirty words are
written back and commit (10 R233; which one is a free value, log entry 23). -/
def l1Room (s : State) (pa : Nat) : State :=
  let fs := l1Frames s.core (pa / 128)
  if fs.contains (pa / 128) || fs.length < Config.l1Ways then s
  else
    let v := fs.getD (Config.l1Victim s.gtc s.core.id pa).val 0
    dropWords (writeBack s s.core.id (fun w => w.pa / 128 == v)) s.core.id (fun w => w.pa / 128 == v)

/-- Whether the current core's L1 holds a valid word at `pa`. -/
def l1Has (s : State) (pa : Nat) : Bool := s.core.l1.any (fun w => w.pa == pa)

/-- Fetching the word at offset `off` (a multiple of 8) into the current core's L1, valid and clean; a valid word
stays as it is (10 R233). A clean word of the same 16-byte granule is fetched again with it, so that the two words of
a capability and its tag come from one transaction (10 R249, DEDUCED, log entry 59). -/
def l1Fill (s : State) (o : ObjEnt) (off : Nat) : State :=
  match paOf o off with
  | none => s
  | some pa =>
    if l1Has s pa then s
    else
      let s := l1Room s pa
      let g := pa / 16 * 16
      let mate := 2 * g + 8 - pa
      let both := s.core.l1.any (fun w => w.pa == mate && !w.dirty)
      let (s, bs) := homeGet s (some s.core.id) o (if both then off / 16 * 16 else off) (if both then 16 else 8)
      let t := tagAt s.base pa
      let at_ := fun (p : Nat) => word (bytesNat ((bs.drop (if both then p - g else 0)).take 8))
      let l1 := if both then s.core.l1.map (fun w => if w.pa = mate then { w with val := at_ mate, tag := t } else w) else s.core.l1
      { s with
        core := { s.core with l1 := l1 ++ [⟨pa, o.oid, off, at_ pa, t, false, false⟩] }
        base := { s.base with dir := if o.coh then dirAdd s.base.dir s.core.id pa 8 false else s.base.dir } }

/-- The `n` bytes from `off`, at most 16 and inside aligned words, that the L1 serves, with the granule's tag. -/
def l1Read (s : State) (o : ObjEnt) (off n : Nat) : State × List Byte × Bool :=
  let w0 := off / 8
  let ks := List.range ((off + n - 1) / 8 + 1 - w0)
  let s := ks.foldl (fun s k => l1Fill s o (8 * (w0 + k))) s
  let ws := ks.filterMap (fun k => (paOf o (8 * (w0 + k))).bind (fun pa => s.core.l1.find? (fun w => w.pa == pa)))
  let bs := (ws.map (fun w => wordBytes w.val)).flatten
  (s, (bs.drop (off - 8 * w0)).take n, ws.all (fun w => w.tag) && !ws.isEmpty)

/-- The home grants a core ownership of a word of a COHERENT region: the other holders lose it, and the store counts
as committed, so that reservations on the word end (09 R217, R221, 10 R236). -/
def takeOwnership (s : State) (o : ObjEnt) (pa : Nat) : State :=
  if o.coh then
    let s := probe (hostRecall (serve s (homeOf o pa) 0 0 s.core.csr.pid) pa) (some s.core.id) pa 8 false
    onBase s (fun b => { b with resv := resvAfter b.resv pa 8, dir := dirAdd b.dir s.core.id pa 8 true })
  else s

/-- Storing bytes inside one aligned word into the current core's L1: a part of a word that is not valid has the word
fetched first (05 R129); the word becomes dirty and its granule's tag becomes `tag`. A word of a CSTC, `pair`, leaves
with the other one, also once a later store has changed it (10 R249). -/
def l1Store (s : State) (o : ObjEnt) (off : Nat) (bs : List Byte) (tag : Bool) (pair : Bool := false) : State :=
  let a := off / 8 * 8
  match paOf o a with
  | none => s
  | some pa =>
    let s := takeOwnership s o pa
    let s := if bs.length < 8 then l1Fill s o a else if l1Has s pa then s else l1Room s pa
    let was := s.core.l1.find? (fun w => w.pa == pa)
    let old := (was.map (fun w => wordBytes w.val)).getD []
    let new := old.take (off - a) ++ bs ++ old.drop (off - a + bs.length)
    let w : L1Word := ⟨pa, o.oid, a, word (bytesNat new), tag, true, pair || (was.map (fun w => w.pair)).getD false⟩
    let rest := (s.core.l1.filter (fun v => v.pa != pa)).map (fun v => if v.pa / 16 = pa / 16 then { v with tag := tag } else v)
    { s with core := { s.core with l1 := rest ++ [w] } }

/-! ## The store buffer (10 R232) -/

/-- What a buffered store asks for before it drains: the fetch of a word that it covers in part and the L1 does not
hold, as a load miss reads it; else the wake of a power-gated core whose dirty words it takes (09 R219). One that meets
an uncorrectable word is merged without a report (DESIGN CHOICE, log entry 60). -/
def drainFetch (s : State) (o : ObjEnt) (e : SbEnt) : State × Fetch :=
  if o.space = 2 && e.data.length < 8 && !((paOf o (e.off / 8 * 8)).map (l1Has s)).getD true then
    dramRead s o (e.off / 8 * 8) 8 s.core.id
  else wakeAsk s o e.off e.data.length

/-- The oldest entry drains: GLOBAL into the L1, HOST to its home, where it commits. It stays while its fetch waits. -/
def drainOne (s : State) : State :=
  match s.core.sb with
  | [] => s
  | e :: rest =>
    match findObj s e.oid with
    | none => { s with core := { s.core with sb := rest } }
    | some o =>
      let (s, r) := drainFetch s o e
      if r = .busy then s
      else
        let s := { s with core := { s.core with sb := rest } }
        if o.space = 2 then
          match e.tag with
          | none => l1Store s o e.off e.data false
          | some t => l1Store (l1Store s o e.off (e.data.take 8) t true) o (e.off + 8) (e.data.drop 8) t true
        else homeStore s (some s.core.id) o e.off e.data (e.tag == some true) false

/-- Draining the whole buffer, oldest first. -/
def drainAll (s : State) : State := (List.range s.core.sb.length).foldl (fun s _ => drainOne s) s

/-- The youngest buffered byte at an offset of an object. -/
def sbByte (sb : List SbEnt) (oid : BitVec 24) (off : Nat) : Option Byte :=
  (sb.reverse.find? (fun e => e.oid == oid && e.off ≤ off && off < e.off + e.data.length)).bind
    (fun e => e.data[off - e.off]?)

end Sys2Proof.Machine
end

