-- ==== Sys2Proof/Machine/Flags.lean ====
section
/-! DEFINITION. Machine/Flags.lean: the status, cause and flag words as software reads them, and what a write of each
changes (spec 04 R92 to R96, R104, R106, R110, 05 R119, R137). -/

namespace Sys2Proof.Machine

/-- STATUS (04 R93); FROZEN shows whether the core is frozen. -/
def statusWord (c : Core) : Word :=
  word (c.csr.seg.toNat * 2 ^ 10 + c.csr.pclass.toNat * 2 ^ 8 + b2n c.csr.epend 6 + b2n c.csr.engt 5
    + b2n (c.eng.freeze.isSome || c.throttled) 4 + b2n c.csr.pmode 1 + b2n c.csr.mode 0)

/-- CAUSE (04 R94). -/
def causeWord (code sub aux : Nat) (eng : Nat) (engf : Bool) (step : Nat) : Word :=
  word (code % 256 + b2n engf 9 + eng % 4 * 2 ^ 10 + sub % 256 * 2 ^ 16 + aux % 65536 * 2 ^ 24 + step % 2 ^ 24 * 2 ^ 40)

/-- The bits of CAUSE that a kernel write changes (04 R94). -/
def causeMask : Word := 0xFFFFFFFFFFFF0EFF

/-- The bits of RESF that a write changes (04 R106). -/
def resfMask : Word := 0xFFFFFFFFFFFFF003

/-- EXTDIST as a word (04 R96). -/
def extdistWord (d : BitVec 12) : Word := word (d.toNat * 2 ^ 12)

/-- Whether a CSR number is defined (04 R92). -/
def csrDefined (n : Nat) : Bool :=
  [0x000, 0x001, 0x002, 0x003, 0x004, 0x008, 0x009, 0x00A, 0x010, 0x011, 0x018, 0x019, 0x01A, 0x01B, 0x020, 0x021,
    0x022].contains n

/-- Read-only CSRs: SCC, GTC, PID (04 R92). -/
def csrRo (n : Nat) : Bool := [0x020, 0x021, 0x022].contains n

/-- CSRs that only kernel mode writes (04 R92). -/
def csrKernel (n : Nat) : Bool := [0x000, 0x001, 0x002, 0x003, 0x004, 0x019].contains n

/-- The value of a CSR; GTC is the state's (04 R92). -/
def csrGet (s : State) (n : Nat) : Word :=
  let r := s.core.csr
  match n with
  | 0x000 => statusWord s.core
  | 0x001 => r.tvec
  | 0x002 => r.epc
  | 0x003 => r.cause
  | 0x004 => r.badaddr
  | 0x008 => r.schmode.setWidth 64
  | 0x009 => r.qk.setWidth 64
  | 0x00A => extdistWord r.extdist
  | 0x010 => r.rngkey
  | 0x011 => r.rngctr
  | 0x018 => r.spflag.setWidth 64
  | 0x019 => r.spbad
  | 0x01A => r.resf
  | 0x01B => r.dstat.setWidth 64
  | 0x020 => word r.scc
  | 0x021 => word s.gtc
  | 0x022 => word r.pid.val
  | _ => 0

/-- The CSRs after a write of `v` to number `n`: reserved and read-only fields keep their values (04 R92, 05 R119). -/
def csrSet (r : Csr) (n : Nat) (v : Word) : Csr :=
  match n with
  | 0x000 => { r with pmode := v.getLsbD 1 }
  | 0x001 => { r with tvec := v }
  | 0x002 => { r with epc := v }
  | 0x003 => { r with cause := v &&& causeMask }
  | 0x004 => { r with badaddr := v }
  | 0x008 => { r with schmode := v.setWidth 2 }
  | 0x009 => { r with qk := v.setWidth 4 }
  | 0x00A => { r with extdist := v.extractLsb' 12 12 }
  | 0x010 => { r with rngkey := v }
  | 0x011 => { r with rngctr := v }
  | 0x018 => { r with spflag := v.setWidth 4 }
  | 0x019 => { r with spbad := v }
  | 0x01A => { r with resf := v &&& resfMask }
  | 0x01B => { r with dstat := v.setWidth 3 }
  | _ => r

/-- RESF after a load or CLDC of a non-resident extent: the first sets NR with its offset and register, a further one
sets MULT (04 R106). -/
def resfMiss (r : Word) (off : Nat) (cr : CReg) : Word :=
  if r.getLsbD 0 then r ||| 2 else (r &&& 2) ||| word (off % 2 ^ 48 * 2 ^ 16 + cr.val * 2 ^ 12 + 1)

/-- SPFLAG and SPBAD that record an out-of-range engine access at offset `off` (04 R95, R104). -/
def spRecord (r : Csr) (e : Eng) (wr : Bool) (off : Nat) : Csr :=
  { r with spflag := BitVec.ofNat 4 (1 + e.code * 2 + b2n wr 3), spbad := word off }

/-- The freeze state word of a context area (04 R110). -/
def freezeWord (f : Option Freeze) : Word :=
  match f with
  | none => 0
  | some f => word (f.cause % 256 + f.slot.val * 256 + f.eng.code * 2 ^ 12 + f.step % 2 ^ 24 * 2 ^ 16)

/-- RGCFG as a word (01 R6). -/
def rgcfgWord (r : Ring) : Word := word (b2n r.en 31 + r.lgsz * 2 ^ 24 + r.base)

/-- RGPTR as a word (01 R7). -/
def rgptrWord (r : Ring) : Word := word (r.head.toNat * 2 ^ 16 + r.tail.toNat)

/-- The engine's index in per-engine vectors. -/
def engIdx : Eng → Fin 3
  | .copy => 0 | .matrix => 1 | .vector => 2

end Sys2Proof.Machine
end

