-- ==== Sys2Proof/Machine/Stream.lean ====
section
/-! DEFINITION. Machine/Stream.lean: stream descriptors and the positions of streams, and the latency and rate of a copy (spec 06
R153 to R155, R160, R161, 07 R177 to R187). -/

namespace Sys2Proof.Machine

/-! ## Streams (06 R153 to R155, R160) -/

/-- The fields of a stream descriptor. -/
structure Strm where
  base  : Nat
  cnt0  : Nat
  cnt1  : Nat
  cnt2  : Nat
  str1  : Int
  str2  : Int
  hops  : Nat
  cls   : Nat
  space : Nat
  ty    : Nat
  creg  : Nat
  lnk   : Bool
  lq    : Nat
  isz   : Nat
  esz   : Nat
  bval  : Bool
  bcreg : Nat
  boff  : Nat
deriving DecidableEq, Repr

/-- Reading a descriptor (06 R153). -/
def strm (d : Desc) : Strm :=
  let w := fun (i : Fin 8) => (d[i]).toNat
  let or1 := fun (n : Nat) => if n = 0 then 1 else n
  { base := w 0, cnt0 := bitsOf (w 1) 31 0, cnt1 := or1 (bitsOf (w 1) 63 32), cnt2 := or1 (bitsOf (w 2) 31 0),
    str1 := (d[(3 : Fin 8)]).toInt, str2 := (d[(4 : Fin 8)]).toInt,
    hops := bitsOf (w 5) 55 50, cls := bitsOf (w 5) 49 47, space := bitsOf (w 5) 46 43, ty := bitsOf (w 5) 42 39,
    creg := bitsOf (w 5) 38 35, lnk := (w 5).testBit 34, lq := bitsOf (w 5) 33 30, isz := bitsOf (w 5) 29 28,
    esz := bitsOf (w 5) 27 25, bval := (w 5).testBit 24, bcreg := bitsOf (w 5) 23 20, boff := bitsOf (w 6) 47 0 }

/-- The length of a stream in bytes. -/
def strmLen (t : Strm) : Nat := if t.lnk then t.cnt0 * 2 ^ t.esz else t.cnt0 * t.cnt1 * t.cnt2

/-- The latency constant of a timing class (06 R160). -/
def clsLat (cls hops : Nat) : Nat :=
  match cls with
  | 0 => 6
  | 1 => 8
  | 2 => 38 + 2 * hops
  | 3 => 70 + 2 * hops
  | 4 => 48 + 2 * hops
  | 5 => 160 + 2 * hops
  | 6 => 420
  | _ => 1400

/-- The spaces a timing class admits (06 R160). -/
def clsAdmits (cls space : Nat) : Bool :=
  match cls with
  | 0 => space == 0
  | 1 => space == 1
  | 2 => space == 2
  | 3 => space == 2
  | 4 => space == 3 || space == 5
  | 5 => space == 3 || space == 5
  | 6 => space == 3 || space == 4
  | _ => space == 4

/-- The latency of a stream. -/
def strmLat (t : Strm) : Nat := clsLat t.cls t.hops

/-- The local store of a SPAD or ACC stream. -/
def strmStore (t : Strm) : Option Store := if t.space = 0 then some .spad else if t.space = 1 then some .acc else none

/-- How the positions of a stream find their addresses: its own runs, elements named by an index stream, or table
rows. -/
inductive Shape where
  | direct | linked | table
deriving DecidableEq, Repr

/-- A stream seen by a command: its shape, the indices read so far, and where its byte 0 stands among the command's
positions (06 R150). -/
structure View where
  t     : Strm
  shape : Shape
  idx   : List Nat
  pos0  : Nat
  len   : Nat
deriving DecidableEq, Repr

/-- A direct stream as a view. -/
def directView (t : Strm) (pos0 : Nat) : View := ⟨t, .direct, [], pos0, strmLen t⟩

/-- Bytes per run of a view. -/
def viewRun (v : View) : Nat := if v.shape = .linked then 2 ^ v.t.esz else v.t.cnt0

/-- The address of run `r`, if its index is known (06 R154, R155, 07 R178). -/
def viewBase (v : View) (r : Nat) : Option Int :=
  match v.shape with
  | .direct => some (v.t.base + (r / v.t.cnt1 : Nat) * v.t.str2 + (r % v.t.cnt1 : Nat) * v.t.str1)
  | .linked => (v.idx[r]?).map (fun i => ((v.t.base + i * 2 ^ v.t.esz : Nat) : Int))
  | .table => (v.idx[r]?).map (fun i => (v.t.base : Int) + i * v.t.str1)

/-- Splitting positions at run ends, with fuel. -/
def piecesGo (v : View) : Nat → Nat → Nat → List (Int × Nat × Nat)
  | 0, _, _ => []
  | f + 1, o, n =>
    if n = 0 ∨ viewRun v = 0 then []
    else
      let k := min n (viewRun v - o % viewRun v)
      match viewBase v (o / viewRun v) with
      | none => piecesGo v f (o + k) (n - k)
      | some a => (a + (o % viewRun v : Nat), o, k) :: piecesGo v f (o + k) (n - k)

/-- The bytes `o` to `o + n - 1` of a view as pieces inside one run: address, byte number, length. -/
def pieces (v : View) (o n : Nat) : List (Int × Nat × Nat) := piecesGo v n o n

/-- A read or written range of a local store, at an exact address. -/
abbrev Rng := Store × Int × Nat

/-- The local ranges that bytes of a view cover. -/
def viewRngs (v : View) (o n : Nat) : List Rng :=
  match strmStore v.t with
  | none => []
  | some st => (pieces v o n).map (fun p => (st, p.1, p.2.2))

/-- Rounding a quotient up. -/
def ceilDiv (a b : Nat) : Nat := (a + b - 1) / b

/-- Bytes of chunk `m` of `n` bytes moved `w` at a time. -/
def chunkLen (n w m : Nat) : Nat := min w (n - m * w)

/-- The stream that a command's destination, source and auxiliary descriptors hold. -/
def jD (j : Job) : Strm := strm j.snap.qd
def jS (j : Job) : Strm := strm j.snap.qs
def jX (j : Job) : Strm := strm j.snap.qx
def jLD (j : Job) : Strm := strm j.snap.lqd
def jLS (j : Job) : Strm := strm j.snap.lqs

/-! ## Copies (06 R149, R161) -/

/-- The channel of a copy (06 R149). -/
def chanOf : Instr → Option (Fin 4)
  | .cpy _ ch _ _ _ | .fill _ ch _ _ _ | .gather _ ch _ _ _ _ | .scatter _ ch _ _ _ _ | .scatadd _ ch _ _ _ _
  | .topkr _ ch _ _ _ _ _ _ | .topkc _ ch _ _ _ _ _ | .topkcTab _ ch _ _ _ _ _ _ | .compact _ ch _ _ _ _ _
  | .expand _ ch _ _ _ _ _ | .accrd _ ch _ _ _ _ | .accwr _ ch _ _ _ _ _ | .dscan _ ch _ _ _
  | .dskip _ ch _ _ _ _ _ _ => some ch
  | _ => none

/-- The latency of a copy: its slowest stream, and for DSKIP the digest and the data class (06 R161, 07 R177 to R187).
-/
def copyLat (j : Job) : Nat :=
  match j.cmd with
  | .fill _ _ _ _ _ => max 6 (strmLat (jD j))
  | .topkr _ _ _ _ _ _ _ _ | .topkc _ _ _ _ _ _ _ | .topkcTab _ _ _ _ _ _ _ _ =>
    max (max (strmLat (jD j)) (strmLat (jS j))) (strmLat (jX j))
  | .dskip _ _ _ _ _ _ dcls _ => strmLat (jS j) + clsLat dcls.val (jS j).hops
  | _ => max (strmLat (jD j)) (strmLat (jS j))

/-- Bytes per cycle of a copy (06 R161, 07). -/
def copyW (j : Job) : Nat :=
  let sp := fun (t : Strm) => t.space == 0
  match j.cmd with
  | .fill _ _ _ _ _ => if sp (jD j) then 128 else 64
  | .topkr _ _ _ _ _ _ _ _ | .topkc _ _ _ _ _ _ _ | .topkcTab _ _ _ _ _ _ _ _ =>
    if sp (jD j) && sp (jS j) && sp (jX j) then 128 else 64
  | .accrd _ _ _ _ _ _ | .accwr _ _ _ _ _ _ _ | .dscan _ _ _ _ _ | .dskip _ _ _ _ _ _ _ _ => 64
  | _ => if sp (jD j) && sp (jS j) then 128 else 64

end Sys2Proof.Machine
end

