-- ==== Sys2Proof/Machine/Lease.lean ====
section
/-! DEFINITION. Machine/Lease.lean: the context area, the end of a lease, and the completion of a launch (spec 04 R108 to
R112, 01 R35, R36, 05 R142, R144, 22 R393, R397, R399). -/

namespace Sys2Proof.Machine

/-! ## The context area (04 R109) -/

/-- An extent register's 16 bytes (06 R157). -/
def extRegNat (e : ExtReg) : Nat :=
  b2n e.v 0 + b2n e.res 1 + e.xidx.val * 16 + e.npg % 2 ^ 28 * 2 ^ 8 + e.pbase / 4096 % 2 ^ 44 * 2 ^ 36
    + e.ostart % 2 ^ 48 * 2 ^ 80

/-- The extent register that 16 bytes hold. -/
def extRegOf (n : Nat) : ExtReg :=
  ⟨n / 2 ^ 80 % 2 ^ 48, n / 2 ^ 36 % 2 ^ 44 * 4096, n / 2 ^ 8 % 2 ^ 28, Fin.ofNat 4 (n / 16), n.testBit 1, n.testBit 0⟩

/-- Counting from `n`, the end of the run of performed positions; `perf` is sorted by start. -/
def runEnd (perf : List (Nat × Nat)) (n : Nat) : Nat :=
  perf.foldl (fun n p => if p.1 ≤ n ∧ n < p.1 + p.2 then p.1 + p.2 else n) n

/-- The positions of the open copies of a channel that count, in issue order: all of a copy whose positions have all
performed or that has completed, and then those of the next one (06 R150). -/
def openCount (jobs : List Job) : Nat :=
  match jobs with
  | [] => 0
  | j :: js =>
    let n := if j.done then j.npos else min j.npos (runEnd j.perf 0)
    if n = j.npos then n + openCount js else n

/-- The write pointer of channel `ch` (06 R150). -/
def chanWp (e : Engines) (ch : Fin 4) : Nat :=
  (e.chans[ch].wpBase + openCount (e.jobs.filter (fun j => chanOf j.cmd == some ch))) % 2 ^ 48

/-- Copies in flight on channel `ch` (06 R149). -/
def chanCopies (e : Engines) (ch : Fin 4) : Nat := e.jobs.countP (fun j => chanOf j.cmd == some ch && !j.done)

/-- CHST of channel `ch` (06 R151). -/
def chstWord (e : Engines) (ch : Fin 4) : Word :=
  word (chanWp e ch + chanCopies e ch % 16 * 2 ^ 56 + b2n e.chans[ch].stopped 62)

/-- The header of a command. -/
def cmdHdr : Instr → Hdr
  | .engineHint _ h _ => h
  | .cnop h | .qld h _ _ | .cpy h _ _ _ _ | .fill h _ _ _ _ | .gather h _ _ _ _ _ | .scatter h _ _ _ _ _
  | .scatadd h _ _ _ _ _ | .topkr h _ _ _ _ _ _ _ | .topkc h _ _ _ _ _ _ | .topkcTab h _ _ _ _ _ _ _
  | .compact h _ _ _ _ _ _ | .expand h _ _ _ _ _ _ | .accrd h _ _ _ _ _ | .accwr h _ _ _ _ _ _ | .dscan h _ _ _ _
  | .dskip h _ _ _ _ _ _ _ | .prefetch h _ _ | .evict h _ _ | .chkarm h _ _ _ _ => h
  | .mnop h | .wload h _ _ | .wconst h _ _ _ _ _ | .wfree h _ | .mma h _ _ _ _ _ | .mmat h _ _ _ _ _
  | .mmaz h _ _ _ _ _ | .accz h _ | .slmap h _ _ _ | .slclr h _ _ _ | .slspill h _ _ | .slfill h _ _
  | .bind h _ _ _ _ _ _ | .drain h _ _ _ | .drainq h _ _ _ => h
  | .vnop h | .vwin h _ _ _ _ | .vmov h _ _ _ _ _ | .vadd h _ _ _ _ _ _ _ | .vsub h _ _ _ _ _ _ _
  | .vmul h _ _ _ _ _ _ | .vfma h _ _ _ _ _ _ | .vmin h _ _ _ _ _ | .vmax h _ _ _ _ _ | .vabs h _ _ _ _
  | .vneg h _ _ _ _ | .vdiv h _ _ _ _ _ _ | .vsqrt h _ _ _ _ _ | .vrsq h _ _ _ _ _ | .vrcp h _ _ _ _ _
  | .vexp2 h _ _ _ _ _ | .vlog2 h _ _ _ _ _ | .vcvt h _ _ _ _ _ _ _ | .vand h _ _ _ _ _ | .vor h _ _ _ _ _
  | .vxor h _ _ _ _ _ | .vshl h _ _ _ _ _ _ _ | .vshr h _ _ _ _ _ _ _ | .vshra h _ _ _ _ _ _ _ | .vpopc h _ _ _ _
  | .vctz h _ _ _ _ | .vclmul h _ _ _ _ _ _ | .vpxor h _ _ _ _ _ _ _ | .vpsum h _ _ _ _ _ | .vred h _ _ _ _ _ _
  | .vcmp h _ _ _ _ _ _ | .vsel h _ _ _ _ _ | .vbcast h _ _ _ _ _ _ | .viota h _ _ _ _ | .vperm h _ _ _ _ _
  | .vcompr h _ _ _ _ _ | .vld h _ _ _ _ | .vldg h _ _ _ _ _ _ | .vst h _ _ _ _ | .vstg h _ _ _ _ _
  | .vmtest h _ _ _ _ _ _ | .mand h _ _ _ _ | .mor h _ _ _ _ | .mnot h _ _ | .mpop h _ _ _ _ => h
  | _ => ⟨0, 0, 0, 0⟩

/-- The 80 bytes that hold a value of an ACCUMULATE record: 16 bits of exponent, 576 of magnitude, then sign, kind
and whether finite terms overflowed to it (DESIGN CHOICE, log entry 11). -/
def heldBytes (h : Addend) : List Byte :=
  natBytes 80 (b2n h.ovfl 597 + match h.val with
    | .fin m e => wrapN 16 e + m.natAbs % 2 ^ 576 * 2 ^ 16 + b2n (decide (m < 0)) 592
    | .nan => 2 ^ 593
    | .inf n => 2 ^ 594 + b2n n 592
    | .zero .pos => 2 ^ 595
    | .zero .neg => 2 ^ 595 + 2 ^ 592
    | .zero .mix => 2 ^ 596)

/-- The value that 80 bytes hold. -/
def heldVal (bs : List Byte) : Addend :=
  let n := bytesNat bs
  let neg := n.testBit 592
  let m := bitsOf n 591 16
  let v : XVal :=
    if n.testBit 593 then .nan
    else if n.testBit 594 then .inf neg
    else if n.testBit 596 then .zero .mix
    else if n.testBit 595 || m = 0 then .zero (if neg then .neg else .pos)
    else .fin (if neg then -(m : Int) else m) (sextN 16 (bitsOf n 15 0))
  ⟨v, n.testBit 597⟩

/-- A cleared range as pieces of zero bytes that one record can hold. -/
def zeroPieces (p : Pend) (r : Nat × Nat) : List Pend :=
  (List.range ((r.2 + 65535) / 65536)).map (fun k =>
    let n := min 65536 (r.2 - 65536 * k)
    { p with w := .bytes .acc ((List.range n).map (fun i => (((r.1 + 65536 * k + i : Nat) : Int), (0 : Byte)))) })

/-- A write in flight as records hold it: cleared ranges as zero bytes. -/
def flatPend (p : Pend) : List Pend :=
  match p.w with
  | .zero rs => rs.flatMap (zeroPieces p)
  | _ => [p]

/-- The code of a store in a record's SPACE, and the store of a code (01 R27). -/
def storeCode : Store → Nat
  | .spad => 0
  | .acc => 1
  | _ => 2
def storeOf (n : Nat) : Store := if n = 0 then .spad else if n = 1 then .acc else .wpl

/-- SPACE, DST and LEN of a write (01 R27, 19 R358). -/
def pendPlace (p : Pend) : Nat × Nat × Nat :=
  match p.w with
  | .bytes st ws => (storeCode st, wrapN 64 ((ws.head?.map Prod.fst).getD 0), ws.length)
  | .accum st _ _ hs => (storeCode st, wrapN 64 ((hs.head?.bind (fun h => h.1.head?)).getD 0), (hs.map (fun h => h.1.length)).sum)
  | .mask k _ => (0, 0x800000 + 16 * k.val, 16)
  | .maskPart ws => (0, 0x800000 + (ws.head?.map Prod.fst).getD 0, ws.length)
  | .weight we d sd _ => (2, 8192 * we.val, d.length + sd.length)
  | .zero _ => (1, 0, 0)

/-- The data of a write. -/
def pendData (p : Pend) : List Byte :=
  match p.w with
  | .bytes _ ws => ws.map Prod.snd
  | .accum _ _ _ hs => (hs.map (fun h => heldBytes h.2)).flatten
  | .mask _ v => natBytes 16 v.toNat
  | .maskPart ws => ws.map Prod.snd
  | .weight _ d sd _ => d ++ sd
  | .zero _ => []

/-- RATE of a command's records: a copy's bytes perform 64 or 128 a cycle (01 R27, 06 R161). -/
def recRate (j : Job) : Nat := if (chanOf j.cmd).isSome then (if copyW j = 128 then 2 else 1) else 0

/-- When byte `n` of a record performs after its first. -/
def rateOff (rate n : Nat) : Nat := if rate = 1 then n / 64 else if rate = 2 then n / 128 else 0

/-- Whether write `p` continues the record that `f` begins and `l` ends: the next bytes of the same run, performing as
RATE says. -/
def joinsRec (rate : Nat) (f l p : Pend) : Bool :=
  match l.w, p.w with
  | .bytes st ws, .bytes st' ws' =>
    rate != 0 && f.job == p.job && st == st' && l.arrived == p.arrived && p.pos == l.pos + l.len &&
    (ws'.head?.map Prod.fst) == (ws.getLast?.map (fun q => q.1 + 1)) && p.pcyc == f.pcyc + rateOff rate (p.pos - f.pos) &&
    rateOff rate (p.pos - f.pos) == rateOff rate (p.pos - f.pos + p.len - 1) && p.pos + p.len ≤ f.pos + 65536
  | _, _ => false

/-- Adding a write to the records: at the end of the one that it continues, else as one of its own. -/
def addRec (rate : Pend → Nat) (gs : List (List Pend)) (p : Pend) : List (List Pend) :=
  match gs with
  | [] => [[p]]
  | g :: t =>
    if (match g.head?, g.getLast? with
      | some f, some l => joinsRec (rate f) f l p
      | _, _ => false) then (g ++ [p]) :: t
    else g :: addRec rate t p

/-- The command of a write. -/
def pendJob (jobs : List Job) (p : Pend) : Option Job := jobs.find? (fun j => j.id == p.job)

/-- The records of the writes in flight, in order (01 R27). -/
def records (jobs : List Job) (ps : List Pend) : List (List Pend) :=
  (ps.flatMap flatPend).foldl (addRec (fun p => ((pendJob jobs p).map recRate).getD 0)) []

/-- Whether a record's data has not arrived; a mask is kept as STORE, arrived or not (19 R358). -/
def isPending (p : Pend) : Bool :=
  match p.w with
  | .mask _ _ | .maskPart _ => false
  | _ => !p.arrived

/-- An in-flight record's 16 bytes (01 R27), with the data at DOFF; `scc` is the SCC of the save. -/
def recordNat (scc : Nat) (jobs : List Job) (g : List Pend) (doff : Nat) : Nat :=
  match g with
  | [] => 0
  | p :: _ =>
    let j := pendJob jobs p
    let kind := if isPending p then 3 else match p.w with
      | .accum _ _ _ _ => 2
      | _ => 1
    let pl := pendPlace p
    let len := (g.map (fun q => (pendPlace q).2.2)).sum
    kind * 2 ^ 120 + p.eng.code * 2 ^ 118 + ((j.map (fun j => j.sset.val)).getD 0) * 2 ^ 114 + ((j.map recRate).getD 0) * 2 ^ 112
      + pl.1 % 4 * 2 ^ 110 + wrapN 22 ((p.pcyc : Int) - scc) * 2 ^ 88 + pl.2.1 % 2 ^ 24 * 2 ^ 40 + len % 2 ^ 16 * 2 ^ 24
      + doff % 2 ^ 24

/-- What names the source of a command's data: GBASE and GCTL of a VLDG, MXSPILL of an SLFILL, else the descriptor of
QS (19 R359, 15 R324, 06 R153). -/
def sourceWords (j : Job) : List Word :=
  match j.cmd with
  | .vldg _ _ _ _ _ _ _ => [j.snap.gbase, j.snap.gctl]
  | .slfill _ _ _ => [j.snap.mxspill]
  | _ => j.snap.qs.toList

/-- The bytes that a record has at DOFF: its data, or for PENDING the descriptor of its command's source (01 R27). -/
def recordData (jobs : List Job) (g : List Pend) : List Byte :=
  match g with
  | [] => []
  | p :: _ =>
    if isPending p then (pendJob jobs p).elim [] (fun j => (sourceWords j).flatMap wordBytes) else g.flatMap pendData

/-- Whether a command is partly executed: steps to read or to form are left. -/
def partly (j : Job) : Bool := !j.done && (j.step < j.nsteps || j.formed < j.nsteps)

/-- NSTEP of a PROGRESS record: the next step, for a copy in W-byte units of o (01 R27, 06 R168). -/
def stepUnit (j : Job) : Nat :=
  match j.cmd with
  | .cpy _ _ _ _ _ => j.formed - (if (jS j).lnk || (jD j).lnk then 2 else 0)
  | .fill _ _ _ _ _ => j.formed - (if (jD j).lnk then 2 else 0)
  | .dskip _ _ _ _ _ _ _ _ =>
    let b := (j.snap.objS.map (fun o => dcfgB o.dcfg)).getD 64
    if b < 64 then j.formed * b / 64 else j.formed
  | .gather _ _ _ _ _ _ =>
    let r := max 1 (ceilDiv (jS j).cnt0 (copyW j))
    ((j.formed - 2) / r * (jS j).cnt0 + (j.formed - 2) % r * copyW j) / copyW j
  | .scatter _ _ _ _ _ _ | .scatadd _ _ _ _ _ _ =>
    let r := max 1 (ceilDiv (jD j).cnt0 (copyW j))
    ((j.formed - 2) / r * (jD j).cnt0 + (j.formed - 2) % r * copyW j) / copyW j
  | .accrd _ _ _ _ _ _ | .accwr _ _ _ _ _ _ _ =>
    let sz := max (tySize (jS j).ty) (tySize (jD j).ty)
    j.formed * (64 / max 1 sz) * tySize (jD j).ty / 64
  | _ => j.formed

/-- The ring word that a command was read from. -/
def cmdWord (j : Job) : Word :=
  match cmdFields j.cmd with
  | some (_, f) => f.pack
  | none => 0

/-- The channel-check state of a command (01 R18, R27): the write pointer of the channel that it checks once the
copies issued before it have delivered. -/
def checkState (e : Engines) (j : Job) : Nat :=
  let k := (cmdHdr j.cmd).schk.val
  if k < 12 then 0
  else j.chk.getD <|
    let ch := Fin.ofNat 4 (k - 12)
    let before := (e.jobs.filter (fun c => c.id < j.id && chanOf c.cmd == some ch)).map (fun c => c.npos)
    ((e.chans[ch]).wpBase + before.sum) % 2 ^ 48

/-- A PROGRESS record, and the command word, issue cycle, channel-check state and format word that it keeps at DOFF
(01 R27, 15 R332), and after them what a selection has gathered (07 R180). -/
def progressNat (j : Job) (doff : Nat) : Nat :=
  4 * 2 ^ 120 + j.eng.code * 2 ^ 118 + j.sset.val * 2 ^ 114 + stepUnit j % 2 ^ 24 * 2 ^ 64 + doff % 2 ^ 24
def progressData (e : Engines) (j : Job) : List Byte :=
  wordBytes (cmdWord j) ++ wordBytes (word j.iss) ++ wordBytes (word (checkState e j)) ++ wordBytes j.snap.fmt ++ j.buf

/-- The records and data of the commands and writes in flight (01 R27): 512 records and 256 KiB are what the area
holds (04 R109). -/
def inflightArea (e : Engines) (scc : Nat) : List Nat × List Byte :=
  let pad := fun (bs : List Byte) => bs ++ List.replicate ((64 - bs.length % 64) % 64) 0
  let r := (records e.jobs e.pends).foldl (fun (acc : List Nat × List Byte) g =>
    (acc.1 ++ [recordNat scc e.jobs g (acc.2.length / 64)], acc.2 ++ pad (recordData e.jobs g))) ([], [])
  let r := (e.jobs.filter partly).foldl (fun (acc : List Nat × List Byte) j =>
    (acc.1 ++ [progressNat j (acc.2.length / 64)], acc.2 ++ pad (progressData e j))) r
  (r.1.take 512, r.2.take 262144)

/-- The slot state of tile `t` as 128 bytes of the context (15 R332). -/
def tileArea (e : Engines) (t : Fin 16) : List Byte :=
  let k := e.tiles[t]
  let slots := k.slots.toList
  (slots.map (fun l => BitVec.ofNat 8 ((l.map Fin.val).getD 0))) ++
  [BitVec.ofNat 8 ((slots.zipIdx.map (fun p => b2n p.1.isSome p.2)).foldl (· + ·) 0), BitVec.ofNat 8 k.ttype.val] ++
  ((List.finRange 8).map (fun s => match k.use.findIdx? (· == s) with
    | some r => BitVec.ofNat 8 r
    | none => 0xFF)) ++
  List.replicate 14 0 ++ natBytes 32 k.spilled.toNat ++
  ((List.range 8).map (fun m => match e.wtag[(Fin.ofNat 128 (8 * t.val + m))] with
    | some ty => BitVec.ofNat 8 ty.val
    | none => 0xFF)) ++
  (if t = 0 then wordBytes e.mxspill else List.replicate 8 0) ++ List.replicate 48 0

/-- A ring's state word (04 R109): arrived, idle, ALIGN number awaited. -/
def ringStateWord (r : Ring) (arrived : Bool) (n : Nat) : Word := word (b2n arrived 0 + b2n r.idle 1 + n * 256)

/-- The context area of core `c` at `pa`, all of it (04 R109); `arr` gives each ring's arrival and ALIGN number. -/
def ctxWrite (m : Mem) (s : State) (c : Core) (pa : Nat) (arr : Fin 3 → Bool × Nat) : Mem :=
  let e := c.eng
  let (recs, data) := inflightArea e c.csr.scc
  let puts : List (Nat × Nat × Nat) :=
    [(0, 8, 1 + 0x764 * 2 ^ 32), (8, 8, c.csr.scc), (16, 8, c.seq.pc.toNat),
     (24, 8, if e.freeze.isNone && c.throttled then 7 else (freezeWord e.freeze).toNat),
     (32, 8, recs.length % 1024 + data.length / 64 % 2 ^ 20 * 2 ^ 12)] ++
    (c.seq.x.toList.zipIdx.map (fun p => (0x40 + 8 * p.2, 8, p.1.toNat))) ++
    ((c.seq.c.toList.zipIdx.map (fun p =>
      [(0x240 + 32 * p.2, 16, p.1.bits.toNat), (0x250 + 32 * p.2, 8, p.1.cursor.toNat), (0x258 + 32 * p.2, 1, b2n p.1.tag 0)])).flatten) ++
    ((List.range 0x23).map (fun n => (0x440 + 8 * n, 8, (csrGet { s with core := c } n).toNat))) ++
    ((List.finRange 3).map (fun k =>
      [(0x560 + 24 * k.val, 8, (rgcfgWord e.rings[k]).toNat), (0x568 + 24 * k.val, 8, (rgptrWord e.rings[k]).toNat),
       (0x570 + 24 * k.val, 8, (ringStateWord e.rings[k] (arr k).1 (arr k).2).toNat)])).flatten ++
    [(0x5C0, 8, e.fq.length)] ++ (e.fq.zipIdx.map (fun p => (0x5C8 + 8 * p.2, 8, p.1.1.toNat))) ++
    ((List.range 11).map (fun k => (0x700 + 4 * k, 4,
      (e.slots[(Fin.ofNat 16 (k + 1))]).iss.toNat + (e.slots[(Fin.ofNat 16 (k + 1))]).comp.toNat * 65536))) ++
    ((List.finRange 4).map (fun k =>
      [(0x740 + 32 * k.val, 8, (chstWord e k).toNat), (0x748 + 32 * k.val, 8, e.chans[k].issued % 2 ^ 48),
       (0x750 + 32 * k.val, 8, e.chans[k].undel.toNat)])).flatten ++
    ((e.qs.toList.zipIdx.map (fun p => p.1.toList.zipIdx.map (fun w => (0x1000 + 64 * p.2 + 8 * w.2, 8, w.1.toNat)))).flatten) ++
    ((List.range 16).map (fun k => [(0x1400 + 32 * k, 16, extRegNat (e.ext[(Fin.ofNat 20 k)]).cur),
      (0x1410 + 32 * k, 16, extRegNat (e.ext[(Fin.ofNat 20 k)]).nxt)])).flatten ++
    ((List.finRange 4).map (fun k => [(0x1600 + 64 * k.val, 8, (e.gbase[k]).toNat), (0x1608 + 64 * k.val, 8, (e.gctl[k]).toNat),
      (0x1620 + 64 * k.val, 16, extRegNat (e.ext[(Fin.ofNat 20 (16 + k.val))]).cur),
      (0x1630 + 64 * k.val, 16, extRegNat (e.ext[(Fin.ofNat 20 (16 + k.val))]).nxt)])).flatten ++
    (e.masks.toList.zipIdx.map (fun p => (0x1700 + 16 * p.2, 16, p.1.toNat))) ++
    [(0x1780, 8, e.vfcr.toNat), (0x1788, 8, e.vwst.toNat)] ++
    (recs.zipIdx.map (fun p => (0x2000 + 16 * p.2, 16, p.1)))
  let m := memClear m pa Config.ctxSize
  let m := puts.foldl (fun m p => memPut m (pa + p.1) p.2.1 p.2.2) m
  let m := (List.finRange 16).foldl (fun m t => memWriteL m (pa + 0x1800 + 128 * t.val) (tileArea e t)) m
  let m := memWriteL m (pa + 0x4000) data
  let m := memWrites m (memMove e.spad 0 Config.spadSize (pa + 0x44000))
  let m := memWrites m (memMove e.acc 0 Config.accSize (pa + 0x444000))
  let m := memWrites m (memMove e.wpl 0 0x100000 (pa + 0x644000))
  memWrites m (memMove e.side 0 0x20000 (pa + 0x744000))

/-- The entry at the head of ring `k` that engines see, if one is published (01 R8). -/
def ringWord (e : Engines) (k : Fin 3) : Option Word :=
  let r := e.rings[k]
  if r.en && r.vis != r.head then
    let sz := 2 ^ r.lgsz
    some (memWord e.spad (r.base / (8 * sz) * (8 * sz) + 8 * (r.head.toNat % sz)))
  else none

/-- The ALIGN number that ring `k` has arrived with in an earlier place, or that stands at its head. -/
def ringAlign (e : Engines) (k : Fin 3) : Option (Fin 64) :=
  (if e.rings[k].en then e.rings[k].arr else none).orElse fun _ => match ringWord e k with
  | none => none
  | some w => let f := CmdFields.unpack w; if f.wk = 1 then some f.wv else none

/-- Whether every write of a command has performed. -/
def jobPerformed (e : Engines) (j : Job) : Bool :=
  j.nsteps ≤ j.step && j.nsteps ≤ j.formed && j.stop.isNone && !e.pends.any (fun p => p.job == j.id) &&
  !e.transit.any (fun t => t.job == j.id)

/-- Whether ring `k` has arrived: an ALIGN is its head, and every earlier command of its engine has performed all its
writes; a ring with EN 0 counts as arrived, and one that a resumed context brought as arrived is (01 R13, R35). -/
def ringArrived (e : Engines) (k : Fin 3) : Bool :=
  !e.rings[k].en || e.rings[k].arr.isSome || ((ringAlign e k).isSome && !e.jobs.any (fun j => engIdx j.eng == k && !(j.done || jobPerformed e j)))

/-- Arrival and ALIGN number of ring `k`, for the context area and RSTAT (05 R137). -/
def ringArr (e : Engines) (k : Fin 3) : Bool × Nat :=
  if e.rings[k].en && ringArrived e k then (true, ((ringAlign e k).map Fin.val).getD 0) else (false, 0)

/-! ## Pins and power -/

/-- A lease's pins end: those looked up through a capability with P stay with the launch (22 R393). -/
def releasePins (s : State) (pins : List TEnt) (launch : BitVec 32) : State :=
  let s := pins.foldl (fun s t => if t.long then s else onObj s t.oid (fun o => { o with pins := o.pins - 1 })) s
  let long := (pins.filter (fun t => t.long)).map (fun t => t.oid)
  let ls := s.base.launches.map (fun l => if l.id = launch then { l with pins := l.pins ++ long } else l)
  { s with base := { s.base with launches := ls } }

/-- The cost a core's held class puts on its die (22 R399). -/
def powerCost (s : State) (c : Core) : Nat :=
  match c.power with
  | none => 0
  | some k => (s.base.dies[dieOf c.id]).costs[k]

/-- The sum of held costs of a die (22 R399). -/
def powerHeld (s : State) (d : Fin 8) : Nat :=
  ((s.core :: s.others).filter (fun c => dieOf c.id == d)).foldl (fun n c => n + powerCost s c) 0

/-! ## The completion of a launch (22 R397) -/

/-- The `n`-byte number at offset `off` of a record. -/
def recNat (d : List Byte) (off n : Nat) : Nat := bytesNat ((d.drop off).take n)

/-- The type of a capture record (22 R403). -/
def capType (r : List Byte) : Nat := recNat r 0 1

/-- The first number above `n` whose 32 bits are no id of a list. -/
def freshId (used : List (BitVec 32)) (n : Nat) : Nat :=
  (((List.range (used.length + 1)).map (fun i => n + 1 + i)).find? (fun k => !used.contains (BitVec.ofNat 32 k))).getD (n + 1)

/-- The ids of the live launches: those accepted whose completion record is not yet written (05 R147). -/
def launchIds (s : State) : List (BitVec 32) :=
  s.base.launches.map (fun l => l.id) ++ s.base.queues.toList.flatMap (fun q => q.map (fun x => x.id))

/-- The ids of the live leases: on a core, in a saved context that can resume, or waiting to be reissued (01 R31). -/
def leaseIds (s : State) : List (BitVec 32) :=
  ((s.core :: s.others).filterMap (fun c => c.lease) ++ (s.base.ctxs.filter (fun x => !x.faulted)).map (fun x => x.lease) ++
    s.base.launches.flatMap (fun l => l.rerun)).map (fun l => l.id)

/-- The launch ids that a replay has still to bring (22 R403, R404). -/
def replayIds (s : State) : List (BitVec 32) :=
  (s.base.replay.map (fun r => (r.recs.filter (fun a => capType a == 1)).map (fun a => BitVec.ofNat 32 (recNat a 16 8)))).getD []

/-- Whether a replay has a lease of launch `id` yet to start (22 R404). -/
def startsToCome (s : State) (id : BitVec 32) : Bool :=
  (s.base.replay.map (fun r => r.recs.any (fun a => capType a == 2 && BitVec.ofNat 32 (recNat a 16 4) == id))).getD false

/-- Whether every iteration of every stage has started and every lease has ended. -/
def launchDone (l : Launch) : Bool :=
  l.live == 0 && l.rerun.isEmpty && l.stages.all (fun g => l.total ≤ g.next)

/-- The bytes of a completion record: STATUS, counts, GTC and entries; entries beyond the area are dropped and set
OVF. -/
def completionBytes (l : Launch) (gtc status reason : Nat) : List Byte :=
  let room := (l.area - 64) / 32
  let ovf := decide (room < l.ents.length)
  natBytes 8 (status + reason * 256 + b2n ovf 16 + l.id.toNat * 2 ^ 32) ++ natBytes 8 l.retired ++ natBytes 8 l.interrupts ++
  natBytes 8 l.faulted ++ natBytes 8 gtc ++ List.replicate 24 0 ++
  ((l.ents.take room).map (fun e =>
    (e.idx.toList.map (fun i => natBytes 4 i.toNat)).flatten ++ natBytes 1 e.stage.val ++ natBytes 1 e.kind.val ++
      natBytes 2 0 ++ natBytes 4 e.lease.toNat ++ natBytes 8 e.ctx)).flatten

/-- The base writes bytes of an object at its homes, 8 at a time, for partition `pid`. -/
def homePutLong (s : State) (o : ObjEnt) (off : Nat) (bs : List Byte) (pid : Fin 16) : State :=
  (List.range ((bs.length + 7) / 8)).foldl (fun s k =>
    let off := off + 8 * k
    if ((paOf o off).map (fun pa => hostDrops s pa 8)).getD true then s
    else homeStore s none o off ((bs.drop (8 * k)).take 8) false false pid) s

/-- Reporting a launch: the completion record commits before its event of kind 2; the launch and its stage queues end,
and its long pins are released (22 R393, R397). -/
def reportLaunch (s : State) (l : Launch) (status reason : Nat) : State :=
  let (s, pa) := match findObj s l.complOid with
    | none => (s, 0)
    | some o => (homePutLong s o l.complOff (completionBytes l s.gtc status reason) l.pid, (paOf o l.complOff).getD 0)
  let s := l.pins.foldl (fun s oid => onObj s oid (fun o => { o with pins := o.pins - 1 })) s
  let s := { s with base := { s.base with
    launches := s.base.launches.filter (fun k => k.id != l.id),
    stageqs := s.base.stageqs.filter (fun q => q.launch != l.id) } }
  logEvent s 2 pa 0 l.pid.val

/-- Completing a launch whose last lease has ended. FAULTED takes precedence over ABORTED, and ABORTED over DONE. -/
def finishLaunch (s : State) (id : BitVec 32) : State :=
  match s.base.launches.find? (fun l => l.id == id) with
  | none => s
  | some l =>
    if launchDone l && !startsToCome s id then reportLaunch s l (if l.faulted ≠ 0 then 3 else if l.aborted then 2 else 0) 0 else s

/-- Changing the launch `id`. -/
def onLaunch (s : State) (id : BitVec 32) (f : Launch → Launch) : State :=
  let ls := s.base.launches.map (fun l => if l.id = id then f l else l)
  { s with base := { s.base with launches := ls } }

/-! ## Engine writes at their homes (01 R24, 09 R223, 07 R179) -/

/-- Bytes of the list that fall into no tagged block, as runs at rising addresses. -/
def untagged (b : Base) (o : ObjEnt) (off : Nat) (bs : List Byte) : List (Nat × List Byte) :=
  bs.zipIdx.foldr (fun p acc =>
    let x := off + p.2
    if ((paOf o x).map (fun pa => tagged b pa 1)).getD false then acc
    else match acc with
      | (y, l) :: t => if y = x + 1 then (x, p.1 :: l) :: t else (x, [p.1]) :: acc
      | [] => [(x, [p.1])]) []

/-- An engine writes bytes at their home; those in a tagged block are dropped, or all of them when they are `one`
element, and the first such offset is given (09 R223, 20 R384). -/
def landBytes (s : State) (o : ObjEnt) (off : Nat) (bs : List Byte) (one : Bool) : State × Option Nat :=
  let free := untagged s.base o off bs
  let parts := if one && free != [(off, bs)] then [] else free
  let s := parts.foldl (fun s p => homeStore s none o p.1 p.2 false false (k := .bulk) (src := some s.core.id)) s
  let lost := (List.range bs.length).find? (fun i => !parts.any (fun p => p.1 ≤ off + i && off + i < p.1 + p.2.length))
  (s, lost.map (fun i => off + i))

/-- One read-modify-write of `n` bytes of an object by an engine, dropped when any of them lies in a tagged block (09
R223). -/
def landAtomic (s : State) (o : ObjEnt) (off n : Nat) (f : Nat → Nat) : State × Option Nat :=
  if (List.range n).any (fun i => ((paOf o (off + i)).map (fun pa => tagged s.base pa 1)).getD false) then (s, some off)
  else
    let (s, old) := homeTake (dramRead s o off n s.core.id).1 none o off n (k := .bulk) (src := some s.core.id)
    (homePut s o off (natBytes n (f (bytesNat old))) false true, none)

/-- One element added at its home in one transaction (07 R179, 06 R166). -/
def landAdd (s : State) (o : ObjEnt) (off ty v : Nat) : State × Option Nat :=
  landAtomic s o off (tySize ty) (fun old => addTy 0 ty old v)

/-- Whether an engine's write can be applied at its home: the element that an add changes is read there, bytes pass to
their homes (08 R191, R192, 09 R219). -/
def landFetch (s : State) (t : Transit) : State × Fetch :=
  match t.w, findObj s t.oid with
  | .add _ ty _, some o => dramRead s o t.off (tySize ty.val) s.core.id
  | .bytes ws, some o => dramAsk s o t.off ws.length s.core.id
  | _, _ => (s, .ok)

/-- A LOAD count added in a capacity-table entry, saturating (06 R166); the offset is that of a dropped one. -/
def landCap (s : State) (pa n : Nat) : State × Option Nat :=
  match objAtPa s (pa + 6) with
  | none => (s, none)
  | some (o, off) => landAtomic s o off 2 (fun old => min 0xFFFF (old + n))

/-- The home's part of a landing write, and the first offset it dropped. -/
def landWrite (s : State) (t : Transit) : State × Option Nat :=
  match t.w with
  | .capLoad pa n => landCap s pa n
  | .bytes ws => match findObj s t.oid with
    | none => (s, none)
    | some o => landBytes s o t.off (ws.map Prod.snd) (t.eng == .vector)
  | .add _ ty v => match findObj s t.oid with
    | none => (s, none)
    | some o => landAdd s o t.off ty.val v

/-! ## The end of a lease -/

/-- A core that its lease leaves is free: only its reservation number stays (01 R32, DESIGN CHOICE, log entry 2). -/
def freeCore (c : Core) : Core := { Core.free c.id with resvSeq := c.resvSeq, gated := c.gated }

/-- Draining the current core for a saved context: store buffer, dirty L1 words; then no L1 word stays valid (04 R108,
10 R252). -/
def drainCore (s : State) : State :=
  let s := drainAll s
  let s := writeBack s s.core.id (fun _ => true)
  { s with core := { s.core with l1 := [] } }

/-- Candidate `n` for a context area: eight ways of a slice, from the last slice down. -/
def ctxSlot (n : Nat) : Nat × Nat := (255 - n / 3 % 256, n % 3)
def ctxAt (n : Nat) : Nat := stagePa (ctxSlot n).1 ((ctxSlot n).2 * 0x800000)

/-- Whether a candidate is free: its ways hold staging bytes, and no object and no saved context lies in them (04 R108,
09 R202). -/
def ctxFree (s : State) (n : Nat) : Bool :=
  let pa := ctxAt n
  let meets := fun (a len : Nat) => a < pa + Config.ctxSize && pa < a + len
  (List.range 8).all (fun w =>
    wayKind s.base (ctxSlot n).1 ((ctxSlot n).2 * 8 + w) == 0) &&
  !s.base.objs.any (fun o => o.exts.any (fun x => meets x.pa (x.npg * 4096))) && !s.base.ctxs.any (fun x => meets x.pa Config.ctxSize)

/-- The first free candidate from `nextCtx` on. -/
def ctxFind (s : State) : Option Nat := ((List.range 768).map (fun i => s.nextCtx + i)).find? (ctxFree s)

/-- Whether there is a place for a context area; without one the base waits (DESIGN CHOICE, log entry 11). -/
def ctxRoom (s : State) : Bool := (ctxFind s).isSome

/-- Where the next context area goes (DESIGN CHOICE, log entry 11). -/
def ctxPa (s : State) : Nat := ctxAt ((ctxFind s).getD s.nextCtx)

/-- The base after its own write of a context area: no tag and no reservation of those bytes stays (04 R90, 09 R221). -/
def areaWritten (b : Base) (pa : Nat) : Base :=
  { b with
    tags := b.tags.filter (fun g => g * 16 + 16 ≤ pa || pa + Config.ctxSize ≤ g * 16)
    resv := resvAfter b.resv pa Config.ctxSize }

/-- Saving the current core's context (04 R108, R109): the area is written, the context recorded, and the core freed.
Preemption ends its reservations (10 R252). -/
def saveContext (s : State) (faulted : Bool) : State :=
  match s.core.lease with
  | none => s
  | some l =>
    let pa := ctxPa s
    let c := s.core
    let m := ctxWrite s.base.mem s c pa (ringArr c.eng)
    let x : Ctx := ⟨pa, faulted, c.csr.scc, l, c.csr.pid, c.tcache, c.eng.jobs, c.eng.pends, c.eng.transit, c.eng.reports,
      c.eng.freeze, c.eng.efault, c.refusal, c.eng.chkCfg, c.eng.chkHit,
      c.eng.extJob, c.eng.rings.map (fun r => r.nextIss)⟩
    { s with
      core := { freeCore c with resvSeq := c.resvSeq + 1 }
      base := { areaWritten s.base pa with mem := m, ctxs := s.base.ctxs ++ [x] }
      nextCtx := s.nextCtx + 1 }

/-- The end of the current core's lease goes to the walker, on VC3 (09 R211). -/
def leaseEnds (s : State) : State := tellSlice s (leaseSlice s.core.id) s.core.id s.core.csr.pid

/-- The lease of the current core ends FAULTED: buffered and dirty data and the engines' writes on their way commit, the
context area is kept, the launch records it (04 R91, R100, R108, 05 R116, 22 R397). -/
def endFaulted (s : State) : State :=
  match s.core.lease with
  | none => { s with core := freeCore s.core }
  | some l =>
    let here := fun (t : Transit) => ((findObj s t.oid).map (fun o => residentAt o t.off)).getD true
    let s := (s.core.eng.transit.filter here).foldl (fun s t => (landWrite s t).1) (drainCore (leaseEnds s))
    let s := onEng s (fun e => { e with transit := [] })
    let pa := ctxPa s
    let s := saveContext s true
    let s := onLaunch s l.launch (fun k =>
      { k with live := k.live - 1, faulted := k.faulted + 1, ents := k.ents ++ [⟨l.idx, l.stage, 2, l.id, pa⟩] })
    finishLaunch s l.launch

/-- The lease of the current core ends RETIRED (05 R142): pins and held stage messages go. The clean L1 words stay
valid until the next lease starts on the core (10 R235, 01 R32, DESIGN CHOICE, log entry 2). -/
def endRetired (s : State) : State :=
  match s.core.lease with
  | none => s
  | some l =>
    let s := releasePins (leaseEnds s) s.core.tcache l.launch
    let s := { s with core := { freeCore s.core with l1 := s.core.l1 } }
    let s := onLaunch s l.launch (fun k => { k with live := k.live - 1, retired := k.retired + 1 })
    finishLaunch s l.launch

/-- A lease returns to its walker as INTERRUPTED (01 R38, 05 R144, 09 R227): under REISSUE it waits to run again with
its id, indices and journal, its held messages first in its queue's order; under ABORT it is listed. -/
def endInterrupted (s : State) (l : Lease) (pins : List TEnt) : State :=
  let s := releasePins s pins l.launch
  let s := onLaunch s l.launch (fun k =>
    if k.abort then
      { k with live := k.live - 1, interrupts := k.interrupts + 1, aborted := true,
               ents := k.ents ++ [⟨l.idx, l.stage, 1, l.id, 0⟩] }
    else
      let j := l.journal.map (fun j => { j with matched := false })
      let again : Lease := { l with
        reissue := true, puts := 0, resumeArr := none, held := []
        redo := l.held ++ l.redo, tread := 0, journal := j }
      { k with live := k.live - 1, interrupts := k.interrupts + 1, rerun := k.rerun ++ [again] })
  finishLaunch s l.launch

end Sys2Proof.Machine
end

