-- ==== Sys2Proof/Machine/Ops.lean ====
section
/-! DEFINITION. Machine/Ops.lean: taking a trap and returning from it, the capability check, and the loads and stores that
the sequencer's instructions share (spec 04 R97 to R107, 05 R113, R128, R129, 08 R191). -/

namespace Sys2Proof.Machine

/-- Changing what the current core waits for. -/
def setWait (s : State) (w : Wait) : State := { s with core := { s.core with wait := w } }

/-- Changing the current core's lease. -/
def onMyLease (s : State) (f : Lease → Lease) : State := { s with core := { s.core with lease := s.core.lease.map f } }

/-! ## Giving up a wait (05 R148, 12 R280) -/

/-- Leaving the queue of waiters of every barrier (09 R227, 12 R280). -/
def withdraw (s : State) (id : Nat) : State :=
  onBase s (fun b => { b with
    live := b.live.map (fun l => { l with waiters := l.waiters.filter (· != id) })
    releases := b.releases.filter (fun r => r.1 != id) })

/-- Leaving the queue of power requests of a core's die (22 R399). -/
def dropPower (s : State) (id : Nat) : State :=
  let d := dieOf id
  let die := s.base.dies[d]
  onBase s (fun b => { b with dies := b.dies.set d { die with waiting := die.waiting.filter (fun p => p.1 != id) } })

/-- A stalled instruction is given up to execute again: a BARRW in its wait leaves its arrival as the lease's resume
arrival (12 R280; after an engine fault as after a preemption: DEDUCED, log entry 61). -/
def giveUpWait (s : State) : State :=
  let s := match s.core.wait with
    | .barrw pa g _ => onMyLease s (fun l => { l with resumeArr := some (pa, g) })
    | _ => s
  setWait (dropPower (withdraw s s.core.id) s.core.id) .none

/-! ## Traps (04 R97 to R100) -/

/-- What a synchronous trap reports: CODE, SUB, AUX and BADADDR (04 R97). -/
structure Trap where
  code : Nat
  sub  : Nat
  aux  : Nat
  bad  : Word
deriving DecidableEq, Repr

/-- The registers after a trap is recorded: EPC, CAUSE, BADADDR; PMODE takes MODE, MODE becomes kernel (04 R98). -/
def trapCsr (r : Csr) (epc cause bad : Word) : Csr :=
  { r with epc := epc, cause := cause, badaddr := bad, pmode := r.mode, mode := true }

/-- The handler's address: TVEC without its bits 2:0 (04 R92, R98). -/
def tvecPc (r : Csr) : Word := r.tvec &&& 0xFFFFFFFFFFFFFFF8

/-- Entering the handler, whatever the mode was: registers saved, pc at TVEC, no wait and no busy time left. -/
def enterTrap (s : State) (epc cause bad : Word) : State :=
  { s with core := { s.core with
      csr := trapCsr s.core.csr epc cause bad, seq := { s.core.seq with pc := tvecPc s.core.csr }, wait := .none, busy := 0 } }

/-- The lease of the current core ends as FAULTED, once its store buffer has drained, its posted requests are answered
and there is a place for its context; until then the core stands (04 R100, R108). -/
def faultLease (s : State) : State :=
  let s := drainAll s
  if s.core.sb.isEmpty && s.core.posted.isEmpty && ctxRoom s then endFaulted s else { s with core := { s.core with wait := .ending } }

/-- A sequencer trap (ENGF 0), with `epc` the instruction not yet executed. In kernel mode it ends the lease as FAULTED
(04 R100). `eng` is the ring of an alignment-mismatch. -/
def takeTrapAt (s : State) (t : Trap) (epc : Word) (eng : Nat) : State :=
  let s' := enterTrap s epc (causeWord t.code t.sub t.aux eng false 0) t.bad
  if s.core.csr.mode then faultLease s' else s'

/-- A precise sequencer trap: EPC is the trapping instruction (04 R98). -/
def takeTrap (s : State) (t : Trap) : State := takeTrapAt s t s.core.seq.pc 0

/-- The traps that need no operands of their own (04 R97). -/
def trapIllegal : Trap := ⟨0x01, 0, 0, 0⟩
def trapKernelOnly : Trap := ⟨0x01, 2, 0, 0⟩
def trapOperand (sub : Nat) (bad : Word) : Trap := ⟨0x02, sub, 0, bad⟩
def trapCap (sub : Nat) (cr : CReg) (bad : Word) : Trap := ⟨0x03, sub, cr.val, bad⟩
def trapFetch (off : Word) : Trap := ⟨0x03, 2, 0xFFFF, off⟩
def trapFetchError (off : Word) : Trap := ⟨0x05, 2, 0xFFFF, off⟩
def trapUnresolved (sub : Nat) (cr : CReg) (bad : Word) : Trap := ⟨0x05, sub, cr.val, bad⟩

/-- Kernel-only instructions trap in tile mode (04 R91). -/
def kernelOnly (s : State) (f : State → Out) : Out :=
  if s.core.csr.mode then f s else .next (takeTrap s trapKernelOnly)

/-- Whether a recorded engine fault stands against a new one: faults of one cycle go copy, matrix, vector (04 R99). -/
def standsAgainst (s : State) (old new : EFault) : Bool :=
  !(new.eng.code < old.eng.code && (s.core.eng.freeze.map (fun z => z.since == s.gtc)).getD false)

/-- Recording an engine fault: it freezes the core with cause 6; in kernel mode it waits in EPEND (04 R99). -/
def raiseEFault (s : State) (f : EFault) : State :=
  if (s.core.eng.efault.map (fun old => standsAgainst s old f)).getD false then s
  else
    { s with core := { s.core with
        eng := { s.core.eng with efault := some f, freeze := some ⟨6, 0, f.eng, f.step, s.gtc, none, 0, 0, none⟩ },
        csr := { s.core.csr with epend := s.core.csr.epend || s.core.csr.mode } } }

/-- The trap of an engine fault: ENGT is set, EPC is the instruction not yet executed (04 R99). -/
def enterEngineTrap (s : State) (f : EFault) (epc : Word) : State :=
  let s := enterTrap s epc (causeWord f.code f.sub f.aux f.eng.code true f.step) f.bad
  { s with core := { s.core with
      csr := { s.core.csr with engt := true, epend := false }, eng := { s.core.eng with efault := none } } }

/-- The sequencer takes an engine fault at its instruction boundary; a stalled instruction is given up (04 R99). -/
def takeEFault (s : State) (f : EFault) : State := enterEngineTrap (giveUpWait s) f s.core.seq.pc

/-- A trap that the response of a home request brings: at that boundary an engine fault goes first in tile mode, and the
instruction executes again after it (02 R62, 04 R99). -/
def responseTrap (s : State) (t : Trap) : State :=
  match s.core.eng.efault with
  | some f => if s.core.csr.mode then takeTrap s t else takeEFault s f
  | none => takeTrap s t

/-- The core unfreezes at the next GTC cycle, at the unchanged SCC: until then its freeze has cause 0 (04 R100, 01
R21). -/
def thawEng (e : Engines) : Engines := { e with freeze := e.freeze.map (fun f => { f with cause := 0 }) }

/-- The engine fault that an ERET to tile mode takes before any tile instruction executes (04 R99). -/
def eretFault (s : State) : Option EFault := if !s.core.csr.pmode && s.core.csr.epend then s.core.eng.efault else none

/-- Return from exception (04 R99, R100, 05 R118): MODE from PMODE, pc from EPC with its bits 2:0 clear (DEDUCED, log
entry 13). An ERET to tile mode with an engine fault waiting takes that fault, the core staying frozen; else, after an
engine trap, the core unfreezes, its check to be evaluated again. -/
def doEret (s : State) : State :=
  let r := s.core.csr
  let pc := r.epc &&& 0xFFFFFFFFFFFFFFF8
  let t := { s with core := { s.core with
    csr := { r with mode := r.pmode, engt := false }, seq := { s.core.seq with pc := pc }, busy := 0 } }
  match eretFault s with
  | some f => enterEngineTrap t f r.epc
  | none => if r.engt then onEng t thawEng else t

/-! ## The capability check (04 R102, R407, 12 R281) -/

/-- Effective offset of LD, ST, CLDC, CSTC: cursor unsigned, index signed, IMM sign-extended, exact (04 R102, 05
R128). -/
def effOff (s : State) (b : CReg) (c : XReg) (imm : BitVec 32) : Int := (rdC s b).cursor.toNat + (rdX s c).toInt + imm.toInt

/-- Effective offset of home instructions with an immediate: no index (12 R281). -/
def effOffImm (s : State) (b : CReg) (imm : BitVec 32) : Int := (rdC s b).cursor.toNat + imm.toInt

/-- An exact offset as a 64-bit value. -/
def offWord (off : Int) : Word := word (wrapN 64 off)

/-- The checks of 04 R102 in their order: tag, permission, bounds, alignment, entry, kernel flag, space (when the
instruction names one), and the rule for base-written objects. The scratchpad's built-in entry admits R and W only. -/
def checkCap (s : State) (b : CReg) (off : Int) (size align : Nat) (need : BitVec 8) (space : Option (Fin 8)) :
    Except Trap ObjEnt :=
  let c := rdC s b
  let bad := offWord off
  let oid := capOid c
  let isSpad := oid == BitVec.ofNat 24 Config.spadOid
  if !c.tag then .error (trapCap 1 b bad)
  else if capPerm c &&& need ≠ need ∨ (isSpad ∧ need &&& 0x5C ≠ 0) then .error (trapCap 3 b bad)
  else if off < capLo c ∨ capLo c + capLen c < off + size then .error (trapCap 2 b bad)
  else if align > 1 ∧ off % align ≠ 0 then .error (trapOperand 1 bad)
  else match findObj s oid with
    | none => .error (trapCap 6 b bad)
    | some o =>
      if o.kernel && !s.core.csr.mode then .error (trapCap 7 b bad)
      else if (space.map (· != o.space)).getD false then .error (trapCap 4 b bad)
      else if need &&& 6 ≠ 0 ∧ (o.span || o.basewr) then .error (trapCap 3 b bad)
      else .ok o

/-- The object of an access stays in the core's translation cache (04 R103). -/
def touchCap (s : State) (b : CReg) : State := touchObj s (capOid (rdC s b)) ((rdC s b).bits.getLsbD 103)

/-! ## Loads and stores -/

/-- The result of an operation that may stall or trap. -/
inductive Res (α : Type) where
  | ok (s : State) (v : α)
  | stall (s : State)
  | trap (s : State) (t : Trap)

/-- Sequencer bytes of the scratchpad (04 R105). -/
def spadBytes (s : State) (off n : Nat) : List Byte := memReadN s.core.eng.spad off n

/-- A sequencer store to the scratchpad, after the engines' accesses of its cycle (01 R15 rule 4). -/
def spadStore (s : State) (off : Nat) (bs : List Byte) : State :=
  onEng s (fun e => { e with spad := memWriteL e.spad off bs })

/-- The base configuration object's registers (09 R201). -/
def configRead (s : State) (off : Nat) : Word :=
  if 0x100000 ≤ off then
    (if off % 8 = 0 ∧ off < 0x100080 then s.base.nwgt[(Fin.ofNat 16 ((off - 0x100000) / 8))] else 0)
  else
    let g := off / 0x1000
    let r := off % 0x1000
    if r = 0 then regGet s.base.slcfg g 0x555500000000
    else if r = 8 then regGet s.base.slstat g 0 ||| (if s.base.slpend.any (fun p => p.1 == g) then 2 else 0)
    else if 0x100 ≤ r ∧ r < 0x180 then regGet s.base.pway (g * 16 + (r - 0x100) / 8) 0xFFFFFF
    else if 0x180 ≤ r ∧ r < 0x200 then
      pbktOf s.base g ((r - 0x180) / 8)
    else if 0x200 ≤ r ∧ r < 0x280 then word (levelOf s g ((r - 0x200) / 8))
    else 0

/-- Base-memory bytes as a sequencer load of `n` bytes sees them, with the granule's tag: the store buffer, the L1 for
GLOBAL, else the home (05 R128, 10 R232, R233). A load that overlaps a buffered store in part waits, and so does one
whose channel carries a failing transfer (08 R192). -/
def baseLoad (s : State) (b : CReg) (o : ObjEnt) (off n : Nat) : Res (List Byte × Bool) :=
  let hit := (List.range n).map (fun i => sbByte s.core.sb o.oid (off + i))
  if o.space ≠ 1 ∧ hit.all (fun h => h.isSome) then
    let t := (s.core.sb.reverse.find? (fun e => e.oid == o.oid && e.off < off + n && off < e.off + e.data.length)).bind
      (fun e => e.tag)
    .ok s (hit.map (fun h => h.getD 0), t == some true)
  else if o.space ≠ 1 ∧ hit.any (fun h => h.isSome) then .stall s
  else if !residentAt o off then
    .ok (onCsr s (fun r => { r with resf := resfMiss r.resf off b })) (List.replicate n 0, false)
  else
    let served := o.space = 2 && (List.range ((off + n - 1) / 8 + 1 - off / 8)).all (fun k =>
      ((paOf o (8 * (off / 8 + k))).map (l1Has s)).getD true)
    match (if served then (s, Fetch.ok) else dramRead s o off n s.core.id) with
    | (s, .busy) => .stall s
    | (s, .bad) => .trap s (trapUnresolved 2 b (word off))
    | (s, .ok) =>
      if o.space = 2 then
        let (s, bs, t) := l1Read s o off n
        .ok s (bs, t)
      else
        let (s, bs) := homeGet s (some s.core.id) o off n
        .ok s (bs, ((paOf o off).map (tagAt s.base)).getD false)

/-- Asking the host for an extent: one event of kind 1 (22 R394). -/
def askExtent (s : State) (o : ObjEnt) (off : Nat) : State :=
  logEvent s 1 (o.oid.toNat * 2 ^ 40 + off) (dieOf s.core.id).val s.core.csr.pid.val

/-- A scalar store or atomic at bytes that are not resident: an offset that no extent covers cannot be resolved; else
the host is asked for the extent, and the sequencer waits (04 R97, R106, 22 R394). -/
def residencyWait (s : State) (b : CReg) (o : ObjEnt) (off : Nat) : Res Unit :=
  match extOf o off with
  | none => .trap (setWait s .none) (trapUnresolved 1 b (word off))
  | some (x, _, _) =>
    match s.core.wait with
    | .resid oid y failed =>
      if oid = o.oid ∧ y = x then
        if failed then .trap (setWait s .none) (trapUnresolved 3 b (word off)) else .stall s
      else .stall (setWait (askExtent s o off) (.resid o.oid x false))
    | _ => .stall (setWait (askExtent s o off) (.resid o.oid x false))

/-- A store of the sequencer to base memory, `tag` being the tag of a CSTC (05 R129, R135, 04 R90, 09 R223). -/
def baseStore (s : State) (b : CReg) (o : ObjEnt) (off : Nat) (bs : List Byte) (tag : Option Bool) : Res Unit :=
  if !residentAt o off then residencyWait s b o off
  else
    let s := setWait s .none
    if o.space = 1 then
      match paOf o off with
      | none => .ok s ()
      | some pa =>
        if tagged s.base pa bs.length then .trap s ⟨0x16, 0, 0, word off⟩
        else .ok (homeStore s (some s.core.id) o off bs (tag == some true) false) ()
    else if s.core.sb.length < Config.storeBufferSize then
      .ok { s with core := { s.core with sb := s.core.sb ++ [⟨o.oid, off, bs, tag⟩] } } ()
    else .stall s

/-! ## Timer and random numbers -/

/-- Appending a 64-byte record to the replay capture (22 R403): stop when full, or wrap. -/
def captureRec (s : State) (ty : Nat) (content : List Byte) : State :=
  let c := s.base.capture
  if c.mode = 0 ∨ c.len < 64 then s
  else
    let full := decide (c.len < 64 * (c.pos + 1))
    if full && c.mode == 1 then
      logEvent { s with base := { s.base with capture := { c with mode := 0 } } } 6 c.pa 0 0
    else
      let pos := if full then 0 else c.pos
      let bs := natBytes 8 ty ++ natBytes 8 s.gtc ++ (content ++ List.replicate (48 - content.length) 0).take 48
      onBase (if hostDrops s (c.pa + 64 * pos) 64 then s else homePutPa s (c.pa + 64 * pos) bs false false)
        (fun b => { b with capture := { c with pos := pos + 1, starts := c.starts + (if ty = 2 then 1 else 0) } })

/-- A timer read (04 R92, 22 R403, R404): the value is GTC, or in a replay the recorded one; a capture records it with
the lease id and its order within the lease. -/
def readGtc (s : State) : State × Word :=
  match s.core.lease with
  | none => (s, word s.gtc)
  | some l =>
    let hit := s.base.replay.bind (fun r => r.timers.find? (fun t => t.1 == l.id && t.2.1 == l.tread))
    let v := (hit.map (fun t => t.2.2)).getD (word s.gtc)
    let s := match hit with
      | some t => onBase s (fun b => { b with replay := b.replay.map (fun (r : Replay) => { r with timers := r.timers.erase t }) })
      | none => s
    let s := { s with core := { s.core with lease := some { l with tread := l.tread + 1 } } }
    (captureRec s 4 (natBytes 8 l.id.toNat ++ natBytes 8 l.tread ++ natBytes 8 v.toNat), v)

/-- The generator's output for key and counter (04 R107). -/
def rngOut (key ctr : Word) : Word :=
  let z := ctr * 0x9E3779B97F4A7C15 + key
  let z := (z ^^^ (z >>> 30)) * 0xBF58476D1CE4E5B9
  let z := (z ^^^ (z >>> 27)) * 0x94D049BB133111EB
  z ^^^ (z >>> 31)

/-! ## Fetch (04 R91, 05 R113) -/

/-- The code object the sequencer fetches from: the partition's kernel code in kernel mode, else the stage's. -/
def codeOid (s : State) : Option (BitVec 24) :=
  if s.core.csr.mode then (s.base.kcode[s.core.csr.pid]).map (fun k => k.oid)
  else s.core.lease.map (fun l => l.code)

/-- The code object's entry. -/
def codeObj (s : State) : Option ObjEnt := (codeOid s).bind (findObj s)

/-- The word of a code object at offset `off`, or none where it is not whole within the object's length; an extent
that is not resident is read at its PBASE (DESIGN CHOICE, log entry 62). -/
def wordIn (s : State) (o : ObjEnt) (off : Nat) : Option Word :=
  if off + 8 ≤ o.len then (paOf o off).map (memWord s.base.mem) else none

/-- The code word at offset `off` as the home holds it. -/
def codeWord (s : State) (off : Nat) : Option Word := (codeObj s).bind (fun o => wordIn s o off)

/-- Reading a code word at its home: dirty words of a COHERENT region come back first, and the array may retry or fail
(10 R236, 08 R191, R192). -/
def codeRead (s : State) (off : Nat) : State × Fetch × Option Word :=
  match codeObj s with
  | none => (s, .ok, none)
  | some o =>
    if off + 8 ≤ o.len then
      let (s, r) := dramRead s o off 8 s.core.id
      let s := if r = .ok then takeBack s none o off 8 else s
      (s, r, wordIn s o off)
    else (s, .ok, none)

/-- Fetching a code word: one beyond the code object traps, and so does one that cannot be corrected (DESIGN CHOICE,
log entry 62); while its channel retries, the sequencer stands. -/
def withCode {α : Type} (s : State) (off : Nat) (k : State → Word → α) (go : State → α) : α :=
  match codeRead s off with
  | (s, .busy, _) => go s
  | (s, .bad, _) => go (takeTrap s (trapFetchError (word off)))
  | (s, .ok, none) => go (takeTrap s (trapFetch (word off)))
  | (s, .ok, some w) => k s w

/-- Finishing an operation: continue, stay at the instruction, or trap. -/
def finish {α : Type} (r : Res α) (k : State → α → Out) : Out :=
  match r with
  | .ok s v => k s v
  | .stall s => .next s
  | .trap s t => .next (takeTrap s t)

/-- Finishing a capability check: the object, in the translation cache, or the trap. -/
def withCap (s : State) (b : CReg) (r : Except Trap ObjEnt) (k : State → ObjEnt → Out) : Out :=
  match r with
  | .error t => .next (takeTrap s t)
  | .ok o => k (touchCap s b) o

end Sys2Proof.Machine
end

