-- ==== Sys2Proof/Machine/Operands.lean ====
section
/-! DEFINITION. Machine/Operands.lean: operand forms of the sequencer's arithmetic: sign-extended immediates, shift counts,
divisions with their corners, bit counts and carry-less products (spec 05 R122 to R127). -/

namespace Sys2Proof.Machine

/-- The sign-extended immediate (05 R124). -/
def sext32 (imm : BitVec 32) : Word := imm.signExtend 64

/-- A shift count is bits 5:0 of the register (05 R122). -/
def shCount (v : Word) : Nat := v.toNat % 64

/-- A flag as a register value. -/
def flagW (b : Bool) : Word := if b then 1 else 0

/-- The high half of the signed product (05 R122). -/
def mulHigh (b c : Word) : Word := ((b.signExtend 128) * (c.signExtend 128)).extractLsb' 64 64

/-- The signed quotient, toward zero; all ones for a zero divisor; −2^63 / −1 is −2^63 (05 R123). -/
def divS (b c : Word) : Word := if c = 0 then BitVec.allOnes 64 else b.sdiv c

/-- The unsigned quotient; all ones for a zero divisor (05 R123). -/
def divU (b c : Word) : Word := if c = 0 then BitVec.allOnes 64 else b / c

/-- The signed remainder, with the sign of the dividend; the dividend for a zero divisor (05 R123). -/
def remS (b c : Word) : Word := if c = 0 then b else b.srem c

/-- The unsigned remainder; the dividend for a zero divisor (05 R123). -/
def remU (b c : Word) : Word := if c = 0 then b else b % c

/-- Leading zero bits of a `w`-bit value. -/
def clzN (w v : Nat) : Nat := if v = 0 then w else w - 1 - Nat.log2 v

/-- Trailing zero bits of a `w`-bit value. -/
def ctzN (w v : Nat) : Nat := ((List.range w).find? (fun i => v.testBit i)).getD w

/-- One bits of a `w`-bit value. -/
def popN (w v : Nat) : Nat := (List.range w).countP (fun i => v.testBit i)

/-- The carry-less product of two `w`-bit values (05 R122, 20 R376). -/
def clmulN (w a b : Nat) : Nat := (List.range w).foldl (fun acc j => if a.testBit j then acc ^^^ (b * 2 ^ j) else acc) 0

/-- The target of a branch: pc + 8 × sext(IMM) (05 R126). -/
def brTarget (s : State) (imm : BitVec 32) : Word := s.core.seq.pc + (sext32 imm <<< 3)

end Sys2Proof.Machine
end

