-- ==== Sys2Proof/Machine/Alu.lean ====
section
/-! DEFINITION. Machine/Alu.lean: the ALU group (spec 05 R122, R123): all operands are read before the destination is
written. -/

namespace Sys2Proof.Machine

/-- ADD: the sum, modulo 2^64 (05 R122). -/
def execAdd (a b c : XReg) (s : State) : Out :=
  .next (retire 1 (wrX s a (rdX s b + rdX s c)))

/-- SUB: the difference, modulo 2^64 (05 R122). -/
def execSub (a b c : XReg) (s : State) : Out :=
  .next (retire 1 (wrX s a (rdX s b - rdX s c)))

/-- AND: bitwise and (05 R122). -/
def execAnd (a b c : XReg) (s : State) : Out :=
  .next (retire 1 (wrX s a (rdX s b &&& rdX s c)))

/-- OR: bitwise or (05 R122). -/
def execOr (a b c : XReg) (s : State) : Out :=
  .next (retire 1 (wrX s a (rdX s b ||| rdX s c)))

/-- XOR: bitwise exclusive or (05 R122). -/
def execXor (a b c : XReg) (s : State) : Out :=
  .next (retire 1 (wrX s a (rdX s b ^^^ rdX s c)))

/-- SLL: shifted left, zeros in (05 R122). -/
def execSll (a b c : XReg) (s : State) : Out :=
  .next (retire 1 (wrX s a (rdX s b <<< shCount (rdX s c))))

/-- SRL: shifted right, zeros in (05 R122). -/
def execSrl (a b c : XReg) (s : State) : Out :=
  .next (retire 1 (wrX s a (rdX s b >>> shCount (rdX s c))))

/-- SRA: shifted right, copies of bit 63 in (05 R122). -/
def execSra (a b c : XReg) (s : State) : Out :=
  .next (retire 1 (wrX s a ((rdX s b).sshiftRight (shCount (rdX s c)))))

/-- MUL: the low half of the product (05 R122). -/
def execMul (a b c : XReg) (s : State) : Out :=
  .next (retire 3 (wrX s a (rdX s b * rdX s c)))

/-- MULH: the high half of the signed product (05 R122). -/
def execMulh (a b c : XReg) (s : State) : Out :=
  .next (retire 3 (wrX s a (mulHigh (rdX s b) (rdX s c))))

/-- DIV: the signed quotient (05 R122, R123). -/
def execDiv (a b c : XReg) (s : State) : Out :=
  .next (retire 36 (wrX s a (divS (rdX s b) (rdX s c))))

/-- DIVN: the unsigned quotient (05 R122, R123). -/
def execDivn (a b c : XReg) (s : State) : Out :=
  .next (retire 36 (wrX s a (divU (rdX s b) (rdX s c))))

/-- REM: the signed remainder (05 R122, R123). -/
def execRem (a b c : XReg) (s : State) : Out :=
  .next (retire 36 (wrX s a (remS (rdX s b) (rdX s c))))

/-- REMN: the unsigned remainder (05 R122, R123). -/
def execRemn (a b c : XReg) (s : State) : Out :=
  .next (retire 36 (wrX s a (remU (rdX s b) (rdX s c))))

/-- MIN: the smaller value, signed (05 R122). -/
def execMin (a b c : XReg) (s : State) : Out :=
  .next (retire 1 (wrX s a (if (rdX s b).slt (rdX s c) then rdX s b else rdX s c)))

/-- MAX: the larger value, signed (05 R122). -/
def execMax (a b c : XReg) (s : State) : Out :=
  .next (retire 1 (wrX s a (if (rdX s b).slt (rdX s c) then rdX s c else rdX s b)))

/-- MINN: the smaller value, unsigned (05 R122). -/
def execMinn (a b c : XReg) (s : State) : Out :=
  .next (retire 1 (wrX s a (if (rdX s b).ult (rdX s c) then rdX s b else rdX s c)))

/-- MAXN: the larger value, unsigned (05 R122). -/
def execMaxn (a b c : XReg) (s : State) : Out :=
  .next (retire 1 (wrX s a (if (rdX s b).ult (rdX s c) then rdX s c else rdX s b)))

/-- SLT: 1 if less, signed (05 R122). -/
def execSlt (a b c : XReg) (s : State) : Out :=
  .next (retire 1 (wrX s a (flagW ((rdX s b).slt (rdX s c)))))

/-- SLTN: 1 if less, unsigned (05 R122). -/
def execSltn (a b c : XReg) (s : State) : Out :=
  .next (retire 1 (wrX s a (flagW ((rdX s b).ult (rdX s c)))))

/-- CLZ: leading zero bits; 64 for 0 (05 R122). -/
def execClz (a b : XReg) (s : State) : Out :=
  .next (retire 1 (wrX s a (word (clzN 64 (rdX s b).toNat))))

/-- CTZ: trailing zero bits; 64 for 0 (05 R122). -/
def execCtz (a b : XReg) (s : State) : Out :=
  .next (retire 1 (wrX s a (word (ctzN 64 (rdX s b).toNat))))

/-- POPC: the number of one bits (05 R122). -/
def execPopc (a b : XReg) (s : State) : Out :=
  .next (retire 1 (wrX s a (word (popN 64 (rdX s b).toNat))))

/-- CLMUL: the low half of the carry-less product (05 R122). -/
def execClmul (a b c : XReg) (s : State) : Out :=
  .next (retire 3 (wrX s a (word (clmulN 64 (rdX s b).toNat (rdX s c).toNat))))

/-- CLMULH: the high half of the carry-less product (05 R122). -/
def execClmulh (a b c : XReg) (s : State) : Out :=
  .next (retire 3 (wrX s a (word (clmulN 64 (rdX s b).toNat (rdX s c).toNat / 2 ^ 64))))

end Sys2Proof.Machine
end

