-- ==== Sys2Proof/Machine/Alui.lean ====
section
/-! DEFINITION. Machine/Alui.lean: the ALUI group (spec 05 R124). -/

namespace Sys2Proof.Machine

/-- ADDI: the sum with the sign-extended immediate (05 R124). -/
def execAddi (a b : XReg) (imm : BitVec 32) (s : State) : Out :=
  .next (retire 1 (wrX s a (rdX s b + sext32 imm)))

/-- ANDI: bitwise and with it (05 R124). -/
def execAndi (a b : XReg) (imm : BitVec 32) (s : State) : Out :=
  .next (retire 1 (wrX s a (rdX s b &&& sext32 imm)))

/-- ORI: bitwise or with it (05 R124). -/
def execOri (a b : XReg) (imm : BitVec 32) (s : State) : Out :=
  .next (retire 1 (wrX s a (rdX s b ||| sext32 imm)))

/-- XORI: bitwise exclusive or with it (05 R124). -/
def execXori (a b : XReg) (imm : BitVec 32) (s : State) : Out :=
  .next (retire 1 (wrX s a (rdX s b ^^^ sext32 imm)))

/-- SLLI: shifted left by IMM[5:0] (05 R124). -/
def execSlli (a b : XReg) (sh : Fin 64) (s : State) : Out :=
  .next (retire 1 (wrX s a (rdX s b <<< sh.val)))

/-- SRLI: shifted right by IMM[5:0], zeros in (05 R124). -/
def execSrli (a b : XReg) (sh : Fin 64) (s : State) : Out :=
  .next (retire 1 (wrX s a (rdX s b >>> sh.val)))

/-- SRAI: shifted right by IMM[5:0], copies of bit 63 in (05 R124). -/
def execSrai (a b : XReg) (sh : Fin 64) (s : State) : Out :=
  .next (retire 1 (wrX s a ((rdX s b).sshiftRight sh.val)))

/-- SLTI: 1 if less than the immediate, signed (05 R124). -/
def execSlti (a b : XReg) (imm : BitVec 32) (s : State) : Out :=
  .next (retire 1 (wrX s a (flagW ((rdX s b).slt (sext32 imm)))))

/-- SLTNI: 1 if less than the sign-extended immediate, both read as unsigned (05 R124). -/
def execSltni (a b : XReg) (imm : BitVec 32) (s : State) : Out :=
  .next (retire 1 (wrX s a (flagW ((rdX s b).ult (sext32 imm)))))

/-- MOVHI: IMM in the high half, the low half kept (05 R124). -/
def execMovhi (a b : XReg) (imm : BitVec 32) (s : State) : Out :=
  .next (retire 1 (wrX s a (imm ++ (rdX s b).setWidth 32)))

end Sys2Proof.Machine
end

