-- ==== Sys2Proof/Machine/HomeOps.lean ====
section
/-! DEFINITION. Machine/HomeOps.lean: what the home instructions share: leaving the core, the ordering halves, barriers,
journals and sync objects (spec 09 R222 to R228, 10 R234, R238 to R242, 12 R279 to R281). -/

namespace Sys2Proof.Machine

/-! ## Checks and leaving the core (12 R279, R281) -/

/-- 04 R102 without its space check, then the spaces that 12 R281 admits. -/
def checkHome (s : State) (b : CReg) (off : Int) (size align : Nat) (need : BitVec 8) (spaces : List (Fin 8)) :
    Except Trap ObjEnt :=
  match checkCap s b off size align need none with
  | .error t => .error t
  | .ok o => if spaces.contains o.space then .ok o else .error (trapOperand 0 (offWord off))

/-- A home request leaves only when the store buffer is empty; until then the instruction stalls (10 R234). -/
def leaving (s : State) (k : State → Out) : Out := if s.core.sb.isEmpty then k s else .next s

/-- The checks of a home instruction, and its leaving (12 R281). -/
def withHome (s : State) (b : CReg) (off : Int) (size align : Nat) (need : BitVec 8) (spaces : List (Fin 8))
    (k : State → ObjEnt → Nat → Out) : Out :=
  withCap s b (checkHome s b off size align need spaces) (fun s o => leaving s (fun s => k s o off.toNat))

/-- A request without data leaves for the slice of its offset, which serves it as 32 bytes (09 R209). -/
def sent (s : State) (o : ObjEnt) (off : Nat) : State :=
  match paOf o off with
  | some pa => serve s (homeOf o pa) 0 0 s.core.csr.pid
  | none => s

/-- The checks and the leaving of a home instruction whose request carries no data. -/
def withOp (s : State) (b : CReg) (off : Int) (size align : Nat) (need : BitVec 8) (spaces : List (Fin 8))
    (k : State → ObjEnt → Nat → Out) : Out :=
  withHome s b off size align need spaces (fun s o off => k (sent s o off) o off)

/-! ## Ordering halves (10 R238 to R240) -/

/-- The object that a descriptor's stream names, when the stream's space (06 R153) is a base space. -/
def descObj (s : State) (d : Desc) (c : Cap) : Option ObjEnt :=
  if bitsOf (d[(5 : Fin 8)]).toNat 46 43 < 2 then none else findObj s (capOid c)

/-- The base objects an engine command writes: a copy's destination, the positions of a top-k, and the object of a
VSTG (06 R156, 07 R180, 19 R359). -/
def jobDests (s : State) (j : Job) : List ObjEnt :=
  match j.cmd with
  | .vstg .. => j.snap.objS.toList
  | .topkr .. | .topkc .. | .topkcTab .. => (descObj s j.snap.qd j.snap.capD).toList ++ (descObj s j.snap.qx j.snap.capX).toList
  | _ => if (chanOf j.cmd).isSome then (descObj s j.snap.qd j.snap.capD).toList else []

/-- The SCC of the cycle in which the current instruction began: this one, unless it stalls in its release half (10
R239). -/
def beganAt (s : State) : Nat :=
  match s.core.wait with
  | .order scc _ => scc
  | _ => s.core.csr.scc

/-- The engine commands that issued before the cycle in which the instruction began and have writes that have not
performed, whatever cycle their formulas give for their completion (10 R239). -/
def earlierJobs (s : State) : List Job :=
  s.core.eng.jobs.filter (fun j => (j.old || j.iss < beganAt s) && !j.done && !jobPerformed s.core.eng j)

/-- Whether a write on its way to its home is that of a command that issued before the cycle in which the instruction
began: its own, or a spill or a count that it sent (10 R239, 15 R323). -/
def transitEarlier (s : State) (t : Transit) : Bool :=
  match t.iss with
  | none => true
  | some c => c < beganAt s

/-- The capacity table to which a TOPKC in table mode adds LOAD counts at its completion (06 R166). -/
def loadTable (s : State) (j : Job) : Option ObjEnt :=
  match j.cmd with
  | .topkcTab .. => s.base.objs.find? (fun o => o.role == .capTable s.core.csr.pid)
  | _ => none

/-- Whether a write of engines is still owed to an object that satisfies `p`: one that an earlier command has yet to
form, a count that it sends at its completion, or one on its way. -/
def owes (s : State) (p : ObjEnt → Bool) : Bool :=
  (earlierJobs s).any (fun j => (j.step < j.nsteps || j.formed < j.nsteps) && (jobDests s j).any p) ||
  s.core.eng.jobs.any (fun j => (j.old || j.iss < beganAt s) && !j.done && (loadTable s j).any p) ||
  s.core.eng.transit.any (fun t => ((findObj s t.oid).map p).getD false && transitEarlier s t)

/-- Whether the region of an object has digests, by its current entry. -/
def digested (s : State) (oid : BitVec 24) : Bool := ((findObj s oid).map (fun o => dcfgEn o.dcfg)).getD false

/-- Whether the waits of the release half are over (10 R239); agent scope ENGINE takes no action (10 R238). -/
def releaseReady (s : State) (o : Ord) : Bool :=
  o.ascope == 0 ||
  ((!o.spad || ((earlierJobs s).isEmpty && !s.core.eng.transit.any (transitEarlier s))) &&
   (!o.stage || (s.core.posted.isEmpty && !owes s (fun e => e.space == 1))) &&
   (!o.global || (s.core.sb.isEmpty && !owes s (fun e => e.space == 2))) &&
   (!o.digest || (s.core.sb.isEmpty && !owes s (fun e => dcfgEn e.dcfg))) &&
   (!o.host || (s.core.sb.all (fun e => ((findObj s e.oid).map (fun o => o.space != 3)).getD true) &&
     !owes s (fun e => e.space == 3))))

/-- The write-backs of the release half (10 R239). -/
def releaseWrites (s : State) (o : Ord) : State :=
  if o.ascope = 0 then s
  else
    let s := if o.global then writeBack s s.core.id (fun _ => true) else s
    if o.digest then writeBack s s.core.id (fun w => digested s w.oid) else s

/-- The acquire half: GLOBAL drops every valid clean L1 word of a SOFT region (10 R239). -/
def acquireHalf (s : State) (o : Ord) : State :=
  if o.ascope = 0 ∨ o.global = false then s
  else dropWords s s.core.id (fun w => !w.dirty && !((findObj s w.oid).map (fun e => e.coh)).getD false)

/-- An instruction that stalls in its release half has begun: the SCC of that cycle, and the regions `bound` at that
moment, stay until it completes (10 R239, R241). -/
def begun (s : State) (bound : List (BitVec 24)) : State :=
  match s.core.wait with
  | .order _ _ => s
  | _ => setWait s (.order s.core.csr.scc bound)

/-- An instruction with an ordering immediate stalls until its release half is done (10 R239, R240). -/
def released (s : State) (o : Ord) (bound : List (BitVec 24)) (k : State → Out) : Out :=
  if releaseReady s o then k (releaseWrites s o) else .next (begun s bound)

/-- An instruction on a barrier or sync object with an ordering immediate: the checks, the release half, what `ready`
asks for besides, and the leaving with the store buffer empty (12 R279, R281, 10 R234, R240). `bound` gives the
regions that it fixes as it begins. -/
def withOrd (s : State) (b : CReg) (ord : Ord) (bound : State → ObjEnt → Nat → List (BitVec 24))
    (ready : State → List (BitVec 24) → Bool) (k : State → ObjEnt → Nat → List (BitVec 24) → Out) : Out :=
  let off := (rdC s b).cursor.toNat
  withCap s b (checkHome s b off 16 16 permA [1]) (fun s o =>
    let bs := match s.core.wait with
      | .order _ bs => bs
      | _ => bound s o off
    released s ord bs (fun s =>
      if s.core.sb.isEmpty && ready s bs then k (sent s o off) o off bs else .next (begun s bs)))

/-! ## Barrier objects (09 R222 to R225) -/

/-- The fields of a barrier object (09 R222). -/
structure Bar where
  gen    : Nat
  pend   : Nat
  expect : Nat
  inb    : Nat
  outb   : Nat
  kind   : Nat
deriving DecidableEq, Repr

/-- Reading the barrier at `pa`. -/
def barRead (s : State) (pa : Nat) : Bar :=
  let n := memNat s.base.mem pa 16
  ⟨bitsOf n 3 0, bitsOf n 23 4, bitsOf n 43 24, bitsOf n 75 44, bitsOf n 107 76, bitsOf n 127 120⟩

/-- Writing the barrier at `pa`. -/
def barWrite (s : State) (pa : Nat) (b : Bar) : State :=
  homePutPa s pa (natBytes 16 (b.gen % 16 + b.pend % 2 ^ 20 * 2 ^ 4 + b.expect % 2 ^ 20 * 2 ^ 24 + b.inb % 2 ^ 32 * 2 ^ 44
    + b.outb % 2 ^ 32 * 2 ^ 76 + b.kind % 256 * 2 ^ 120)) false false

/-- The live object at `pa`, if any (09 R223). -/
def liveObj (s : State) (pa : Nat) : Option LiveObj := s.base.live.find? (fun l => l.pa == pa)

/-- Whether a live barrier stands at `pa`. -/
def liveBar (s : State) (pa : Nat) : Bool := ((liveObj s pa).map (fun l => l.isBar)).getD false

/-- Whether a live sync object stands at `pa`. -/
def liveSync (s : State) (pa : Nat) : Bool := ((liveObj s pa).map (fun l => !l.isBar)).getD false

/-- Changing the live object at `pa`. -/
def onLive (s : State) (pa : Nat) (f : LiveObj → LiveObj) : State :=
  let ls := s.base.live.map (fun l => if l.pa = pa then f l else l)
  { s with base := { s.base with live := ls } }

/-- The release of a waiter leaves the barrier's home on VC3 (09 R211, R225). -/
def sendRelease (s : State) (pa c : Nat) : State := tellCore s (homeOfPa pa) c (((findCore s c).map (fun k => k.csr.pid)).getD 0)

/-- Completion of a phase: GEN advances, the counts are reloaded, every registered waiter is to be released, and the new
phase is fresh (09 R224, R225, 12 R288). -/
def tryComplete (s : State) (pa : Nat) : State :=
  let b := barRead s pa
  if b.pend = 0 ∧ b.inb = 0 ∧ b.outb = 0 then
    match liveObj s pa with
    | none => s
    | some l =>
      let s := barWrite s pa { b with gen := (b.gen + 1) % 16, pend := b.expect, inb := l.xin.toNat, outb := l.xout.toNat }
      let s := { s with base := { s.base with releases := s.base.releases ++ l.waiters.map (fun c => (c, pa)) } }
      onLive (l.waiters.foldl (fun s c => sendRelease s pa c) s) pa (fun l => { l with waiters := [], fresh := true })
  else s

/-- An unmatched journal entry of a reissued lease: the oldest of kind `k` at `pa`, marked matched; its generation
(09 R224, R228). -/
def journalMatch (js : List JEnt) (pa : Nat) (k : Fin 3) : Option (List JEnt × Nat) :=
  match js with
  | [] => none
  | j :: t =>
    if j.pa = pa ∧ j.kind = k ∧ j.matched = false then some ({ j with matched := true } :: t, j.gen)
    else (journalMatch t pa k).map (fun p => (j :: p.1, p.2))

/-- The lease record of core `id`, changed. -/
def onLease (s : State) (id : Nat) (f : Lease → Lease) : State := onCore s id (fun c => { c with lease := c.lease.map f })

/-- The lease of core `id`. -/
def leaseOf (s : State) (id : Nat) : Option Lease := (findCore s id).bind (fun c => c.lease)

/-- Applying a barrier operation of the lease on core `id`: kind 0 an arrival, 1 a count of INB, 2 of OUTB; `none` is a
barrier-phase fault. A reissued lease's repeat is matched to its journal and not applied (09 R224, R228). -/
def barOp (s : State) (id : Nat) (pa : Nat) (k : Fin 3) (g : Nat) : Option (State × Nat) :=
  let l? := leaseOf s id
  let reissue := (l?.map (fun l => l.reissue)).getD false
  let journal := (l?.map (fun l => l.journal)).getD []
  let limited := (l?.map (fun l => !l.abort)).getD false
  match (if reissue then journalMatch journal pa k else none) with
  | some (js, gen) => some (onLease s id (fun l => { l with journal := js }), gen)
  | none =>
    let b := barRead s pa
    let field := match k with
      | 0 => b.pend
      | 1 => b.inb
      | 2 => b.outb
    if field = 0 ∨ (k = 0 ∧ g ≠ b.gen ∧ g ≠ (b.gen + 15) % 16) ∨ (limited ∧ 8 ≤ journal.length) then none
    else
      let b' := match k with
        | 0 => { b with pend := b.pend - 1 }
        | 1 => { b with inb := b.inb - 1 }
        | 2 => { b with outb := b.outb - 1 }
      let s := onLive (barWrite s pa b') pa (fun l => { l with fresh := false })
      let s := onLease s id (fun l => { l with journal := l.journal ++ [⟨pa, k, b.gen, true⟩] })
      some (tryComplete s pa, b.gen)

/-- Registering the current core as a waiter (09 R225). -/
def registerWaiter (s : State) (pa : Nat) : State := onLive s pa (fun l => { l with waiters := l.waiters ++ [s.core.id] })

end Sys2Proof.Machine
end

