-- ==== Sys2Proof/Machine/Atom.lean ====
section
/-! DEFINITION. Machine/Atom.lean: the ATOM group (spec 12 R283 to R285, 09 R220, R221). -/

namespace Sys2Proof.Machine

/-- The core's own L1 copy of the touched word is written back and dropped before the request leaves (10 R234). -/
def ownWord (s : State) (pa : Nat) : State :=
  let s := writeBack s s.core.id (fun w => overlaps w pa 8)
  dropWords s s.core.id (fun w => overlaps w pa 8)

/-- What ATOM-group instructions share: checks, the base's registers, which take LD and ST only (09 R201), leaving,
residency and memory errors; `k` gets the object, the offset and the physical address. -/
def atomAccess (b : CReg) (imm : BitVec 32) (s : State) (k : State → ObjEnt → Nat → Nat → Out) : Out :=
  withHome s b (effOffImm s b imm) 8 8 permA [1, 2, 3] (fun s o off =>
    if o.role = .baseConfig then .next (takeTrap s (trapOperand 1 (word off)))
    else if !residentAt o off then finish (residencyWait s b o off) (fun s _ => .next s)
    else
      let s := setWait s .none
      match paOf o off with
      | none => .next s
      | some pa =>
        let s := if o.space = 2 then ownWord s pa else s
        match dramRead s o off 8 s.core.id with
        | (s, .busy) => .next (setWait s .channel)
        | (s, .bad) => .next (responseTrap s (trapUnresolved 2 b (word off)))
        | (s, .ok) => k s o off pa)

/-- A value atomic: `f old` is the value written, or none for no write; x[A] takes the old value (12 R283). -/
def valueAtomic (f : Word → Option Word) (a : XReg) (b : CReg) (imm : BitVec 32) (s : State) : Out :=
  atomAccess b imm s (fun s o off pa =>
    if tagged s.base pa 8 then .next (responseTrap s ⟨0x16, 0, 0, word off⟩)
    else
      let (s, bs) := homeTake s (some s.core.id) o off 8
      let old := word (bytesNat bs)
      let s := match f old with
        | none => s
        | some v => homePut s o off (wordBytes v) false true
      .next (retire 1 (wrX s a old)))

/-- AADD (12 R283). -/
def execAadd (a : XReg) (b : CReg) (c : XReg) (imm : BitVec 32) (s : State) : Out :=
  valueAtomic (fun old => some (old + rdX s c)) a b imm s

/-- AAND (12 R283). -/
def execAand (a : XReg) (b : CReg) (c : XReg) (imm : BitVec 32) (s : State) : Out :=
  valueAtomic (fun old => some (old &&& rdX s c)) a b imm s

/-- AOR (12 R283). -/
def execAor (a : XReg) (b : CReg) (c : XReg) (imm : BitVec 32) (s : State) : Out :=
  valueAtomic (fun old => some (old ||| rdX s c)) a b imm s

/-- AXOR (12 R283). -/
def execAxor (a : XReg) (b : CReg) (c : XReg) (imm : BitVec 32) (s : State) : Out :=
  valueAtomic (fun old => some (old ^^^ rdX s c)) a b imm s

/-- AMIN, signed (12 R283). -/
def execAmin (a : XReg) (b : CReg) (c : XReg) (imm : BitVec 32) (s : State) : Out :=
  valueAtomic (fun old => some (if old.slt (rdX s c) then old else rdX s c)) a b imm s

/-- AMAX, signed (12 R283). -/
def execAmax (a : XReg) (b : CReg) (c : XReg) (imm : BitVec 32) (s : State) : Out :=
  valueAtomic (fun old => some (if old.slt (rdX s c) then rdX s c else old)) a b imm s

/-- AMINN, unsigned (12 R283). -/
def execAminn (a : XReg) (b : CReg) (c : XReg) (imm : BitVec 32) (s : State) : Out :=
  valueAtomic (fun old => some (if old.ult (rdX s c) then old else rdX s c)) a b imm s

/-- AMAXN, unsigned (12 R283). -/
def execAmaxn (a : XReg) (b : CReg) (c : XReg) (imm : BitVec 32) (s : State) : Out :=
  valueAtomic (fun old => some (if old.ult (rdX s c) then rdX s c else old)) a b imm s

/-- ASWP (12 R283). -/
def execAswp (a : XReg) (b : CReg) (c : XReg) (imm : BitVec 32) (s : State) : Out :=
  valueAtomic (fun _ => some (rdX s c)) a b imm s

/-- ACAS writes only when the old value is x[A] (12 R283). -/
def execAcas (a : XReg) (b : CReg) (c : XReg) (imm : BitVec 32) (s : State) : Out :=
  valueAtomic (fun old => if old = rdX s a then some (rdX s c) else none) a b imm s

/-- FADD adds f64 values, rounded once to nearest even (12 R283). -/
def execFadd (a : XReg) (b : CReg) (c : XReg) (imm : BitVec 32) (s : State) : Out :=
  valueAtomic (fun old => some (word (addTy 0 0 old.toNat (rdX s c).toNat))) a b imm s

/-- A new reservation of the core: its sequence number goes up and is carried; any earlier entry of the core in the
slice gives way; a full table drops its least recently used entry (09 R220, R221). -/
def reserve (s : State) (slice pa : Nat) : State :=
  let n := s.core.resvSeq + 1
  let r : Resv := ⟨slice, s.core.id, ((s.core.lease.map (fun l => l.id)).getD 0), pa, s.gtc, n⟩
  let mine := s.base.resv.filter (fun q => !(q.slice == slice && q.core == s.core.id))
  let here := mine.filter (fun q => q.slice == slice)
  let kept := if here.length < Config.resvTable then mine
    else match here.getLast? with
      | some v => mine.filter (fun q => !(q.slice == slice && q.core == v.core))
      | none => mine
  { s with core := { s.core with resvSeq := n }, base := { s.base with resv := r :: kept } }

/-- LR returns the committed word and makes a reservation on it (12 R284). -/
def execLr (a : XReg) (b : CReg) (imm : BitVec 32) (s : State) : Out :=
  atomAccess b imm s (fun s o off pa =>
    let s := ownWord s pa
    let (s, bs) := homeGet s (some s.core.id) o off 8
    .next (retire 1 (wrX (reserve s (homeOf o pa) pa) a (word (bytesNat bs)))))

/-- Whether a reservation of the current core matches (09 R221). -/
def resvMatches (s : State) (slice pa : Nat) : Bool :=
  s.base.resv.any (fun r => r.slice == slice && r.core == s.core.id && r.pa == pa && r.seq == s.core.resvSeq &&
    r.lease == ((s.core.lease.map (fun l => l.id)).getD 0) && s.gtc < r.gtc + Config.resvLife)

/-- SC stores if the reservation holds and returns 0, else 1; either way no reservation of the core stays in the slice
(12 R285). Before the home evaluates it, dirty copies of the word in a COHERENT region commit, and in host bias the
host's line (09 R217, R221, 10 R236, R251). -/
def execSc (a : XReg) (b : CReg) (c : XReg) (imm : BitVec 32) (s : State) : Out :=
  atomAccess b imm s (fun s o off pa =>
    let s := takeBack (serve s (homeOf o pa) 8 0 s.core.csr.pid) (some s.core.id) o off 8
    let slice := homeOf o pa
    let drop := fun (s : State) =>
      { s with base := { s.base with resv := s.base.resv.filter (fun r => !(r.slice == slice && r.core == s.core.id)) } }
    if resvMatches s slice pa then
      if tagged s.base pa 8 then .next (responseTrap s ⟨0x16, 0, 0, word off⟩)
      else .next (retire 1 (wrX (drop (homePut (takeBack s (some s.core.id) o off 8 false) o off (wordBytes (rdX s c)) false true)) a 0))
    else .next (retire 1 (wrX (drop s) a 1)))

end Sys2Proof.Machine
end

