-- ==== Sys2Proof/Machine/Branch.lean ====
section
/-! DEFINITION. Machine/Branch.lean: branches and jumps (spec 05 R126, R127). A target outside the code object faults at
its fetch, not here. -/

namespace Sys2Proof.Machine

/-- A branch: two cycles when taken, one when not (05 R113, R126). -/
def branch (taken : Bool) (imm : BitVec 32) (s : State) : Out :=
  .next (if taken then jumpTo 2 (brTarget s imm) s else retire 1 s)

/-- BEQ: taken when the registers are equal (05 R126). -/
def execBeq (b c : XReg) (imm : BitVec 32) (s : State) : Out := branch (rdX s b == rdX s c) imm s

/-- BNE: taken when they differ (05 R126). -/
def execBne (b c : XReg) (imm : BitVec 32) (s : State) : Out := branch (rdX s b != rdX s c) imm s

/-- BLT: taken when less, signed (05 R126). -/
def execBlt (b c : XReg) (imm : BitVec 32) (s : State) : Out := branch ((rdX s b).slt (rdX s c)) imm s

/-- BGE: taken when not less, signed (05 R126). -/
def execBge (b c : XReg) (imm : BitVec 32) (s : State) : Out := branch (!(rdX s b).slt (rdX s c)) imm s

/-- BLTN: taken when less, unsigned (05 R126). -/
def execBltn (b c : XReg) (imm : BitVec 32) (s : State) : Out := branch ((rdX s b).ult (rdX s c)) imm s

/-- BGEN: taken when not less, unsigned (05 R126). -/
def execBgen (b c : XReg) (imm : BitVec 32) (s : State) : Out := branch (!(rdX s b).ult (rdX s c)) imm s

/-- JAL links pc + 8 and jumps relative to the pc (05 R127). -/
def execJal (a : XReg) (imm : BitVec 32) (s : State) : Out :=
  .next (jumpTo 2 (brTarget s imm) (wrX s a (s.core.seq.pc + 8)))

/-- JALR jumps to x[B] + sext(IMM), read before the link is written; a target that is not a multiple of 8 traps
(05 R127). -/
def execJalr (a b : XReg) (imm : BitVec 32) (s : State) : Out :=
  let t := rdX s b + sext32 imm
  if t &&& 7 ≠ 0 then .next (takeTrap s (trapOperand 1 t))
  else .next (jumpTo 2 t (wrX s a (s.core.seq.pc + 8)))

end Sys2Proof.Machine
end

