-- ==== Sys2Proof/Machine/Cap.lean ====
section
/-! DEFINITION. Machine/Cap.lean: the CAP group (spec 05 R130 to R135, 04 R89, R90). -/

namespace Sys2Proof.Machine

/-- The lookup of a derivation: an absent entry faults with SUB 6, a REVOKING object with SUB 5 (05 R130, 04 R102).
BADADDR of these faults, and of those of an untagged source, is the cursor of cB (DESIGN CHOICE, log entry 76). -/
def deriveLookup (s : State) (b : CReg) : Except Trap ObjEnt :=
  match findObj s (capOid (rdC s b)) with
  | none => .error (trapCap 6 b (rdC s b).cursor)
  | some o => if o.state = 2 then .error (trapCap 5 b (rdC s b).cursor) else .ok o

/-- CDERIVE: LO at the cursor, LEN from xC, inside the source's bounds (05 R131). Its bounds fault goes before the
faults of the lookup (DESIGN CHOICE, log entry 68: the spec does not order them); a LO of 2^48 or more keeps its low 48
bits, and the cursor all of them (DESIGN CHOICE, log entry 77). -/
def execCderive (a b : CReg) (c : XReg) (s : State) : Out :=
  let k := rdC s b
  let lo := k.cursor.toNat
  let len := (rdX s c).toNat
  if !k.tag then .next (takeTrap s (trapCap 1 b k.cursor))
  else if lo < capLo k ∨ capLo k + capLen k < lo + len ∨ 2 ^ 48 ≤ len then .next (takeTrap s (trapCap 2 b k.cursor))
  else withCap s b (deriveLookup s b) (fun s _ =>
    .next (retire 1 (wrC s a ⟨capBits (capOid k) (capPerm k) lo len, true, word lo⟩)))

/-- CRESTRICT: permissions are masked by IMM[7:0] (05 R132). -/
def execCrestrict (a b : CReg) (perm : BitVec 8) (s : State) : Out :=
  let k := rdC s b
  if !k.tag then .next (takeTrap s (trapCap 1 b k.cursor))
  else withCap s b (deriveLookup s b) (fun s _ =>
    .next (retire 1 (wrC s a { k with bits := capBits (capOid k) (capPerm k &&& perm) (capLo k) (capLen k) })))

/-- Moving the cursor: an untagged source makes no lookup and stays untagged (05 R130, R133). -/
def moveCursor (a b : CReg) (v : Word) (s : State) : Out :=
  let k := rdC s b
  if k.tag then withCap s b (deriveLookup s b) (fun s _ => .next (retire 1 (wrC s a { k with cursor := v })))
  else .next (retire 1 (wrC s a { k with cursor := v }))

/-- CSETOFF: the cursor becomes LO + x[C] (05 R133). -/
def execCsetoff (a b : CReg) (c : XReg) (s : State) : Out := moveCursor a b (word (capLo (rdC s b)) + rdX s c) s

/-- CINCOFF: the cursor moves by sext(IMM) (05 R133). -/
def execCincoff (a b : CReg) (imm : BitVec 32) (s : State) : Out := moveCursor a b ((rdC s b).cursor + sext32 imm) s

/-- CGETBASE reads LO (05 R134). -/
def execCgetbase (a : XReg) (b : CReg) (s : State) : Out := .next (retire 1 (wrX s a (word (capLo (rdC s b)))))

/-- CGETLEN reads LEN (05 R134). -/
def execCgetlen (a : XReg) (b : CReg) (s : State) : Out := .next (retire 1 (wrX s a (word (capLen (rdC s b)))))

/-- CGETOFF reads the cursor less LO (05 R134). -/
def execCgetoff (a : XReg) (b : CReg) (s : State) : Out :=
  .next (retire 1 (wrX s a ((rdC s b).cursor - word (capLo (rdC s b)))))

/-- A capability register loaded from 16 bytes: the cursor is the loaded LO (04 R90). -/
def loadedCap (bs : List Byte) (tag : Bool) : Cap :=
  let bits := BitVec.ofNat 128 (bytesNat bs)
  ⟨bits, tag, (bits.extractLsb' 48 48).setWidth 64⟩

/-- CLDC: 16 aligned bytes and the granule's tag; from the scratchpad tag 0 (05 R135, 04 R90). The base's registers
take 8-byte accesses only (09 R201). -/
def execCldc (a b : CReg) (c : XReg) (imm : BitVec 32) (s : State) : Out :=
  let off := effOff s b c imm
  withCap s b (checkCap s b off 16 16 permR none) (fun s o =>
    if o.space = 0 then .next (retire 4 (wrC s a (loadedCap (spadBytes s off.toNat 16) false)))
    else if o.role = .baseConfig then .next (takeTrap s (trapOperand 1 (word off.toNat)))
    else finish (baseLoad s b o off.toNat 16) (fun s v => .next (retire 1 (wrC s a (loadedCap v.1 v.2)))))

/-- CSTC: the 128 bits and the tag; to the scratchpad the bits only, and not to the base's registers (05 R135, 04 R90,
09 R201). -/
def execCstc (a b : CReg) (c : XReg) (imm : BitVec 32) (s : State) : Out :=
  let off := effOff s b c imm
  let k := rdC s a
  let bs := natBytes 16 k.bits.toNat
  withCap s b (checkCap s b off 16 16 permW none) (fun s o =>
    if o.space = 0 then .next (retire 1 (spadStore s off.toNat bs))
    else if o.role = .baseConfig then .next (takeTrap s (trapOperand 1 (word off.toNat)))
    else finish (baseStore s b o off.toNat bs (some k.tag)) (fun s _ => .next (retire 1 s)))

end Sys2Proof.Machine
end

