-- ==== Sys2Proof/Machine/Engine.lean ====
section
/-! DEFINITION. Machine/Engine.lean: what the three engines share: streams and their positions, local reads and timed
writes, what a command still owes, checks, budgets and capacity, and what an issue takes (spec 01 R10 to R28, 04 R104, 06
R149 to R164, 07 R171, 16 R334, 19 R362). -/

namespace Sys2Proof.Machine

/-! ## Local stores (04 R104) -/

/-- The size of a store. -/
def storeLimit : Store → Nat
  | .spad => Config.spadSize
  | .acc => Config.accSize
  | .wpl => 0x100000
  | .side => 0x20000

/-- The contents of a store. -/
def storeMem (e : Engines) : Store → Mem
  | .spad => e.spad
  | .acc => e.acc
  | .wpl => e.wpl
  | .side => e.side

/-- Replacing the contents of a store. -/
def setStore (e : Engines) (st : Store) (m : Mem) : Engines :=
  match st with
  | .spad => { e with spad := m }
  | .acc => { e with acc := m }
  | .wpl => { e with wpl := m }
  | .side => { e with side := m }

/-- An out-of-range access: the first sets SPFLAG and SPBAD; in one cycle the copy engine's lowest offset goes first,
then the matrix engine's, then the vector engine's (04 R104). -/
def offend (s : State) (e : Eng) (wr : Bool) (off : Int) : State :=
  let first := match s.core.eng.offMark with
    | none => !s.core.csr.spflag.getLsbD 0
    | some q => e.code < q.1 || (e.code == q.1 && off < q.2)
  if first then onEng (onCsr s (fun r => spRecord r e wr (wrapN 64 off))) (fun g => { g with offMark := some (e.code, off) }) else s

/-- Recording the lowest out-of-range byte of a range. -/
def offendRange (s : State) (e : Eng) (wr : Bool) (st : Store) (a : Int) (n : Nat) : State :=
  if n = 0 then s
  else if a < 0 then offend s e wr a
  else if (storeLimit st : Int) < a + n then offend s e wr (max a (storeLimit st))
  else s

/-- An engine read of a local store: bytes outside read 0 (04 R104). -/
def localRead (s : State) (e : Eng) (st : Store) (a : Int) (n : Nat) : State × List Byte :=
  let m := storeMem s.core.eng st
  let bs := (List.range n).map (fun (i : Nat) =>
    if 0 ≤ a + i ∧ a + i < (storeLimit st : Int) then memRead m (a + i).toNat else 0)
  (offendRange s e false st a n, bs)

/-! ## Jobs and their writes -/

/-- Changing the job `id`. -/
def onJob (s : State) (id : Nat) (f : Job → Job) : State :=
  onEng s (fun e => { e with jobs := e.jobs.map (fun j => if j.id = id then f j else j) })

/-- The job `id`. -/
def findJob (s : State) (id : Nat) : Option Job := s.core.eng.jobs.find? (fun j => j.id == id)

/-- Adding a performed interval to a list sorted by start; neighbours merge. -/
def perfAdd (l : List (Nat × Nat)) (p n : Nat) : List (Nat × Nat) :=
  if n = 0 then l
  else (insertBy Prod.fst (p, n) l).foldr (fun a acc =>
    match acc with
    | b :: t => if b.1 ≤ a.1 + a.2 then (a.1, max a.2 (b.1 + b.2 - a.1)) :: t else a :: b :: t
    | [] => [a]) []

/-- How many positions have performed. -/
def perfCount (j : Job) : Nat := j.perf.foldl (fun n p => n + p.2) 0

/-- Whether some position of `lo` to `hi - 1` lies in no interval. -/
def uncovered (ivs : List (Nat × Nat)) (lo hi : Nat) : Bool := runEnd (sortBy Prod.fst ivs) lo < hi

/-- Whether the world brings these positions of a command late (DESIGN CHOICE, log entry 8). -/
def heldBy (s : State) (e : Eng) (entry : BitVec 16) (pos len : Nat) : Bool :=
  s.holds.any (fun h => h.core == s.core.id && h.eng == e && h.entry == entry && pos ≤ h.hi && h.lo < pos + len)

/-- Cutting bytes at the listed positions. -/
def cutBytes (pos : Nat) (ws : List (Int × Byte)) : List Nat → List (Nat × List (Int × Byte))
  | [] => [(pos, ws)]
  | c :: cs =>
    if pos < c ∧ c < pos + ws.length then (pos, ws.take (c - pos)) :: cutBytes c (ws.drop (c - pos)) cs
    else cutBytes pos ws cs

/-- The positions at which late parts of a command begin and end. -/
def holdCuts (s : State) (j : Job) : List Nat :=
  sortBy id ((s.holds.filter (fun h => h.core == s.core.id && h.eng == j.eng && h.entry == j.entry)).flatMap
    (fun h => [h.lo, h.hi + 1]))

/-- The stage offset of a command's derived bytes: a late one performs so many cycles after its last input (07 R173). -/
def stageLag : Instr → Nat
  | .gather _ _ _ _ _ _ | .scatter _ _ _ _ _ _ | .scatadd _ _ _ _ _ _ | .compact _ _ _ _ _ _ _ | .expand _ _ _ _ _ _ _ => 2
  | .topkr _ _ _ _ _ _ _ _ | .topkc _ _ _ _ _ _ _ | .topkcTab _ _ _ _ _ _ _ _ => 8
  | _ => 0

/-- A timed write of a job; `far` when its data comes from the base and may be late (01 R23, R25). -/
def addPend (s : State) (j : Job) (far : Bool) (pcyc pos len : Nat) (w : PWrite) : State :=
  let lag := if far then stageLag j.cmd else 0
  onEng s (fun e => { e with pends := e.pends ++
    [⟨j.id, j.eng, pcyc, !(far && heldBy s j.eng j.entry pos len), false, pos, len, lag, if far then s.gtc + lag else 0, w⟩] })

/-- Timed bytes at rising addresses from `a`, one record piece (01 R23). -/
def addBytes (s : State) (j : Job) (far : Bool) (st : Store) (pcyc pos : Nat) (a : Int) (bs : List Byte) : State :=
  let ws := bs.zipIdx.map (fun p => (a + (p.2 : Nat), p.1))
  (cutBytes pos ws (if far then holdCuts s j else [])).foldl (fun s c =>
    addPend s j far pcyc c.1 c.2.length (.bytes st c.2)) s

/-- The addresses of `n` bytes from `a`, and the bytes of a write from there. -/
def addrsFrom (a n : Nat) : List Int := (List.range n).map (fun i => ((a + i : Nat) : Int))
def bytesFrom (a : Nat) (bs : List Byte) : List (Int × Byte) := (addrsFrom a bs.length).zip bs

/-- Writing bytes over those of a list that starts at `a`. -/
def patch (a : Nat) (bs : List Byte) (off : Nat) (new : List Byte) : List Byte :=
  bs.zipIdx.map (fun p => if off ≤ a + p.2 ∧ a + p.2 < off + new.length then new.getD (a + p.2 - off) 0 else p.1)

/-- The granule that a command has read, once it writes bytes of it itself (07 R176). -/
def patchGran (g : Option (BitVec 24 × Nat × List Byte)) (oid : BitVec 24) (off : Nat) (w : TWrite) :
    Option (BitVec 24 × Nat × List Byte) :=
  match g, w with
  | some (o, n, bs), .bytes ws => if o = oid then some (o, n, patch (n * 256) bs off (ws.map Prod.snd)) else g
  | _, _ => g

/-- A write on its way to its home, which step `j.formed` of its command forms (01 R24); one that no command's
completion counts is of job 0. -/
def addTransit (s : State) (j : Job) (pos len : Nat) (oid : BitVec 24) (off : Nat) (w : TWrite) : State :=
  onEng (onJob s j.id (fun j => { j with gran := patchGran j.gran oid off w })) (fun e => { e with
    transit := e.transit ++ [⟨j.id, j.eng, j.entry, !heldBy s j.eng j.entry pos len, false, pos, len, oid, off, w,
      if j.old then none else some j.iss, j.formed⟩] })

/-- The number of the extent that holds an offset of an object. -/
def extNum (s : State) (oid : BitVec 24) (off : Nat) : Option Nat := (findObj s oid).bind (fun o => (extOf o off).map Prod.fst)

/-- Whether a report like this one already stands: one for each extent that a command misses (22 R394), and one for each
granule with an error. -/
def reported (s : State) (r : Report) : Bool :=
  s.core.eng.reports.any (fun q =>
    q.eng == r.eng && q.entry == r.entry && q.job == r.job && q.cause == r.cause && q.oid == r.oid &&
      (if r.cause = 3 then extNum s q.oid q.off == extNum s r.oid r.off else q.off / 256 == r.off / 256))

/-- A translation fault or a memory error, to be reported to the core (01 R25). -/
def addReport (s : State) (r : Report) : State :=
  if reported s r then s else onEng s (fun e => { e with reports := e.reports ++ [r] })

/-! ## Engine accesses to the base -/

/-- The object as the object table holds it now, else as the command found it (06 R159, R168). -/
def objNow (s : State) (o : ObjEnt) : ObjEnt := (findObj s o.oid).getD o

/-- Where the extents of an object begin, and where the last one ends. -/
def extEnds : List Extent → Nat → List Nat
  | [], a => [a]
  | e :: es, a => a :: extEnds es (a + e.npg * 4096)

/-- The first offset of a range that no resident extent holds. -/
def nonResident (o : ObjEnt) (off n : Nat) : Option Nat :=
  if n = 0 then none
  else (off :: (extEnds o.exts 0).filter (fun x => off < x && x < off + n)).find? (fun x => !residentAt o x)

/-- The report of a range that is not resident; an offset that no extent covers is unresolvable at once (06 R157). -/
def missReport (s : State) (eng : Eng) (entry : BitVec 16) (job step : Nat) (o : ObjEnt) (off pos : Nat) : Report :=
  ⟨job, eng, entry, step, 3, o.oid, off, pos, s.gtc, false, if (extOf o off).isNone then some 1 else none⟩

/-- Reporting a range that a step of a command needs. -/
def reportMiss (s : State) (j : Job) (o : ObjEnt) (off pos : Nat) : State :=
  addReport s (missReport s j.eng j.entry j.id j.formed o off pos)

/-- A granule as a command sees it: what the home returns in one transaction, and over it the command's own earlier
writes that have not landed (07 R176, 10 R246). -/
def ownGran (s : State) (j : Job) (o : ObjEnt) (g : Nat) (bs : List Byte) : List Byte :=
  s.core.eng.transit.foldl (fun bs t => match t.w with
    | .bytes ws => if t.job == j.id && t.oid == o.oid then patch (g * 256) bs t.off (ws.map Prod.snd) else bs
    | _ => bs) bs

/-- Whether bytes of a granule that a command has read hold a word that could not be corrected (08 R191). -/
def granBad (s : State) (o : ObjEnt) (off n : Nat) : Bool :=
  match paOf o off with
  | none => false
  | some pa => (dramChan (some o) pa).isSome && !s.base.lines.any (fun l => l.is (homeOf o pa) (pa / 256)) && uncorrectable s.base pa n

/-- The bytes of a command's base read inside one granule, at their home: none after a report, and none yet while the
array retries or a power-gated core wakes (06 R161, 08 R191, R192, 09 R219). A granule is read in one transaction and
kept while the command goes on in it (10 R246). -/
def granRead (s : State) (j : Job) (o : ObjEnt) (off n pos : Nat) : State × Option (List Byte) :=
  let o := objNow s o
  let g := off / 256
  match nonResident o off n with
  | some x => (reportMiss s j o x pos, none)
  | none =>
    let bad : Report := ⟨j.id, j.eng, j.entry, j.formed, 4, o.oid, off, pos, s.gtc, false, some 2⟩
    if reported s bad then (s, none)
    else match ((findJob s j.id).bind (fun j => j.gran)).filter (fun k => k.1 == o.oid && k.2.1 == g) with
    | some k => if granBad s o off n then (addReport s bad, none) else (s, some ((k.2.2.drop (off % 256)).take n))
    | none =>
      let a := wakeAsk s o (g * 256) 256
      let r := dramRead a.1 o off n s.core.id
      match r.1, a.2.and r.2 with
      | s, .busy => (s, none)
      | s, .bad => (addReport s bad, none)
      | s, .ok =>
        let (s, bs) := homeGet s none o (g * 256) 256 (k := .bulk) (src := some s.core.id)
        let bs := ownGran s j o g bs
        (onJob s j.id (fun j => { j with gran := some (o.oid, g, bs) }), some ((bs.drop (off % 256)).take n))

/-- The bytes of a command's base read, granule by granule; none when one of them does not come. -/
def engRead (s : State) (j : Job) (o : ObjEnt) (off n pos : Nat) : State × Option (List Byte) :=
  (granules off n).foldl (fun (acc : State × Option (List Byte)) g =>
    match acc.2 with
    | none => acc
    | some bs => let r := granRead acc.1 j o g.1 g.2.2 pos; (r.1, r.2.map (fun b => bs ++ b))) (s, some [])

/-! ## Extent registers (06 R157) -/

/-- The extent register of the extent that holds `off`. -/
def extRegAt (o : ObjEnt) (off : Nat) : Option ExtReg :=
  (extOf o off).map (fun p => ⟨p.2.2, p.2.1.pa, p.2.1.npg, Fin.ofNat 4 p.1, p.2.1.res, true⟩)

/-- Whether a register covers an offset. -/
def extCovers (r : ExtReg) (off : Nat) : Bool := r.v && r.ostart ≤ off && off < r.ostart + r.npg * 4096

/-- Job `j` uses register pair `k` at offset `off`: the current register then holds the extent of the offset as the
object table gives it now, so that one filled before a fault was resolved is renewed; the following extent is
requested within EXTDIST of the current one's end. The pair serves the command that issued last with it; an earlier
one translates by the object table (07 R171). -/
def extTouch (s : State) (j : Job) (k : Fin 20) (o : ObjEnt) (off : Nat) : State :=
  if s.core.eng.extJob[k] != j.id then s
  else
  let old := s.core.eng.ext[k]
  let p : ExtPair := ⟨(extRegAt o off).getD ExtReg.none, if extCovers old.cur off then old.nxt else ExtReg.none⟩
  let fin := p.cur.ostart + p.cur.npg * 4096
  let near := p.cur.v && !p.nxt.v && fin - off ≤ s.core.eng.eff.extdist.toNat * 4096
  let p : ExtPair := if near then ⟨p.cur, (extRegAt o fin).getD ExtReg.none⟩ else p
  onEng s (fun e => { e with ext := e.ext.set k p })

/-! ## What commands still owe -/

/-- Whether a timed write covers bytes of a local range. -/
def pendCovers (w : PWrite) (st : Store) (a : Int) (n : Nat) : Bool :=
  match w with
  | .bytes st' ws => st' == st && ws.any (fun p => a ≤ p.1 && p.1 < a + n)
  | .zero rs => st == .acc && rs.any (fun p => (p.1 : Int) < a + n && a < ((p.1 + p.2 : Nat) : Int))
  | .accum st' _ _ hs => st' == st && hs.any (fun h => h.1.any (fun b => a ≤ b && b < a + n))
  | .mask _ _ => false
  | .maskPart _ => false
  | .weight _ _ _ _ => false

/-- The intervals of positions of a view whose addresses lie in a range. -/
def viewHits (v : View) (a : Int) (n : Nat) : List (Nat × Nat) :=
  let run := viewRun v
  if run = 0 then []
  else (List.range (ceilDiv v.len run)).filterMap (fun r =>
    match viewBase v r with
    | none => none
    | some b =>
      let lo := max b a
      let hi := min (b + (min run (v.len - r * run) : Nat)) (a + n)
      if lo < hi then some (v.pos0 + r * run + (lo - b).toNat, v.pos0 + r * run + (hi - b).toNat) else none)

/-- A pseudo-stream of `n` scratchpad bytes at `a`. -/
def spadStrm (a n : Nat) : Strm := ⟨a, n, 1, 1, 0, 0, 0, 0, 0, 15, 0, false, 0, 0, 0, false, 0, 0⟩

/-- Rows that the index stream of GATHER, SCATTER and SCATADD names (07 R178). -/
def rowCount (x : Strm) : Nat := strmLen x / tySize x.ty

/-- The destination streams of a copy, in the order of its positions (06 R150). -/
def dstViews (j : Job) : List View :=
  let d := jD j
  match j.cmd with
  | .cpy _ _ _ _ _ | .fill _ _ _ _ _ => [⟨d, if d.lnk then .linked else .direct, j.idx2, 0, strmLen d⟩]
  | .scatter _ _ _ _ _ _ | .scatadd _ _ _ _ _ _ => [⟨d, .table, j.idx, 0, rowCount (jX j) * d.cnt0⟩]
  | .topkr _ _ _ _ _ _ _ _ | .topkc _ _ _ _ _ _ _ | .topkcTab _ _ _ _ _ _ _ _ | .dskip _ _ _ _ _ _ _ _ =>
    [directView d 0, directView (jX j) (strmLen d)]
  | .compact _ _ _ _ _ _ coff => [directView d 0, directView (spadStrm (8 * coff.val) 8) (strmLen d)]
  | .gather _ _ _ _ _ _ | .expand _ _ _ _ _ _ _ | .accrd _ _ _ _ _ _ | .accwr _ _ _ _ _ _ _ | .dscan _ _ _ _ _ =>
    [directView d 0]
  | _ => []

/-- The destination views in local stores. -/
def localViews (j : Job) : List (Store × View) := (dstViews j).filterMap (fun v => (strmStore v.t).map (fun st => (st, v)))

/-- The local destination streams that take records: COMPACT's count takes none (04 R406). -/
def recViews (j : Job) : List (Store × View) :=
  match j.cmd with
  | .compact _ _ _ _ _ _ _ => (localViews j).filter (fun v => v.2.pos0 == 0)
  | _ => localViews j

/-- The positions of a copy (06 R150). -/
def copyPositions (j : Job) : Nat := (dstViews j).foldl (fun n v => n + v.len) 0

/-- Whether a copy may leave destination positions unwritten (06 R150). -/
def mayleave : Instr → Bool
  | .compact _ _ _ _ _ _ _ | .dskip _ _ _ _ _ _ _ _ => true
  | .expand _ _ _ _ _ _ z => !z
  | _ => false

/-- The bytes of row `r` of slot `sl` of tile `t` (15 R314). -/
def slotOff (t r sl : Nat) : Nat := 0x20000 * t + 1024 * r + 128 * sl

/-- The bytes a matrix row is read or written in: the format word's row origin (15 R319). -/
def fwRow0 (f : Word) : Nat := bitsOf f.toNat 22 16
def fwTA (f : Word) : Nat := bitsOf f.toNat 3 0
def fwTB (f : Word) : Nat := bitsOf f.toNat 7 4
def fwTC (f : Word) : Nat := bitsOf f.toNat 11 8
def fwRM (f : Word) : Nat := bitsOf f.toNat 13 12
def fwSPF (f : Word) : Bool := f.getLsbD 14
def fwKSEL (f : Word) : Nat := bitsOf f.toNat 15 15
def fwSSL (f : Word) : Nat := bitsOf f.toNat 26 24
def fwQPART (f : Word) : Nat := bitsOf f.toNat 29 28
def fwOT (f : Word) : Nat := bitsOf f.toNat 35 32
def fwZEN (f : Word) : Bool := f.getLsbD 39
def fwDSTR (f : Word) : Nat := bitsOf f.toNat 45 40
def fwDZOFF (f : Word) : Nat := bitsOf f.toNat 63 46
def fwMZOFF (f : Word) : Nat := bitsOf f.toNat 49 32
def fwS (f : Word) : Nat := bitsOf f.toNat 63 32

/-- Rows of a matrix command: 0 stands for 128 (02 R52). -/
def nrows (n : Fin 128) : Nat := if n.val = 0 then 128 else n.val

/-- N of an accumulator type (15 R316). -/
def tcN (tc : Nat) : Nat := if tc = 0 then 16 else 32

/-- Row bytes that a DRAIN writes and their distance (15 R327). -/
def drainLen (f : Word) : Nat := tcN (fwTC f) * tySize (fwOT f)
def drainRS (f : Word) : Nat := if fwDSTR f = 0 then drainLen f else 32 * fwDSTR f

/-- The cycles T in which MMAT reads (15 R330); K by the A and B types (15 R316). -/
def mmaK (ta tb : Nat) : Nat :=
  if tb = 6 then (if ta = 2 then 256 else 512) else if ta = 0 then 16 else if ta = 1 then 32
  else if ta = 2 ∨ ta = 3 then 128 else 256
/-- The depth D of a format (15 R316). -/
def mmaD (f : Word) : Nat := if fwTA f = 0 ∨ fwTA f = 1 then 18 else 14
def mmatT (f : Word) : Nat := mmaK (fwTA f) (fwTB f) * tySize (fwTA f) / 8

/-- The window row `v` as an accumulator offset (19 R355). -/
def winOff (vwst : Word) (v : Nat) : Nat :=
  let w := vwst.toNat
  if w.testBit 4 then 0x20000 * (w % 16) + 1024 * bitsOf w 14 8 + 128 * v
  else 0x20000 * (w % 16) + 1024 * (bitsOf w 14 8 + v) + 128 * bitsOf w 18 16

/-- The destination row of a vector command that writes a row. -/
def vecDest : Instr → Option (Fin 64)
  | .vmov _ vd _ _ _ _ | .vadd _ vd _ _ _ _ _ _ | .vsub _ vd _ _ _ _ _ _ | .vmul _ vd _ _ _ _ _ | .vfma _ vd _ _ _ _ _
  | .vmin _ vd _ _ _ _ | .vmax _ vd _ _ _ _ | .vabs _ vd _ _ _ | .vneg _ vd _ _ _ | .vdiv _ vd _ _ _ _ _
  | .vsqrt _ vd _ _ _ _ | .vrsq _ vd _ _ _ _ | .vrcp _ vd _ _ _ _ | .vexp2 _ vd _ _ _ _ | .vlog2 _ vd _ _ _ _
  | .vcvt _ vd _ _ _ _ _ _ | .vand _ vd _ _ _ _ | .vor _ vd _ _ _ _ | .vxor _ vd _ _ _ _ | .vshl _ vd _ _ _ _ _ _
  | .vshr _ vd _ _ _ _ _ _ | .vshra _ vd _ _ _ _ _ _ | .vpopc _ vd _ _ _ | .vctz _ vd _ _ _ | .vclmul _ vd _ _ _ _ _
  | .vpxor _ vd _ _ _ _ _ _ | .vpsum _ vd _ _ _ _ | .vred _ vd _ _ _ _ _ | .vsel _ vd _ _ _ _ | .vbcast _ vd _ _ _ _ _
  | .viota _ vd _ _ _ | .vperm _ vd _ _ _ _ | .vcompr _ vd _ _ _ _ | .vld _ vd _ _ _ | .vldg _ vd _ _ _ _ _
  | .mpop _ vd _ _ _ => some vd
  | _ => none

/-- The mask that a vector command writes. -/
def vecMask : Instr → Option (Fin 8)
  | .vcmp _ mk _ _ _ _ _ | .vmtest _ mk _ _ _ _ _ | .mand _ mk _ _ _ | .mor _ mk _ _ _ | .mnot _ mk _ => some mk
  | _ => none

/-- The object offset of the spill record of label `l` of tile `t` (15 R324). -/
def recordOff (mx : Word) (t l : Nat) : Nat := 16384 * (bitsOf mx.toNat 39 14 + t * (bitsOf mx.toNat 47 40 + 1) + l)

/-- The local ranges that a matrix or vector command will write and has not yet formed. -/
def jobFuture (j : Job) : List Rng :=
  let f := j.snap.fmt
  let at' := fun (st : Store) (a n : Nat) => ((st, (a : Int), n) : Rng)
  let slot := fun (t i sl : Nat) => at' .acc (slotOff t i sl) 128
  let rows := fun (n lag : Nat) (g : Nat → Rng) => ((List.range n).filter (fun i => j.formed ≤ i + lag)).map g
  match j.cmd with
  | .mma _ t _ _ _ n => rows (nrows n) 0 (fun i => slot t.val (fwRow0 f + i) j.snap.slot.val)
  | .mmaz _ t _ _ _ n => rows (nrows n) 1 (fun i => slot t.val (fwRow0 f + i) j.snap.slot.val)
  | .mmat _ t _ _ _ n => rows (nrows n) (mmatT f) (fun i => slot t.val (fwRow0 f + i) j.snap.slot.val)
  | .bind _ t _ ts _ _ n => rows (nrows n) 0 (fun i => slot t.val i ts.val)
  | .drain _ _ a n =>
    rows (nrows n) 0 (fun i => at' .spad (256 * a.val + i * drainRS f) (drainLen f)) ++
    (if fwZEN f && j.formed < nrows n then [at' .spad (16 * fwDZOFF f) 16] else [])
  | .drainq _ _ a n =>
    ((List.range (nrows n / 2)).filter (fun b => j.formed ≤ 2 * b + 1)).flatMap (fun b =>
      [at' .spad (256 * a.val + 32 * (64 * fwQPART f + b)) 32, at' .spad (256 * a.val + 8192 + 64 * fwQPART f + b) 1]) ++
    (if j.formed < nrows n then [at' .spad (256 * a.val + 8448) 256] else [])
  | .slfill _ t _ => if j.formed = 0 then (List.range 128).map (fun r => slot t.val r j.snap.slot.val) else []
  | .vst _ _ _ _ off => if j.formed = 0 then [at' .spad (128 * off.val) 128] else []
  | c => match vecDest c with
    | some vd => if j.formed = 0 then [at' .acc (winOff j.snap.vwst vd.val) 128] else []
    | none => []

/-- Whether two ranges of one store meet. -/
def rngMeet (a b : Rng) : Bool := a.1 == b.1 && a.2.1 < b.2.1 + b.2.2 && b.2.1 < a.2.1 + a.2.2

/-! ### Copies whose destinations depend on data -/

/-- The scratchpad bytes that a direct stream holds now. -/
def peekBytes (e : Engines) (t : Strm) (o n : Nat) : List Byte :=
  (pieces (directView t 0) o n).flatMap (fun p => (List.range p.2.2).map (fun (i : Nat) =>
    let a : Int := p.1 + i
    if 0 ≤ a ∧ a < (Config.spadSize : Int) then memRead e.spad a.toNat else 0))

/-- Numbers of `sz` bytes in a list of bytes. -/
def splitNats (sz : Nat) (bs : List Byte) : List Nat :=
  (List.range (bs.length / max 1 sz)).map (fun i => bytesNat ((bs.drop (i * sz)).take sz))

/-- Indices read so far, and for the others of `n` those that their stream holds now. -/
def peekIdx (e : Engines) (idx : List Nat) (t : Strm) (sz n : Nat) : List Nat :=
  if n ≤ idx.length then idx else idx ++ (splitNats sz (peekBytes e t 0 (n * sz))).drop idx.length

/-- The unpacked stream and the element size of COMPACT or EXPAND. -/
def packWide (j : Job) : Strm :=
  match j.cmd with
  | .expand _ _ _ _ _ _ _ => jD j
  | _ => jS j
def packE (j : Job) : Nat := max 1 (tySize (packWide j).ty)

/-- Mask bit `i`, from the mask bytes read so far. -/
def maskBit (buf : List Byte) (i : Nat) : Bool := (buf.getD (i / 8) 0).getLsbD (i % 8)

/-- A copy as it will be when the indices and mask bytes that it has yet to read are as its streams hold them now:
which bytes it then writes (DEDUCED, log entry 57). -/
def peekJob (e : Engines) (j : Job) : Job :=
  match j.cmd with
  | .cpy _ _ _ _ _ | .fill _ _ _ _ _ =>
    if (jD j).lnk then { j with idx2 := peekIdx e j.idx2 (jLD j) (2 ^ (jD j).isz) (jD j).cnt0 } else j
  | .scatter _ _ _ _ _ _ | .scatadd _ _ _ _ _ _ =>
    { j with idx := peekIdx e j.idx (jX j) (tySize (jX j).ty) (rowCount (jX j)) }
  | .compact _ _ _ _ _ _ _ | .expand _ _ _ _ _ _ _ =>
    { j with buf := j.buf ++ (peekBytes e (jX j) 0 (ceilDiv (strmLen (packWide j) / packE j) 8)).drop j.buf.length }
  | _ => j

/-- The positions, from and to, that a copy has not formed and will write; for a DSKIP, those that it may write
(DEDUCED, log entry 57). `j` is as `peekJob` gives it. -/
def futurePos (j : Job) : List (Nat × Nat) :=
  let n := strmLen (jD j)
  let sz := packE j
  let elems := strmLen (packWide j) / sz
  let from' := min elems (j.formed * (copyW j / sz))
  if j.nsteps ≤ j.formed then []
  else match j.cmd with
  | .compact _ _ _ _ _ _ _ =>
    let kept := ((List.range (elems - from')).filter (fun i => maskBit j.buf (from' + i))).length
    [(j.cnt * sz, min n ((j.cnt + kept) * sz)), (n, n + 8)]
  | .expand _ _ _ _ _ _ z =>
    ((List.range (elems - from')).filter (fun i => z || maskBit j.buf (from' + i))).map (fun i => ((from' + i) * sz, (from' + i + 1) * sz))
  | .dskip _ _ _ _ _ _ _ _ =>
    let b := (j.snap.objS.map (fun o => dcfgB o.dcfg)).getD 1
    [(j.cnt * b, n), (n, n + 8 + 4 * (jS j).cnt0)]
  | _ => [(0, copyPositions j)]

/-- The positions of job `j` that have performed or are formed and held. -/
def formedPos (e : Engines) (j : Job) : List (Nat × Nat) :=
  j.perf ++ (e.pends.filter (fun p => p.job == j.id)).map (fun p => (p.pos, p.len))

/-- Whether positions of a view of `fut` that lie in a range are yet to be formed. -/
def viewOwes (e : Engines) (j : Job) (fut : List (Nat × Nat)) (v : View) (a : Int) (n : Nat) : Bool :=
  let ivs := formedPos e j
  (viewHits v a n).any (fun h => fut.any (fun f => uncovered ivs (max h.1 f.1) (min h.2 f.2)))

/-- Whether a copy has bytes of the range yet to form: for a channel check (`all`) every destination byte that has not
performed counts, also one that it never writes (06 R150). -/
def copyOwes (e : Engines) (j : Job) (all : Bool) (r : Rng) : Bool :=
  let p := peekJob e j
  (localViews p).any (fun v => v.1 == r.1 && viewOwes e j (if all then [(0, copyPositions p)] else futurePos p) v.2 r.2.1 r.2.2)

/-- Whether job `j` will write bytes of the range: held, on their way, or not yet formed. -/
def jobOwes (e : Engines) (j : Job) (all : Bool) (r : Rng) : Bool :=
  e.pends.any (fun p => p.job == j.id && pendCovers p.w r.1 r.2.1 r.2.2) ||
  (!j.done && ((jobFuture j).any (fun q => rngMeet q r) || copyOwes e j all r))

/-- Whether an SLFILL waits for earlier spill writes of its record (15 R325). -/
def fillWaits (e : Engines) (j : Job) : Bool :=
  match j.cmd, j.snap.objX with
  | .slfill _ t l, some o =>
    let off := recordOff j.snap.mxspill t.val l.val
    e.transit.any (fun x => x.job == 0 && x.oid == o.oid && x.off < off + 16384 && off < x.off + x.len &&
      match x.iss with
      | none => true
      | some c => !j.old && c ≤ j.iss)
  | _, _ => false

/-- Whether the next steps of a command need no cycle: its bytes are requested at its issue, or once the spill writes
of its record have landed, or are a pattern already read (06 R161, 07 R177, 15 R325). -/
def freeSteps (j : Job) : Bool :=
  let based := (strmStore (jS j)).isNone
  match j.cmd with
  | .cpy _ _ _ _ _ => based && !(jS j).lnk && !(jD j).lnk
  | .fill _ _ _ _ _ => !(jD j).lnk && 1 ≤ j.step
  | .slfill _ _ _ => true
  | .topkr _ _ _ _ _ _ _ _ | .topkc _ _ _ _ _ _ _ | .topkcTab _ _ _ _ _ _ _ _ | .accwr _ _ _ _ _ _ _ => based
  | _ => false

/-! ## Checks (01 R17 to R22) -/

/-- Setters of a slot that issued in an earlier cycle and have not completed (01 R17). -/
def slotSetters (s : State) (slot : Nat) : List Job :=
  s.core.eng.jobs.filter (fun j => j.sset.val == slot && !j.done && (j.old || j.iss < s.core.csr.scc))

/-- Whether a completion-slot check fails now. -/
def slotFails (s : State) (slot : Fin 16) : Bool := 1 ≤ slot.val && slot.val ≤ 11 && !(slotSetters s slot.val).isEmpty

/-- Whether a copy's positions begin below the channel position `v`, modulo 2^48 (06 R150). -/
def startsBefore (e : Engines) (ch : Fin 4) (c : Job) (v : Nat) : Bool :=
  let before := (e.jobs.filter (fun k => k.id < c.id && chanOf k.cmd == some ch)).map (fun k => k.npos)
  let gap := (v + 2 ^ 48 - ((e.chans[ch]).wpBase + before.sum) % 2 ^ 48) % 2 ^ 48
  0 < gap && gap < 2 ^ 47

/-- Earlier copies on the channel of a channel slot that the checking job watches (01 R18): those issued before it, or
those that begin below the channel-check state that a context area gave it (01 R27). A copy that issues in the cycle of
the checking command counts as issued before it (DESIGN CHOICE, log entry 58). -/
def chanEarlier (s : State) (j : Job) : List Job :=
  let k := (cmdHdr j.cmd).schk.val
  let ch := Fin.ofNat 4 (k - 12)
  if k < 12 then []
  else s.core.eng.jobs.filter (fun c => !c.done && chanOf c.cmd == some ch &&
    match j.chk with
    | none => c.id < j.id
    | some v => c.id != j.id && startsBefore s.core.eng ch c v)

/-- Whether a channel check over these reads fails (01 R18). -/
def chanFails (s : State) (j : Job) (reads : List Rng) : Bool :=
  (chanEarlier s j).any (fun c => reads.any (fun r => jobOwes s.core.eng c true r))

/-- The writes that a failed check waits for (01 R21): those of the bytes, and all of a copy that leaves one of them
unwritten, which counts at its completion (06 R150). -/
def awaitedPends (s : State) (js : List Job) (reads : Option (List Rng)) : List Pend :=
  s.core.eng.pends.filter (fun p => js.any (fun j => j.id == p.job && match reads with
    | none => true
    | some rs => rs.any (fun r => pendCovers p.w r.1 r.2.1 r.2.2 || copyOwes s.core.eng j true r)))

/-- Whether an awaited write cannot come into being while SCC stands: a setter with read steps left, or a destination
byte that a further step forms (01 R21). What the base still owes, and a stopped copy (06 R159), is waited for. -/
def unbounded (s : State) (js : List Job) (reads : Option (List Rng)) : Bool :=
  js.any (fun j =>
    j.step < j.nsteps && j.step ≤ j.formed && j.stop.isNone && !freeSteps j && !fillWaits s.core.eng j &&
    match reads with
    | none => true
    | some rs => rs.any (fun r => copyOwes s.core.eng j true r || (jobFuture j).any (fun q => rngMeet q r)))

/-- The core freezes (01 R20, R26). -/
def freezeCore (s : State) (f : Freeze) : State :=
  match s.core.eng.freeze with
  | some _ => s
  | none => onEng s (fun e => { e with freeze := some f })

/-- What a failed check does: STRICT a schedule-miss, ELASTIC a freeze or an unbounded wait; UNCHECKED is no failure
(01 R20, R21). -/
def checkMissed (s : State) (e : Eng) (slot : Fin 16) (entry step : Nat) (job : Option Nat) (js : List Job)
    (reads : Option (List Rng)) : State :=
  if s.core.csr.schmode = 1 then
    if unbounded s js reads then raiseEFault s ⟨0x11, 3, e, entry, step, 0⟩
    else freezeCore s ⟨1, slot, e, step, s.gtc, job, 0, 0, none⟩
  else raiseEFault s ⟨0x11, 1, e, entry, step, word slot.val⟩

/-! ## Records, held data and the port budget (01 R16, R26, 04 R111, R406) -/

/-- The records a matrix or vector command takes at issue (04 R406). -/
def recTotal (j : Job) : Nat :=
  match j.cmd with
  | .wload _ _ _ | .slfill _ _ _ => 1
  | .mma _ _ _ _ _ n | .mmat _ _ _ _ _ n | .mmaz _ _ _ _ _ n | .bind _ _ _ _ _ _ n => nrows n
  | .drain _ _ _ n => nrows n + (if fwZEN j.snap.fmt then 1 else 0)
  | .drainq _ _ _ n => nrows n / 2 + 1
  | .vst _ _ _ _ _ => 1
  | .vldg _ _ _ _ _ _ mr => if mr = 0 then 1 else 2
  | c => if (vecDest c).isSome || (vecMask c).isSome then 1 else 0

/-- The records a job holds now: for a copy, each local destination stream one for its open run and one for each further
run that has begun and not performed (07 R171, DEDUCED, log entry 16). -/
def recUse (s : State) (j : Job) : Nat :=
  if j.done then 0
  else match chanOf j.cmd with
  | some _ =>
    let ps := s.core.eng.pends.filter (fun p => p.job == j.id && p.pcyc ≤ s.core.csr.scc + copyLat j)
    (recViews j).foldl (fun n v =>
      let run := max 1 (viewRun v.2)
      let rs := (ps.filter (fun p => v.2.pos0 ≤ p.pos && p.pos < v.2.pos0 + v.2.len)).map (fun p => (p.pos - v.2.pos0) / run)
      n + (if uncovered j.perf v.2.pos0 (v.2.pos0 + v.2.len) || v.2.len == 0 then max 1 rs.eraseDups.length else 0)) 0
  | none =>
    let freed := match j.cmd with
      | .vldg _ _ _ _ _ _ _ => (if uncovered j.perf 0 128 then 0 else 1) + (if uncovered j.perf 128 129 then 0 else 1)
      | .slfill _ _ _ => if uncovered j.perf 0 16384 then 0 else 1
      | _ => perfCount j
    recTotal j - freed

/-- The records in flight. -/
def recsNow (s : State) : Nat := s.core.eng.jobs.foldl (fun n j => n + recUse s j) 0

/-- The held data in flight. -/
def heldNow (s : State) : Nat := s.core.eng.jobs.foldl (fun n j => n + j.held) 0

/-- Whether any byte that a copy writes locally comes from the base (04 R406). -/
def copyBased (j : Job) : Bool :=
  match j.cmd with
  | .fill _ _ _ _ _ => false
  | .topkcTab _ _ _ _ _ _ _ _ => true
  | _ => (strmStore (jS j)).isNone

/-- The held data a command reserves at its issue (04 R406). -/
def heldTotal (j : Job) : Nat :=
  let f := j.snap.fmt
  match j.cmd with
  | .wload _ _ _ => 512 * j.nsteps
  | .mma _ _ _ _ _ n | .mmat _ _ _ _ _ n | .mmaz _ _ _ _ _ n => 80 * tcN (fwTC f) * min (nrows n) (mmaD f)
  | .bind _ _ _ _ _ _ n => 128 * min (nrows n) 12
  | .drain _ _ _ n => 128 * min (nrows n) 4 + (if fwZEN f then 16 else 0)
  | .drainq _ _ _ n => 33 * min (nrows n / 2) 3 + 256
  | .slfill _ _ _ => 16384
  | .vldg _ _ _ _ _ _ mr => if mr = 0 then 128 else 144
  | .vst _ _ _ _ _ => 128
  | c => match chanOf c with
    | some _ =>
      if copyBased j then min ((localViews j).foldl (fun n v => n + v.2.len) 0) (copyW j * (copyLat j + 1)) else 0
    | none => if (vecDest c).isSome then 128 else if (vecMask c).isSome then 16 else 0

/-- Elements of an index stream that chunk `m` of an indirect stream needs, in bytes (07 R176). -/
def idxLen (t : Strm) (w m : Nat) : Nat :=
  if t.lnk then min (w / 2 ^ t.esz) (t.cnt0 - m * (w / 2 ^ t.esz)) * 2 ^ t.isz else 0

/-- `n` when the stream lies in the scratchpad. -/
def spadOnly (t : Strm) (n : Nat) : Nat := if t.space = 0 then n else 0

/-- Mask bytes whose first unpacked byte falls into chunk `m` (07 R182): from, count. -/
def maskSpan (nelem esz w m : Nat) : Nat × Nat :=
  let lo := ceilDiv (m * w) (8 * esz)
  let hi := min (ceilDiv ((m + 1) * w) (8 * esz)) (ceilDiv nelem 8)
  (lo, hi - lo)

/-- Elements per cycle of ACCRD and ACCWR (07 R183). -/
def accE (j : Job) : Nat := 64 / max 1 (max (tySize (jS j).ty) (tySize (jD j).ty))

/-- The value count K of a block of TOPKR or TOPKC (07 R180, R181). -/
def topkK : Instr → Nat
  | .topkr _ _ _ _ _ _ _ k => k.val
  | .topkc _ _ _ _ _ _ k => k.val
  | .topkcTab _ _ _ _ _ _ _ kcap => if kcap.val = 0 then 512 else kcap.val
  | _ => 0

/-- Scratchpad bytes that a command reads and writes at its relative cycle `k` (01 R16). A byte to which SCATADD adds
counts once, at its perform cycle (DESIGN CHOICE, log entry 72); a byte at an offset of 0x40_0000 or above, which
reads 0 or is dropped, counts like another (DESIGN CHOICE, log entry 73); QLD's descriptor counts, so that it too can
exceed the budget (DESIGN CHOICE, log entry 93). -/
def portUse (j : Job) (k : Nat) : Nat :=
  let d := jD j
  let sr := jS j
  let x := jX j
  let l := copyLat j
  let w := copyW j
  let f := j.snap.fmt
  let at' := fun (lag n : Nat) => if lag ≤ k then chunkLen n w (k - lag) else 0
  match j.cmd with
  | .qld _ _ _ => if k = 0 then 64 else 0
  | .cpy _ _ _ _ _ =>
    let y := if sr.lnk || d.lnk then 2 else 0
    idxLen sr w k + idxLen d w k + spadOnly sr (at' y (strmLen sr)) + spadOnly d (at' (y + l) (strmLen d))
  | .fill _ _ _ _ _ =>
    let y := if d.lnk then 2 else 0
    (if k = 0 then 8 else 0) + idxLen d w k + spadOnly d (at' (y + l) (strmLen d))
  | .gather _ _ _ _ _ _ | .scatter _ _ _ _ _ _ | .scatadd _ _ _ _ _ _ =>
    let isG := match j.cmd with
      | .gather _ _ _ _ _ _ => true
      | _ => false
    let rl := if isG then sr.cnt0 else d.cnt0
    let r := max 1 (ceilDiv rl w)
    let n := rowCount x
    let row := fun lag => if lag ≤ k ∧ (k - lag) / r < n then chunkLen rl w ((k - lag) % r) else 0
    (if k % r = 0 ∧ k / r < n then tySize x.ty else 0) + spadOnly sr (row 2) + spadOnly d (row (2 + l))
  | .topkr _ _ _ _ _ _ _ _ =>
    let kk := topkK j.cmd
    let out := fun (t : Strm) (sz : Nat) => spadOnly t ((List.range (sr.cnt1 * sr.cnt2)).foldl (fun n row =>
      let lag := if sr.cnt0 = 0 then l + 7 else l + 8 + ((row + 1) * sr.cnt0 - 1) / w
      n + at' lag (kk * sz)) 0)
    spadOnly sr (at' 0 (strmLen sr)) + out d (tySize sr.ty) + out x 4
  | .topkc _ _ _ _ _ _ _ | .topkcTab _ _ _ _ _ _ _ _ =>
    let lag := l + 8 + (strmLen sr - 1) / w
    let kk := topkK j.cmd
    let cols := sr.cnt0 / max 1 (tySize sr.ty)
    let out := fun (t : Strm) (sz : Nat) => spadOnly t (cols * at' lag (kk * sz))
    spadOnly sr (at' 0 (strmLen sr)) + out d (tySize sr.ty) + out x 4
  | .compact _ _ _ _ _ _ _ =>
    let e := max 1 (tySize sr.ty)
    let n := strmLen sr / e * e
    (maskSpan (n / e) e w k).2 + spadOnly sr (at' 0 n) + spadOnly d (min (at' (l + 2) n) (strmLen d)) +
      (if k = l + 3 + (strmLen sr - 1) / w then 8 else 0)
  | .expand _ _ _ _ _ _ _ =>
    let e := max 1 (tySize d.ty)
    let n := strmLen d / e * e
    (maskSpan (n / e) e w k).2 + spadOnly sr (min (at' 0 n) (strmLen sr)) + spadOnly d (at' (l + 2) n)
  | .accrd _ _ _ _ _ _ | .accwr _ _ _ _ _ _ _ =>
    let m := strmLen d / max 1 (tySize d.ty)
    let e := accE j
    let el := fun lag => if lag ≤ k then chunkLen m e (k - lag) else 0
    spadOnly sr (el 0 * tySize sr.ty) + spadOnly d (el l * tySize d.ty)
  | .dscan _ _ _ _ _ => at' l (strmLen d)
  | .dskip _ _ _ _ _ _ dcls _ =>
    let b := ((j.snap.objS.map (fun o => dcfgB o.dcfg)).getD 1)
    let r := max 1 (ceilDiv b 64)
    let m := sr.cnt0
    let lq := strmLat sr
    let ld := clsLat dcls.val sr.hops
    let on := fun lag => lag ≤ k && (k - lag) % r == 0 && (k - lag) / r < m
    (if k = 0 then 16 else 0) +
      spadOnly d (if lq + ld ≤ k ∧ (k - lq - ld) / r < m then chunkLen (min b (strmLen d)) 64 ((k - lq - ld) % r) else 0) +
      (if on (lq + 1) then 4 else 0) + (if k = lq + 2 + (m - 1) * r then 8 else 0)
  | .wload _ _ _ => if k < j.nsteps then 512 else 0
  | .mma _ _ _ _ _ n => if k < nrows n then mmaK (fwTA f) (fwTB f) * tySize (fwTA f) else 0
  | .mmaz _ _ _ _ _ n => (if k = 0 then 16 else 0) + (if k < nrows n then mmaK (fwTA f) (fwTB f) * tySize (fwTA f) else 0)
  | .mmat _ _ _ _ _ _ => if k < mmatT f then 1024 else 0
  | .bind _ _ _ _ _ _ n => if k < nrows n then j.snap.labels.length * tySize j.snap.ttype.val else 0
  | .drain _ _ _ n =>
    (if 4 ≤ k ∧ k < 4 + nrows n then drainLen f else 0) + (if fwZEN f ∧ k = 4 + nrows n then 16 else 0)
  | .drainq _ _ _ n =>
    (if 5 ≤ k ∧ k % 2 = 1 ∧ k < 5 + nrows n then 33 else 0) + (if k = 4 + nrows n then 256 else 0)
  | .vld _ _ _ _ _ => if k = 0 then 128 else 0
  | .vst _ _ m t _ =>
    if k = 2 then
      (List.range (128 / max 1 (tySize t.val))).countP (fun i => (j.buf.getD (i / 8) 0).getLsbD (i % 8) || m.val == 0) *
        tySize t.val
    else 0
  | _ => 0

/-- The last relative cycle at which a command counts scratchpad bytes. -/
def portSpan (j : Job) : Nat :=
  match j.cmd with
  | .cpy _ _ _ _ _ | .fill _ _ _ _ _ => copyLat j + 2 + ceilDiv (strmLen (jD j)) (copyW j)
  | .dscan _ _ _ _ _ => copyLat j + ceilDiv (strmLen (jD j)) 64
  | .drain _ _ _ _ | .drainq _ _ _ _ => j.nsteps + 5
  | .vst _ _ _ _ _ => 2
  | .topkr _ _ _ _ _ _ _ _ | .topkc _ _ _ _ _ _ _ | .topkcTab _ _ _ _ _ _ _ _ =>
    copyLat j + 9 + j.nsteps + ceilDiv (topkK j.cmd * 8) 64 + ceilDiv (strmLen (jS j)) (copyW j)
  | c => match chanOf c with
    | some _ => copyLat j + 4 + j.nsteps + ceilDiv ((j.snap.objS.map (fun o => dcfgB o.dcfg)).getD 0) 64
    | none => j.nsteps

/-- The bytes that issued commands count in SCC cycle `c`. -/
def portCount (s : State) (c : Nat) : Nat :=
  s.core.eng.jobs.foldl (fun n j => n + (if !j.old && j.iss ≤ c then portUse j (c - j.iss) else 0)) 0

/-- Whether a command keeps within the port budget at every cycle (01 R16). -/
def portOk (s : State) (j : Job) : Bool :=
  (List.range (portSpan j + 1)).all (fun k =>
    let n := portUse j k
    n == 0 || portCount s (s.core.csr.scc + k) + n ≤ Config.portBudget)

/-! ## What an issue takes (07 R171, 16 R334, 19 R362) -/

/-- A fault that a command raises before it issues: CODE, SUB, AUX when it is not the entry number, BADADDR. -/
structure CmdFault where
  code : Nat
  sub  : Nat
  aux  : Option Nat
  bad  : Word
deriving DecidableEq, Repr

/-- The format word at the head of the queue, if a pop sees one (01 R28). -/
def fmtHead (s : State) : Option Word :=
  match s.core.eng.fq with
  | [] => none
  | (w, c) :: _ => if c ≤ s.core.csr.scc then some w else none

/-- The extent register pair of stream register `q`, and of global access register `k` (06 R157, 19 R359). -/
def extQ (q : Fin 16) : Fin 20 := ⟨q.val, Nat.lt_of_lt_of_le q.isLt (by decide)⟩
def extG (k : Fin 4) : Fin 20 := ⟨16 + k.val, Nat.add_lt_add_left k.isLt 16⟩

/-- The extent register pairs that a command uses, which serve it from its issue on (07 R171). -/
def extRegs : Instr → List (Fin 20)
  | .cpy _ _ qd qs _ | .gather _ _ qd qs _ _ | .scatter _ _ qd qs _ _ | .scatadd _ _ qd qs _ _ | .compact _ _ qd qs _ _ _
  | .expand _ _ qd qs _ _ _ | .accrd _ _ qd qs _ _ | .accwr _ _ qd qs _ _ _ | .dscan _ _ qd qs _ => [extQ qd, extQ qs]
  | .topkr _ _ qd qs qx _ _ _ | .topkc _ _ qd qs qx _ _ | .topkcTab _ _ qd qs qx _ _ _ | .dskip _ _ qd qs qx _ _ _ =>
    [extQ qd, extQ qs, extQ qx]
  | .fill _ _ qd _ _ => [extQ qd]
  | .prefetch _ qs _ | .evict _ qs _ => [extQ qs]
  | .vldg _ _ k _ _ _ _ | .vstg _ _ k _ _ _ => [extG k]
  | _ => []

/-- A snapshot without streams. -/
def snap0 (s : State) : Snap :=
  let z : Desc := Vector.replicate 8 0
  let f := s.core.eng.eff
  ⟨z, z, z, z, z, Cap.null, Cap.null, Cap.null, Cap.null, none, none, none, (fmtHead s).getD 0, 0, 15, [], [], f.qk.toNat,
    f.vfcr, s.core.eng.vwst, 0, 0, f.mxspill⟩

/-- A job before its issue. -/
def job0 (e : Eng) (cmd : Instr) (n : Snap) (nsteps : Nat) : Job :=
  let j : Job := ⟨0, e, 0, cmd, 0, 0, false, 0, 0, nsteps, n, [], [], [], none, 0, 0, [], 0, 0, false, false, none, false, false, false, none⟩
  { j with held := heldTotal j, npos := copyPositions j }

/-- The capability check of a base stream at its issue (06 R156): the checks of 04 R102 without alignment, with G in
the need mask; `space` is the object space it must have. An empty range has no bound to break (DESIGN CHOICE, log
entry 56). -/
def engCheck (s : State) (c : Cap) (creg : Nat) (lo : Int) (size : Nat) (need : BitVec 8) (space : Option Nat) :
    Except CmdFault ObjEnt :=
  let bad := offWord lo
  let f := fun sub => Except.error ⟨0x03, sub, some creg, bad⟩
  if !c.tag then f 1
  else if capPerm c &&& (need ||| permG) ≠ need ||| permG ∨ capOid c = BitVec.ofNat 24 Config.spadOid then f 3
  else if size ≠ 0 ∧ (lo < capLo c ∨ capLo c + capLen c < lo + size) then f 2
  else match findObj s (capOid c) with
    | none => f 6
    | some o =>
      if o.kernel && !s.core.csr.mode then f 7
      else if (space.map (· != o.space.val)).getD false then f 4
      else if need &&& 6 ≠ 0 ∧ (o.span || o.basewr) then f 3
      else .ok o

end Sys2Proof.Machine
end

