-- ==== Sys2Proof/Machine/EngineOps.lean ====
section
/-! DEFINITION. Machine/EngineOps.lean: what engines do while commands run: counting barriers, performing timed writes,
landing writes at their homes, completing commands, stopping copies, early-read checkers (spec 01 R15 to R25, 06 R150,
R159, R163, R164). -/

namespace Sys2Proof.Machine

/-! ## Barrier counting (06 R164) -/

/-- Counting INB (1) or OUTB (2) of the barrier that a BC copy names, by a message on VC3 to its home (09 R211); a
refused count raises barrier-phase. -/
def countBarrier (s : State) (j : Job) (k : Fin 3) : State :=
  let off := (jD j).boff
  let refused := raiseEFault s ⟨0x15, 0, .copy, j.entry.toNat, 0, word off⟩
  match (findObj s (capOid j.snap.capB)).bind (fun o => paOf o off) with
  | none => refused
  | some pa =>
    let s := drawBucket (tellSlice s (homeOfPa pa) s.core.id s.core.csr.pid) (homeOfPa pa) (requestBytes 0 0) s.core.csr.pid
    let refused := raiseEFault s ⟨0x15, 0, .copy, j.entry.toNat, 0, word off⟩
    if liveBar s pa then
      match barOp s s.core.id pa k 0 with
      | some (s, _) => s
      | none => refused
    else refused

/-- Whether a command counts a barrier. -/
def jobBc : Instr → Bool
  | .cpy _ _ _ _ bc | .fill _ _ _ bc _ | .gather _ _ _ _ _ bc | .scatter _ _ _ _ _ bc | .scatadd _ _ _ _ _ bc
  | .topkr _ _ _ _ _ bc _ _ | .topkc _ _ _ _ _ bc _ | .topkcTab _ _ _ _ _ bc _ _ | .compact _ _ _ _ _ bc _
  | .expand _ _ _ _ _ bc _ | .accrd _ _ _ _ bc _ | .accwr _ _ _ _ bc _ _ | .dscan _ _ _ _ bc
  | .dskip _ _ _ _ _ bc _ _ => bc
  | _ => false

/-- The whole source of a job has been read: OUTB is counted once (06 R164). -/
def sourceRead (s : State) (id : Nat) : State :=
  match findJob s id with
  | none => s
  | some j =>
    if jobBc j.cmd && !j.bcOut then countBarrier (onJob s id (fun j => { j with bcOut := true })) j 2 else s

/-! ## Performing (01 R15, R23, R27) -/

/-- Bytes at exact addresses of a store: one outside reads 0, and a write to it is dropped (04 R104). -/
def storeGet (st : Store) (m : Mem) (as : List Int) : List Byte :=
  as.map (fun a => if 0 ≤ a ∧ a < (storeLimit st : Int) then memRead m a.toNat else 0)
def storePut (st : Store) (m : Mem) (ws : List (Int × Byte)) : Mem :=
  memWrites m (ws.filterMap (fun p => if 0 ≤ p.1 ∧ p.1 < (storeLimit st : Int) then some (p.1.toNat, p.2) else none))

/-- Recording the lowest written address that lies outside a store. -/
def offendWrites (s : State) (e : Eng) (st : Store) (as : List Int) : State :=
  match as.filter (fun a => a < 0 || (storeLimit st : Int) ≤ a) with
  | [] => s
  | a :: as => offend s e true (as.foldl min a)

/-- Adding a value to the element whose bytes stand at `as`, with one rounding (03 R72, R82, 01 R27). -/
def accumAt (st : Store) (m : Mem) (ty rm : Nat) (as : List Int) (h : Addend) : Mem :=
  let old := bytesNat (storeGet st m as)
  let new := if tyFloat ty then roundTo rm ty (addTo (fdec ty old) h)
    else wrapN (tyBits ty) (intVal ty old + (match h.val with
      | .fin n e => if 0 ≤ e then n * 2 ^ e.toNat else n
      | _ => 0))
  storePut st m (as.zip (natBytes (tySize ty) new))

/-- The masks with byte `a` of m0 to m7, numbered as the offsets of 19 R358 number them, written. -/
def maskByte (m : Vector (BitVec 128) 8) (a : Nat) (b : Byte) : Vector (BitVec 128) 8 :=
  let k := Fin.ofNat 8 (a / 16)
  m.set k (BitVec.ofNat 128 (bytesNat ((natBytes 16 m[k].toNat).set (a % 16) b)))

/-- The effect of a timed write on the core's stores. -/
def applyWrite (s : State) (e : Eng) (w : PWrite) : State :=
  match w with
  | .bytes st ws => onEng (offendWrites s e st (ws.map Prod.fst)) (fun g => setStore g st (storePut st (storeMem g st) ws))
  | .zero rs => onEng s (fun g => { g with acc := rs.foldl (fun m r => memClear m r.1 r.2) g.acc })
  | .accum st ty rm hs =>
    onEng (offendWrites s e st (hs.flatMap Prod.fst)) (fun g =>
      setStore g st (hs.foldl (fun m h => accumAt st m ty.val rm.val h.1 h.2) (storeMem g st)))
  | .mask k v => onEng s (fun g => { g with masks := g.masks.set k v })
  | .maskPart ws => onEng s (fun g => { g with masks := ws.foldl (fun m p => maskByte m p.1 p.2) g.masks })
  | .weight we data side tag =>
    onEng s (fun g => { g with
      wpl := memWriteL (memClear g.wpl (8192 * we.val) 8192) (8192 * we.val) (data.take 8192),
      side := memWriteL (memClear g.side (1024 * we.val) 1024) (1024 * we.val) (side.take 1024),
      wtag := g.wtag.set we (if tag = 15 then none else some tag) })

/-- R15's order within a cycle: copy, matrix, vector; then issue order; then position. -/
def pendBefore (a b : Pend) : Bool :=
  a.eng.code < b.eng.code || (a.eng.code == b.eng.code && (a.job < b.job || (a.job == b.job && a.pos < b.pos)))

/-- The first of a list in R15's order. -/
def firstPend : List Pend → Option Pend
  | [] => none
  | p :: ps => match firstPend ps with
    | none => some p
    | some q => if pendBefore q p then some q else some p

/-- The pends that a freeze under a failed check waits for (01 R21). -/
def freezeAwaits (s : State) (reads : Job → List Rng) : List Pend :=
  match s.core.eng.freeze with
  | some f =>
    if f.cause = 1 then
      match f.job.bind (findJob s) with
      | some j => awaitedPends s (chanEarlier s j) (some (reads j))
      | none => awaitedPends s (slotSetters s f.slot.val) none
    else []
  | none => []

/-- Whether the copy that a write belongs to has stopped before it (06 R159). -/
def pendStopped (s : State) (p : Pend) : Bool :=
  ((findJob s p.job).map (fun j => match j.stop with
    | some o => o ≤ p.pos
    | none => false)).getD false

/-- The port budget left in this cycle for late deliveries (01 R16). -/
def portLeft (s : State) : Nat := Config.portBudget - portCount s s.core.csr.scc - s.core.eng.lateUse

/-- The scratchpad bytes of a timed write, and the fewest of them that perform together: elements that are added to
stay whole. -/
def pendSpad (p : Pend) : Nat :=
  match p.w with
  | .bytes .spad ws => ws.length
  | .accum .spad _ _ hs => (hs.map (fun h => h.1.length)).sum
  | _ => 0
def pendUnit (p : Pend) : Nat :=
  match p.w with
  | .bytes .spad _ => 1
  | .accum .spad _ _ (h :: _) => h.1.length
  | _ => 0

/-- Whether SCC stands in this cycle: the core is frozen, throttled, or held for the saving of its context (01 R12, R35,
22 R399). -/
def standing (s : State) : Bool := s.core.eng.freeze.isSome || s.core.throttled || s.core.saving

/-- Whether a write may perform now: its data is there, with its stage offset behind it, and its cycle has come, or it
is awaited; while SCC stands only late and awaited writes perform; a late one needs room in the port budget (01 R16,
R21, R23, R25, R26, 07 R173). -/
def pendReady (s : State) (awaits : List Pend) (p : Pend) : Bool :=
  p.arrived && p.ready ≤ s.gtc && !pendStopped s p &&
  if standing s then p.pcyc < s.core.csr.scc || awaits.contains p
  else p.pcyc == s.core.csr.scc || (p.pcyc < s.core.csr.scc && pendUnit p ≤ portLeft s)

/-- The write that performs next in this cycle. -/
def nextPerform (s : State) (reads : Job → List Rng) : Option Pend :=
  let aw := freezeAwaits s reads
  firstPend (s.core.eng.pends.filter (pendReady s aw))

/-- Cutting a write after at most `n` of its scratchpad bytes. -/
def splitPend (p : Pend) (n : Nat) : Option (Pend × Pend) :=
  let cut := fun (k : Nat) (a b : PWrite) =>
    if 0 < k ∧ k < p.len then some ({ p with len := k, w := a }, { p with pos := p.pos + k, len := p.len - k, w := b }) else none
  match p.w with
  | .bytes st ws => cut n (.bytes st (ws.take n)) (.bytes st (ws.drop n))
  | .accum st ty rm hs =>
    let sz := max 1 (tySize ty.val)
    cut (n / sz * sz) (.accum st ty rm (hs.take (n / sz))) (.accum st ty rm (hs.drop (n / sz)))
  | _ => none

/-- Performing a write: its effect, its positions counted, its record freed. A late delivery that exceeds the budget
left performs in part (01 R16). -/
def performPend (s : State) (p : Pend) : State :=
  let late := !standing s && p.pcyc < s.core.csr.scc
  let cut := if late && portLeft s < pendSpad p then splitPend p (portLeft s) else none
  let (now, rest) : Pend × List Pend := match cut with
    | some (a, b) => (a, [b])
    | none => (p, [])
  let s := applyWrite s p.eng now.w
  onEng (onJob s p.job (fun j => { j with perf := perfAdd j.perf now.pos now.len }))
    (fun e => { e with
      pends := (e.pends.erase p) ++ rest,
      lateUse := e.lateUse + (if late then pendSpad now else 0) })

/-! ## Landing at the home (01 R24, 09 R223, 07 R179) -/

/-- Whether a write waits for the rest of an element it carries only in part (11 R260). -/
def transitOpen (s : State) (t : Transit) : Bool :=
  match t.w, findObj s t.oid, findJob s t.job with
  | .bytes ws, some o, some j =>
    dcfgEn o.dcfg && (t.off + ws.length) % max 1 (tySize (dcfgType o.dcfg)) != 0 && j.formed < j.nsteps && j.stop.isNone
  | _, _, _ => false

/-- The first offset of a write on its way that is not resident (01 R25). -/
def transitMiss (s : State) (t : Transit) : Option (ObjEnt × Nat) :=
  match t.w with
  | .capLoad _ _ => none
  | _ => (findObj s t.oid).bind (fun o => (nonResident o t.off t.len).map (fun x => (o, x)))

/-- Whether a write belongs to a copy that has stopped before it (06 R159). -/
def transitStopped (s : State) (t : Transit) : Bool :=
  ((findJob s t.job).bind (fun j => j.stop.map (fun o => decide (o ≤ t.pos)))).getD false

/-- Whether an earlier write of the same copy comes first: one to the same bytes, and for a table any earlier row (07
R176, R178, R179). -/
def transitBehind (s : State) (t : Transit) : Bool :=
  let rows := ((findJob s t.job).map (fun j => match j.cmd with
    | .scatter _ _ _ _ _ _ | .scatadd _ _ _ _ _ _ => true
    | _ => false)).getD false
  t.job != 0 && s.core.eng.transit.any (fun u => u.job == t.job && u.pos < t.pos &&
    (rows || (u.oid == t.oid && u.off < t.off + t.len && t.off < u.off + u.len)))

/-- Whether a write on its way has reached its home and may land there, its element apart. -/
def transitThere (s : State) (t : Transit) : Bool :=
  t.arrived && !t.need && !transitOpen s t && (transitMiss s t).isNone && !transitStopped s t && !transitBehind s t

/-- Whether a write on its way may land: it can be applied at its home. -/
def transitReady (s : State) (t : Transit) : Bool := transitThere s t && (landFetch s t).2 == .ok

/-- The write on its way that lands next. -/
def nextTransit (s : State) : Option Transit := s.core.eng.transit.find? (transitReady s)

/-- The report of a write whose extent is not resident (01 R25), with the step that formed the write (04 R94). -/
def transitReport (s : State) (t : Transit) : Option Report :=
  (transitMiss s t).map (fun m => missReport s t.eng t.entry t.job t.step m.1 m.2 t.pos)

/-- A report that a write on its way still has to make: it has reached its home, and none stands for its granule. -/
def newReport (s : State) : Option Report :=
  s.core.eng.transit.findSome? (fun t =>
    if !t.arrived || transitStopped s t then none
    else (transitReport s t).bind (fun r => if reported s r then none else some r))

/-- A write at its home that cannot be applied: its transfer queues on the failing channel, power-gated cores wake for
it, or the base reports the uncorrectable word or the disabled channel to the core, as for data that engines await (08
R191, R192, 09 R219). -/
def landBlocked (s : State) : Option State :=
  s.core.eng.transit.findSome? (fun t =>
    if !transitThere s t then none
    else
      let bad : Report := ⟨t.job, t.eng, t.entry, t.step, 4, t.oid, t.off, t.pos, s.gtc, false, some 2⟩
      match landFetch s t with
      | (_, .ok) => none
      | (r, .busy) => if r.base = s.base then none else some r
      | (r, .bad) => if reported s bad then none else some (addReport r bad))

/-- A write lands: its home applies it as one transaction and its positions count (01 R24, 06 R150). Bytes for a
tagged block are dropped and raise barrier-clobber, once for a command (09 R223). -/
def landTransit (s : State) (t : Transit) : State :=
  let s := onEng s (fun e => { e with transit := e.transit.erase t })
  let told := ((findJob s t.job).map (fun j => j.clob)).getD false || s.core.eng.efault.isSome
  let (s, clob) := landWrite s t
  let s := match clob with
    | some off =>
      if told then s
      else onJob (raiseEFault s ⟨0x16, 0, t.eng, t.entry.toNat, t.step, word off⟩) t.job (fun j => { j with clob := true })
    | none => s
  onJob s t.job (fun j => { j with perf := perfAdd j.perf t.pos t.len })

/-! ## Stopped copies (06 R159) -/

/-- The first undelivered destination position of a copy: not performed, not held in the core, and not at its home. -/
def firstUndelivered (s : State) (j : Job) : Nat :=
  let got := (s.core.eng.pends.filter (fun p => p.job == j.id && p.arrived)).map (fun p => (p.pos, p.len))
  let sent := (s.core.eng.transit.filter (fun t => t.job == j.id && t.arrived && (transitMiss s t).isNone &&
    (landFetch s t).2 != .bad)).map (fun t => (t.pos, t.len))
  runEnd (sortBy Prod.fst (j.perf ++ got ++ sent)) 0

/-- The destination offset of a position of a copy. -/
def posOffset (j : Job) (o : Nat) : Nat :=
  match (dstViews j).find? (fun v => v.pos0 ≤ o && o < v.pos0 + v.len) with
  | none => 0
  | some v => match (pieces v (o - v.pos0) 1).head? with
    | some p => wrapN 64 p.1
    | none => 0

/-- A copy stops at its first undelivered byte: its channel is STOPPED, its later bytes are held back, its reports
end, and the sequencer traps with the cause; `aux` is the capability register of an element that fails its check, else
the ring entry (06 R156, R159, 04 R94). -/
def stopCopy (s : State) (j : Job) (code sub : Nat) (aux : Option Nat) (step : Nat) (bad : Option Word) : State :=
  match chanOf j.cmd with
  | none => s
  | some ch =>
    let o := firstUndelivered s j
    let off := word (posOffset (peekJob s.core.eng j) o)
    let s := onJob s j.id (fun j => { j with stop := some o })
    let s := onEng s (fun e => { e with
      chans := e.chans.set ch { e.chans[ch] with stopped := true, undel := off },
      reports := e.reports.filter (fun r => r.job != j.id) })
    raiseEFault s ⟨code, sub, .copy, aux.getD j.entry.toNat, step, bad.getD off⟩

/-! ## Early-read checkers (06 R163) -/

/-- The armed range of a checker: store, offset, length. -/
def chkRange (c : Word) : Rng :=
  let len := bitsOf c.toNat 43 22
  (if c.getLsbD 44 then .acc else .spad, (bitsOf c.toNat 21 0 : Nat), if len = 0 then 0x400000 else len)

/-- The lowest byte of the reads that lies in an armed range and that an issued write has yet to reach. -/
def earlyByte (s : State) (rng : Rng) (reads : List Rng) : Option Nat :=
  let hits := reads.filterMap (fun r =>
    let lo := max r.2.1 rng.2.1
    let hi := min (r.2.1 + (r.2.2 : Int)) (rng.2.1 + (rng.2.2 : Int))
    if r.1 == rng.1 && lo < hi then
      ((List.range (hi - lo).toNat).map (fun (i : Nat) => lo + (i : Int))).find? (fun a =>
        s.core.eng.jobs.any (fun j => jobOwes s.core.eng j false (r.1, a, 1)))
    else none)
  (hits.foldl (fun m a => match m with
    | none => some a
    | some b => some (min a b)) none).map Int.toNat

/-- The checkers watch the reads of one step of engine `e`; of the early reads of one cycle the first of 04 R104's
order is kept. -/
def checkEarly (s : State) (e : Eng) (reads : List Rng) : State :=
  (List.finRange 4).foldl (fun (s : State) (k : Fin 4) =>
    let c := s.core.eng.chkCfg[k]
    let now := s.core.eng.chkNow[k]
    if c.getLsbD 63 && (!c.getLsbD 62 || now) then
      match earlyByte s (chkRange c) reads with
      | none => s
      | some a =>
        let eng := bitsOf c.toNat 61 60
        if c.getLsbD 62 && !(e.code < eng || (e.code == eng && a < bitsOf (s.core.eng.chkHit[k]).toNat 21 0)) then s
        else onEng s (fun g => { g with
          chkNow := g.chkNow.set k true,
          chkCfg := g.chkCfg.set k ((c &&& ~~~(word (3 * 2 ^ 60))) ||| word (2 ^ 62 + e.code * 2 ^ 60)),
          chkHit := g.chkHit.set k (word (s.core.csr.scc % 2 ^ 42 * 2 ^ 22 + a % 2 ^ 22)) })
    else s) s

/-! ## Completion (01 R17, R24) -/

/-- The LOAD adds of a TOPKC in table mode, sent at its completion (06 R166, 07 R181): candidates of column `c` above
THR. -/
def loadAdds (s : State) (j : Job) : State :=
  match j.cmd with
  | .topkcTab _ _ _ _ _ _ e0 _ =>
    let t := (jS j).ty
    let sz := max 1 (tySize t)
    let n := (jS j).cnt0 / sz
    let rows := j.buf.length / max 1 (jS j).cnt0
    match (loadTable s j).bind (fun o => paOf o 0) with
    | none => s
    | some pa =>
      (List.range n).foldl (fun s c =>
        let ent := pa + 8 * (e0.val + c)
        let thr := fdec 2 (memNat s.base.mem (ent + 4) 2)
        let k := (List.range rows).countP (fun r => xlt thr (xval t (bytesNat ((j.buf.drop (r * (jS j).cnt0 + c * sz)).take sz))))
        addTransit s { j with id := 0, formed := j.nsteps - 1 } 0 0 0 (8 * (e0.val + c) + 6) (.capLoad ent k)) s
  | _ => s

/-- What a CHKARM does at the end of its cycle; a capture made in that cycle stands (07 R190). -/
def chkArm (s : State) (j : Job) : State :=
  match j.cmd with
  | .chkarm _ _ off clr k =>
    let q := jS j
    let c := s.core.eng.chkCfg[k]
    let fresh := s.core.eng.chkNow[k]
    let hit := c &&& word (7 * 2 ^ 60)
    let c := if off then c &&& ~~~(word (2 ^ 63))
      else word (2 ^ 63 + b2n (q.space == 1) 44 + q.cnt0 % 2 ^ 22 * 2 ^ 22 + q.base % 2 ^ 22) ||| hit
    let c' := if clr && !fresh then c &&& ~~~(word (7 * 2 ^ 60)) else c
    onEng s (fun e => { e with
      chkCfg := e.chkCfg.set k c', chkHit := if clr && !fresh then e.chkHit.set k 0 else e.chkHit })
  | _ => s

/-- The base-destination completions that an ELASTIC check awaits come at the last arrival (01 R21, DEDUCED, log entry
30). -/
def awaitedDone (s : State) (j : Job) : Bool :=
  match s.core.eng.freeze with
  | some f => f.cause == 1 && f.job.isNone && j.sset == f.slot
  | none => false

/-- The blocks that a DIGEST stream names. -/
def rangeBlocks (t : Strm) (o : ObjEnt) : List Nat :=
  if dcfgEn o.dcfg then
    ((List.range (if t.cnt0 = 0 then 0 else t.cnt1 * t.cnt2)).flatMap (fun r => (List.range t.cnt0).filterMap (fun i =>
      (viewBase (directView t 0) r).bind (fun a =>
        let j := a.toNat / dcfgB o.dcfg + i
        if j < digBlocks o then some j else none)))).eraseDups
  else []

/-- The granules of a stream's range, by the offsets where their parts begin. -/
def rangeOffs (t : Strm) : List Nat :=
  ((pieces (directView t 0) 0 (strmLen t)).flatMap (fun p => (granules p.1.toNat p.2.2).map Prod.fst))

/-- The lines of a stream's resident range, as homes and granules: for DIGEST those of its digests. -/
def rangeLines (t : Strm) (o : ObjEnt) : List (Nat × Nat) :=
  if t.space = 5 then
    ((rangeBlocks t o).flatMap (fun j => [(digHome o j, digPa o j / 256), (digHome o j, digStatePa o j / 256)])).eraseDups
  else
    ((rangeOffs t).filterMap (fun a =>
      if residentAt o a then (paOf o a).map (fun pa => (homeOf o pa, pa / 256)) else none)).eraseDups

/-- Whether a line belongs to the range of a command's source. -/
def inRange (s : State) (j : Job) (o : ObjEnt) (l : CLine) : Bool := (rangeLines (jS j) (objNow s o)).contains (l.home, l.gran)

/-- EVICT writes back the dirty lines of its range at its issue, and at its completion those that have been written
since or whose channel carried a failing transfer; with .inv it then drops the lines (07 R189, 08 R192). -/
def evictLines (s : State) (j : Job) (last : Bool) : State :=
  match j.cmd, j.snap.objS with
  | .evict _ _ inv, some o =>
    let goes := fun (l : CLine) => inRange s j o l && !backHeld s.base l
    let t := (s.base.lines.filter goes).foldl lineBack s
    onBase t (fun b => { b with
      lines := if inv && last then b.lines.filter (fun l => !goes l)
        else b.lines.map (fun l => if goes l then { l with dirty := false } else l) })
  | _, _ => s

/-- Whether an EVICT still awaits the acknowledgement of a write-back (07 R189). -/
def evictHeld (s : State) (j : Job) : Bool :=
  match j.cmd, j.snap.objS with
  | .evict _ _ _, some o => s.base.lines.any (fun l => inRange s j o l && backHeld s.base l)
  | _, _ => false

/-- A command completes: its slot counts it, its held data and records go, its channel's pointer covers it (01 R17, 06
R150). -/
def completeJob (s : State) (j : Job) : State :=
  let s := loadAdds (chkArm (evictLines s j true) j) j
  let s := onJob s j.id (fun j => { j with done := true, held := 0 })
  onEng s (fun e => { e with
    slots := if 1 ≤ j.sset.val ∧ j.sset.val ≤ 11 then
        e.slots.set j.sset { e.slots[j.sset] with comp := (e.slots[j.sset]).comp + 1 } else e.slots })

/-- Folding the completed copies at the front of each channel into its write pointer (06 R150). -/
def foldChan (e : Engines) (ch : Fin 4) : Engines :=
  e.jobs.foldl (fun e j =>
    if chanOf j.cmd = some ch ∧ j.done ∧ !(e.jobs.any (fun k => k.id < j.id && chanOf k.cmd == some ch && !k.done)) then
      { e with
        chans := e.chans.set ch { e.chans[ch] with wpBase := ((e.chans[ch]).wpBase + j.npos) % 2 ^ 48 },
        jobs := e.jobs.map (fun k => if k.id = j.id then { k with npos := 0 } else k) }
    else e) e

/-- Whether a command all of whose writes have performed completes now: no earlier than its formula cycle, and while
SCC stands only with the arrival that was its last, or after that cycle (01 R17, R24, 06 R149). -/
def completesNow (s : State) (j : Job) : Bool :=
  if standing s && j.allIn then j.minDone < s.core.csr.scc else j.minDone ≤ s.core.csr.scc

/-- Whether the last write that a command's reservation covers has performed: none of its local writes is left (04
R111, R406). -/
def localDone (e : Engines) (j : Job) : Bool :=
  j.nsteps ≤ j.step && j.nsteps ≤ j.formed && j.stop.isNone && !e.pends.any (fun p => p.job == j.id)

/-- One command at the end of a cycle: when all has performed, INB is counted and it completes (01 R17, R24, 06 R164).
-/
def settleJob (s : State) (id : Nat) : State :=
  match findJob s id with
  | none => s
  | some j =>
    let s := if localDone s.core.eng j then onJob s id (fun j => { j with held := 0 }) else s
    if j.done || !jobPerformed s.core.eng j then s
    else
      let s := if jobBc j.cmd && !j.bcIn then countBarrier (onJob s id (fun j => { j with bcIn := true })) j 1 else s
      let s := onJob s id (fun j => { j with allIn := true })
      if (completesNow s j || awaitedDone s j) && !evictHeld s j then completeJob s j else s

/-- The end of a cycle's performs: commands complete; a completed command is dropped when it counts no more port
bytes. -/
def settle (s : State) : State :=
  let s := (s.core.eng.jobs.map (fun j => j.id)).foldl settleJob s
  let s := onEng s (fun e => (List.finRange 4).foldl foldChan e)
  onEng s (fun e => { e with
    jobs := e.jobs.filter (fun j => !(j.done && (j.npos == 0 || (chanOf j.cmd).isNone) && j.iss + portSpan j < s.core.csr.scc)) })

end Sys2Proof.Machine
end

