-- ==== Sys2Proof/Machine/CopyStep.lean ====
section
/-! DEFINITION. Machine/CopyStep.lean: the read steps of the copy engine's commands: what each reads at each cycle after its issue,
and what it forms of it (spec 06 R154 to R167, 07 R173 to R188). A step is numbered by its cycle after the issue cycle; it reads
what it needs of the core's own stores in that cycle, and forms its bytes once what it needs of the base is there. -/

namespace Sys2Proof.Machine

/-- The outcome of forming a step's bytes: done, or still waiting for the base or for a stopped copy. -/
inductive StepRes where
  | done (s : State)
  | stay (s : State)

/-- A stream in use: its view, its object, its extent registers, the capability that elements and rows are checked
against with their need mask. -/
structure End where
  v    : View
  ob   : Option ObjEnt
  q    : Fin 16
  cap  : Cap
  need : BitVec 8

/-- The object space of a stream (06 R153). -/
def objSpace (t : Strm) : Option Nat := if 2 ≤ t.space ∧ t.space ≤ 4 then some (t.space - 1) else none

/-- The object of an end: fixed at issue, or for elements and rows the one its capability names. -/
def endObj (s : State) (x : End) : Option ObjEnt := x.ob.orElse (fun _ => findObj s (capOid x.cap))

/-- The check of element or row `r` of a base stream (06 R156, 07 R178). -/
def elemCheck (s : State) (x : End) (r : Nat) : Option CmdFault :=
  if x.v.shape = .direct ∨ (strmStore x.v.t).isSome then none
  else match viewBase x.v r with
    | none => none
    | some a => match engCheck s x.cap x.v.t.creg a (viewRun x.v) x.need (objSpace x.v.t) with
      | .error f => some f
      | .ok _ => none

/-- The first position from `o` to `o + n - 1` of an end whose element or row fails its check, and the fault. -/
def elemFault (s : State) (x : End) (o n : Nat) : Option (Nat × CmdFault) :=
  if x.v.shape = .direct then none
  else (pieces x.v o n).findSome? (fun p => (elemCheck s x (p.2.1 / max 1 (viewRun x.v))).map (fun f => (p.2.1, f)))

/-- The bytes of a local end (04 R104). -/
def readLocal (s : State) (x : End) (o n : Nat) : State × List Byte :=
  match strmStore x.v.t with
  | none => (s, [])
  | some st => (pieces x.v o n).foldl (fun (acc : State × List Byte) p =>
      let (s, b) := localRead acc.1 .copy st p.1 p.2.2
      (s, acc.2 ++ b)) (s, [])

/-- The bytes of a base end as far as they come, for the destination positions from `dpos` on. -/
def readBase (s : State) (j : Job) (x : End) (o n dpos : Nat) : State × List Byte :=
  let r := (pieces x.v o n).foldl (fun (acc : State × List Byte × Bool) p =>
    (granules p.1.toNat p.2.2).foldl (fun (acc : State × List Byte × Bool) g =>
      match acc.2.2, endObj acc.1 x with
      | true, some ob =>
        let s := extTouch acc.1 j (extQ x.q) (objNow acc.1 ob) g.1
        let (s, r) := granRead s j ob g.1 g.2.2 (dpos + acc.2.1.length)
        match r with
        | some b => (s, acc.2.1 ++ b, true)
        | none => (s, acc.2.1, false)
      | _, _ => (acc.1, acc.2.1, false)) acc) (s, [], true)
  (r.1, r.2.1)

/-- Sending bytes to their home; bytes that continue an unlanded write of the same command inside an element join it
(11 R260). -/
def sendBytes (s : State) (j : Job) (pos : Nat) (o : ObjEnt) (off : Nat) (bs : List Byte) : State :=
  let ws := bs.zipIdx.map (fun p => (off + p.2, p.1))
  let joins := fun (t : Transit) => t.job == j.id && t.oid == o.oid && t.pos + t.len == pos && t.off + t.len == off && off % 8 != 0 &&
    match t.w with
    | .bytes _ => true
    | _ => false
  if s.core.eng.transit.any joins then
    onEng (onJob s j.id (fun j => { j with gran := patchGran j.gran o.oid off (.bytes ws) })) (fun e => { e with
      transit := e.transit.map (fun t =>
        if joins t then
          { t with len := t.len + bs.length, w := match t.w with
            | .bytes old => .bytes (old ++ ws)
            | w => w }
        else t) })
  else addTransit s j pos bs.length o.oid off (.bytes ws)

/-- Writing bytes of an end from position `o`: timed writes in a local store, else writes on their way to their homes,
the command then completing no earlier than `pcyc` (01 R23, R24, 06 R161), even when there are none of them (DESIGN
CHOICE, log entry 90). -/
def putEnd (s : State) (j : Job) (far : Bool) (x : End) (o : Nat) (bs : List Byte) (pcyc : Nat) : State :=
  match strmStore x.v.t with
  | some st =>
    (pieces x.v o bs.length).foldl (fun s p =>
      addBytes s j far st pcyc (x.v.pos0 + p.2.1) p.1 ((bs.drop (p.2.1 - o)).take p.2.2)) s
  | none =>
    let s := (pieces x.v o bs.length).foldl (fun s p =>
      (granules p.1.toNat p.2.2).foldl (fun s g =>
        match endObj s x with
        | none => s
        | some ob =>
          let s := extTouch s j (extQ x.q) (objNow s ob) g.1
          sendBytes s j (x.v.pos0 + p.2.1 + g.2.1) ob g.1 ((bs.drop (p.2.1 - o + g.2.1)).take g.2.2)) s) s
    onJob s j.id (fun j => { j with minDone := max j.minDone pcyc })

/-- A copy whose element or row fails its check stops (06 R156, R159). -/
def stopElem (s : State) (j : Job) (f : CmdFault) : State := stopCopy s j f.code f.sub f.aux j.formed (some f.bad)

/-- The first position from `lo` on that a command has not formed; a chunk can be formed in part. -/
def unformed (s : State) (j : Job) (lo : Nat) : Nat :=
  let sent := (s.core.eng.transit.filter (fun t => t.job == j.id)).map (fun t => (t.pos, t.len))
  runEnd (sortBy Prod.fst (formedPos s.core.eng j ++ sent)) lo

/-- The bytes that go to the positions `lo` to `hi - 1`, as far as they are there: what the step has read of a local
source from position `b0` on, else what the base gives; the first element or row that fails its check, of either end,
ends them. -/
def fetchBytes (s : State) (j : Job) (src dst : End) (b0 lo hi : Nat) : State × List Byte × Option CmdFault :=
  let bad := match elemFault s src lo (hi - lo), elemFault s dst lo (hi - lo) with
    | some a, some b => some (if b.1 < a.1 then b else a)
    | a, b => a.orElse (fun _ => b)
  let n := ((bad.map Prod.fst).getD hi) - lo
  let (s, bs) := if (strmStore src.v.t).isSome then (s, (j.buf.drop (lo - b0)).take n) else readBase s j src lo n lo
  (s, bs, if bs.length = n then bad.map Prod.snd else none)

/-- The end of a forming: all of it, or up to a fault that stops the copy, or up to what the base still owes. -/
def formed (s : State) (j : Job) (all : Bool) (f : Option CmdFault) : StepRes :=
  match f with
  | some f => .stay (stopElem s j f)
  | none => if all then .done s else .stay s

/-- The ends of a copy's streams. -/
def endD (j : Job) (q : Fin 16) : End := ⟨directView (jD j) 0, j.snap.objD, q, j.snap.capD, permW⟩
def endS (j : Job) (q : Fin 16) : End := ⟨directView (jS j) 0, j.snap.objS, q, j.snap.capS, permR⟩
def endX (j : Job) (q : Fin 16) : End := ⟨directView (jX j) (strmLen (jD j)), j.snap.objX, q, j.snap.capX, permW⟩

/-- Whether a copy's source lies on the base, so that its data may be late. -/
def isFar (j : Job) : Bool := (strmStore (jS j)).isNone

/-- Bytes of a direct scratchpad stream. -/
def spadRead (s : State) (t : Strm) (o n : Nat) : State × List Byte :=
  (pieces (directView t 0) o n).foldl (fun (acc : State × List Byte) p =>
    let (s, b) := localRead acc.1 .copy .spad p.1 p.2.2
    (s, acc.2 ++ b)) (s, [])

/-- The last step of a copy has read its source: OUTB counts (06 R164). -/
def lastRead (s : State) (j : Job) (k : Nat) : State := if j.nsteps ≤ k + 1 then sourceRead s j.id else s

/-! ## CPY and FILL (07 R176, R177) -/

/-- The index bytes that chunk `m` of an indirect stream reads: from, count. -/
def idxSpan (t : Strm) (w m : Nat) : Nat × Nat := (m * (w / 2 ^ t.esz) * 2 ^ t.isz, idxLen t w m)

/-- The delay of a copy with an indirect stream. -/
def linkLag (j : Job) : Nat :=
  match j.cmd with
  | .cpy _ _ _ _ _ => if (jS j).lnk || (jD j).lnk then 2 else 0
  | _ => if (jD j).lnk then 2 else 0

/-- The views of CPY's source and destination and of FILL's destination. -/
def cpySrc (j : Job) (q : Fin 16) : End :=
  { endS j q with v := ⟨jS j, if (jS j).lnk then .linked else .direct, j.idx, 0, strmLen (jS j)⟩ }
def cpyDst (j : Job) (q : Fin 16) : End :=
  { endD j q with v := ⟨jD j, if (jD j).lnk then .linked else .direct, j.idx2, 0, strmLen (jD j)⟩ }

/-- The chunk that is formed at relative cycle `k`: first position and the one after the last. -/
def chunkAt (j : Job) (n k : Nat) : Nat × Nat := ((k - linkLag j) * copyW j, min n ((k - linkLag j) * copyW j + copyW j))

/-- The indices of chunk `k` of an indirect stream. -/
def readIdx (s : State) (t l : Strm) (w k : Nat) : State × List Nat :=
  if t.lnk && k < ceilDiv (strmLen t) w then
    let sp := idxSpan t w k
    let (s, bs) := spadRead s l sp.1 sp.2
    (s, splitNats (2 ^ t.isz) bs)
  else (s, [])

/-- The elements that the indices of chunk `k` name are checked as they arrive (06 R156). -/
def idxFault (s : State) (x : End) (w k : Nat) : Option CmdFault :=
  if x.v.t.lnk then (elemFault s x (k * w) (chunkLen x.v.len w k)).map Prod.snd else none

/-- What CPY reads locally at relative cycle `k`. -/
def cpyReads (j : Job) (k : Nat) : List Rng :=
  let w := copyW j
  let ix := fun (t l : Strm) =>
    if t.lnk && k < ceilDiv (strmLen t) w then viewRngs (directView l 0) (idxSpan t w k).1 (idxSpan t w k).2 else []
  let c := chunkAt j (strmLen (jS j)) k
  ix (jS j) (jLS j) ++ ix (jD j) (jLD j) ++ (if linkLag j ≤ k then viewRngs (cpySrc j 0).v c.1 (c.2 - c.1) else [])

/-- CPY's reads at relative cycle `k`: the indices of one chunk, and the bytes of one chunk of a local source. -/
def cpyRead (s : State) (j : Job) (qd qs : Fin 16) (k : Nat) : State :=
  let w := copyW j
  let (s, is) := readIdx s (jS j) (jLS j) w k
  let (s, id) := readIdx s (jD j) (jLD j) w k
  let s := onJob s j.id (fun j => { j with idx := j.idx ++ is, idx2 := j.idx2 ++ id })
  let j := (findJob s j.id).getD j
  let c := chunkAt j (strmLen (jS j)) k
  let (s, bs) := if linkLag j ≤ k then readLocal s (cpySrc j qs) c.1 (c.2 - c.1) else (s, [])
  let s := onJob s j.id (fun j => { j with buf := bs })
  match (idxFault s (cpySrc j qs) w k).orElse (fun _ => idxFault s (cpyDst j qd) w k) with
  | some f => stopElem s j f
  | none => s

/-- Where base source and destination bytes overlap, a byte sees the copy's own earlier write (07 R176). -/
def seeOwn (sa da : List Int) (bs : List Byte) : List Byte :=
  let r := bs.zipIdx.foldl (fun (acc : List Byte × List (Int × Byte)) p =>
    let a := sa.getD p.2 0
    let v := ((acc.2.find? (fun q => q.1 == a)).map Prod.snd).getD p.1
    (acc.1 ++ [v], (da.getD p.2 0, v) :: acc.2)) ([], [])
  r.1

/-- The addresses of bytes of a view. -/
def viewAddrs (v : View) (o n : Nat) : List Int := (pieces v o n).flatMap (fun p => (List.range p.2.2).map (fun (i : Nat) => p.1 + i))

/-- The object of an end that lies on the base. -/
def baseOid (s : State) (x : End) : Option (BitVec 24) :=
  match strmStore x.v.t with
  | some _ => none
  | none => (endObj s x).map (fun o => o.oid)

/-- CPY forms the chunk of relative cycle `k`. -/
def cpyForm (s : State) (j : Job) (qd qs : Fin 16) (k : Nat) : StepRes :=
  if k < linkLag j then .done s
  else
    let c := chunkAt j (strmLen (jD j)) k
    let src := cpySrc j qs
    let dst := cpyDst j qd
    let lo := min c.2 (unformed s j c.1)
    let (s, bs, f) := fetchBytes s j src dst c.1 lo c.2
    let self := (baseOid s src).isSome && baseOid s src == baseOid s dst
    let bs := if self then seeOwn (viewAddrs src.v lo bs.length) (viewAddrs dst.v lo bs.length) bs else bs
    let s := putEnd s j (isFar j) dst lo bs (j.iss + k + copyLat j)
    formed (if lo + bs.length = c.2 then lastRead s j k else s) j (lo + bs.length = c.2) f

/-- What FILL reads locally at relative cycle `k`. -/
def fillReads (j : Job) (poff : Nat) (k : Nat) : List Rng :=
  let w := copyW j
  (if k = 0 then [(.spad, ((8 * poff : Nat) : Int), 8)] else []) ++
    (if (jD j).lnk && k < ceilDiv (strmLen (jD j)) w then
      viewRngs (directView (jLD j) 0) (idxSpan (jD j) w k).1 (idxSpan (jD j) w k).2 else [])

/-- FILL's reads at relative cycle `k`: the pattern, with which OUTB counts, at cycle 0, and the indices of one chunk.
-/
def fillRead (s : State) (j : Job) (qd : Fin 16) (poff : Nat) (k : Nat) : State :=
  let (s, p) := if k = 0 then localRead s .copy .spad (8 * poff : Nat) 8 else (s, j.buf)
  let s := if k = 0 then sourceRead s j.id else s
  let (s, is) := readIdx s (jD j) (jLD j) (copyW j) k
  let s := onJob s j.id (fun j => { j with buf := p, idx2 := j.idx2 ++ is })
  let j := (findJob s j.id).getD j
  match idxFault s (cpyDst j qd) (copyW j) k with
  | some f => stopElem s j f
  | none => s

/-- FILL forms the chunk of relative cycle `k`: the pattern bytes follow the positions. -/
def fillForm (s : State) (j : Job) (qd : Fin 16) (k : Nat) : StepRes :=
  if k < linkLag j then .done s
  else
    let c := chunkAt j (strmLen (jD j)) k
    let dst := cpyDst j qd
    let lo := min c.2 (unformed s j c.1)
    let f := elemFault s dst lo (c.2 - lo)
    let hi := (f.map Prod.fst).getD c.2
    let s := putEnd s j false dst lo ((List.range (hi - lo)).map (fun b => j.buf.getD ((lo + b) % 8) 0)) (j.iss + k + copyLat j)
    formed s j true (f.map Prod.snd)

/-! ## GATHER, SCATTER, SCATADD (07 R178, R179) -/

/-- Whether a row command is a GATHER; its table and its dense stream. -/
def isGather : Instr → Bool
  | .gather _ _ _ _ _ _ => true
  | _ => false
def rowTab (j : Job) : Strm := if isGather j.cmd then jS j else jD j
def rowDense (j : Job) : Strm := if isGather j.cmd then jD j else jS j
/-- Cycles per row. -/
def rowR (j : Job) : Nat := max 1 (ceilDiv (rowTab j).cnt0 (copyW j))

/-- The source and destination ends of a row command. -/
def rowSrc (j : Job) (q : Fin 16) : End :=
  if isGather j.cmd then { endS j q with v := ⟨jS j, .table, j.idx, 0, rowCount (jX j) * (jS j).cnt0⟩ } else endS j q
def rowDst (j : Job) (q : Fin 16) : End :=
  if isGather j.cmd then endD j q
  else { endD j q with
    v := ⟨jD j, .table, j.idx, 0, rowCount (jX j) * (jD j).cnt0⟩,
    need := match j.cmd with
      | .scatadd _ _ _ _ _ _ => permR ||| permW
      | _ => permW }

/-- The bytes moved at relative cycle `k`: first position and the one after the last. -/
def rowSpan (j : Job) (k : Nat) : Nat × Nat :=
  let r := rowR j
  let rl := (rowTab j).cnt0
  if 2 ≤ k ∧ (k - 2) / r < rowCount (jX j) then
    let lo := (k - 2) / r * rl + (k - 2) % r * copyW j
    (lo, lo + chunkLen rl (copyW j) ((k - 2) % r))
  else (0, 0)

/-- The row whose index is read at relative cycle `k`. -/
def rowAt (j : Job) (k : Nat) : Option Nat := if k % rowR j = 0 ∧ k / rowR j < rowCount (jX j) then some (k / rowR j) else none

/-- What a row command reads locally at relative cycle `k`. -/
def rowReads (j : Job) (k : Nat) : List Rng :=
  let isz := tySize (jX j).ty
  let sp := rowSpan j k
  ((rowAt j k).map (fun r => viewRngs (directView (jX j) 0) (r * isz) isz)).getD [] ++ viewRngs (rowSrc j 0).v sp.1 (sp.2 - sp.1)

/-- A row command's reads at relative cycle `k`: an index, whose row is then checked, and the bytes of one chunk of a
local source. -/
def rowRead (s : State) (j : Job) (qd qs : Fin 16) (k : Nat) : State :=
  let isz := tySize (jX j).ty
  let (s, is) := match rowAt j k with
    | none => (s, [])
    | some r => let (s, bs) := spadRead s (jX j) (r * isz) isz; (s, [bytesNat bs])
  let s := onJob s j.id (fun j => { j with idx := j.idx ++ is })
  let j := (findJob s j.id).getD j
  let sp := rowSpan j k
  let (s, bs) := readLocal s (rowSrc j qs) sp.1 (sp.2 - sp.1)
  let s := onJob s j.id (fun j => { j with buf := bs })
  match (rowAt j k).bind (fun r => (elemCheck s (rowSrc j qs) r).orElse (fun _ => elemCheck s (rowDst j qd) r)) with
  | some f => stopElem s j f
  | none => s

/-- The elements of `sz` bytes whose bytes have these addresses. -/
def elemAddrs (sz : Nat) (as : List Int) : List (List Int) :=
  (List.range (as.length / max 1 sz)).map (fun i => (as.drop (i * sz)).take sz)

/-- Elements from position `o` of a table added there, in a local store or at their homes (07 R179). -/
def addEnd (s : State) (j : Job) (far : Bool) (x : End) (o : Nat) (bs : List Byte) (ty : Nat) (pcyc : Nat) : State :=
  let sz := max 1 (tySize ty)
  let es := (elemAddrs sz (viewAddrs x.v o bs.length)).zip (splitNats sz bs)
  match strmStore x.v.t with
  | some st =>
    if es.isEmpty then s
    else addPend s j far pcyc (x.v.pos0 + o) bs.length (.accum st (Fin.ofNat 16 ty) 0 (es.map (fun e => (e.1, ⟨xval ty e.2, false⟩))))
  | none =>
    let s := es.zipIdx.foldl (fun s e =>
      match endObj s x, e.1.1 with
      | some ob, a :: _ =>
        let s := extTouch s j (extQ x.q) (objNow s ob) a.toNat
        addTransit s j (x.v.pos0 + o + e.2 * sz) sz ob.oid a.toNat (.add 0 (Fin.ofNat 16 ty) e.1.2)
      | _, _ => s) s
    onJob s j.id (fun j => { j with minDone := max j.minDone pcyc })

/-- A row command forms the chunk of relative cycle `k`. -/
def rowForm (s : State) (j : Job) (qd qs : Fin 16) (k : Nat) : StepRes :=
  let sp := rowSpan j k
  let src := rowSrc j qs
  let dst := rowDst j qd
  let lo := min sp.2 (unformed s j sp.1)
  let (s, bs, f) := fetchBytes s j src dst sp.1 lo sp.2
  let pcyc := j.iss + k + copyLat j
  match j.cmd with
  | .scatadd _ _ _ _ _ _ =>
    let bs := bs.take (bs.length / max 1 (tySize (jS j).ty) * max 1 (tySize (jS j).ty))
    let s := addEnd s j (isFar j) dst lo bs (jS j).ty pcyc
    formed (if lo + bs.length = sp.2 then lastRead s j k else s) j (lo + bs.length = sp.2) f
  | _ =>
    let s := putEnd s j (isFar j) dst lo bs pcyc
    formed (if lo + bs.length = sp.2 then lastRead s j k else s) j (lo + bs.length = sp.2) f

/-! ## TOPKR and TOPKC (06 R165, R166, 07 R180, R181) -/

/-- The ranking order: descending values, every NaN last and equal, ties to the lower index (06 R165). -/
def ranksAhead (t : Nat) (a b : Nat × Nat) : Bool :=
  let x := xval t a.1
  let y := xval t b.1
  if xnan? x && xnan? y then a.2 < b.2
  else if xnan? x then false
  else if xnan? y then true
  else if xlt y x then true
  else if xlt x y then false
  else a.2 < b.2

/-- Inserting a candidate into a ranked list. -/
def rankInsert (t : Nat) (c : Nat × Nat) : List (Nat × Nat) → List (Nat × Nat)
  | [] => [c]
  | d :: ds => if ranksAhead t c d then c :: d :: ds else d :: rankInsert t c ds

/-- The `k` best candidates, best first. -/
def kBest (t k : Nat) (cs : List (Nat × Nat)) : List (Nat × Nat) :=
  (cs.foldl (fun acc c => (rankInsert t c acc).take k) [])

/-- The value of a fill position: the canonical quiet NaN, or the minimum of an integer type. -/
def fillValue (t : Nat) : Nat := if tyFloat t then nanBits t else wrapN (tyBits t) (intMin t)

/-- A block of `kk` values and indices, those from `k` on filled. -/
def topBlock (t kk k : Nat) (cs : List (Nat × Nat)) : List Byte × List Byte :=
  let best := kBest t (min kk k) cs
  let ent := (List.range kk).map (fun p => best.getD p (fillValue t, 0xFFFFFFFF))
  ((ent.map (fun e => natBytes (tySize t) e.1)).flatten, (ent.map (fun e => natBytes 4 e.2)).flatten)

/-- Writing an output block `q0` bytes into an end, `w` bytes a cycle from cycle `c`. -/
def putBlock (s : State) (j : Job) (far : Bool) (x : End) (q0 w c : Nat) (bs : List Byte) : State :=
  (List.range (ceilDiv bs.length w)).foldl (fun s m => putEnd s j far x (q0 + m * w) ((bs.drop (m * w)).take w) (c + m)) s

/-- The blocks that TOPKR or TOPKC forms once source bytes `lo` to `hi - 1` are in: output number, cycle of its first
byte, and its candidates (07 R180). Rows without candidates are formed with the first bytes. -/
def topGroups (j : Job) (lo hi : Nat) (buf : List Byte) : List (Nat × Nat × List (Nat × Nat)) :=
  let t := jS j
  let sz := max 1 (tySize t.ty)
  let w := copyW j
  let n := t.cnt0 / sz
  let elem := fun (row c : Nat) => bytesNat ((buf.drop (row * t.cnt0 + c * sz)).take sz)
  let base := j.iss + copyLat j + 8
  match j.cmd with
  | .topkr _ _ _ _ _ _ _ _ =>
    let full := fun row => (lo < (row + 1) * t.cnt0 || t.cnt0 == 0) && (row + 1) * t.cnt0 ≤ hi
    ((List.range (t.cnt1 * t.cnt2)).filter full).map (fun row =>
      (row, if t.cnt0 = 0 then base - 1 else base + ((row + 1) * t.cnt0 - 1) / w, (List.range n).map (fun c => (elem row c, c))))
  | _ =>
    if strmLen t ≤ hi then
      (List.range n).map (fun c =>
        (c, base + (strmLen t - 1) / w, (List.range (t.cnt1 * t.cnt2)).map (fun row => (elem row c, row))))
    else []

/-- What TOPKR and TOPKC read locally at relative cycle `k`. -/
def topReads (j : Job) (k : Nat) : List Rng :=
  viewRngs (directView (jS j) 0) (k * copyW j) (chunkLen (strmLen (jS j)) (copyW j) k)

/-- TOPKR and TOPKC at relative cycle `k`: source bytes in, and each block whose candidates are complete out. What has
been selected from is kept in order, so that its length says how far the source is read. -/
def topForm (s : State) (j : Job) (qd qs qx : Fin 16) (k : Nat) : StepRes :=
  let w := copyW j
  let t := jS j
  let lo := j.buf.length
  let hi := k * w + chunkLen (strmLen t) w k
  let (s, bs) := if isFar j then readBase s j (endS j qs) lo (hi - lo) 0 else readLocal s (endS j qs) lo (hi - lo)
  let buf := j.buf ++ bs
  let kk := topkK j.cmd
  let sz := max 1 (tySize t.ty)
  let s := (topGroups j lo buf.length buf).foldl (fun s g =>
    let b := topBlock t.ty kk (j.snap.limits.getD g.1 kk) g.2.2
    let far := copyBased j
    let s := putBlock s j far (endD j qd) (g.1 * kk * sz) w g.2.1 b.1
    putBlock s j far (endX j qx) (g.1 * kk * 4) w g.2.1 b.2) s
  let s := onJob s j.id (fun j => { j with buf := buf })
  formed (if buf.length = hi then lastRead s j k else s) j (buf.length = hi) none

/-! ## COMPACT and EXPAND (07 R182) -/

/-- The unpacked elements of chunk `k`: first and count. -/
def packSpan (j : Job) (k : Nat) : Nat × Nat :=
  (k * (copyW j / packE j), chunkLen (strmLen (packWide j)) (copyW j) k / packE j)

/-- The mask bytes after relative cycle `k`. -/
def packMask (j : Job) (k : Nat) : Nat × Nat := maskSpan (strmLen (packWide j) / packE j) (packE j) (copyW j) k

/-- The mask bytes read so far, and those of cycle `k` as they stand. -/
def maskNow (s : State) (j : Job) (k : Nat) : List Byte :=
  let m := packMask j k
  j.buf.take m.1 ++ (spadRead s (jX j) m.1 m.2).2

/-- What COMPACT and EXPAND read locally at relative cycle `k`: the mask bytes, and of the source the elements that
they keep. -/
def packReads (s : State) (j : Job) (k : Nat) : List Rng :=
  let m := packMask j k
  let sp := packSpan j k
  let e := packE j
  let buf := maskNow s j k
  viewRngs (directView (jX j) 0) m.1 m.2 ++
  (match j.cmd with
    | .expand _ _ _ _ _ _ _ =>
      let kept := (List.range sp.2).countP (fun i => maskBit buf (sp.1 + i))
      viewRngs (directView (jS j) 0) (j.cnt * e) (min (kept * e) (strmLen (jS j) - j.cnt * e))
    | _ => ((List.range sp.2).filter (fun i => maskBit buf (sp.1 + i))).flatMap (fun i =>
        viewRngs (directView (jS j) 0) ((sp.1 + i) * e) e))

/-- What the mask alone decides, written as its bytes come: COMPACT's count with the last ones, and the zeros that
EXPAND.z puts into the elements of chunk `k` that the mask leaves out, as bytes of step `k` (04 R94, 07 R182). -/
def packFixed (s : State) (j : Job) (k : Nat) : State :=
  let l := copyLat j
  let e := packE j
  let sp := packSpan j k
  match j.cmd with
  | .compact _ _ _ _ _ _ coff =>
    if j.nsteps ≤ k + 1 then
      let p := (List.range (strmLen (jS j) / e)).countP (maskBit j.buf)
      addBytes s j false .spad (j.iss + l + 3 + (strmLen (jS j) - 1) / copyW j) (strmLen (jD j)) (8 * coff.val : Nat) (natBytes 8 p)
    else s
  | .expand _ _ qd _ _ _ true =>
    ((List.range sp.2).filter (fun i => !maskBit j.buf (sp.1 + i))).foldl (fun s i =>
      putEnd s { j with formed := k } false (endD j qd) ((sp.1 + i) * e) (List.replicate e 0) (j.iss + l + 2 + k)) s
  | _ => s

/-- The mask bytes of relative cycle `k`; local source elements are read as they are formed, in the same cycle. -/
def packRead (s : State) (j : Job) (k : Nat) : State :=
  let m := packMask j k
  let (s, mb) := spadRead s (jX j) m.1 m.2
  let s := onJob s j.id (fun j => { j with buf := j.buf.take m.1 ++ mb })
  packFixed s ((findJob s j.id).getD j) k

/-- The elements of chunk `k` that are done, when it is formed in part. -/
def packDone (j : Job) : Nat := j.idx.headD 0

/-- One source element of COMPACT or EXPAND, if it comes. -/
def packElem (s : State) (j : Job) (qs : Fin 16) (o n dpos : Nat) : State × Option (List Byte) :=
  let (s, bs) := if isFar j then readBase s j (endS j qs) o n dpos else readLocal s (endS j qs) o n
  (s, if bs.length = n then some bs else none)

/-- Elements of a chunk one after the other, until one does not come; `f` takes the state and the element's number. -/
def eachElem (s : State) (id : Nat) (f : State → Job → Nat → State × Bool) : List Nat → State × Bool
  | [] => (s, true)
  | i :: is =>
    match findJob s id with
    | none => (s, true)
    | some j =>
      let r := f s j i
      if r.2 then eachElem (onJob r.1 id (fun j => { j with idx := [packDone j + 1] })) id f is else r

/-- COMPACT forms chunk `k`: kept elements are read and go to the next packed positions, as far as the destination
reaches. -/
def compactForm (s : State) (j : Job) (qd qs : Fin 16) (k : Nat) : StepRes :=
  let sp := packSpan j k
  let e := packE j
  let l := copyLat j
  let r := eachElem s j.id (fun s j i =>
    if !maskBit j.buf (sp.1 + i) then (s, true)
    else
      let dpos := j.cnt * e
      let n := min e (strmLen (jD j) - dpos)
      let next := fun (s : State) => onJob s j.id (fun j => { j with cnt := j.cnt + 1 })
      match packElem s j qs ((sp.1 + i) * e) e dpos with
      | (s, none) => (s, false)
      | (s, some bs) =>
        (next (if n = 0 then s else putEnd s j (isFar j) (endD j qd) dpos (bs.take n) (j.iss + l + 2 + k)), true))
    ((List.range sp.2).drop (packDone j))
  if !r.2 then .stay r.1
  else .done (lastRead (onJob r.1 j.id (fun j => { j with idx := [] })) j k)

/-- EXPAND forms chunk `k`: elements under the mask take the next packed elements. -/
def expandForm (s : State) (j : Job) (qd qs : Fin 16) (k : Nat) : StepRes :=
  let sp := packSpan j k
  let e := packE j
  let r := eachElem s j.id (fun s j i =>
    let put := fun (s : State) (bs : List Byte) => putEnd s j (isFar j) (endD j qd) ((sp.1 + i) * e) bs (j.iss + copyLat j + 2 + k)
    if !maskBit j.buf (sp.1 + i) then (s, true)
    else
      let n := min e (strmLen (jS j) - j.cnt * e)
      match packElem s j qs (j.cnt * e) n ((sp.1 + i) * e) with
      | (s, none) => (s, false)
      | (s, some bs) => (put (onJob s j.id (fun j => { j with cnt := j.cnt + 1 })) (bs ++ List.replicate (e - n) 0), true))
    ((List.range sp.2).drop (packDone j))
  if !r.2 then .stay r.1
  else .done (lastRead (onJob r.1 j.id (fun j => { j with idx := [] })) j k)

/-! ## ACCRD and ACCWR (07 R183) -/

/-- The elements moved at relative cycle `k`: first and count. -/
def accSpan (j : Job) (k : Nat) : Nat × Nat :=
  (k * accE j, chunkLen (strmLen (jS j) / max 1 (tySize (jS j).ty)) (accE j) k)

/-- What ACCRD and ACCWR read locally at relative cycle `k`. -/
def accReads (j : Job) (k : Nat) : List Rng :=
  let sz := tySize (jS j).ty
  viewRngs (directView (jS j) 0) ((accSpan j k).1 * sz) ((accSpan j k).2 * sz)

/-- The value that ACCWR.acc adds for a source element: exact for a floating destination, else converted (07 R183). -/
def accValue (j : Job) (rm : Fin 4) (v : Nat) : XVal :=
  let t := (jS j).ty
  let u := (jD j).ty
  if tyFloat u then xval t v else xint (intVal u (convert rm.val t u v))

/-- ACCRD and ACCWR form chunk `k`: each element converted, or added in one rounding. -/
def accForm (s : State) (j : Job) (qd qs : Fin 16) (rm : Fin 4) (acc : Bool) (k : Nat) : StepRes :=
  let t := (jS j).ty
  let u := (jD j).ty
  let st := max 1 (tySize t)
  let su := max 1 (tySize u)
  let sp := accSpan j k
  let e0 := min (sp.1 + sp.2) (unformed s j (sp.1 * su) / su)
  let n := (sp.1 + sp.2 - e0) * st
  let (s, bs) := if isFar j then readBase s j (endS j qs) (e0 * st) n (e0 * su) else readLocal s (endS j qs) (e0 * st) n
  let vs := splitNats st bs
  let far := isFar j
  let pcyc := j.iss + copyLat j + k
  let s := if acc then
      (if vs.isEmpty then s
      else addPend s j far pcyc (e0 * su) (vs.length * su) (.accum .acc (Fin.ofNat 16 u) rm
        ((elemAddrs su (viewAddrs (directView (jD j) 0) (e0 * su) (vs.length * su))).zip (vs.map (fun v => ⟨accValue j rm v, false⟩)))))
    else putEnd s j far (endD j qd) (e0 * su) ((vs.map (fun v => natBytes su (convert rm.val t u v))).flatten) pcyc
  let all := e0 + vs.length = sp.1 + sp.2
  formed (if all then lastRead s j k else s) j all none

/-! ## DSCAN and DSKIP (06 R167, 07 R184 to R188) -/

/-- The digest record of block `i` of the region (06 R167). -/
def digRecord (o : ObjEnt) (i : Nat) (d : Digest) : List Byte :=
  natBytes 8 d.a ++ natBytes 8 d.b ++ natBytes 8 i ++ natBytes 1 (dcfgKind o.dcfg) ++ natBytes 1 d.st ++ natBytes 6 0

/-- The region of a digest stream as it stands, if it has digests. -/
def digObj (s : State) (j : Job) : Option ObjEnt := (j.snap.objS.map (objNow s)).filter (fun o => dcfgEn o.dcfg)

/-- A copy whose region has no digests stops (06 R167, 07 R185). -/
def stopDig (s : State) (j : Job) : State := stopCopy s j 0x05 1 none j.formed none

/-- One digest that a copy reads at its home, as a read of its block; none while its line waits. -/
def digFetch (s : State) (j : Job) (qs : Fin 16) (o : ObjEnt) (i : Nat) : State × Option Digest :=
  let s := extTouch s j (extQ qs) o (i * dcfgB o.dcfg)
  match digGet s o i s.core.id with
  | (s, none) => (s, none)
  | (s, some d) => (serve s (digHome o i) 0 16 s.core.csr.pid .bulk, some d)

/-- The records of blocks `i` to `i + n - 1`, none when one of them does not come yet. -/
def digRecords (s : State) (j : Job) (qs : Fin 16) (o : ObjEnt) (i n : Nat) : State × Option (List Byte) :=
  (List.range n).foldl (fun (acc : State × Option (List Byte)) q =>
    match acc.2 with
    | none => acc
    | some bs =>
      let r := digFetch acc.1 j qs o (i + q)
      (r.1, r.2.map (fun d => bs ++ digRecord o (i + q) d))) (s, some [])

/-- DSCAN's record `i`, unless it stands already: formed as soon as its own digest comes, whatever its neighbours do (06
R167, 07 R184). -/
def dscanRecord (s : State) (j : Job) (qd qs : Fin 16) (o : ObjEnt) (i : Nat) : State × Bool :=
  if unformed s j (32 * i) ≠ 32 * i then (s, true)
  else match digRecords s j qs o ((jS j).base / dcfgB o.dcfg + i) 1 with
    | (s, none) => (s, false)
    | (s, some bs) => (putEnd s j true (endD j qd) (32 * i) bs (j.iss + copyLat j + 32 * i / copyW j), true)

/-- DSCAN forms chunk `k`: two records (06 R167, 07 R184). -/
def dscanForm (s : State) (j : Job) (qd qs : Fin 16) (k : Nat) : StepRes :=
  match digObj s j with
  | none => .stay (stopDig s j)
  | some o =>
    let r := (List.range (min 2 ((jS j).cnt0 - 2 * k))).foldl (fun (acc : State × Bool) q =>
      let r := dscanRecord acc.1 j qd qs o (2 * k + q)
      (r.1, acc.2 && r.2)) (s, true)
    if r.2 then .done (lastRead r.1 j k) else .stay r.1

/-- The predicate of a DSKIP record: X, OP, RELAX. -/
def predX (b : List Byte) : Nat := bytesNat (b.take 8)
def predOp (b : List Byte) : Nat := (b.getD 8 0).toNat
def predRelax (b : List Byte) : Bool := (b.getD 9 0).getLsbD 0

/-- The digest kind an OP needs; OP 0 takes any (07 R185). -/
def predKind (op : Nat) : Option Nat :=
  if 1 ≤ op ∧ op ≤ 5 then some 0 else if op = 6 then some 2 else if op = 7 then some 3 else if op = 8 then some 1 else none

/-- Whether a digest passes a predicate; a NaN X passes every block, and the empty BOUNDS pass no comparison (07 R185,
11 R259). X of OP 7 is a probe's bits, to which the filter applies, NaN or not (DESIGN CHOICE, log entry 92). -/
def predHolds (o : ObjEnt) (d : Digest) (b : List Byte) : Bool :=
  let t := dcfgType o.dcfg
  let x := predX b
  let lt := digLt t
  let n := dcfgB o.dcfg / max 1 (tySize t)
  let cmp := 1 ≤ predOp b && predOp b ≤ 5
  if predOp b != 7 && digNan (digWide t) x then true
  else if cmp && d.a == digMax t && d.b == digMin t then false
  else match predOp b with
    | 0 => true
    | 1 => lt x d.b
    | 2 => lt x d.b || digEq t d.b x
    | 3 => lt d.a x
    | 4 => lt d.a x || digEq t d.a x
    | 5 => (lt d.a x || digEq t d.a x) && lt x d.b
    | 6 => (List.range (min n 128)).any (fun g => !digBit d g)
    | 7 => (sketchBits x).all (fun i => digBit d i)
    | _ => lt x d.a

/-- Whether a block is copied, by the digest's state, QK and RELAX (07 R186). -/
def blockPasses (o : ObjEnt) (d : Digest) (b : List Byte) (qk : Nat) : Bool :=
  let relaxed := qk != 0 && predRelax b
  if d.st = 2 then !relaxed
  else if d.st = 1 ∧ dcfgKind o.dcfg = 1 ∧ !relaxed then true
  else predHolds o d b

/-- Cycles per block of a DSKIP. -/
def skipR (o : ObjEnt) : Nat := max 1 (ceilDiv (dcfgB o.dcfg) 64)

/-- How many of the blocks before block `i` of a DSKIP have passed. -/
def passedBefore (j : Job) (i : Nat) : Nat := (j.idx.take i).countP (fun x => x == 1)

/-- The count of a DSKIP, once every digest is there, which alone decides it (07 R187). -/
def dskipCount (s : State) (j : Job) (qx : Fin 16) (r : Nat) : State :=
  let m := (jS j).cnt0
  if j.idx.length < m then s
  else putEnd s j true (endX j qx) 0 (natBytes 8 (passedBefore j m)) (j.iss + strmLat (jS j) + 2 + (m - 1) * r)

/-- The digest of block `i` of a DSKIP, if it is the next one: whether the block passes, kept in `idx`, its entry in the
list when it does, and after the last one the count (07 R187). -/
def dskipDigest (s : State) (j : Job) (qs qx : Fin 16) (o : ObjEnt) (i : Nat) : State :=
  match findJob s j.id with
  | none => s
  | some j =>
    if j.idx.length ≠ i then s
    else
      let r := skipR o
      match digFetch s j qs o ((jS j).base / dcfgB o.dcfg + i) with
      | (s, none) => s
      | (s, some d) =>
        let pass := blockPasses o d j.buf j.snap.qk
        let j := { j with idx := j.idx ++ [if pass then 1 else 0] }
        let s := onJob s j.id (fun k => { k with idx := j.idx })
        let s := if pass then
            putEnd s j true (endX j qx) (8 + 4 * passedBefore j i) (natBytes 4 i) (j.iss + strmLat (jS j) + 1 + i * r)
          else s
        if (jS j).cnt0 ≤ i + 1 then dskipCount s j qx r else s

/-- The digests of a DSKIP whose requests are due at relative cycle `k`, in order; one that waits holds the later ones
back (08 R192). -/
def dskipDigests (s : State) (j : Job) (qs qx : Fin 16) (k : Nat) : State :=
  match digObj s j with
  | none => s
  | some o =>
    let n := min (jS j).cnt0 (k / skipR o + 1)
    (List.range (n - j.idx.length)).foldl (fun s q => dskipDigest s j qs qx o (j.idx.length + q)) s

/-- DSKIP's reads at relative cycle `k`: the predicate at cycle 0, and every `r` cycles one digest. The digest and the
block are two reads (07 R187, R188). -/
def dskipRead (s : State) (j : Job) (qs qx : Fin 16) (poff k : Nat) : State :=
  let (s, rec) := if k = 0 then localRead s .copy .spad (16 * poff : Nat) 16 else (s, j.buf)
  let s := onJob s j.id (fun j => { j with buf := rec })
  let j := (findJob s j.id).getD j
  if (jS j).cnt0 = 0 then (if k = 0 ∧ (digObj s j).isSome then dskipCount s j qx 1 else s) else dskipDigests s j qs qx k

/-- The source of the data of a DSKIP's blocks: the region in its own space. -/
def skipSrc (j : Job) (o : ObjEnt) (qs : Fin 16) : End :=
  ⟨directView { jS j with cnt0 := (jS j).cnt0 * dcfgB o.dcfg, space := o.space.val + 1 } 0, some o, qs, j.snap.capS, permR⟩

/-- DSKIP forms relative cycle `k`: the bytes of the block whose digest it read then, if it passes (07 R187). -/
def dskipForm (s : State) (j : Job) (qd qs qx : Fin 16) (dcls : Fin 8) (k : Nat) : StepRes :=
  match digObj s j with
  | none => .stay (stopDig s j)
  | some o =>
    let t := jS j
    let r := skipR o
    let lq := strmLat t
    let ld := clsLat dcls.val t.hops
    let b := dcfgB o.dcfg
    let i := k / r
    let s := dskipDigests s j qs qx k
    let j := (findJob s j.id).getD j
    if k % r ≠ 0 ∨ t.cnt0 ≤ i then .done (lastRead s j k)
    else if j.idx.length ≤ i then .stay s
    else if j.idx[i]? ≠ some 1 then .done (lastRead s j k)
    else
      let d0 := j.cnt * b
      let n := min b (strmLen (jD j) - d0)
      let lo := min n (unformed s j d0 - d0)
      let (s, bs) := readBase s j (skipSrc j o qs) (i * b + lo) (n - lo) (d0 + lo)
      let s := (List.range (ceilDiv n 64)).foldl (fun s c =>
        let a := max lo (64 * c)
        let e := min (lo + bs.length) (64 * c + 64)
        putEnd s j true (endD j qd) (d0 + a) ((bs.drop (a - lo)).take (e - a)) (j.iss + lq + ld + k + c)) s
      if lo + bs.length < n then .stay s
      else .done (lastRead (onJob s j.id (fun j => { j with cnt := j.cnt + 1 })) j k)

/-! ## QLD, and the steps together -/

/-- QLD at its issue cycle: the descriptor goes in and the extent registers become invalid; no earlier command fills
them (07 R171, R175). -/
def qldForm (s : State) (qd : Fin 16) (off : Nat) : StepRes :=
  let (s, bs) := localRead s .copy .spad (64 * off : Nat) 64
  let d : Desc := Vector.ofFn (fun i => word (bytesNat ((bs.drop (8 * i.val)).take 8)))
  .done (onEng s (fun e => { e with
    qs := e.qs.set qd d, extJob := e.extJob.set (extQ qd) 0,
    ext := e.ext.set (extQ qd) ⟨{ (e.ext[extQ qd]).cur with v := false }, { (e.ext[extQ qd]).nxt with v := false }⟩ }))

/-- What a copy command reads locally at relative cycle `k`. -/
def copyReads (s : State) (j : Job) (k : Nat) : List Rng :=
  match j.cmd with
  | .qld _ _ off => if k = 0 then [(.spad, ((64 * off.val : Nat) : Int), 64)] else []
  | .cpy _ _ _ _ _ => cpyReads j k
  | .fill _ _ _ _ poff => fillReads j poff.val k
  | .gather _ _ _ _ _ _ | .scatter _ _ _ _ _ _ | .scatadd _ _ _ _ _ _ => rowReads j k
  | .topkr _ _ _ _ _ _ _ _ | .topkc _ _ _ _ _ _ _ | .topkcTab _ _ _ _ _ _ _ _ => topReads j k
  | .compact _ _ _ _ _ _ _ | .expand _ _ _ _ _ _ _ => packReads s j k
  | .accrd _ _ _ _ _ _ | .accwr _ _ _ _ _ _ _ => accReads j k
  | .dskip _ _ _ _ _ _ _ poff => if k = 0 then [(.spad, ((16 * poff.val : Nat) : Int), 16)] else []
  | _ => []

/-- What a copy command takes in of its core's stores at relative cycle `k` before it forms bytes. -/
def copyRead (s : State) (j : Job) (k : Nat) : State :=
  match j.cmd with
  | .cpy _ _ qd qs _ => cpyRead s j qd qs k
  | .fill _ _ qd _ poff => fillRead s j qd poff.val k
  | .gather _ _ qd qs _ _ | .scatter _ _ qd qs _ _ | .scatadd _ _ qd qs _ _ => rowRead s j qd qs k
  | .compact _ _ _ _ _ _ _ | .expand _ _ _ _ _ _ _ => packRead s j k
  | .dskip _ _ _ qs qx _ _ poff => dskipRead s j qs qx poff.val k
  | _ => s

/-- A copy command forms the bytes of relative cycle `k`. -/
def copyForm (s : State) (j : Job) (k : Nat) : StepRes :=
  match j.cmd with
  | .qld _ qd off => qldForm s qd off.val
  | .cpy _ _ qd qs _ => cpyForm s j qd qs k
  | .fill _ _ qd _ _ => fillForm s j qd k
  | .gather _ _ qd qs _ _ | .scatter _ _ qd qs _ _ | .scatadd _ _ qd qs _ _ => rowForm s j qd qs k
  | .topkr _ _ qd qs qx _ _ _ | .topkc _ _ qd qs qx _ _ | .topkcTab _ _ qd qs qx _ _ _ => topForm s j qd qs qx k
  | .compact _ _ qd qs _ _ _ => compactForm s j qd qs k
  | .expand _ _ qd qs _ _ _ => expandForm s j qd qs k
  | .accrd _ _ qd qs _ rm => accForm s j qd qs rm false k
  | .accwr _ _ qd qs _ rm acc => accForm s j qd qs rm acc k
  | .dscan _ _ qd qs _ => dscanForm s j qd qs k
  | .dskip _ _ qd qs qx _ dcls _ => dskipForm s j qd qs qx dcls k
  | _ => .done s

/-! ## Data requested again (01 R36, 06 R159) -/

/-- Where the `n`-th set bit of a mask stands. -/
def nthSet (buf : List Byte) (n : Nat) : Option Nat := ((List.range (8 * buf.length)).filter (maskBit buf))[n]?

/-- The source byte that a destination byte of COMPACT or EXPAND takes; none for a 0 (07 R182). -/
def packFrom (j : Job) (p : Nat) : Option Nat :=
  let e := packE j
  match j.cmd with
  | .compact _ _ _ _ _ _ _ => (nthSet j.buf (p / e)).map (fun i => i * e + p % e)
  | _ =>
    let o := (List.range (p / e)).countP (maskBit j.buf) * e + p % e
    if maskBit j.buf (p / e) && o < strmLen (jS j) then some o else none

/-- The region byte that a destination byte of a DSKIP takes: that of the block that passed with its number (07 R187).
-/
def skipFrom (j : Job) (o : ObjEnt) (p : Nat) : Option Nat :=
  (((List.range j.idx.length).filter (fun i => j.idx[i]? == some 1))[p / dcfgB o.dcfg]?).map (fun i =>
    i * dcfgB o.dcfg + p % dcfgB o.dcfg)

/-- Source bytes read from the base again, one after the other: none when one does not come. -/
def bytesAgain (s : State) (j : Job) (x : End) (pos : Nat) (os : List (Option Nat)) : State × Option (List Byte) :=
  os.foldl (fun (acc : State × Option (List Byte)) o =>
    match acc.2, o with
    | none, _ => acc
    | some bs, none => (acc.1, some (bs ++ [0]))
    | some bs, some o =>
      let r := readBase acc.1 j x o 1 (pos + bs.length)
      (r.1, if r.2.isEmpty then none else some (bs ++ r.2))) (s, some [])

/-- The stream register of a copy's source, whose extent registers serve its reads (06 R157). -/
def srcQ : Instr → Fin 16
  | .cpy _ _ _ qs _ | .gather _ _ _ qs _ _ | .scatter _ _ _ qs _ _ | .scatadd _ _ _ qs _ _ | .compact _ _ _ qs _ _ _
  | .expand _ _ _ qs _ _ _ | .accrd _ _ _ qs _ _ | .accwr _ _ _ qs _ _ _ | .dscan _ _ _ qs _ | .topkr _ _ _ qs _ _ _ _
  | .topkc _ _ _ qs _ _ _ | .topkcTab _ _ _ qs _ _ _ _ | .dskip _ _ _ qs _ _ _ _ => qs
  | _ => 0

/-- The bytes of a TOPKR's or TOPKC's output, selected again from its source read again (07 R180). -/
def topAgain (s : State) (j : Job) (pos n : Nat) : State × Option (List Byte) :=
  let t := jS j
  let (s, src) := readBase s j (endS j (srcQ j.cmd)) 0 (strmLen t) pos
  if !isFar j then (s, some [])
  else if src.length < strmLen t then (s, none)
  else
    let kk := topkK j.cmd
    let bs := (topGroups j 0 src.length src).map (fun g => topBlock t.ty kk (j.snap.limits.getD g.1 kk) g.2.2)
    (s, some ((((bs.map Prod.fst).flatten ++ (bs.map Prod.snd).flatten).drop pos).take n))

/-- The bytes that positions `pos` to `pos + n - 1` of a copy take, read from the base again: for an ACCWR the source
elements; the positions of DSKIP's list and count, which no source byte gives, keep theirs (06 R159, 01 R36). -/
def sourceAgain (s : State) (j : Job) (pos n : Nat) : State × Option (List Byte) :=
  let q := srcQ j.cmd
  let whole := fun (r : State × List Byte) (n : Nat) => (r.1, if r.2.length = n then some r.2 else none)
  let each := (List.range n).map (fun i => pos + i)
  match j.cmd with
  | .compact _ _ _ _ _ _ _ | .expand _ _ _ _ _ _ _ => bytesAgain s j (endS j q) pos (each.map (packFrom j))
  | .topkr _ _ _ _ _ _ _ _ | .topkc _ _ _ _ _ _ _ | .topkcTab _ _ _ _ _ _ _ _ => topAgain s j pos n
  | .dskip _ _ _ _ _ _ _ _ => match digObj s j with
    | none => (stopDig s j, none)
    | some o => if strmLen (jD j) ≤ pos then (s, some []) else bytesAgain s j (skipSrc j o q) pos (each.map (skipFrom j o))
  | .cpy _ _ _ _ _ => whole (readBase s j (cpySrc j q) pos n pos) n
  | .gather _ _ _ _ _ _ | .scatter _ _ _ _ _ _ | .scatadd _ _ _ _ _ _ => whole (readBase s j (rowSrc j q) pos n pos) n
  | .accwr _ _ _ _ _ _ _ =>
    let su := max 1 (tySize (jD j).ty)
    let st := max 1 (tySize (jS j).ty)
    whole (readBase s j (endS j q) (pos / su * st) (n / su * st) pos) (n / su * st)
  | .dscan _ _ _ _ _ => match digObj s j with
    | none => (stopDig s j, none)
    | some o =>
      let r := digRecords s j q o ((jS j).base / dcfgB o.dcfg + pos / 32) (ceilDiv (pos % 32 + n) 32)
      (r.1, r.2.map (fun bs => (bs.drop (pos % 32)).take n))
  | _ => (s, some [])

/-- The same write with its data read again. -/
def renewed (j : Job) (w : PWrite) (bs : List Byte) : PWrite :=
  match w with
  | .bytes st ws =>
    let bs := match j.cmd with
      | .accwr _ _ _ _ _ rm _ => ((splitNats (max 1 (tySize (jS j).ty)) bs).map (fun v =>
          natBytes (max 1 (tySize (jD j).ty)) (convert rm.val (jS j).ty (jD j).ty v))).flatten
      | _ => bs
    if bs.length = ws.length then .bytes st ((ws.map Prod.fst).zip bs) else w
  | .accum st ty rm hs =>
    let vs := (splitNats (max 1 (tySize (jS j).ty)) bs).map (fun v => match j.cmd with
      | .accwr _ _ _ _ _ rm _ => accValue j rm v
      | _ => xval (jS j).ty v)
    if vs.length = hs.length then .accum st ty rm ((hs.map Prod.fst).zip (vs.map (⟨·, false⟩))) else w
  | w => w

/-- A copy's write with its data requested again; none while it does not come. -/
def copyAgain (s : State) (j : Job) (p : Pend) : State × Option PWrite :=
  let r := sourceAgain s j p.pos p.len
  (r.1, r.2.map (renewed j p.w))

/-- The same for a write on its way to its home. -/
def renewTransit (s : State) (j : Job) (t : Transit) : State :=
  match sourceAgain s j t.pos t.len with
  | (s, none) => s
  | (s, some bs) =>
    let w : TWrite := match t.w with
      | .bytes ws => if bs.length = ws.length then .bytes ((ws.map Prod.fst).zip bs) else t.w
      | .add pa ty _ => if bs.isEmpty then t.w else .add pa ty (bytesNat bs)
      | w => w
    let q := { t with need := false, arrived := !heldBy s j.eng j.entry t.pos t.len, w := w }
    onEng s (fun e => { e with transit := e.transit.map (fun x => if x = t then q else x) })

end Sys2Proof.Machine
end

