-- ==== Sys2Proof/Machine/MatrixStep.lean ====
section
/-! DEFINITION. Machine/MatrixStep.lean: the read steps of the matrix engine's commands and the arithmetic of its row-steps
(spec 03 R81 to R85, 15 R316 to R331, 16 R337 to R350). -/

namespace Sys2Proof.Machine

/-! ## Formats (15 R316, R318) -/

/-- Whether a format word's triple is one of 15 R316. -/
def tripleOk (f : Word) : Bool :=
  let a := fwTA f
  let b := fwTB f
  let c := fwTC f
  (a == 0 && b == 0 && c == 0) || (a == 1 && b == 1 && c == 1) || (a == 2 && b == 2 && c == 1) || (a == 3 && b == 3 && c == 1) ||
  ((a == 4 || a == 5) && (b == 4 || b == 5) && c == 1) || (a == 7 && b == 7 && c == 9) || (a == 2 && b == 6 && c == 1) ||
  (a == 4 && b == 6 && c == 1)

/-- Whether a type may be loaded into a weight entry. -/
def weightType (t : Nat) : Bool := t ≤ 7

/-- WLOAD's read steps. -/
def wloadSteps (tb : Nat) : Nat := if tb = 0 then 4 else if tb = 1 then 8 else if tb = 6 then 17 else 16

/-- K_e and N of a weight entry by its type. -/
def weightK (tb : Nat) : Nat := if tb = 0 then 16 else if tb = 1 then 32 else if tb ≤ 3 then 128 else if tb = 6 then 512 else 256
def weightN (tb : Nat) : Nat := if tb = 0 then 16 else 32

/-- Bytes of an A row. -/
def mmaRA (f : Word) : Nat := mmaK (fwTA f) (fwTB f) * tySize (fwTA f)

/-! ## Row sums (03 R82 to R84) -/

/-- One level of the pairwise tree, lower indices on the left. -/
def treeLevel (t : Nat) : List Nat → List Nat
  | a :: b :: r => addTy 0 t a b :: treeLevel t r
  | l => l

/-- The tree's root, with fuel. -/
def treeSum (t : Nat) : Nat → List Nat → Nat
  | 0, l => l.headD 0
  | n + 1, l => if l.length ≤ 1 then l.headD 0 else treeSum t n (treeLevel t l)

/-- The sum that one row-step adds to one accumulator element: the root of the tree for f32 and f64, else the exact
sum. Special terms decide before any rounding (03 R82); a root that is not finite without one has overflowed. -/
def rowSum (ta : Nat) (as bs : List XVal) : Addend :=
  let ps := (as.zip bs).map (fun p => xmul p.1 p.2)
  if ta ≤ 1 && !ps.any xspecial? then
    let v := fdec ta (treeSum ta 6 (ps.map (roundTo 0 ta)))
    ⟨v, xspecial? v⟩
  else ⟨xsum ps, false⟩

/-- The rows of B that a row-step uses, as values by row (15 R318, 03 R80). -/
def weightRows (e : Engines) (we : Fin 128) (f : Word) : List (List XVal) :=
  let tb := fwTB f
  let n := weightN tb
  let k := mmaK (fwTA f) tb
  let ent := memReadN e.wpl (8192 * we.val) 8192
  if tb = 6 then
    let side := memReadN e.side (1024 * we.val) 260
    let sup := bytesNat (side.drop 256)
    let k0 := if fwTA f = 2 then 256 * fwKSEL f else 0
    (List.range k).map (fun r => (List.range n).map (fun c =>
      let el := 32 * (k0 + r) + c
      let b := (ent.getD (el / 2) 0).toNat
      glqVal sup (side.getD (el / 64) 0).toNat (if el % 2 = 0 then b % 16 else b / 16)))
  else
    let sz := tySize tb
    (List.range k).map (fun r => (List.range n).map (fun c => xval tb (bytesNat ((ent.drop ((r * n + c) * sz)).take sz))))

/-- The values that a row-step adds: one for each of the N elements. -/
def rowStep (e : Engines) (we : Fin 128) (f : Word) (a : List Nat) : List Addend :=
  let rows := weightRows e we f
  let as := a.map (xval (fwTA f))
  (List.range (tcN (fwTC f))).map (fun c => rowSum (fwTA f) as (rows.map (fun r => r.getD c (.zero .pos))))

/-- A row-step's timed write (15 R317, R336). -/
def addRow (s : State) (j : Job) (tile : Fin 16) (i pcyc : Nat) (hs : List Addend) : State :=
  let f := j.snap.fmt
  let tc := fwTC f
  let a := slotOff tile.val (fwRow0 f + i) j.snap.slot.val
  addPend s j false pcyc i 1
    (.accum .acc (Fin.ofNat 16 tc) (Fin.ofNat 4 (fwRM f)) (hs.zipIdx.map (fun p => (addrsFrom (a + p.2 * tySize tc) (tySize tc), p.1))))

/-! ## Reads of a step -/

/-- The cycle after issue at which step `k` of a command falls, and the step's number: MMAZ reads its bitmap as step 0
in its issue cycle, and row `i`, its step `i + 1` here, `i` cycles after issue (15 R328, 16 R342). -/
def stepCycle (j : Job) (k : Nat) : Nat :=
  match j.cmd with
  | .mmaz _ _ _ _ _ _ => k - 1
  | _ => k

/-- Element bytes of a coefficient of BIND (15 R326). -/
def coefOff (j : Job) (spa : Fin 16384) (cstr : Fin 256) (l i : Nat) : Nat :=
  256 * spa.val + 64 * cstr.val * l + tySize j.snap.ttype.val * i

/-- The bytes that the channel check of step `k` covers (16 R339 to R350). -/
def matReads (j : Job) (k : Nat) : List Rng :=
  let f := j.snap.fmt
  let at' := fun (st : Store) (a n : Nat) => ((st, (a : Int), n) : Rng)
  match j.cmd with
  | .wload _ spa _ => [at' .spad (256 * spa.val + 512 * k) 512]
  | .mma _ _ spa _ _ _ => [at' .spad (256 * spa.val + k * mmaRA f) (mmaRA f)]
  | .mmat _ _ spa _ _ _ => if k < mmatT f then [at' .spad (256 * spa.val + 1024 * k) 1024] else []
  | .mmaz _ _ spa _ _ _ =>
    if k = 0 then [at' .spad (16 * fwMZOFF f) 16]
    else if maskBit j.buf (k - 1) then [] else [at' .spad (256 * spa.val + (k - 1) * mmaRA f) (mmaRA f)]
  | .bind _ _ spa _ _ cstr _ =>
    j.snap.labels.map (fun p => at' .spad (coefOff j spa cstr p.2.val k) (tySize j.snap.ttype.val))
  | .drain _ t _ _ | .drainq _ t _ _ => [at' .acc (slotOff t.val (fwRow0 f + k) (fwSSL f)) 128]
  | _ => []

/-- Further bytes that step `k` reads, which early-read checkers watch too. -/
def matEarly (j : Job) (k : Nat) : List Rng :=
  let row := fun (t sl : Nat) => ((.acc, ((slotOff t k sl : Nat) : Int), 128) : Rng)
  match j.cmd with
  | .bind _ t _ ts _ _ _ => row t.val ts.val :: j.snap.labels.map (fun p => row t.val p.1.val)
  | _ => []

/-! ## The steps -/

/-- One read step of WLOAD (16 R339). -/
def wloadRun (s : State) (j : Job) (spa : Fin 16384) (we : Fin 128) (k : Nat) : StepRes :=
  let (s, bs) := localRead s .matrix .spad (256 * spa.val + 512 * k : Nat) 512
  let buf := j.buf ++ bs
  let s := onJob s j.id (fun j => { j with buf := buf })
  let tb := fwTB j.snap.fmt
  if k + 1 = j.nsteps then
    .done (addPend s j false (j.iss + j.nsteps) 0 1
      (.weight we (buf.take 8192) (if tb = 6 then (buf.drop 8192).take 260 else []) (Fin.ofNat 16 tb)))
  else .done s

/-- One row-step of MMA (15 R317). -/
def mmaRun (s : State) (j : Job) (tile : Fin 16) (spa : Fin 16384) (we : Fin 128) (k : Nat) : StepRes :=
  let f := j.snap.fmt
  let (s, bs) := localRead s .matrix .spad (256 * spa.val + k * mmaRA f : Nat) (mmaRA f)
  .done (addRow s j tile k (j.iss + mmaD f + k) (rowStep s.core.eng we f (splitNats (tySize (fwTA f)) bs)))

/-- A step of MMAZ: its bitmap first; then a row whose bit is 1 is left alone (15 R328). -/
def mmazRun (s : State) (j : Job) (tile : Fin 16) (spa : Fin 16384) (we : Fin 128) (k : Nat) : StepRes :=
  if k = 0 then
    let (s, bits) := localRead s .matrix .spad (16 * fwMZOFF j.snap.fmt : Nat) 16
    .done (onJob s j.id (fun j => { j with buf := bits }))
  else if maskBit j.buf (k - 1) then .done (onJob s j.id (fun j => { j with perf := perfAdd j.perf (k - 1) 1 }))
  else mmaRun s j tile spa we (k - 1)

/-- One cycle of MMAT: first the storage rows, then the row-steps (15 R330). -/
def mmatRun (s : State) (j : Job) (tile : Fin 16) (spa : Fin 16384) (we : Fin 128) (k : Nat) : StepRes :=
  let f := j.snap.fmt
  let t := mmatT f
  if k < t then
    let (s, bs) := localRead s .matrix .spad (256 * spa.val + 1024 * k : Nat) 1024
    .done (onJob s j.id (fun j => { j with buf := j.buf ++ bs }))
  else
    let sz := tySize (fwTA f)
    let i := k - t
    let a := (List.range (mmaK (fwTA f) (fwTB f))).map (fun q => bytesNat ((j.buf.drop (128 * sz * q + sz * i)).take sz))
    .done (addRow s j tile i (j.iss + t + mmaD f + i) (rowStep s.core.eng we f a))

/-- One element of BIND: an exact product added with one rounding, or wrapping for s32 (03 R85). -/
def bindStep (ty coef slot y : Nat) : Nat :=
  if tyFloat ty then roundTo 0 ty (xadd (xmul (fdec ty coef) (fdec ty slot)) (fdec ty y))
  else (y + coef * slot) % 2 ^ tyBits ty

/-- One row of BIND (15 R326). -/
def bindRun (s : State) (j : Job) (tile : Fin 16) (spa : Fin 16384) (ts : Fin 8) (acc : Bool) (cstr : Fin 256) (k : Nat) :
    StepRes :=
  let ty := j.snap.ttype.val
  let sz := tySize ty
  let n := tcN ty
  let row := fun (sl : Nat) => splitNats sz (memReadN s.core.eng.acc (slotOff tile.val k sl) 128)
  let y0 := if acc then row ts.val else List.replicate n 0
  let (s, y) := j.snap.labels.foldl (fun (a : State × List Nat) p =>
    let (s, cb) := localRead a.1 .matrix .spad (coefOff j spa cstr p.2.val k : Nat) sz
    (s, (a.2.zip (row p.1.val)).map (fun q => bindStep ty (bytesNat cb) q.2 q.1))) (s, y0)
  .done (addPend s j false (j.iss + 12 + k) k 1
    (.bytes .acc (bytesFrom (slotOff tile.val k ts.val) (y.flatMap (natBytes sz)))))

/-- One row of DRAIN; after the last one, its zero bitmap (15 R327, R328). -/
def drainRun (s : State) (j : Job) (tile : Fin 16) (spa : Fin 16384) (nrow k : Nat) : StepRes :=
  let f := j.snap.fmt
  let x := splitNats (tySize (fwTC f)) (memReadN s.core.eng.acc (slotOff tile.val (fwRow0 f + k) (fwSSL f)) 128)
  let out := x.flatMap (fun v => natBytes (tySize (fwOT f)) (convert (fwRM f) (fwTC f) (fwOT f) v))
  let a := 256 * spa.val + k * drainRS f
  let s := addPend s j false (j.iss + 4 + k) k 1 (.bytes .spad (bytesFrom a out))
  let z := j.buf ++ [if out.all (fun b => b == 0) then 1 else 0]
  let s := onJob s j.id (fun j => { j with buf := z })
  if k + 1 = nrow ∧ fwZEN f = true then
    let bm := z.zipIdx.foldl (fun n p => n + p.1.toNat * 2 ^ p.2) 0
    .done (addPend s j false (j.iss + 4 + nrow) nrow 1
      (.bytes .spad (bytesFrom (16 * fwDZOFF f) (natBytes 16 bm))))
  else .done s

/-- One row of DRAINQ; each second row completes a block, the last one the super-scale and the tail (15 R329). -/
def drainqRun (s : State) (j : Job) (tile : Fin 16) (spa : Fin 16384) (nrow k : Nat) : StepRes :=
  let f := j.snap.fmt
  let tc := fwTC f
  let row := memReadN s.core.eng.acc (slotOff tile.val (fwRow0 f + k) (fwSSL f)) 128
  if k % 2 = 0 then .done (onJob s j.id (fun j => { j with buf := row }))
  else
    let els := fun (bs : List Byte) => splitNats (tySize tc) bs ++ List.replicate (32 - tcN tc) 0
    let sup := (glqSuper (fwS f)).1
    let (sc, codes) := glqBlock tc sup (els j.buf ++ els row)
    let b := k / 2
    let blk := 64 * fwQPART f + b
    let base := 256 * spa.val
    let cb := (List.range 32).map (fun i => BitVec.ofNat 8 (codes.getD (2 * i) 0 + 16 * codes.getD (2 * i + 1) 0))
    let s := addPend s j false (j.iss + 2 * b + 5) b 1
      (.bytes .spad (bytesFrom (base + 32 * blk) cb ++ bytesFrom (base + 8192 + blk) [BitVec.ofNat 8 sc]))
    if k + 1 = nrow then
      let tail := natBytes 4 sup ++ List.replicate 252 0
      .done (addPend s j false (j.iss + 4 + nrow) (nrow / 2) 1
        (.bytes .spad (bytesFrom (base + 8448) tail)))
    else .done s

/-- The latency of a fill (15 R325). -/
def fillLat (mx : Word) : Nat := clsLat (bitsOf mx.toNat 59 57) (bitsOf mx.toNat 56 51)

/-- The record of SLFILL, read at its homes and formed as 64-byte late-capable writes (15 R325). -/
def slfillRun (s : State) (j : Job) (tile : Fin 16) (lbl : Fin 256) : StepRes :=
  match j.snap.objX with
  | none => .done s
  | some o =>
    let (s, r) := engRead s j o (recordOff j.snap.mxspill tile.val lbl.val) 16384 0
    match r with
    | none => .stay s
    | some bs =>
      let l := fillLat j.snap.mxspill
      .done ((List.range 256).foldl (fun s c =>
        let a := slotOff tile.val (c / 2) j.snap.slot.val + 64 * (c % 2)
        addBytes s j true .acc (j.iss + l + c) (64 * c) (a : Nat) ((bs.drop (64 * c)).take 64)) s)

/-- A write of an SLFILL whose data is requested again: the bytes of its record as they now read (01 R36, 15 R325). -/
def slfillAgain (s : State) (j : Job) (tile : Fin 16) (lbl : Fin 256) (pos : Nat) (w : PWrite) : State × Option PWrite :=
  match w, j.snap.objX with
  | .bytes st ws, some o =>
    let r := engRead s j o (recordOff j.snap.mxspill tile.val lbl.val + pos) ws.length pos
    (r.1, r.2.map (fun bs => .bytes st ((ws.map Prod.fst).zip bs)))
  | w, _ => (s, some w)

/-- Step `k` of a matrix command. -/
def matRun (s : State) (j : Job) (k : Nat) : StepRes :=
  match j.cmd with
  | .wload _ spa we => wloadRun s j spa we k
  | .mma _ t spa we _ _ => mmaRun s j t spa we k
  | .mmat _ t spa we _ _ => mmatRun s j t spa we k
  | .mmaz _ t spa we _ _ => mmazRun s j t spa we k
  | .bind _ t spa ts acc cstr _ => bindRun s j t spa ts acc cstr k
  | .drain _ t spa n => drainRun s j t spa (nrows n) k
  | .drainq _ t spa n => drainqRun s j t spa (nrows n) k
  | .slfill _ t l => slfillRun s j t l
  | _ => .done s

end Sys2Proof.Machine
end

