-- ==== Sys2Proof/Machine/VectorStep.lean ====
section
/-! DEFINITION. Machine/VectorStep.lean: what each vector command reads at its issue cycle and what it writes (spec 03 R71 to
R77, R86, R87, 19 R353 to R363, 20 R365 to R386). -/

namespace Sys2Proof.Machine

/-! ## Rows, lanes and masks (19 R353, R357) -/

/-- Lanes of a type. -/
def lanes (t : Nat) : Nat := 128 / max 1 (tySize t)

/-- Mask `m`: m0 reads all ones. -/
def maskBits (e : Engines) (m : Fin 8) : BitVec 128 := if m = 0 then BitVec.allOnes 128 else e.masks[m]

/-- Window row `v` as a job resolves it. -/
def rowOff (j : Job) (v : Fin 64) : Nat := winOff j.snap.vwst v.val

/-- The lanes of a window row as they read now. -/
def rowLanes (s : State) (j : Job) (v : Fin 64) (t : Nat) : List Nat :=
  splitNats (tySize t) (memReadN s.core.eng.acc (rowOff j v) 128)

/-- The active lanes of a type under a mask. -/
def active (e : Engines) (m : Fin 8) (t : Nat) : List Nat :=
  (List.range (lanes t)).filter (fun i => (maskBits e m).getLsbD i)

/-- The destination cycle of a command after its issue (19 R361). -/
def vecD : Instr → Nat
  | .vadd _ _ _ _ _ t _ _ | .vsub _ _ _ _ _ t _ _ | .vmin _ _ _ _ _ t | .vmax _ _ _ _ _ t | .vabs _ _ _ _ t
  | .vneg _ _ _ _ t | .vcmp _ _ _ _ _ t _ => if tyFloat t.val then 4 else 2
  | .vmul _ _ _ _ _ _ _ | .vfma _ _ _ _ _ _ _ | .vcvt _ _ _ _ _ _ _ _ => 4
  | .vclmul _ _ _ _ _ _ _ | .vpxor _ _ _ _ _ _ _ _ | .vpsum _ _ _ _ _ _ | .vred _ _ _ _ _ _ _ | .vperm _ _ _ _ _ _
  | .vcompr _ _ _ _ _ _ | .vmtest _ _ _ _ _ _ _ | .mpop _ _ _ _ _ => 6
  | .vdiv _ _ _ _ _ t _ | .vsqrt _ _ _ _ t _ | .vrsq _ _ _ _ t _ | .vrcp _ _ _ _ t _ | .vexp2 _ _ _ _ t _
  | .vlog2 _ _ _ _ t _ => if t = 0 then 20 else 12
  | _ => 2

/-! ## Lane arithmetic (20 R370 to R376) -/

/-- A floating operand under FZI, as an exact value. -/
def lIn (vf t v : Nat) : XVal := fdec t (flushIn vf t v)

/-- A floating result rounded in mode `rm`, under FZO. -/
def lOut (vf rm t : Nat) (x : XVal) : Nat := flushOut vf t (roundTo rm t x)

/-- VADD and VSUB. -/
def laneAdd (vf t rm : Nat) (sat sub : Bool) (a b : Nat) : Nat :=
  if tyFloat t then
    let y := lIn vf t b
    lOut vf rm t (xadd (lIn vf t a) (if sub then xnegate y else y))
  else
    let r := if sub then intVal t a - intVal t b else intVal t a + intVal t b
    if sat then clampBits t r else wrapN (tyBits t) r

/-- VMUL. -/
def laneMul (vf t rm a b : Nat) : Nat :=
  if tyFloat t then lOut vf rm t (xmul (lIn vf t a) (lIn vf t b)) else a * b % 2 ^ tyBits t

/-- VFMA. -/
def laneFma (vf t rm a b d : Nat) : Nat :=
  if tyFloat t then lOut vf rm t (xadd (xmul (lIn vf t a) (lIn vf t b)) (lIn vf t d)) else (a * b + d) % 2 ^ tyBits t

/-- VMIN and VMAX; a node of VRED's minimum and maximum is the same without FZO. -/
def pickMin (vf t : Nat) (mx : Bool) (a b : Nat) : Nat :=
  if tyFloat t then
    let x := lIn vf t a
    let y := lIn vf t b
    roundTo 0 t (if mx then xmaxNum x y else xminNum x y)
  else if mx then (if intVal t a < intVal t b then b else a)
  else (if intVal t b < intVal t a then b else a)

/-- VMIN and VMAX. -/
def laneMin (vf t : Nat) (mx : Bool) (a b : Nat) : Nat := flushOut vf t (pickMin vf t mx a b)

/-- VABS. -/
def laneAbs (t a : Nat) : Nat :=
  if tyFloat t then a % signBit t else if tySigned t then wrapN (tyBits t) (intVal t a).natAbs else a

/-- VNEG. -/
def laneNeg (t a : Nat) : Nat :=
  if tyFloat t then (if a < signBit t then a + signBit t else a - signBit t) else wrapN (tyBits t) (-(a : Int))

/-- The quality knob: the low bits of the fraction of a finite nonzero result are cleared (20 R373). -/
def lowQuality (qk t v : Nat) : Nat :=
  match fdec t v with
  | .fin _ _ =>
    let k := qk * tyFrac t / 16
    v / 2 ^ k * 2 ^ k
  | _ => v

/-- The six special functions at QK (20 R372, R373): VDIV, VSQRT, VRSQ, VRCP, VEXP2, VLOG2. -/
inductive SpFun where
  | div | sqrt | rsq | rcp | exp2 | log2
deriving DecidableEq, Repr

/-- A special function of one or two lanes. -/
def laneSpecial (fn : SpFun) (vf qk t rm a b : Nat) : Nat :=
  let x := lIn vf t a
  let y := lIn vf t b
  let r := match fn with
    | .div => roundTo rm t (xdiv x y)
    | .sqrt => roundTo rm t (xsqrt x)
    | .rsq => roundTo 1 t (xrsq x)
    | .rcp => roundTo rm t (xdiv (.fin 1 0) x)
    | .exp2 => exp2Bits t x
    | .log2 => log2Bits t x
  lowQuality qk t (flushOut vf t r)

/-- VCVT of one lane (20 R374). -/
def laneCvt (vf rm st t a : Nat) : Nat := flushOut vf t (convert rm st t (flushIn vf st a))

/-- The shifts VSHL (0), VSHR (1), VSHRA (2) by `c` (20 R375). -/
def laneShift (op t a c : Nat) : Nat :=
  let w := tyBits t
  match op with
  | 0 => if w ≤ c then 0 else a * 2 ^ c % 2 ^ w
  | 1 => if w ≤ c then 0 else a / 2 ^ c
  | _ => wrapN w (sextN w a / (2 ^ min c w : Nat))

/-- One bits of a lane. -/
def lanePopc (t a : Nat) : Nat := (List.range (tyBits t)).countP (fun i => a.testBit i)

/-- Trailing zeros of a lane. -/
def laneCtz (t a : Nat) : Nat := ((List.range (tyBits t)).find? (fun i => a.testBit i)).getD (tyBits t)

/-- The carry-less product (20 R376). -/
def clmulNat (w a b : Nat) : Nat := (List.range w).foldl (fun p i => if a.testBit i then p ^^^ (b * 2 ^ i) else p) 0

/-- VCMP's predicate (20 R380). -/
def laneCmp (vf t pred a b : Nat) : Bool :=
  let x := if tyFloat t then lIn vf t a else xval t a
  let y := if tyFloat t then lIn vf t b else xval t b
  match pred with
  | 0 => xeq x y
  | 1 => !xeq x y
  | 2 => xlt x y
  | 3 => xlt x y || xeq x y
  | 4 => xlt y x
  | 5 => xlt y x || xeq x y
  | 6 => xnan? x || xnan? y
  | _ => !(xnan? x || xnan? y)

/-! ## Across lanes (03 R86, R87, 20 R377 to R382) -/

/-- One level of VRED's tree; an odd last node passes up unchanged. -/
def redLevel (f : Nat → Nat → Nat) : List Nat → List Nat
  | a :: b :: r => f a b :: redLevel f r
  | l => l

/-- VRED's tree, with fuel. -/
def redTree (f : Nat → Nat → Nat) : Nat → List Nat → Option Nat
  | 0, l => l.head?
  | n + 1, l => if l.length ≤ 1 then l.head? else redTree f n (redLevel f l)

/-- A floating value with every NaN made canonical (03 R68). -/
def canon (t v : Nat) : Nat := if xnan? (fdec t v) then nanBits t else v

/-- VRED of the active lane values; in a floating sum special lanes decide before any rounding (20 R379, 03 R82, R86).
-/
def reduce (vf t rm op : Nat) (xs : List Nat) : Nat :=
  let fl := tyFloat t
  let node : Nat → Nat → Nat := fun a b => match op with
    | 0 => if fl then lOut vf rm t (xadd (fdec t a) (fdec t b)) else (a + b) % 2 ^ tyBits t
    | 1 => pickMin 0 t false a b
    | 2 => pickMin 0 t true a b
    | 3 => a &&& b
    | 4 => a ||| b
    | _ => a ^^^ b
  let leaves := if fl then xs.map (flushIn vf t) else xs
  if fl && op == 0 && leaves.any (fun v => xspecial? (fdec t v)) then lOut vf rm t (xsum (leaves.map (fdec t)))
  else match redTree node 8 leaves with
  | some v => if fl then flushOut vf t (canon t v) else v
  | none => match op with
    | 1 => if fl then roundTo 0 t (.inf false) else clampBits t (intMax t)
    | 2 => if fl then roundTo 0 t (.inf true) else clampBits t (intMin t)
    | 3 => 2 ^ tyBits t - 1
    | _ => 0

/-- VPSUM of the active lane values, in order (20 R378). -/
def prefixSums (vf t rm : Nat) : Option Nat → List Nat → List Nat
  | _, [] => []
  | prev, x :: xs =>
    let fl := tyFloat t
    let out := match prev with
      | none => if fl then flushOut vf t (canon t (flushIn vf t x)) else x
      | some p => if fl then lOut vf rm t (xadd (fdec t p) (lIn vf t x)) else (p + x) % 2 ^ tyBits t
    out :: prefixSums vf t rm (some out) xs

/-- VPXOR of the active lane values, in order (20 R377). -/
def prefixXor (excl : Bool) : Nat → List Nat → List Nat
  | _, [] => []
  | acc, x :: xs => (if excl then acc else acc ^^^ x) :: prefixXor excl (acc ^^^ x) xs

/-! ## Results -/

/-- What a command writes: lanes of a type into a row, all bytes of a row, or a mask. -/
inductive VRes where
  | lanes (vd : Fin 64) (t : Nat) (vs : List (Nat × Nat))
  | mask (mk : Fin 8) (v : BitVec 128)
  | none

/-- A mask from the lanes whose bit is set. -/
def maskOf (is : List Nat) : BitVec 128 := BitVec.ofNat 128 (is.foldl (fun n i => n + 2 ^ i) 0)

/-- Lanes that a one-lane function gives. -/
def map1 (s : State) (j : Job) (vd va : Fin 64) (m : Fin 8) (t : Nat) (f : Nat → Nat) : VRes :=
  let a := rowLanes s j va t
  .lanes vd t ((active s.core.eng m t).map (fun i => (i, f (a.getD i 0))))

/-- Lanes that a two-lane function gives. -/
def map2 (s : State) (j : Job) (vd va vb : Fin 64) (m : Fin 8) (t : Nat) (f : Nat → Nat → Nat) : VRes :=
  let a := rowLanes s j va t
  let b := rowLanes s j vb t
  .lanes vd t ((active s.core.eng m t).map (fun i => (i, f (a.getD i 0) (b.getD i 0))))

/-- VCVT's lane pairs: source lane, destination lane, governing mask bit (20 R374). -/
def cvtLanes (st t part : Nat) : List (Nat × Nat × Nat) :=
  let n := min (lanes st) (lanes t)
  (List.range n).map (fun i =>
    if lanes st < lanes t then (i, i + part * n, i) else if lanes t < lanes st then (i + part * n, i, i) else (i, i, i))

/-- The result of a command that reads rows and masks only (20 R369 to R386). -/
def vecResult (s : State) (j : Job) : VRes :=
  let vf := j.snap.vfcr.toNat
  let qk := j.snap.qk
  let e := s.core.eng
  match j.cmd with
  | .vmov _ vd va m t fm =>
    if fm then
      let k := maskBits e (Fin.ofNat 8 va.val)
      .lanes vd 11 ((List.range 128).map (fun i => (i, if i < 16 then k.toNat / 2 ^ (8 * i) % 256 else 0)))
    else map1 s j vd va m t.val id
  | .vadd _ vd va vb m t rm sat => map2 s j vd va vb m t.val (laneAdd vf t.val rm.val sat false)
  | .vsub _ vd va vb m t rm sat => map2 s j vd va vb m t.val (laneAdd vf t.val rm.val sat true)
  | .vmul _ vd va vb m t rm => map2 s j vd va vb m t.val (laneMul vf t.val rm.val)
  | .vfma _ vd va vb m t rm =>
    let a := rowLanes s j va t.val
    let b := rowLanes s j vb t.val
    let d := rowLanes s j vd t.val
    .lanes vd t.val ((active e m t.val).map (fun i => (i, laneFma vf t.val rm.val (a.getD i 0) (b.getD i 0) (d.getD i 0))))
  | .vmin _ vd va vb m t => map2 s j vd va vb m t.val (laneMin vf t.val false)
  | .vmax _ vd va vb m t => map2 s j vd va vb m t.val (laneMin vf t.val true)
  | .vabs _ vd va m t => map1 s j vd va m t.val (laneAbs t.val)
  | .vneg _ vd va m t => map1 s j vd va m t.val (laneNeg t.val)
  | .vdiv _ vd va vb m t rm => map2 s j vd va vb m t.val (laneSpecial .div vf qk t.val rm.val)
  | .vsqrt _ vd va m t rm => map1 s j vd va m t.val (fun a => laneSpecial .sqrt vf qk t.val rm.val a 0)
  | .vrsq _ vd va m t rm => map1 s j vd va m t.val (fun a => laneSpecial .rsq vf qk t.val rm.val a 0)
  | .vrcp _ vd va m t rm => map1 s j vd va m t.val (fun a => laneSpecial .rcp vf qk t.val rm.val a 0)
  | .vexp2 _ vd va m t rm => map1 s j vd va m t.val (fun a => laneSpecial .exp2 vf qk t.val rm.val a 0)
  | .vlog2 _ vd va m t rm => map1 s j vd va m t.val (fun a => laneSpecial .log2 vf qk t.val rm.val a 0)
  | .vcvt _ vd va m t rm stt part =>
    let a := rowLanes s j va stt.val
    .lanes vd t.val (((cvtLanes stt.val t.val part.val).filter (fun p => (maskBits e m).getLsbD p.2.2)).map
      (fun p => (p.2.1, laneCvt vf rm.val stt.val t.val (a.getD p.1 0))))
  | .vand _ vd va vb m t => map2 s j vd va vb m t.val (fun a b => a &&& b)
  | .vor _ vd va vb m t => map2 s j vd va vb m t.val (fun a b => a ||| b)
  | .vxor _ vd va vb m t => map2 s j vd va vb m t.val (fun a b => a ^^^ b)
  | .vshl _ vd va vb m t c imf => map2 s j vd va vb m t.val (fun a b => laneShift 0 t.val a (if imf then c.val else b))
  | .vshr _ vd va vb m t c imf => map2 s j vd va vb m t.val (fun a b => laneShift 1 t.val a (if imf then c.val else b))
  | .vshra _ vd va vb m t c imf => map2 s j vd va vb m t.val (fun a b => laneShift 2 t.val a (if imf then c.val else b))
  | .vpopc _ vd va m t => map1 s j vd va m t.val (lanePopc t.val)
  | .vctz _ vd va m t => map1 s j vd va m t.val (laneCtz t.val)
  | .vclmul _ vd va vb m t hi =>
    map2 s j vd va vb m t.val (fun a b =>
      let p := clmulNat (tyBits t.val) a b
      if hi then p / 2 ^ tyBits t.val else p % 2 ^ tyBits t.val)
  | .vpxor _ vd va vb m t excl seed =>
    let act := active e m t.val
    let a := rowLanes s j va t.val
    let acc := if seed then (rowLanes s j vb t.val).headD 0 else 0
    .lanes vd t.val (act.zip (prefixXor excl acc (act.map (fun i => a.getD i 0))))
  | .vpsum _ vd va m t rm =>
    let act := active e m t.val
    let a := rowLanes s j va t.val
    .lanes vd t.val (act.zip (prefixSums vf t.val rm.val none (act.map (fun i => a.getD i 0))))
  | .vred _ vd va m t rm op =>
    let a := rowLanes s j va t.val
    .lanes vd t.val [(0, reduce vf t.val rm.val op.val ((active e m t.val).map (fun i => a.getD i 0)))]
  | .vcmp _ mk va vb m t pred =>
    let a := rowLanes s j va t.val
    let b := rowLanes s j vb t.val
    .mask mk (maskOf ((active e m t.val).filter (fun i => laneCmp vf t.val pred.val (a.getD i 0) (b.getD i 0))))
  | .vsel _ vd va vb m t =>
    let a := rowLanes s j va t.val
    let b := rowLanes s j vb t.val
    .lanes vd t.val ((List.range (lanes t.val)).map (fun i => (i, if (maskBits e m).getLsbD i then a.getD i 0 else b.getD i 0)))
  | .vbcast _ vd va m t src val =>
    let v := if src then wrapN (tyBits t.val) (sextN 14 val.val) else (rowLanes s j va t.val).getD (val.val % 128) 0
    .lanes vd t.val ((active e m t.val).map (fun i => (i, v)))
  | .viota _ vd m t idx =>
    .lanes vd t.val ((List.range (lanes t.val)).map (fun i =>
      (i, (if idx then i else (List.range i).countP (fun k => (maskBits e m).getLsbD k)) % 2 ^ tyBits t.val)))
  | .vperm _ vd va vb m t => map2 s j vd vb vb m t.val (fun k _ => (rowLanes s j va t.val).getD k 0)
  | .vcompr _ vd va m t z =>
    let act := active e m t.val
    let a := rowLanes s j va t.val
    let vs := act.map (fun i => a.getD i 0)
    .lanes vd t.val ((List.range (lanes t.val)).filterMap (fun i =>
      if i < vs.length then some (i, vs.getD i 0) else if z then some (i, 0) else none))
  | .vmtest _ mk va vb m t row =>
    if row then .mask mk (BitVec.ofNat 128 (bytesNat (memReadN e.acc (rowOff j va) 16)))
    else
      let a := rowLanes s j va t.val
      let b := rowLanes s j vb t.val
      .mask mk (maskOf ((active e m t.val).filter (fun i => a.getD i 0 &&& b.getD i 0 != 0)))
  | .mand _ mk mi mj nb => .mask mk (maskBits e mi &&& (if nb then ~~~(maskBits e mj) else maskBits e mj))
  | .mor _ mk mi mj nb => .mask mk (maskBits e mi ||| (if nb then ~~~(maskBits e mj) else maskBits e mj))
  | .mnot _ mk mi => .mask mk (~~~(maskBits e mi))
  | .mpop _ vd mi m t =>
    .lanes vd t.val [(0, (List.range (lanes t.val)).countP (fun i => (maskBits e mi &&& maskBits e m).getLsbD i) % 2 ^ tyBits t.val)]
  | _ => .none

/-! ## Reads of a step -/

/-- The window rows that a command reads (20 R366). -/
def vecRows : Instr → List (Fin 64)
  | .vmov _ _ va _ _ fm => if fm then [] else [va]
  | .vadd _ _ va vb _ _ _ _ | .vsub _ _ va vb _ _ _ _ | .vmul _ _ va vb _ _ _ | .vmin _ _ va vb _ _ | .vmax _ _ va vb _ _
  | .vdiv _ _ va vb _ _ _ | .vand _ _ va vb _ _ | .vor _ _ va vb _ _ | .vxor _ _ va vb _ _ | .vclmul _ _ va vb _ _ _
  | .vcmp _ _ va vb _ _ _ | .vsel _ _ va vb _ _ | .vperm _ _ va vb _ _ => [va, vb]
  | .vfma _ vd va vb _ _ _ => [va, vb, vd]
  | .vabs _ _ va _ _ | .vneg _ _ va _ _ | .vsqrt _ _ va _ _ _ | .vrsq _ _ va _ _ _ | .vrcp _ _ va _ _ _ | .vexp2 _ _ va _ _ _
  | .vlog2 _ _ va _ _ _ | .vcvt _ _ va _ _ _ _ _ | .vpopc _ _ va _ _ | .vctz _ _ va _ _ | .vpsum _ _ va _ _ _
  | .vred _ _ va _ _ _ _ | .vcompr _ _ va _ _ _ | .vst _ va _ _ _ | .vstg _ va _ _ _ _ => [va]
  | .vshl _ _ va vb _ _ _ imf | .vshr _ _ va vb _ _ _ imf | .vshra _ _ va vb _ _ _ imf => if imf then [va] else [va, vb]
  | .vpxor _ _ va vb _ _ _ seed => if seed then [va, vb] else [va]
  | .vbcast _ _ va _ _ src _ => if src then [] else [va]
  | .vmtest _ _ va vb _ _ row => if row then [va] else [va, vb]
  | _ => []

/-- The bytes that a vector command reads of each of its rows: VMTEST.row bytes 0 to 15 (20 R366). -/
def vecRowLen : Instr → Nat
  | .vmtest _ _ _ _ _ _ true => 16
  | _ => 128

/-- The local bytes that a vector command reads at its issue cycle. -/
def vecReads (j : Job) : List Rng :=
  (vecRows j.cmd).map (fun v => (.acc, ((rowOff j v : Nat) : Int), vecRowLen j.cmd)) ++ match j.cmd with
    | .vld _ _ _ _ off => [(.spad, ((128 * off.val : Nat) : Int), 128)]
    | _ => []

/-! ## Global access (19 R359, R360, 20 R384) -/

/-- The object offset of lane `i` of a global access. -/
def laneOff (j : Job) (t : Nat) (off : Fin 4096) (i : Nat) : Nat := j.snap.gbase.toNat + 128 * off.val + i * tySize t

/-- Timed lanes of a row. -/
def addLanes (s : State) (j : Job) (far : Bool) (pcyc pos len : Nat) (vd : Fin 64) (t : Nat) (vs : List (Nat × Nat)) : State :=
  let sz := tySize t
  addPend s j far pcyc pos len
    (.bytes .acc (vs.flatMap (fun p => bytesFrom (rowOff j vd + p.1 * sz) (natBytes sz p.2))))

/-- Half `k` of a VLDG's row, in one piece, or lane by lane when the world brings some of it late. -/
def addHalf (s : State) (j : Job) (k pcyc : Nat) (vd : Fin 64) (t : Nat) (vs : List (Nat × Nat)) : State :=
  let sz := max 1 (tySize t)
  let own := vs.filter (fun p => p.1 * sz / 64 == k)
  if heldBy s j.eng j.entry (64 * k) 64 then
    (List.range (64 / sz)).foldl (fun s i =>
      let lane := 64 * k / sz + i
      addLanes s j true pcyc (lane * sz) sz vd t (own.filter (fun p => p.1 == lane))) s
  else addLanes s j true pcyc (64 * k) 64 vd t own

/-- The mask of a global access as its issue cycle found it. -/
def accessMask (s : State) (j : Job) (m : Fin 8) : List Byte :=
  if j.buf.isEmpty then natBytes 16 (maskBits s.core.eng m).toNat else j.buf

/-- A global access reaches the bytes of an element through its extent registers, resident or not (06 R157). -/
def touchElem (s : State) (j : Job) (g : Fin 4) (o : ObjEnt) (x sz : Nat) : State :=
  extTouch (extTouch s j (extG g) o x) j (extG g) o (x + sz - 1)

/-- The element of lane `i` of a VLDG, read at its home: its value, and whether it is flagged. One that lies in part in
a non-resident extent reads 0 and is flagged; none while it does not come, or where no extent covers it, which is a
translation fault (19 R360, 06 R157). -/
def vldgElem (s : State) (j : Job) (g : Fin 4) (t : Nat) (off : Fin 4096) (ob : ObjEnt) (i : Nat) : State × Option (Nat × Bool) :=
  let sz := tySize t
  let x := laneOff j t off i
  let o := objNow s ob
  let s := touchElem s j g o x sz
  match nonResident o x sz with
  | some y => if (extOf o y).isNone then (reportMiss s j o y (i * sz), none) else (s, some (0, true))
  | none =>
    let (s, rd) := engRead s j o x sz (i * sz)
    (s, rd.map (fun bs => (bytesNat bs, false)))

/-- The latency of a global access, and the cycle at which lane `i` of a VLDG performs (19 R360, R361). -/
def gLat (j : Job) : Nat := clsLat (bitsOf j.snap.gctl.toNat 49 47) (bitsOf j.snap.gctl.toNat 55 50)
def vldgCyc (j : Job) (t i : Nat) : Nat := j.iss + gLat j + i * tySize t / 64

/-- VLDG: each active lane's element is read at its home, and a lane whose element does not come yet holds no other one
back, nor the residency mask, which the first attempt forms (19 R361; `cnt` says that it has); `idx` keeps the lanes
that have come. The mask holds as it was in the issue cycle; no granule read in an earlier attempt is used again (10
R249). -/
def vldgRun (s : State) (j : Job) (vd : Fin 64) (g : Fin 4) (m : Fin 8) (t : Nat) (off : Fin 4096) (mr : Fin 8) : StepRes :=
  let mask := accessMask s j m
  let s := onJob s j.id (fun j => { j with buf := mask, gran := none })
  let sz := tySize t
  let on := if j.snap.objS.isSome then (List.range (lanes t)).filter (maskBit mask) else []
  let r := (on.filter (fun i => !j.idx.contains i)).foldl (fun (a : State × List (Nat × Nat) × List Nat) i =>
    match j.snap.objS.map (fun o => vldgElem a.1 j g t off o i) with
    | some (s, some (v, flag)) => (s, a.2.1 ++ [(i, v)], if flag then a.2.2 ++ [i] else a.2.2)
    | some (s, none) => (s, a.2)
    | none => a) (s, [], [])
  let vs := r.2.1
  let s := if mr = 0 ∨ j.cnt ≠ 0 then r.1
    else onJob (addPend r.1 j true (j.iss + gLat j + 1) 128 1 (.mask mr (maskOf r.2.2))) j.id (fun k => { k with cnt := 1 })
  if j.idx.isEmpty && vs.length == on.length then
    .done (addHalf (addHalf s j 0 (vldgCyc j t 0) vd t vs) j 1 (j.iss + gLat j + 1) vd t vs)
  else
    let s := vs.foldl (fun s p => addLanes s j true (vldgCyc j t p.1) (p.1 * sz) sz vd t [p]) s
    let s := onJob s j.id (fun k => { k with idx := j.idx ++ vs.map Prod.fst })
    if j.idx.length + vs.length < on.length then .stay s
    else .done (((List.range (lanes t)).filter (fun i => !on.contains i)).foldl (fun s i =>
      addLanes s j true (vldgCyc j t i) (i * sz) sz vd t []) s)

/-- A write of a VLDG whose data is requested again: the bytes of its lanes as their elements now read; the flags stay
(01 R36). -/
def vldgAgain (s : State) (j : Job) (vd : Fin 64) (g : Fin 4) (t : Nat) (off : Fin 4096) (w : PWrite) : State × Option PWrite :=
  match w, j.snap.objS with
  | .bytes st ws, some ob =>
    let sz := max 1 (tySize t)
    let laneOf := fun (a : Int) => (a.toNat - rowOff j vd) / sz
    let r := ((ws.map (fun p => laneOf p.1)).eraseDups).foldl (fun (a : State × Option (List (Nat × Nat))) i =>
      match a.2 with
      | none => a
      | some vs =>
        let r := vldgElem a.1 j g t off ob i
        (r.1, r.2.map (fun v => vs ++ [(i, v.1)]))) (onJob s j.id (fun j => { j with gran := none }), some [])
    (r.1, r.2.map (fun vs => .bytes st (ws.map (fun p =>
      let i := laneOf p.1
      match vs.find? (fun v => v.1 == i) with
      | some v => (p.1, (natBytes sz v.2).getD (p.1.toNat - rowOff j vd - i * sz) p.2)
      | none => p))))
  | w, _ => (s, some w)

/-- VSTG: the row and the mask are read at the issue cycle, and each active lane's element goes to its home; one in a
non-resident extent waits there for the base's answer (01 R25). -/
def vstgRun (s : State) (j : Job) (va : Fin 64) (g : Fin 4) (m : Fin 8) (t : Nat) (off : Fin 4096) : StepRes :=
  match j.snap.objS with
  | none => .done s
  | some o =>
    let sz := tySize t
    let row := memReadN s.core.eng.acc (rowOff j va) 128
    .done ((active s.core.eng m t).foldl (fun s i =>
      let x := laneOff j t off i
      let bs := (row.drop (i * sz)).take sz
      addTransit (touchElem s j g (objNow s o) x sz) j (i * sz) sz o.oid x (.bytes (bs.zipIdx.map (fun p => (x + p.2, p.1))))) s)

/-- The step of a vector command: everything is read at its issue cycle (19 R361). -/
def vecRun (s : State) (j : Job) : StepRes :=
  match j.cmd with
  | .vld _ vd m t off =>
    let (s, bs) := localRead s .vector .spad (128 * off.val : Nat) 128
    let vs := splitNats (tySize t.val) bs
    .done (addLanes s j false (j.iss + 2) 0 1 vd t.val ((active s.core.eng m t.val).map (fun i => (i, vs.getD i 0))))
  | .vst _ va m t off =>
    let vs := rowLanes s j va t.val
    let sz := tySize t.val
    .done (addPend s j false (j.iss + 2) 0 1 (.bytes .spad ((active s.core.eng m t.val).flatMap (fun i =>
      bytesFrom (128 * off.val + i * sz) (natBytes sz (vs.getD i 0))))))
  | .vldg _ vd g m t off mr => vldgRun s j vd g m t.val off mr
  | .vstg _ va g m t off => vstgRun s j va g m t.val off
  | _ => match vecResult s j with
    | .lanes vd t vs => .done (addLanes s j false (j.iss + vecD j.cmd) 0 1 vd t vs)
    | .mask mk v => .done (addPend s j false (j.iss + vecD j.cmd) 0 1 (.mask mk v))
    | .none => .done s

end Sys2Proof.Machine
end

