-- ==== Sys2Proof/Machine/Issue.lean ====
section
/-! DEFINITION. Machine/Issue.lean: the read steps of all engines, what late data can still free, and the issue of a command
(spec 01 R18 to R26, 04 R111, R406, 06 R149, 07 R171, 16 R334, 19 R362). -/

namespace Sys2Proof.Machine

/-! ## Read steps (01 R18 to R21) -/

/-- The bytes that the channel check of step `k` covers. -/
def stepReads (s : State) (j : Job) (k : Nat) : List Rng :=
  match j.eng with
  | .copy => copyReads s j k
  | .matrix => matReads j k
  | .vector => vecReads j

/-- What step `k` takes in of the core's stores before it forms bytes. -/
def stepRead (s : State) (j : Job) (k : Nat) : State :=
  match j.eng with
  | .copy => copyRead s j k
  | _ => s

/-- What step `k` forms. -/
def stepForm (s : State) (j : Job) (k : Nat) : StepRes :=
  match j.eng with
  | .copy => copyForm s j k
  | .matrix => matRun s j k
  | .vector => vecRun s j

/-! ## What late data frees (01 R25, R26, 06 R149, 15 R325) -/

/-- Forming the steps of a job that have been read, as far as their data comes, with fuel. -/
def formAll : Nat → State → Nat → State
  | 0, s, _ => s
  | n + 1, s, id =>
    match findJob s id with
    | none => s
    | some j =>
      if j.formed < j.step then
        match stepForm s j j.formed with
        | .done t => formAll n (onJob t id (fun k => { k with formed := j.formed + 1 })) id
        | .stay _ => s
      else s

/-- Whether a job is an SLFILL whose reads are due and wait for spill writes alone (15 R325). -/
def fillDue (s : State) (j : Job) : Bool :=
  match j.cmd with
  | .slfill _ _ _ => !j.done && j.step < j.nsteps && j.iss ≤ s.core.csr.scc
  | _ => false

/-- The machine as it would be, contents apart, if what the base still owes came at once: every write on its way has
landed, no channel fails and no core is gated, and what has been read is formed. -/
def allArrived (s : State) : State :=
  let s := onCores (onBase { s with holds := [] } (fun b => { b with vbus := [] })) (fun c => { c with gated := false })
  let s := onEng s (fun e => { e with
    transit := []
    jobs := e.jobs.map (fun j =>
      let j := e.transit.foldl (fun j t => if t.job = j.id then { j with perf := perfAdd j.perf t.pos t.len } else j) j
      if fillDue s j then { j with step := 1 } else j) })
  (s.core.eng.jobs.filter (fun j => !j.done && j.stop.isNone)).foldl (fun s j => formAll j.nsteps s j.id) s

/-- The machine as it would be once all late data has arrived and performed: what a step forms for an earlier cycle than
the held SCC is late data too. -/
def lateGone (s : State) : State :=
  let s := allArrived s
  let late := fun (p : Pend) => p.pcyc < s.core.csr.scc
  let s := onEng s (fun e => { e with
    pends := e.pends.filter (fun p => !late p)
    jobs := e.jobs.map (fun j => (e.pends.filter late).foldl (fun j p => if p.job = j.id then { j with perf := perfAdd j.perf p.pos p.len } else j) j) })
  onEng s (fun e => { e with jobs := e.jobs.map (fun j => if localDone e j then { j with held := 0 } else j) })

/-- The records that are then still in use: a write that is not formed yet, and not late, takes none. -/
def lateRecs (s : State) : Nat :=
  recsNow (onEng (lateGone s) (fun e => { e with pends := s.core.eng.pends.filter (fun p => s.core.csr.scc ≤ p.pcyc) }))

/-- Whether a copy could complete through late data alone (01 R26, 06 R149). -/
def lateCompletes (s : State) (j : Job) : Bool :=
  let g := lateGone s
  (findJob g j.id).any (fun k => localDone g.core.eng k && k.minDone ≤ s.core.csr.scc)

/-- The capacity step of an issue: room, a freeze that late data can end, or an unbounded wait. -/
inductive Room where
  | ok | freeze | never
deriving DecidableEq, Repr

/-- Room for a command's records, held bytes and channel (01 R26, 04 R111, 06 R149). -/
def room (s : State) (recs held : Nat) (ch : Option (Fin 4)) : Room :=
  let excess := recsNow s + recs - Config.maxRecords
  let data := heldNow s + held - Config.maxHeld
  let full := match ch with
    | none => false
    | some c => 15 ≤ chanCopies s.core.eng c
  if excess = 0 ∧ data = 0 ∧ full = false then .ok
  else if recsNow s - lateRecs s < excess ∨ heldNow s - heldNow (lateGone s) < data then .never
  else if full && !s.core.eng.jobs.any (fun j => chanOf j.cmd == ch && !j.done && lateCompletes s j) then .never
  else .freeze

/-! ## Issue (07 R171, 16 R334, 19 R362) -/

/-- What the issue of a command needs to know: whether its decode checks fail, whether it pops a format word, whether
the word or the state makes it illegal, its capability or slot fault, its job, and its effects at issue. -/
structure Prep where
  eng  : Eng
  bad  : Bool
  pop  : Bool
  bad2 : Bool
  flt  : Option CmdFault
  occ  : Nat
  job  : Job
  eff  : State → Job → State

/-- The issue itself: the job begins, HEAD advances, the slot counts, the word is popped, the effects take place. -/
def begin (s : State) (p : Prep) : State :=
  let k := engIdx p.eng
  let r := s.core.eng.rings[k]
  let h := cmdHdr p.job.cmd
  let j := { p.job with id := s.core.eng.nextJob + 1, entry := r.head, sset := h.sset, iss := s.core.csr.scc }
  let s := onEng s (fun e => { e with
    nextJob := e.nextJob + 1,
    jobs := e.jobs ++ [j],
    extJob := (extRegs j.cmd).foldl (fun v (q : Fin 20) => v.set q j.id) e.extJob,
    rings := e.rings.set k { r with head := r.head + 1, idle := false, nextIss := s.core.csr.scc + p.occ },
    fq := if p.pop then e.fq.tail else e.fq,
    slots := if 1 ≤ h.sset.val ∧ h.sset.val ≤ 11 then
        e.slots.set h.sset { e.slots[h.sset] with iss := (e.slots[h.sset]).iss + 1 } else e.slots,
    chans := match chanOf j.cmd with
      | some ch => e.chans.set ch { e.chans[ch] with issued := (e.chans[ch]).issued + j.npos }
      | none => e.chans })
  p.eff s j

/-- A command at its issue cycle: the checks in their order, then the issue. -/
def issue (s : State) (p : Prep) : Out :=
  let h := cmdHdr p.job.cmd
  let entry := (s.core.eng.rings[engIdx p.eng]).head.toNat
  let fault := fun (code sub aux : Nat) (bad : Word) => Host.Outcome.next (raiseEFault s ⟨code, sub, p.eng, aux, 0, bad⟩)
  if p.bad || 12 ≤ h.sset.val then fault 0x10 0 entry 0
  else if p.pop && (fmtHead s).isNone then
    if s.core.csr.schmode = 1 ∨ s.core.csr.schmode = 2 then .next (freezeCore s ⟨2, 0, p.eng, 0, s.gtc, none, 0, 0, none⟩)
    else fault 0x12 0 entry 0
  else if p.bad2 then fault 0x10 0 entry 0
  else if slotFails s h.schk && s.core.csr.schmode != 2 then
    .next (checkMissed s p.eng h.schk entry 0 none (slotSetters s h.schk.val) none)
  else match p.flt with
    | some f => fault f.code f.sub (f.aux.getD entry) f.bad
    | none =>
      if !portOk s p.job then fault 0x11 5 entry 0
      else match room s (recUse s p.job) p.job.held (chanOf p.job.cmd) with
        | .ok => .next (begin s p)
        | .never => fault 0x11 3 entry 0
        | .freeze => .next (freezeCore s ⟨5, 0, p.eng, 0, s.gtc, none, recUse s p.job, p.job.held, chanOf p.job.cmd⟩)

end Sys2Proof.Machine
end

