-- ==== Sys2Proof/Machine/Copy.lean ====
section
/-! DEFINITION. Machine/Copy.lean: the issue of the copy engine's commands (spec 07 R169 to R190, 06 R153 to R164, 02 R48 to
R50). -/

namespace Sys2Proof.Machine

/-! ## Checks at issue -/

/-- The checks of 06 R154, R155, R160 and 07 R170 on one stream; DIGEST and indirect streams only where admitted. -/
def strmOk (t : Strm) (digest linked : Bool) : Bool :=
  t.space ≤ 5 && clsAdmits t.cls t.space && strmLen t ≤ 2 ^ 40 && (digest || t.space != 5) &&
  (!t.lnk || (linked && t.cnt1 == 1 && t.cnt2 == 1 && t.esz != 7))

/-- The checks on the index stream `l` of an indirect stream in register `q` (06 R155). -/
def linkOk (t l : Strm) (q : Nat) : Bool :=
  !t.lnk || (t.lq != q && strmOk l false false && l.space == 0 && t.cnt0 * 2 ^ t.isz ≤ strmLen l)

/-- The snapshot of a copy: the descriptors it reads, their capabilities, and the barrier's (07 R171). -/
def copySnap (s : State) (qd qs qx : Fin 16) : Snap :=
  let q := s.core.eng.qs
  let cap := fun (d : Desc) => s.core.seq.c[Fin.ofNat 16 (strm d).creg]
  { snap0 s with
    qd := q[qd], qs := q[qs], qx := q[qx],
    lqd := q[Fin.ofNat 16 (strm q[qd]).lq], lqs := q[Fin.ofNat 16 (strm q[qs]).lq],
    capD := cap q[qd], capS := cap q[qs], capX := cap q[qx],
    capB := s.core.seq.c[Fin.ofNat 16 (strm q[qd]).bcreg],
    objD := findObj s (capOid (cap q[qd])), objS := findObj s (capOid (cap q[qs])), objX := findObj s (capOid (cap q[qx])) }

/-- The capability check of a base stream at issue (06 R156): of a direct one over the range of its addresses. Of
elements and rows, whose addresses no range gives yet, all but the bounds is checked at issue; each is checked when its
index arrives. -/
def checkStrm (s : State) (t : Strm) (c : Cap) (need : BitVec 8) (direct : Bool := !t.lnk) : Option CmdFault :=
  if (strmStore t).isSome then none
  else
    let a := ((t.cnt1 - 1 : Nat) : Int) * t.str1
    let b := ((t.cnt2 - 1 : Nat) : Int) * t.str2
    let lo := (t.base : Int) + min 0 a + min 0 b
    let hi := (t.base : Int) + max 0 a + max 0 b + t.cnt0
    match engCheck s c t.creg (if direct then lo else t.base) (if !direct || strmLen t = 0 then 0 else (hi - lo).toNat) need
        (objSpace t) with
    | .error f => some f
    | .ok _ => none

/-- The check of a digest stream over the blocks it names, CNT0 of them in a run (07 R184, R189). -/
def checkDigest (s : State) (t : Strm) (c : Cap) (need : BitVec 8) : Option CmdFault :=
  let b := match findObj s (capOid c) with
    | some o => if dcfgEn o.dcfg then dcfgB o.dcfg else 1
    | none => 1
  let d1 := ((t.cnt1 - 1 : Nat) : Int) * t.str1
  let d2 := ((t.cnt2 - 1 : Nat) : Int) * t.str2
  let lo := (t.base : Int) + min 0 d1 + min 0 d2
  let hi := (t.base : Int) + max 0 d1 + max 0 d2 + (t.cnt0 * b : Nat)
  match engCheck s c t.creg lo (if t.cnt0 = 0 then 0 else (hi - lo).toNat) need none with
  | .error f => some f
  | .ok _ => none

/-- The check of the barrier that a BC copy names (06 R164). -/
def checkBar (s : State) (j : Job) : Option CmdFault :=
  if jobBc j.cmd then
    match engCheck s j.snap.capB (jD j).bcreg (jD j).boff 16 permA none with
    | .error f => some f
    | .ok _ => none
  else none

/-- The base objects of a copy's streams and of its barrier enter the translation cache at its issue (04 R103). -/
def touchEnds (s : State) (j : Job) : State :=
  let t := fun (s : State) (d : Strm) (c : Cap) => if (strmStore d).isSome then s else touchObj s (capOid c) (c.bits.getLsbD 103)
  let s := t (t s (jD j) j.snap.capD) (jS j) j.snap.capS
  let s := match j.cmd with
    | .topkr _ _ _ _ _ _ _ _ | .topkc _ _ _ _ _ _ _ | .topkcTab _ _ _ _ _ _ _ _ => t s (jX j) j.snap.capX
    | _ => s
  if jobBc j.cmd then touchObj s (capOid j.snap.capB) (j.snap.capB.bits.getLsbD 103) else s

/-- The issue of a copy command: its own illegality, its own capability faults after the streams', and its steps. -/
def copyIssue (s : State) (cmd : Instr) (n : Snap) (nsteps : Nat) (bad : Bool) (flts : List (Option CmdFault)) : Out :=
  let j := job0 .copy cmd n nsteps
  issue s {
    eng := .copy, pop := false, bad2 := false, occ := 1, job := j,
    bad := bad || (jobBc cmd && !(jD j).bval),
    flt := (flts ++ [checkBar s j]).findSome? id,
    eff := touchEnds }

/-! ## Entries of any engine (02 R48, R50) -/

/-- An ALIGN entry issues only at its segment's release (01 R13), which SALIGN performs; by itself it waits. -/
def execAlign (_e : Eng) (_n : Fin 64) (s : State) : Out := .next s

/-- A hint executes as its engine's NOP, and a slot set of 12 to 15 sets nothing (02 R50). -/
def execEngineHint (e : Eng) (h : Hdr) (k : Fin 16) (s : State) : Out :=
  let h' : Hdr := if 12 ≤ h.sset.val then { h with sset := 0 } else h
  issue s { eng := e, bad := false, pop := false, bad2 := false, flt := none, occ := 1,
            job := job0 e (.engineHint e h' k) (snap0 s) 0, eff := fun s _ => s }

/-- An engine NOP (02 R49). -/
def nopIssue (s : State) (e : Eng) (cmd : Instr) : Out :=
  issue s { eng := e, bad := false, pop := false, bad2 := false, flt := none, occ := 1,
            job := job0 e cmd (snap0 s) 0, eff := fun s _ => s }

/-! ## The copy commands -/

/-- CNOP (07 R174). -/
def execCnop (h : Hdr) (s : State) : Out := nopIssue s .copy (.cnop h)

/-- QLD (07 R175). -/
def execQld (h : Hdr) (qd : Fin 16) (off : Fin 65536) (s : State) : Out :=
  issue s { eng := .copy, bad := false, pop := false, bad2 := false, flt := none, occ := 1,
            job := job0 .copy (.qld h qd off) (snap0 s) 1, eff := fun s _ => s }

/-- CPY (07 R176). -/
def execCpy (h : Hdr) (ch : Fin 4) (qd qs : Fin 16) (bc : Bool) (s : State) : Out :=
  let n := copySnap s qd qs 0
  let j := job0 .copy (.cpy h ch qd qs bc) n 0
  let d := jD j
  let t := jS j
  copyIssue s j.cmd n (linkLag j + max 1 (ceilDiv (strmLen d) (copyW j)))
    (!(strmOk d false true && strmOk t false true && linkOk d (jLD j) qd.val && linkOk t (jLS j) qs.val && strmLen d == strmLen t))
    [checkStrm s t n.capS permR, checkStrm s d n.capD permW]

/-- FILL (07 R177). -/
def execFill (h : Hdr) (ch : Fin 4) (qd : Fin 16) (bc : Bool) (poff : Fin 524288) (s : State) : Out :=
  let n := copySnap s qd qd 0
  let j := job0 .copy (.fill h ch qd bc poff) n 0
  let d := jD j
  copyIssue s j.cmd n (linkLag j + max 1 (ceilDiv (strmLen d) (copyW j)))
    (!(strmOk d false true && linkOk d (jLD j) qd.val)) [checkStrm s d n.capD permW]

/-- The requirements of 07 R178 on the table, the index stream and the dense stream. -/
def rowsOk (tab x dense : Strm) : Bool :=
  tab.space ≤ 4 && clsAdmits tab.cls tab.space && !tab.lnk && 1 ≤ tab.cnt0 && tab.cnt0 ≤ 65536 &&
  strmOk x false false && x.space == 0 && tyUnsigned x.ty && strmLen x % max 1 (tySize x.ty) == 0 && rowCount x ≤ 2 ^ 32 &&
  strmOk dense false false && strmLen dense == rowCount x * tab.cnt0

/-- The issue of GATHER, SCATTER and SCATADD. -/
def rowsIssue (s : State) (cmd : Instr) (qd qs qx : Fin 16) (more : Job → Bool) : Out :=
  let n := copySnap s qd qs qx
  let j := job0 .copy cmd n 0
  let n' : Snap := if isGather cmd then { n with objS := none } else { n with objD := none }
  let cnt := rowCount (jX j)
  copyIssue s cmd n' (if cnt = 0 then 1 else cnt * rowR j + 2)
    (!(rowsOk (rowTab j) (jX j) (rowDense j) && more j))
    (if isGather cmd then [checkStrm s (jS j) n.capS permR false, checkStrm s (jD j) n.capD permW]
    else [checkStrm s (jS j) n.capS permR, checkStrm s (jD j) n.capD (rowDst j qd).need false])

/-- GATHER (07 R178). -/
def execGather (h : Hdr) (ch : Fin 4) (qd qs qx : Fin 16) (bc : Bool) (s : State) : Out :=
  rowsIssue s (.gather h ch qd qs qx bc) qd qs qx (fun _ => true)

/-- SCATTER (07 R178). -/
def execScatter (h : Hdr) (ch : Fin 4) (qd qs qx : Fin 16) (bc : Bool) (s : State) : Out :=
  rowsIssue s (.scatter h ch qd qs qx bc) qd qs qx (fun _ => true)

/-- The element types of SCATADD (07 R179). -/
def addable (t : Nat) : Bool := t ≤ 3 || tyInt t

/-- SCATADD (07 R179). -/
def execScatadd (h : Hdr) (ch : Fin 4) (qd qs qx : Fin 16) (bc : Bool) (s : State) : Out :=
  rowsIssue s (.scatadd h ch qd qs qx bc) qd qs qx (fun j =>
    (jD j).ty == (jS j).ty && addable (jD j).ty && (jD j).cnt0 % max 1 (tySize (jD j).ty) == 0)

/-- The requirements of TOPKR and TOPKC (07 R180). -/
def topOk (cmd : Instr) (d t x : Strm) : Bool :=
  let sz := max 1 (tySize t.ty)
  let kk := topkK cmd
  let groups := match cmd with
    | .topkr _ _ _ _ _ _ _ _ => t.cnt1 * t.cnt2
    | _ => t.cnt0 / sz
  strmOk t false false && strmOk d false false && strmOk x false false && t.ty != 6 && t.ty != 15 && t.cnt0 % sz == 0 &&
  d.ty == t.ty && x.ty == 13 && 1 ≤ kk && strmLen d == groups * kk * sz && strmLen x == groups * kk * 4

/-- The issue of TOPKR and TOPKC. -/
def topIssue (s : State) (cmd : Instr) (qd qs qx : Fin 16) (limits : State → Job → List Nat) (ok : Job → Bool) : Out :=
  let n := copySnap s qd qs qx
  let j := job0 .copy cmd n 0
  let t := jS j
  copyIssue s cmd { n with limits := limits s j }
    (max 1 (ceilDiv (strmLen t) (copyW j)))
    (!(topOk cmd (jD j) t (jX j) && ok j))
    [checkStrm s t n.capS permR, checkStrm s (jD j) n.capD permW, checkStrm s (jX j) n.capX permW]

/-- TOPKR; MOD[0] = 1 is illegal (07 R170, R180). -/
def execTopkr (h : Hdr) (ch : Fin 4) (qd qs qx : Fin 16) (bc tab : Bool) (k : Fin 65536) (s : State) : Out :=
  topIssue s (.topkr h ch qd qs qx bc tab k) qd qs qx (fun _ _ => []) (fun _ => !tab)

/-- TOPKC (07 R180). -/
def execTopkc (h : Hdr) (ch : Fin 4) (qd qs qx : Fin 16) (bc : Bool) (k : Fin 65536) (s : State) : Out :=
  topIssue s (.topkc h ch qd qs qx bc k) qd qs qx (fun _ _ => []) (fun _ => true)

/-- The LIMITs of the partition's capacity table for the columns of a TOPKC.tab, read at its issue (06 R166, 07 R181).
-/
def tableLimits (s : State) (j : Job) (e0 kcap : Nat) : List Nat :=
  let cols := (jS j).cnt0 / max 1 (tySize (jS j).ty)
  match (s.base.objs.find? (fun o => o.role == .capTable s.core.csr.pid)).bind (fun o => paOf o 0) with
  | none => List.replicate cols 0
  | some pa => (List.range cols).map (fun c => min (memNat s.base.mem (pa + 8 * (e0 + c)) 2) kcap)

/-- TOPKC.tab (07 R181). -/
def execTopkcTab (h : Hdr) (ch : Fin 4) (qd qs qx : Fin 16) (bc : Bool) (e0 : Fin 4096) (kcap : Fin 512) (s : State) : Out :=
  let cmd := Instr.topkcTab h ch qd qs qx bc e0 kcap
  topIssue s cmd qd qs qx (fun s j => tableLimits s j e0.val (topkK cmd))
    (fun j => e0.val + (jS j).cnt0 / max 1 (tySize (jS j).ty) ≤ 4096)

/-- The requirements of COMPACT and EXPAND (07 R182). -/
def packOk (j : Job) : Bool :=
  let u := packWide j
  let sz := tySize u.ty
  strmOk (jD j) false false && strmOk (jS j) false false && strmOk (jX j) false false && sz != 0 && (jX j).space == 0 &&
  ceilDiv (strmLen u / max 1 sz) 8 ≤ strmLen (jX j)

/-- The issue of COMPACT and EXPAND. -/
def packIssue (s : State) (cmd : Instr) (qd qs qx : Fin 16) : Out :=
  let n := copySnap s qd qs qx
  let j := job0 .copy cmd n 0
  copyIssue s cmd n (max 1 (ceilDiv (strmLen (packWide j)) (copyW j))) (!packOk j)
    [checkStrm s (jS j) n.capS permR, checkStrm s (jD j) n.capD permW]

/-- COMPACT (07 R182). -/
def execCompact (h : Hdr) (ch : Fin 4) (qd qs qx : Fin 16) (bc : Bool) (coff : Fin 524288) (s : State) : Out :=
  packIssue s (.compact h ch qd qs qx bc coff) qd qs qx

/-- EXPAND (07 R182). -/
def execExpand (h : Hdr) (ch : Fin 4) (qd qs qx : Fin 16) (bc z : Bool) (s : State) : Out :=
  packIssue s (.expand h ch qd qs qx bc z) qd qs qx

/-- The requirements of ACCRD and ACCWR: an accumulator side, another side, equal element counts (07 R183). -/
def accOk (a o : Strm) : Bool :=
  strmOk a false false && strmOk o false false && a.space == 1 && (a.ty == 0 || a.ty == 1 || a.ty == 9) &&
  o.space != 1 && tySize o.ty != 0 && strmLen a % tySize a.ty == 0 && strmLen o % tySize o.ty == 0 &&
  strmLen a / tySize a.ty == strmLen o / tySize o.ty

/-- The issue of ACCRD and ACCWR. -/
def accIssue (s : State) (cmd : Instr) (qd qs : Fin 16) (rd : Bool) : Out :=
  let n := copySnap s qd qs 0
  let j := job0 .copy cmd n 0
  let m := strmLen (jS j) / max 1 (tySize (jS j).ty)
  copyIssue s cmd n (max 1 (ceilDiv m (max 1 (accE j)))) (!(if rd then accOk (jS j) (jD j) else accOk (jD j) (jS j)))
    [checkStrm s (jS j) n.capS permR, checkStrm s (jD j) n.capD permW]

/-- ACCRD (07 R183). -/
def execAccrd (h : Hdr) (ch : Fin 4) (qd qs : Fin 16) (bc : Bool) (rm : Fin 4) (s : State) : Out :=
  accIssue s (.accrd h ch qd qs bc rm) qd qs true

/-- ACCWR (07 R183). -/
def execAccwr (h : Hdr) (ch : Fin 4) (qd qs : Fin 16) (bc : Bool) (rm : Fin 4) (acc : Bool) (s : State) : Out :=
  accIssue s (.accwr h ch qd qs bc rm acc) qd qs false

/-- The requirements on a digest source stream (07 R184). -/
def digestOk (s : State) (t : Strm) (c : Cap) : Bool :=
  strmOk t true false && t.space == 5 && (t.cls == 4 || t.cls == 5) && t.cnt1 == 1 && t.cnt2 == 1 &&
  match findObj s (capOid c) with
  | some o => !dcfgEn o.dcfg || t.base % dcfgB o.dcfg == 0
  | none => true

/-- DSCAN (07 R184). -/
def execDscan (h : Hdr) (ch : Fin 4) (qd qs : Fin 16) (bc : Bool) (s : State) : Out :=
  let n := copySnap s qd qs 0
  let j := job0 .copy (.dscan h ch qd qs bc) n 0
  copyIssue s j.cmd n (max 1 (ceilDiv (jS j).cnt0 2))
    (!(digestOk s (jS j) n.capS && strmOk (jD j) false false && (jD j).space == 0 && strmLen (jD j) == 32 * (jS j).cnt0))
    [checkDigest s (jS j) n.capS permQ]

/-- The predicate record of a DSKIP as it stands at its issue: an OP above 8, or of another kind than the region's, is
illegal (07 R185). -/
def predOk (s : State) (o : Option ObjEnt) (poff : Nat) : Bool :=
  let b := memReadN s.core.eng.spad (16 * poff) 16
  predOp b ≤ 8 && match o with
  | some o => !dcfgEn o.dcfg || (match predKind (predOp b) with
      | some k => dcfgKind o.dcfg == k
      | none => true)
  | none => true

/-- The stream space of an object, for a timing class. -/
def streamSpace (o : Option ObjEnt) : Nat := ((o.map (fun o => o.space.val)).getD 0) + 1

/-- DSKIP (07 R185 to R187). -/
def execDskip (h : Hdr) (ch : Fin 4) (qd qs qx : Fin 16) (bc : Bool) (dcls : Fin 8) (poff : Fin 524288) (s : State) : Out :=
  let n := copySnap s qd qs qx
  let j := job0 .copy (.dskip h ch qd qs qx bc dcls poff) n 0
  let r := (n.objS.map skipR).getD 1
  copyIssue s j.cmd n ((((jS j).cnt0 - 1) * r) + 1)
    (!(digestOk s (jS j) n.capS && strmOk (jD j) false false && strmOk (jX j) false false && (jX j).space == 0 &&
      8 + 4 * (jS j).cnt0 ≤ strmLen (jX j) && 2 ≤ dcls.val && (n.objS.isNone || clsAdmits dcls.val (streamSpace n.objS)) &&
      predOk s n.objS poff.val))
    [checkDigest s (jS j) n.capS (permQ ||| permR), checkStrm s (jD j) n.capD permW]

/-! ## PREFETCH, EVICT, CHKARM (07 R189, R190) -/

/-- A PREFETCH or EVICT reaches the offsets of its range: its stream's extent registers follow (06 R157, 07 R171). -/
def touchRange (s : State) (j : Job) (qs : Fin 16) : State :=
  match j.snap.objS with
  | none => s
  | some o =>
    let offs := if (jS j).space = 5 then (rangeBlocks (jS j) o).map (fun b => b * dcfgB o.dcfg) else rangeOffs (jS j)
    offs.foldl (fun s a => extTouch s j (extQ qs) o a) s

/-- The requirements of PREFETCH and EVICT, and their range check. -/
def rangeIssue (s : State) (cmd : Instr) (qs : Fin 16) (eff : State → Job → State) : Out :=
  let n := copySnap s qs qs 0
  let j := job0 .copy cmd n 0
  let t := jS j
  let need := if t.space = 5 then permQ else permR
  issue s {
    eng := .copy, pop := false, bad2 := false, occ := 1, job := { j with npos := 0 },
    bad := !(strmOk t true false && (t.space == 3 || t.space == 4 || t.space == 5)),
    flt := if t.space = 5 then checkDigest s t n.capS need else checkStrm s t n.capS need,
    eff := fun s j => eff (touchRange (touchEnds s j) j qs) j }

/-- The bytes of the region that a PREFETCH or EVICT names: for DIGEST those of the blocks (07 R189). -/
def rangeBytes (t : Strm) (o : ObjEnt) : List (Int × Nat) :=
  if t.space = 5 then (rangeBlocks t o).map (fun b => (((b * dcfgB o.dcfg : Nat) : Int), dcfgB o.dcfg))
  else (pieces (directView t 0) 0 (strmLen t)).map (fun p => (p.1, p.2.2))

/-- With .res, extents of the range that are not resident are asked for, once each (07 R189). -/
def askResident (s : State) (j : Job) (o : ObjEnt) : State :=
  let ps := rangeBytes (jS j) o
  ((o.exts.zip (extEnds o.exts 0)).foldl (fun s e =>
    if !e.1.res && ps.any (fun p => (e.2 : Int) < p.1 + (p.2 : Int) && p.1 < ((e.2 + e.1.npg * 4096 : Nat) : Int)) then
      logEvent s 1 (o.oid.toNat * 2 ^ 40 + e.2) (dieOf s.core.id).val s.core.csr.pid.val
    else s) s)

/-- The lines of its range that a PREFETCH fills, by a request for each line: what no resident extent holds is skipped,
for DIGEST the digest of each block that reaches such bytes (07 R189, 09 R209, R211). -/
def fillRange (s : State) (t : Strm) (o : ObjEnt) : State :=
  let pid := s.core.csr.pid
  if t.space = 5 then
    ((rangeBlocks t o).filter (fun b => (nonResident o (b * dcfgB o.dcfg) (min (dcfgB o.dcfg) (o.len - b * dcfgB o.dcfg))).isNone)).foldl (fun s b =>
      (digLines (serve s (digHome o b) 0 16 pid .request none) o b s.core.id pid false).1) s
  else
    (rangeLines t o).foldl (fun s l =>
      (wayRead (serve s l.1 0 256 pid .request none) l.1 1 (chanAt l.1 (l.2 * 256)) (l.2 * 256) 256 s.core.id pid).1) s

/-- PREFETCH fills the cache or digest ways, and with .res asks for the extents that are not resident (07 R189); a line
whose channel carries a failing transfer is filled when that ends (08 R192). -/
def execPrefetch (h : Hdr) (qs : Fin 16) (res : Bool) (s : State) : Out :=
  rangeIssue s (.prefetch h qs res) qs (fun s j =>
    match j.snap.objS with
    | none => s
    | some o =>
      let s := fillRange s (jS j) o
      if res then askResident s j o else s)

/-- EVICT writes back the lines of its range, now and when it completes: at its formula cycle, or when the last
write-back is acknowledged if that is later (07 R189). -/
def execEvict (h : Hdr) (qs : Fin 16) (inv : Bool) (s : State) : Out :=
  rangeIssue s (.evict h qs inv) qs (fun s j =>
    let s := evictLines s j false
    onJob s j.id (fun j => { j with minDone := s.core.csr.scc + strmLat (jS j) + ceilDiv (strmLen (jS j)) 64 }))

/-- CHKARM sets a checker at the end of its cycle (07 R190). -/
def execChkarm (h : Hdr) (qs : Fin 16) (off clr : Bool) (k : Fin 4) (s : State) : Out :=
  let n := copySnap s qs qs 0
  let j := job0 .copy (.chkarm h qs off clr k) n 0
  let t := jS j
  let lim := if t.space = 0 then 0x400000 else 0x200000
  issue s {
    eng := .copy, pop := false, bad2 := false, occ := 1, job := { j with npos := 0 }, flt := none, eff := fun s _ => s,
    bad := !off && !(strmOk t false false && t.space ≤ 1 && t.cnt1 == 1 && t.cnt2 == 1 && t.cnt0 ≤ lim) }

end Sys2Proof.Machine
end

