-- ==== Sys2Proof/Machine/Matrix.lean ====
section
/-! DEFINITION. Machine/Matrix.lean: slot allocation, spills, and the issue of the matrix engine's commands (spec 15 R315 to
R333, 16 R334 to R350). -/

namespace Sys2Proof.Machine

/-! ## Slots (15 R322, R323) -/

/-- The slot that holds a label. -/
def slotOf (t : Tile) (l : Fin 256) : Option (Fin 8) := (List.finRange 8).find? (fun i => t.slots[i] == some l)

/-- The lowest free slot. -/
def freeSlot (t : Tile) : Option (Fin 8) := (List.finRange 8).find? (fun i => (t.slots[i]).isNone)

/-- Whether a label is spilled. -/
def isSpilled (t : Tile) (l : Fin 256) : Bool := t.spilled.getLsbD l.val

/-- A slot becomes the most recent in the use order. -/
def useSlot (t : Tile) (sl : Fin 8) : Tile := { t with use := sl :: t.use.filter (fun x => x != sl) }

/-- A slot takes a label and becomes the most recent. -/
def mapSlot (t : Tile) (sl : Fin 8) (l : Fin 256) : Tile := useSlot { t with slots := t.slots.set sl (some l) } sl

/-- A slot becomes free. -/
def freeOne (t : Tile) (sl : Fin 8) : Tile :=
  { t with slots := t.slots.set sl none, use := t.use.filter (fun x => x != sl) }

/-- Adding a label to the spilled set, or removing it. -/
def setSpilled (t : Tile) (l : Fin 256) (on : Bool) : Tile :=
  let b := BitVec.ofNat 256 (2 ^ l.val)
  { t with spilled := if on then t.spilled ||| b else t.spilled &&& ~~~b }

/-- The 128 row ranges of a slot. -/
def slotRngs (tile : Fin 16) (sl : Fin 8) : List (Nat × Nat) := (List.range 128).map (fun r => (slotOff tile.val r sl.val, 128))

/-- Whether some command in flight still writes into a slot. -/
def slotBusy (s : State) (tile : Fin 16) (sl : Fin 8) : Bool :=
  (slotRngs tile sl).any (fun r => s.core.eng.jobs.any (fun j => jobOwes s.core.eng j false (.acc, (r.1 : Int), r.2)))

/-- The victim of a spill: the least recent slot that no write is pending to. -/
def victim (s : State) (tile : Fin 16) : Option (Fin 8) :=
  ((s.core.eng.tiles[tile]).use.reverse).find? (fun sl => !slotBusy s tile sl)

/-- The spill record of a label of a tile: its object, or the fault of 15 R324. -/
def spillRecord (s : State) (tile : Fin 16) (l : Fin 256) (need : BitVec 8) : Except CmdFault ObjEnt :=
  let mx := s.core.eng.eff.mxspill
  let off := recordOff mx tile.val l.val
  let bad : Except CmdFault ObjEnt := .error ⟨0x14, 3, none, word off⟩
  let creg := bitsOf mx.toNat 63 60
  let cls := bitsOf mx.toNat 59 57
  if bitsOf mx.toNat 47 40 < l.val ∨ (cls ≠ 2 ∧ cls ≠ 3) then bad
  else match engCheck s (s.core.seq.c[Fin.ofNat 16 creg]) creg off 16384 need (some 1) with
    | .error _ => bad
    | .ok o => .ok o

/-- A slot-overflow fault. -/
def slotFault (sub : Nat) (l : Fin 256) : CmdFault := ⟨0x14, sub, none, word l.val⟩

/-- How a slot is found: mapped already, free, or freed by a spill of its label to a record. -/
inductive Alloc where
  | have (sl : Fin 8)
  | take (sl : Fin 8)
  | evict (sl : Fin 8) (l : Fin 256) (o : ObjEnt)
deriving DecidableEq, Repr

/-- The slot of an allocation. -/
def Alloc.slot : Alloc → Fin 8
  | .have sl => sl
  | .take sl => sl
  | .evict sl _ _ => sl

/-- Finding the slot of a label for MMA, MMAT and MMAZ (15 R322). -/
def allocate (s : State) (tile : Fin 16) (l : Fin 256) (f : Word) : Except CmdFault Alloc :=
  let t := s.core.eng.tiles[tile]
  match slotOf t l with
  | some sl => .ok (.have sl)
  | none =>
    if isSpilled t l then .error (slotFault 2 l)
    else match freeSlot t with
      | some sl => .ok (.take sl)
      | none =>
        if fwSPF f then .error (slotFault 1 l)
        else match victim s tile with
          | none => .error (slotFault 4 l)
          | some sl => match t.slots[sl] with
            | none => .error (slotFault 4 l)
            | some v => match spillRecord s tile v permW with
              | .error e => .error e
              | .ok o => .ok (.evict sl v o)

/-- Changing a tile's state. -/
def onTile (s : State) (tile : Fin 16) (f : Tile → Tile) : State :=
  onEng s (fun e => { e with tiles := e.tiles.set tile (f e.tiles[tile]) })

/-- The spill object of a command enters the translation cache (04 R103). -/
def touchSpill (s : State) (j : Job) (o : ObjEnt) : State :=
  touchObj s o.oid ((s.core.seq.c[Fin.ofNat 16 (bitsOf j.snap.mxspill.toNat 63 60)]).bits.getLsbD 103)

/-- A spill: the slot's rows as they read now go to their record, and the slot is freed (15 R323). No slot counts the
record's writes; they keep the command's ring entry for a fault at their home. -/
def spillSlot (s : State) (j : Job) (tile : Fin 16) (sl : Fin 8) (l : Fin 256) (o : ObjEnt) : State :=
  let off := recordOff j.snap.mxspill tile.val l.val
  let s := (List.range 64).foldl (fun (s : State) (c : Nat) =>
    let bs := (List.range 2).flatMap (fun h => memReadN s.core.eng.acc (slotOff tile.val (2 * c + h) sl.val) 128)
    addTransit s { j with id := 0 } (256 * c) 256 o.oid (off + 256 * c) (.bytes (bs.zipIdx.map (fun p => (off + 256 * c + p.2, p.1)))))
    (touchSpill s j o)
  onTile s tile (fun t => setSpilled (freeOne t sl) l true)

/-- A slot is cleared at the issue cycle (15 R322). -/
def clearSlot (s : State) (j : Job) (tile : Fin 16) (sl : Fin 8) : State :=
  addPend s j false j.iss 0 0 (.zero (slotRngs tile sl))

/-- Taking the slot that an allocation found. -/
def takeAlloc (s : State) (j : Job) (tile : Fin 16) (l : Fin 256) (a : Alloc) : State :=
  match a with
  | .have sl => onTile s tile (fun t => useSlot t sl)
  | .take sl => onTile (clearSlot s j tile sl) tile (fun t => mapSlot t sl l)
  | .evict sl v o => onTile (clearSlot (spillSlot s j tile sl v o) j tile sl) tile (fun t => mapSlot t sl l)

/-! ## Issue (16 R334) -/

/-- The issue of a matrix command: decode limits, whether it pops, state checks, slot fault, occupancy, effects. -/
def matIssue (s : State) (j : Job) (bad pop bad2 : Bool) (flt : Option CmdFault) (occ : Nat) (eff : State → Job → State) : Out :=
  issue s { eng := .matrix, bad := bad, pop := pop, bad2 := bad2, flt := flt, occ := occ, job := j, eff := eff }

/-- A matrix job. -/
def matJob (s : State) (cmd : Instr) (nsteps : Nat) : Job := job0 .matrix cmd (snap0 s) nsteps

/-- MNOP (16 R338). -/
def execMnop (h : Hdr) (s : State) : Out := nopIssue s .matrix (.mnop h)

/-- WLOAD (16 R339). -/
def execWload (h : Hdr) (spa : Fin 16384) (we : Fin 128) (s : State) : Out :=
  let tb := fwTB (snap0 s).fmt
  let n := wloadSteps tb
  matIssue s (matJob s (.wload h spa we) n) false true (!weightType tb) none n (fun s _ => s)

/-- The bytes of a Sylvester block (15 R331). -/
def sylvester (t n kb cb : Nat) : List Byte :=
  (List.range (weightK t)).flatMap (fun k => (List.range (weightN t)).flatMap (fun c =>
    let r := kb * weightK t + k
    let q := cb * weightN t + c
    let v : XVal := if n ≤ r ∨ n ≤ q then .zero .pos
      else if (List.range 8).countP (fun i => (r &&& q).testBit i) % 2 = 0 then .fin 1 0 else .fin (-1) 0
    natBytes (tySize t) (convTo 0 t v)))

/-- WCONST (15 R331, 16 R340). -/
def execWconst (h : Hdr) (ty : Fin 16) (we : Fin 128) (ord : Fin 4) (cb kb : Fin 8) (s : State) : Out :=
  let n := 16 * 2 ^ ord.val
  let t := ty.val
  matIssue s (matJob s (.wconst h ty we ord cb kb) 0)
    (!(weightType t && t != 6 && kb.val * weightK t < n && cb.val * weightN t < n)) false false none 1
    (fun s j => addPend s j false j.iss 0 0 (.weight we (sylvester t n kb.val cb.val) [] ty))

/-- WFREE (16 R341). -/
def execWfree (h : Hdr) (we : Fin 128) (s : State) : Out :=
  matIssue s (matJob s (.wfree h we) 0) false false false none 1
    (fun s j => addPend s j false j.iss 0 0 (.weight we [] [] 15))

/-- The state checks of MMA, MMAT and MMAZ (16 R342). -/
def mmaBad (s : State) (tile : Fin 16) (we : Fin 128) (n : Nat) (f : Word) : Bool :=
  let t := (s.core.eng.tiles[tile]).ttype.val
  !(tripleOk f && s.core.eng.wtag[we] == some (Fin.ofNat 16 (fwTB f)) && fwRow0 f + n ≤ 128 && (t == 15 || t == fwTC f))

/-- The issue of MMA, MMAT and MMAZ: the slot is found, taken, and the tile takes the accumulator type (15 R322). They
complete no earlier than their formula cycle (16 R337). -/
def mmaIssue (s : State) (cmd : Instr) (tile : Fin 16) (we : Fin 128) (lbl : Fin 256) (n lead : Nat) : Out :=
  let f := (snap0 s).fmt
  let a := allocate s tile lbl f
  let sn := { snap0 s with slot := match a with
    | .ok x => x.slot
    | .error _ => 0 }
  let flt := match a with
    | .ok _ => none
    | .error e => some e
  let steps := match cmd with
    | .mmaz _ _ _ _ _ _ => n + 1
    | _ => lead + n
  matIssue s (job0 .matrix cmd sn steps) false true (mmaBad s tile we n f) flt (lead + n) (fun s j =>
    let s := match a with
      | .ok x => takeAlloc s j tile lbl x
      | .error _ => s
    let s := onTile s tile (fun t => { t with ttype := Fin.ofNat 16 (fwTC f) })
    onJob s j.id (fun j => { j with minDone := j.iss + lead + mmaD f + n - 1 }))

/-- MMA (15 R317, 16 R342). -/
def execMma (h : Hdr) (tile : Fin 16) (spa : Fin 16384) (we : Fin 128) (lbl : Fin 256) (nrow : Fin 128) (s : State) : Out :=
  mmaIssue s (.mma h tile spa we lbl nrow) tile we lbl (nrows nrow) 0

/-- MMAT (15 R330, 16 R342). -/
def execMmat (h : Hdr) (tile : Fin 16) (spa : Fin 16384) (we : Fin 128) (lbl : Fin 256) (nrow : Fin 128) (s : State) : Out :=
  mmaIssue s (.mmat h tile spa we lbl nrow) tile we lbl (nrows nrow) (mmatT (snap0 s).fmt)

/-- MMAZ (15 R328, 16 R342). -/
def execMmaz (h : Hdr) (tile : Fin 16) (spa : Fin 16384) (we : Fin 128) (lbl : Fin 256) (nrow : Fin 128) (s : State) : Out :=
  mmaIssue s (.mmaz h tile spa we lbl nrow) tile we lbl (nrows nrow) 0

/-- ACCZ (15 R321, 16 R343). -/
def execAccz (h : Hdr) (tile : Fin 16) (s : State) : Out :=
  matIssue s (matJob s (.accz h tile) 0) false false false none 1 (fun s j =>
    onTile (addPend s j false j.iss 0 0 (.zero [(0x20000 * tile.val, 0x20000)])) tile (fun _ => Tile.start))

/-- SLMAP (15 R322, 16 R344). -/
def execSlmap (h : Hdr) (tile : Fin 16) (slot : Fin 8) (lbl : Fin 256) (s : State) : Out :=
  let t := s.core.eng.tiles[tile]
  let held := t.slots[slot]
  let here := held == some lbl
  matIssue s (matJob s (.slmap h tile slot lbl) 0) false false
    ((held.isSome && !here) || (!here && (slotOf t lbl).isSome))
    (if !here && isSpilled t lbl then some (slotFault 2 lbl) else none) 1
    (fun s j => takeAlloc s j tile lbl (if here then .have slot else .take slot))

/-- SLCLR (15 R322, 16 R345). -/
def execSlclr (h : Hdr) (tile : Fin 16) (all : Bool) (lbl : Fin 256) (s : State) : Out :=
  matIssue s (matJob s (.slclr h tile all lbl) 0) false false false none 1 (fun s _ =>
    onTile s tile (fun t =>
      if all then { t with slots := Vector.replicate 8 none, use := [], spilled := 0 }
      else
        let t := match slotOf t lbl with
          | some sl => freeOne t sl
          | none => t
        setSpilled t lbl false))

/-- SLSPILL (15 R323, 16 R346). -/
def execSlspill (h : Hdr) (tile : Fin 16) (lbl : Fin 256) (s : State) : Out :=
  let t := s.core.eng.tiles[tile]
  let rc := spillRecord s tile lbl permW
  match slotOf t lbl with
  | none => matIssue s (matJob s (.slspill h tile lbl) 0) false false true none 1 (fun s _ => s)
  | some sl =>
    matIssue s (matJob s (.slspill h tile lbl) 0) false false false
      (if slotBusy s tile sl then some (slotFault 4 lbl) else match rc with
        | .error e => some e
        | .ok _ => none) 1
      (fun s j => match rc with
        | .ok o => spillSlot s j tile sl lbl o
        | .error _ => s)

/-- SLFILL (15 R325, 16 R347). -/
def execSlfill (h : Hdr) (tile : Fin 16) (lbl : Fin 256) (s : State) : Out :=
  let t := s.core.eng.tiles[tile]
  let rc := spillRecord s tile lbl permR
  let sl := (freeSlot t).getD 0
  let o := match rc with
    | .ok o => some o
    | .error _ => none
  let flt := if (freeSlot t).isNone then some (slotFault 1 lbl) else match rc with
    | .error e => some e
    | .ok _ => none
  matIssue s (job0 .matrix (.slfill h tile lbl) { snap0 s with slot := sl, objX := o } 1) false false (!isSpilled t lbl) flt 1
    (fun s j =>
      let s := match o with
        | some o => touchSpill s j o
        | none => s
      let s := onTile (clearSlot s j tile sl) tile (fun t => setSpilled (mapSlot t sl lbl) lbl false)
      onJob s j.id (fun j => { j with minDone := j.iss + fillLat j.snap.mxspill + 255 }))

/-- BIND (15 R326, 16 R348). -/
def execBind (h : Hdr) (tile : Fin 16) (spa : Fin 16384) (ts : Fin 8) (acc : Bool) (cstr : Fin 256) (nrow : Fin 128) (s : State) :
    Out :=
  let t := s.core.eng.tiles[tile]
  let labels := sortBy (fun p => p.2.val) ((List.finRange 8).filterMap (fun i => (t.slots[i]).map (fun l => (i, l))))
  let sn := { snap0 s with labels := labels, ttype := t.ttype }
  matIssue s (job0 .matrix (.bind h tile spa ts acc cstr nrow) sn (nrows nrow)) (cstr == 0) false
    (t.ttype == 15 || (t.slots[ts]).isSome) none (nrows nrow) (fun s _ => s)

/-- The common state checks of DRAIN and DRAINQ (16 R349, R350). -/
def drainBad (s : State) (tile : Fin 16) (n : Nat) (f : Word) : Bool :=
  let t := (s.core.eng.tiles[tile]).ttype.val
  (t != 15 && t != fwTC f) || 128 < fwRow0 f + n

/-- DRAIN (15 R327, R328, 16 R349). -/
def execDrain (h : Hdr) (tile : Fin 16) (spa : Fin 16384) (nrow : Fin 128) (s : State) : Out :=
  let f := (snap0 s).fmt
  let n := nrows nrow
  let tc := fwTC f
  matIssue s (matJob s (.drain h tile spa nrow) n) false true
    (!(tc == 0 || tc == 1 || tc == 9) || fwOT f == 6 || fwOT f == 15 || drainBad s tile n f) none n (fun s _ => s)

/-- DRAINQ (15 R329, 16 R350); a substituted super-scale sets DSTAT.SSUB at its issue, where a CSRR of the same cycle
already sees it (04 R96; DESIGN CHOICE, log entry 75). -/
def execDrainq (h : Hdr) (tile : Fin 16) (spa : Fin 16384) (nrow : Fin 128) (s : State) : Out :=
  let f := (snap0 s).fmt
  let n := nrows nrow
  let tc := fwTC f
  matIssue s (matJob s (.drainq h tile spa nrow) n) false true
    (!(tc == 0 || tc == 1) || n % 2 != 0 || drainBad s tile n f) none n (fun s _ =>
      if (glqSuper (fwS f)).2 then onCsr s (fun r => { r with dstat := r.dstat ||| 1 }) else s)

end Sys2Proof.Machine
end

