-- ==== Sys2Proof/Machine/Vector.lean ====
section
/-! DEFINITION. Machine/Vector.lean: the issue of the vector engine's commands (spec 19 R353 to R364, 20 R365 to R386). -/

namespace Sys2Proof.Machine

/-- Type classes A, F and I (20 R365). -/
def clsA (t : Fin 16) : Bool := t != 6 && t != 15
def clsF (t : Fin 16) : Bool := tyFloat t.val
def clsI (t : Fin 16) : Bool := tyInt t.val

/-- The issue of a vector command: occupancy 1, one read step at its issue cycle (19 R361, R362). -/
def vecIssue (s : State) (cmd : Instr) (ok : Bool) : Out :=
  issue s { eng := .vector, bad := !ok, pop := false, bad2 := false, flt := none, occ := 1,
            job := job0 .vector cmd (snap0 s) 1, eff := fun s _ => s }

/-- VNOP (20 R367). -/
def execVnop (h : Hdr) (s : State) : Out := nopIssue s .vector (.vnop h)

/-- VWIN (19 R354 to R356, 20 R368). -/
def execVwin (h : Hdr) (wt : Fin 16) (mode : Bool) (wr : Fin 128) (ws : Fin 8) (s : State) : Out :=
  issue s { eng := .vector, bad := decide ((if mode then 120 else 64) < wr.val), pop := false, bad2 := false, flt := none,
            occ := 1, job := job0 .vector (.vwin h wt mode wr ws) (snap0 s) 0,
            eff := fun s _ => onEng s (fun e => { e with
              vwst := word (wt.val + b2n mode 4 + wr.val * 2 ^ 8 + ws.val * 2 ^ 16) }) }

/-- VADD (20 R370, R371). -/
def execVadd (h : Hdr) (vd va vb : Fin 64) (m : Fin 8) (t : Fin 16) (rm : Fin 4) (sat : Bool) (s : State) : Out :=
  vecIssue s (.vadd h vd va vb m t rm sat) (clsA t)

/-- VSUB (20 R370, R371). -/
def execVsub (h : Hdr) (vd va vb : Fin 64) (m : Fin 8) (t : Fin 16) (rm : Fin 4) (sat : Bool) (s : State) : Out :=
  vecIssue s (.vsub h vd va vb m t rm sat) (clsA t)

/-- VMUL (20 R370, R371). -/
def execVmul (h : Hdr) (vd va vb : Fin 64) (m : Fin 8) (t : Fin 16) (rm : Fin 4) (s : State) : Out :=
  vecIssue s (.vmul h vd va vb m t rm) (clsA t)

/-- VFMA (20 R370, R371). -/
def execVfma (h : Hdr) (vd va vb : Fin 64) (m : Fin 8) (t : Fin 16) (rm : Fin 4) (s : State) : Out :=
  vecIssue s (.vfma h vd va vb m t rm) (clsA t)

/-- VMIN (20 R370, R371). -/
def execVmin (h : Hdr) (vd va vb : Fin 64) (m : Fin 8) (t : Fin 16) (s : State) : Out :=
  vecIssue s (.vmin h vd va vb m t) (clsA t)

/-- VMAX (20 R370, R371). -/
def execVmax (h : Hdr) (vd va vb : Fin 64) (m : Fin 8) (t : Fin 16) (s : State) : Out :=
  vecIssue s (.vmax h vd va vb m t) (clsA t)

/-- VABS (20 R370, R371). -/
def execVabs (h : Hdr) (vd va : Fin 64) (m : Fin 8) (t : Fin 16) (s : State) : Out :=
  vecIssue s (.vabs h vd va m t) (clsA t)

/-- VNEG (20 R370, R371). -/
def execVneg (h : Hdr) (vd va : Fin 64) (m : Fin 8) (t : Fin 16) (s : State) : Out :=
  vecIssue s (.vneg h vd va m t) (clsA t)

/-- VDIV (20 R372, R373). -/
def execVdiv (h : Hdr) (vd va vb : Fin 64) (m : Fin 8) (t : Fin 16) (rm : Fin 4) (s : State) : Out :=
  vecIssue s (.vdiv h vd va vb m t rm) (clsF t)

/-- VSQRT (20 R372, R373). -/
def execVsqrt (h : Hdr) (vd va : Fin 64) (m : Fin 8) (t : Fin 16) (rm : Fin 4) (s : State) : Out :=
  vecIssue s (.vsqrt h vd va m t rm) (clsF t)

/-- VRSQ (20 R372, R373). -/
def execVrsq (h : Hdr) (vd va : Fin 64) (m : Fin 8) (t : Fin 16) (rm : Fin 4) (s : State) : Out :=
  vecIssue s (.vrsq h vd va m t rm) (clsF t)

/-- VRCP (20 R372, R373). -/
def execVrcp (h : Hdr) (vd va : Fin 64) (m : Fin 8) (t : Fin 16) (rm : Fin 4) (s : State) : Out :=
  vecIssue s (.vrcp h vd va m t rm) (clsF t)

/-- VEXP2 (20 R372, R373). -/
def execVexp2 (h : Hdr) (vd va : Fin 64) (m : Fin 8) (t : Fin 16) (rm : Fin 4) (s : State) : Out :=
  vecIssue s (.vexp2 h vd va m t rm) (clsF t)

/-- VLOG2 (20 R372, R373). -/
def execVlog2 (h : Hdr) (vd va : Fin 64) (m : Fin 8) (t : Fin 16) (rm : Fin 4) (s : State) : Out :=
  vecIssue s (.vlog2 h vd va m t rm) (clsF t)

/-- VAND (20 R375). -/
def execVand (h : Hdr) (vd va vb : Fin 64) (m : Fin 8) (t : Fin 16) (s : State) : Out :=
  vecIssue s (.vand h vd va vb m t) (clsI t)

/-- VOR (20 R375). -/
def execVor (h : Hdr) (vd va vb : Fin 64) (m : Fin 8) (t : Fin 16) (s : State) : Out :=
  vecIssue s (.vor h vd va vb m t) (clsI t)

/-- VXOR (20 R375). -/
def execVxor (h : Hdr) (vd va vb : Fin 64) (m : Fin 8) (t : Fin 16) (s : State) : Out :=
  vecIssue s (.vxor h vd va vb m t) (clsI t)

/-- VSHL (20 R375). -/
def execVshl (h : Hdr) (vd va vb : Fin 64) (m : Fin 8) (t : Fin 16) (count : Fin 64) (imf : Bool) (s : State) : Out :=
  vecIssue s (.vshl h vd va vb m t count imf) (clsI t)

/-- VSHR (20 R375). -/
def execVshr (h : Hdr) (vd va vb : Fin 64) (m : Fin 8) (t : Fin 16) (count : Fin 64) (imf : Bool) (s : State) : Out :=
  vecIssue s (.vshr h vd va vb m t count imf) (clsI t)

/-- VSHRA (20 R375). -/
def execVshra (h : Hdr) (vd va vb : Fin 64) (m : Fin 8) (t : Fin 16) (count : Fin 64) (imf : Bool) (s : State) : Out :=
  vecIssue s (.vshra h vd va vb m t count imf) (clsI t)

/-- VPOPC (20 R376). -/
def execVpopc (h : Hdr) (vd va : Fin 64) (m : Fin 8) (t : Fin 16) (s : State) : Out :=
  vecIssue s (.vpopc h vd va m t) (clsI t)

/-- VCTZ (20 R376). -/
def execVctz (h : Hdr) (vd va : Fin 64) (m : Fin 8) (t : Fin 16) (s : State) : Out :=
  vecIssue s (.vctz h vd va m t) (clsI t)

/-- VCLMUL (20 R376). -/
def execVclmul (h : Hdr) (vd va vb : Fin 64) (m : Fin 8) (t : Fin 16) (hi : Bool) (s : State) : Out :=
  vecIssue s (.vclmul h vd va vb m t hi) (clsI t)

/-- VPXOR (20 R377). -/
def execVpxor (h : Hdr) (vd va vb : Fin 64) (m : Fin 8) (t : Fin 16) (excl seed : Bool) (s : State) : Out :=
  vecIssue s (.vpxor h vd va vb m t excl seed) (clsI t)

/-- VPSUM (20 R378). -/
def execVpsum (h : Hdr) (vd va : Fin 64) (m : Fin 8) (t : Fin 16) (rm : Fin 4) (s : State) : Out :=
  vecIssue s (.vpsum h vd va m t rm) (clsA t)

/-- VSEL (20 R381). -/
def execVsel (h : Hdr) (vd va vb : Fin 64) (m : Fin 8) (t : Fin 16) (s : State) : Out :=
  vecIssue s (.vsel h vd va vb m t) (clsA t)

/-- VIOTA (20 R382). -/
def execViota (h : Hdr) (vd : Fin 64) (m : Fin 8) (t : Fin 16) (idx : Bool) (s : State) : Out :=
  vecIssue s (.viota h vd m t idx) (clsI t)

/-- VPERM (20 R382). -/
def execVperm (h : Hdr) (vd va vb : Fin 64) (m : Fin 8) (t : Fin 16) (s : State) : Out :=
  vecIssue s (.vperm h vd va vb m t) (clsI t)

/-- VCOMPR (20 R382). -/
def execVcompr (h : Hdr) (vd va : Fin 64) (m : Fin 8) (t : Fin 16) (z : Bool) (s : State) : Out :=
  vecIssue s (.vcompr h vd va m t z) (clsA t)

/-- VLD (20 R383). -/
def execVld (h : Hdr) (vd : Fin 64) (m : Fin 8) (t : Fin 16) (off : Fin 32768) (s : State) : Out :=
  vecIssue s (.vld h vd m t off) (clsA t)

/-- VCVT (20 R374). -/
def execVcvt (h : Hdr) (vd va : Fin 64) (m : Fin 8) (t : Fin 16) (rm : Fin 4) (stt : Fin 16) (part : Fin 8) (s : State) : Out :=
  let q := max (lanes stt.val) (lanes t.val) / max 1 (min (lanes stt.val) (lanes t.val))
  vecIssue s (.vcvt h vd va m t rm stt part) (clsA t && clsA stt && part.val < q)

/-- VRED (20 R379). -/
def execVred (h : Hdr) (vd va : Fin 64) (m : Fin 8) (t : Fin 16) (rm : Fin 4) (op : Fin 8) (s : State) : Out :=
  vecIssue s (.vred h vd va m t rm op) (clsA t && op.val ≤ 5 && (op.val ≤ 2 || clsI t))

/-- VCMP (20 R380). -/
def execVcmp (h : Hdr) (mk : Fin 8) (va vb : Fin 64) (m : Fin 8) (t : Fin 16) (pred : Fin 8) (s : State) : Out :=
  vecIssue s (.vcmp h mk va vb m t pred) (clsA t && mk != 0 && (pred.val ≤ 5 || clsF t))

/-- VBCAST (20 R381). -/
def execVbcast (h : Hdr) (vd va : Fin 64) (m : Fin 8) (t : Fin 16) (src : Bool) (val : Fin 16384) (s : State) : Out :=
  vecIssue s (.vbcast h vd va m t src val) (clsA t && (src || val.val % 128 < lanes t.val))

/-- VMOV; with FM the type is ignored (20 R369). -/
def execVmov (h : Hdr) (vd va : Fin 64) (m : Fin 8) (t : Fin 16) (fm : Bool) (s : State) : Out :=
  vecIssue s (.vmov h vd va m t fm) (fm || clsA t)

/-- VST (20 R383): the bytes of its active lanes count against the port budget. -/
def execVst (h : Hdr) (va : Fin 64) (m : Fin 8) (t : Fin 16) (off : Fin 32768) (s : State) : Out :=
  let j := job0 .vector (.vst h va m t off) (snap0 s) 1
  issue s { eng := .vector, bad := !clsA t, pop := false, bad2 := false, flt := none, occ := 1,
            job := { j with buf := natBytes 16 (maskBits s.core.eng m).toNat }, eff := fun s _ => s }

/-- The range that a global access checks: its active lanes (19 R359, 20 R384); with none, nothing is checked (DESIGN
CHOICE, log entry 56). -/
def gCheck (s : State) (j : Job) (c : Cap) (creg : Nat) (m : Fin 8) (t : Nat) (off : Fin 4096) (need : BitVec 8) (space : Nat) :
    Except CmdFault (Option ObjEnt) :=
  match active s.core.eng m t with
  | [] => .ok none
  | i :: is =>
    let lo := laneOff j t off i
    let hi := laneOff j t off ((i :: is).getLastD i) + tySize t
    match engCheck s c creg (lo : Nat) (hi - lo) need (some (space - 1)) with
    | .error f => .error f
    | .ok o => .ok (some o)

/-- The issue of VLDG and VSTG: the snapshot of the g register and its capability, their limits and check (19 R359). -/
def gIssue (s : State) (cmd : Instr) (g : Fin 4) (m : Fin 8) (t : Fin 16) (off : Fin 4096) (need : BitVec 8) (mine : Bool) : Out :=
  let ctl := s.core.eng.eff.gctl[g]
  let creg := bitsOf ctl.toNat 38 35
  let space := bitsOf ctl.toNat 46 43
  let cls := bitsOf ctl.toNat 49 47
  let cap := s.core.seq.c[Fin.ofNat 16 creg]
  let sn := { snap0 s with gctl := ctl, gbase := s.core.eng.eff.gbase[g], capS := cap }
  let r := gCheck s (job0 .vector cmd sn 1) cap creg m t.val off need space
  let o := match r with
    | .ok o => o
    | .error _ => none
  let l := clsLat cls (bitsOf ctl.toNat 55 50)
  issue s {
    eng := .vector, pop := false, bad2 := false, occ := 1,
    bad := !(clsA t && 2 ≤ space && space ≤ 4 && clsAdmits cls space),
    flt := match r with
      | .ok _ => none
      | .error f => some f,
    job := job0 .vector cmd { sn with objS := o } 1,
    eff := fun s j =>
      let s := match o with
        | some o => touchObj s o.oid (cap.bits.getLsbD 103)
        | none => s
      if mine then onJob s j.id (fun j => { j with minDone := j.iss + l + 1 }) else s }

/-- VLDG (20 R384). -/
def execVldg (h : Hdr) (vd : Fin 64) (g : Fin 4) (m : Fin 8) (t : Fin 16) (off : Fin 4096) (mr : Fin 8) (s : State) : Out :=
  gIssue s (.vldg h vd g m t off mr) g m t off permR false

/-- VSTG (20 R384). -/
def execVstg (h : Hdr) (va : Fin 64) (g : Fin 4) (m : Fin 8) (t : Fin 16) (off : Fin 4096) (s : State) : Out :=
  gIssue s (.vstg h va g m t off) g m t off permW true

/-- VMTEST (20 R385). -/
def execVmtest (h : Hdr) (mk : Fin 8) (va vb : Fin 64) (m : Fin 8) (t : Fin 16) (row : Bool) (s : State) : Out :=
  vecIssue s (.vmtest h mk va vb m t row) (mk != 0 && (row || clsI t))

/-- MAND (20 R386). -/
def execMand (h : Hdr) (mk mi mj : Fin 8) (nb : Bool) (s : State) : Out := vecIssue s (.mand h mk mi mj nb) (mk != 0)

/-- MOR (20 R386). -/
def execMor (h : Hdr) (mk mi mj : Fin 8) (nb : Bool) (s : State) : Out := vecIssue s (.mor h mk mi mj nb) (mk != 0)

/-- MNOT (20 R386). -/
def execMnot (h : Hdr) (mk mi : Fin 8) (s : State) : Out := vecIssue s (.mnot h mk mi) (mk != 0)

/-- MPOP (20 R386). -/
def execMpop (h : Hdr) (vd : Fin 64) (mi : Fin 8) (m : Fin 8) (t : Fin 16) (s : State) : Out :=
  vecIssue s (.mpop h vd mi m t) (clsI t)

end Sys2Proof.Machine
end

