-- ==== Sys2Proof/Machine/EngineStep.lean ====
section
/-! DEFINITION. Machine/EngineStep.lean: the read steps of all engines, timed writes and arrivals, freezes and their ends,
reports of the base, stopped copies, and the rings (spec 01 R6 to R27, 04 R99 to R101, R110, 06 R157 to R163, 08 R191, R192). -/

namespace Sys2Proof.Machine

/-! ## Another core's turn -/

/-- Doing something to core `id` as though its turn had come. -/
def atCore (s : State) (id : Nat) (f : State → State) : State :=
  if s.core.id = id then f s
  else
    match s.others.find? (fun c => c.id == id) with
    | none => s
    | some c =>
      let me := s.core.id
      let r := f { s with core := c, others := s.others.map (fun d => if d.id = id then s.core else d) }
      match r.others.find? (fun d => d.id == me) with
      | none => r
      | some d => { r with core := d, others := r.others.map (fun x => if x.id = me then r.core else x) }

/-! ## Read steps (01 R18 to R21) -/

/-- The reads of a job's next step. -/
def nextReads (s : State) (j : Job) : List Rng := stepReads s j j.step

/-- Whether a job's next step may go on: only a copy from the base reads on while earlier steps still wait for data. -/
def mayStep (s : State) (j : Job) : Bool :=
  !j.done && j.step < j.nsteps && j.stop.isNone && !fillWaits s.core.eng j && (j.formed == j.step || (j.eng == .copy && isFar j))

/-- Whether a job's next step is due and may go on. -/
def canStep (s : State) (j : Job) : Bool := mayStep s j && j.iss + stepCycle j j.step ≤ s.core.csr.scc

/-- The job of engine `e` whose step comes next. -/
def dueOf (s : State) (e : Eng) : Option Job := s.core.eng.jobs.find? (fun j => j.eng == e && canStep s j)

/-- The job whose step comes next in this cycle: copy, matrix, vector; then issue order. -/
def dueJob (s : State) : Option Job :=
  match dueOf s .copy with
  | some j => some j
  | none => match dueOf s .matrix with
    | some j => some j
    | none => dueOf s .vector

/-- Runs that have begun in the step just formed need more records than the table has: the core freezes, or the wait
is unbounded (07 R171, 01 R26). -/
def checkRecords (s : State) (j : Job) : State :=
  let excess := recsNow s - Config.maxRecords
  let step := stepCycle j j.formed
  if excess = 0 then s
  else if recsNow s - lateRecs s < excess then raiseEFault s ⟨0x11, 3, j.eng, j.entry.toNat, step, 0⟩
  else freezeCore s ⟨5, 0, j.eng, step, s.gtc, some j.id, 0, 0, none⟩

/-- In a new SCC cycle the runs begin whose bytes perform in as many cycles as the copy's latency, formed earlier though
they are: they need records too (07 R171). -/
def lateRecords (s : State) : State :=
  let begins := fun (j : Job) => (chanOf j.cmd).isSome && s.core.eng.pends.any (fun p => p.job == j.id && p.pcyc == s.core.csr.scc + copyLat j)
  match s.core.eng.jobs.find? begins with
  | some j => checkRecords s j
  | none => s

/-- Forming the next step of a job that has been read, as far as its data is there. -/
def formNext (s : State) (j : Job) : State :=
  match stepForm s j j.formed with
  | .done s => checkRecords (onJob s j.id (fun k => { k with formed := j.formed + 1 })) j
  | .stay s => s

/-- Whether an attempt has brought a command further: what it has gathered or formed, its writes, its reports or its
faults. -/
def progress (s t : State) (id : Nat) : Bool :=
  let seen := fun (u : State) => (findJob u id).map (fun j => { j with gran := none })
  let a := s.core.eng
  let b := t.core.eng
  decide (seen s ≠ seen t) || a.pends != b.pends || a.transit != b.transit || a.reports != b.reports || a.efault != b.efault ||
    a.freeze != b.freeze

/-- What an attempt of a command at its base data leaves: while an engine fault freezes the core, one that is no copy
makes no report, so that what the base has given up is read again only once the core goes on (19 R360, 15 R325). -/
def attempt (s t : State) (j : Job) : State :=
  if (chanOf j.cmd).isNone && (s.core.eng.freeze.map (fun f => f.cause == 6)).getD false then
    onEng t (fun e => { e with reports := s.core.eng.reports })
  else t

/-- Whether a step that has been read can be formed further now, whether or not SCC stands (01 R25). -/
def formDue (s : State) (j : Job) : Bool :=
  !j.done && j.stop.isNone && j.formed < j.step && progress s (attempt s (formNext s j) j) j.id

/-- A job whose data has come meanwhile. -/
def formJob (s : State) : Option Job := s.core.eng.jobs.find? (formDue s)

/-- A read step: its reads, and at once what it forms, unless earlier steps still wait: a command takes its data in the
order of its steps (DESIGN CHOICE, log entry 94). -/
def readStep (s : State) (j : Job) : State :=
  let s := onJob (stepRead s j j.step) j.id (fun k => { k with step := j.step + 1 })
  match findJob s j.id with
  | none => s
  | some k => if k.stop.isNone && k.formed == j.step then formNext s k else s

/-- An SLFILL whose reads can be sent while SCC stands, the spill writes of its record having landed (15 R325). -/
def fillJob (s : State) : Option Job := if standing s then s.core.eng.jobs.find? (fun j => fillDue s j && mayStep s j) else none

/-- ENGINE_READ_STEP: the step's channel check, the early-read checkers, and the step; data that does not come yet is
waited for (01 R25). -/
def execEngineReadStep (s : State) : Out :=
  if s.core.eng.freeze.isSome then .next s
  else match dueJob s with
    | none => .next s
    | some j =>
      let reads := nextReads s j
      let schk := (cmdHdr j.cmd).schk
      if s.core.csr.schmode != 2 && chanFails s j reads then
        .next (checkMissed s j.eng schk j.entry.toNat (stepCycle j j.step) (some j.id) (chanEarlier s j) (some reads))
      else .next (readStep (checkEarly s j.eng (reads ++ matEarly j j.step)) j)

/-- A write of the core with its data requested again; none while it does not come. -/
def pendAgain (s : State) (j : Job) (p : Pend) : State × Option PWrite :=
  match j.cmd with
  | .vldg _ vd g _ t off _ => vldgAgain s j vd g t.val off p.w
  | .slfill _ t l => slfillAgain s j t l p.pos p.w
  | _ => copyAgain s j p

/-- A write of the core whose data is requested again gets it, unless it does not come yet. -/
def renewPend (s : State) (j : Job) (p : Pend) : State :=
  match pendAgain s j p with
  | (s, none) => s
  | (s, some w) =>
    let q := { p with need := false, arrived := !heldBy s j.eng j.entry p.pos p.len, ready := s.gtc + p.lag, w := w }
    onEng s (fun e => { e with pends := e.pends.map (fun x => if x = p then q else x) })

/-- A write whose data is to be requested again and now comes (01 R36, 06 R159). -/
def renewNext (s : State) : Option State :=
  let go := fun (j : Job) (t : State) => if progress s t j.id then some t else none
  (s.core.eng.pends.findSome? (fun p => if p.need then (findJob s p.job).bind (fun j => go j (renewPend s j p)) else none)).orElse (fun _ =>
    s.core.eng.transit.findSome? (fun t => if t.need then (findJob s t.job).bind (fun j => go j (renewTransit s j t)) else none))

/-! ## Performs, landings, arrivals (01 R23 to R25, 09 R215) -/

/-- TIMED_WRITE_PERFORM: the next write of the cycle performs. -/
def execTimedWritePerform (s : State) : Out :=
  match nextPerform s (nextReads s) with
  | none => .next s
  | some p => .next (performPend s p)

/-- HOME_TRANSACTION: the next engine write lands at its home as one transaction. -/
def execHomeTransaction (s : State) : Out :=
  match nextTransit s with
  | none => .next s
  | some t => .next (landTransit s t)

/-- DATA_ARRIVAL: what the world held back of a command has come; early data waits for its cycle and late data
performs in this cycle, or after its stage offset (01 R23, R25, 07 R173, DESIGN CHOICE, log entry 8). -/
def execDataArrival (core : Nat) (e : Eng) (entry : BitVec 16) (lo hi : Nat) (s : State) : Out :=
  let s := { s with holds := s.holds.filter (fun h => !(h.core == core && h.eng == e && h.entry == entry && h.lo ≤ hi && lo ≤ h.hi)) }
  .next (atCore s core (fun s =>
    let mine := fun (id : Nat) => ((findJob s id).map (fun j => j.eng == e && j.entry == entry)).getD false
    let here := fun (pos len : Nat) => pos ≤ hi && lo < pos + max 1 len
    onEng s (fun g => { g with
      pends := g.pends.map (fun p =>
        if mine p.job && here p.pos p.len && !p.arrived && !p.need then { p with arrived := true, ready := s.gtc + p.lag } else p),
      transit := g.transit.map (fun t =>
        if t.eng == e && t.entry == entry && here t.pos t.len && !t.need then { t with arrived := true } else t) })))

/-! ## Freezes (01 R21, R22, R26, 04 R110) -/

/-- Whether the cause of a freeze has ended. -/
def freezeEnds (s : State) (f : Freeze) : Bool :=
  match f.cause with
  | 1 => s.core.csr.schmode != 1 || match f.job with
    | some id => match findJob s id with
      | some j => !chanFails s j (nextReads s j)
      | none => true
    | none => !slotFails s f.slot
  | 2 => (fmtHead s).isSome
  | 5 => recsNow s + f.need ≤ Config.maxRecords && heldNow s + f.bytes ≤ Config.maxHeld && match f.chan with
    | some c => chanCopies s.core.eng c < 15
    | none => true
  | _ => false

/-- What a core frozen by a check waits for: the copies or setters, and the bytes. -/
def awaitedBy (s : State) (f : Freeze) : List Job × Option (List Rng) :=
  match f.job.bind (findJob s) with
  | some j => (chanEarlier s j, some (nextReads s j))
  | none => (slotSetters s f.slot.val, none)

/-- Whether what a check waits for now needs SCC to advance, once what the base still owed has come (01 R21). -/
def freezeStuck (s : State) (f : Freeze) : Bool :=
  f.cause == 1 && s.core.csr.schmode == 1 && unbounded s (awaitedBy s f).1 (awaitedBy s f).2

/-- A command whose next step needs no cycle: one that a failed check awaits (01 R21). -/
def freeJob (s : State) (f : Freeze) : Option Job :=
  if f.cause = 1 then (awaitedBy s f).1.find? (fun j => freeSteps j && mayStep s j) else none

/-- FREEZE_RESUME: the core goes on at the unchanged SCC; what waited is evaluated again. -/
def execFreezeResume (s : State) : Out :=
  match s.core.eng.freeze with
  | some f => if freezeEnds s f then .next (onEng s (fun e => { e with freeze := none })) else .next s
  | none => .next s

/-- The ring entry that a freeze belongs to. -/
def freezeEntry (s : State) (f : Freeze) : Nat :=
  match f.job.bind (findJob s) with
  | some j => j.entry.toNat
  | none => (s.core.eng.rings[engIdx f.eng]).head.toNat

/-- Whether a freeze has reached its limit. -/
def freezeExpired (s : State) (f : Freeze) : Bool :=
  (f.cause == 1 || f.cause == 2 || f.cause == 5) && f.since + Config.freezeLimit ≤ s.gtc

/-- FREEZE_TIMEOUT: a freeze of a check, the format queue or capacity ends in a schedule miss. -/
def execFreezeTimeout (s : State) : Out :=
  match s.core.eng.freeze with
  | some f =>
    if freezeExpired s f && !freezeEnds s f then .next (raiseEFault s ⟨0x11, 4, f.eng, freezeEntry s f, f.step, 0⟩) else .next s
  | none => .next s

/-- ENGINE_FAULT_TRAP: the sequencer takes the fault at its instruction boundary; in kernel mode it waits (04 R99). -/
def execEngineFaultTrap (s : State) : Out :=
  match s.core.eng.efault with
  | some f => if s.core.csr.mode then .next s else .next (takeEFault s f)
  | none => .next s

/-! ## Reports of the base (01 R25, 06 R157 to R159, 08 R191, R192) -/

/-- The report of a core's command that the base has not sent. -/
def unsent (s : State) (cause : Nat) (p : Report → Bool) : Option Report :=
  s.core.eng.reports.find? (fun r => r.cause == cause && !r.sent && p r)

/-- The freeze that a report brings (04 R110). -/
def reportFreeze (s : State) (r : Report) : Freeze :=
  ⟨r.cause, 0, r.eng, r.step, s.gtc, if r.job = 0 then none else some r.job, 0, 0, none⟩

/-- What the home of a report's offset sends to the core about it, a freeze report or a wake-up, on VC3 (09 R211). -/
def homeTells (s : State) (r : Report) : State :=
  match (findObj s r.oid).bind (fun o => (paOf o r.off).map (homeOf o)) with
  | some g => tellCore s g s.core.id s.core.csr.pid
  | none => s

/-- A report reaches the core from the home of the offset, and the core freezes with its cause. -/
def deliver (s : State) (r : Report) : State :=
  let s := homeTells s r
  let s := onEng s (fun e => { e with reports := e.reports.map (fun q => if q = r then { r with sent := true } else q) })
  freezeCore s (reportFreeze s r)

/-- TRANSLATION_FAULT_REPORT: a residency or translation fault freezes the core; a residency fault asks the host for the
extent (06 R157, R158, 22 R394). -/
def execTranslationFaultReport (core : Nat) (e : Eng) (entry : BitVec 16) (o : Nat) (s : State) : Out :=
  .next (atCore s core (fun s =>
    match unsent s 3 (fun r => r.eng == e && r.entry == entry && r.pos == o) with
    | none => s
    | some r =>
      let s := deliver s r
      if r.sub.isNone then logEvent s 1 (r.oid.toNat * 2 ^ 40 + r.off) (dieOf s.core.id).val s.core.csr.pid.val else s))

/-- MEMORY_ERROR_REPORT: the report reaches the core 4 GTC cycles after detection and freezes it with cause 4. -/
def execMemoryErrorReport (core : Nat) (e : Eng) (entry : BitVec 16) (s : State) : Out :=
  .next (atCore s core (fun s =>
    match unsent s 4 (fun r => r.eng == e && r.entry == entry && r.found + 4 ≤ s.gtc) with
    | none => s
    | some r => deliver s r))

/-- Whether a report's cause is gone: its extent is resident, or its channel runs no sequence and is not disabled. -/
def reportOver (s : State) (r : Report) : Bool :=
  r.sent && r.sub.isNone && match findObj s r.oid with
  | none => false
  | some o =>
    if r.cause = 3 then residentAt o r.off
    else match (paOf o r.off).bind (dramChan (some o)) with
      | some (d, c) => !s.base.vbus.any (fun v => v.die == d && v.chan == c && (v.vseq.isSome || v.width == 3))
      | none => true

/-- CAUSE_RESOLVED: the base's resolved causes are dropped, each with a wake-up to the core; when none is left, a core
frozen for one goes on at the next GTC cycle at the unchanged SCC. -/
def execCauseResolved (core : Nat) (s : State) : Out :=
  .next (atCore s core (fun s =>
    let left := s.core.eng.reports.filter (fun r => !reportOver s r)
    let s := (s.core.eng.reports.filter (reportOver s)).foldl homeTells s
    let s := onEng s (fun e => { e with reports := left })
    if left.any (fun r => r.sent) then s
    else match s.core.eng.freeze with
      | some f => if f.cause = 3 ∨ f.cause = 4 then onEng s thawEng else s
      | none => s))

/-- A core that has a delivered report and is not frozen freezes again with its cause. -/
def refreeze (s : State) : State :=
  match s.core.eng.reports.find? (fun r => r.sent) with
  | none => s
  | some r => freezeCore s (reportFreeze s r)

/-- The bytes of an object that stand or fall with an offset: its extent's, or all that no extent covers. -/
def extRange (o : ObjEnt) (off : Nat) : Nat × Nat :=
  match extOf o off with
  | some (_, e, a) => (a, a + e.npg * 4096)
  | none => ((extEnds o.exts 0).getLastD 0, 2 ^ 64)

/-- The bytes of an object that the base gives up with a report: those of the extent, or of the granule with the
error. -/
def givenRange (s : State) (r : Report) : Nat × Nat :=
  if r.cause = 4 then (r.off / 256 * 256, r.off / 256 * 256 + 256)
  else ((findObj s r.oid).map (fun o => extRange o r.off)).getD (0, 2 ^ 64)

/-- The base gives up the cause of a command that is no copy: VSTG and a spill go on without their bytes in that
extent or granule; VLDG and SLFILL read again after the trap (19 R360, 15 R323, R325). BADADDR is the offset of the
first element, or byte, that is not written or not read (20 R364). -/
def giveUp (s : State) (r : Report) (sub : Nat) : State :=
  let x := givenRange s r
  let same := fun (e : Eng) (entry : BitVec 16) (job : Nat) (oid : BitVec 24) =>
    e == r.eng && entry == r.entry && job == r.job && oid == r.oid
  let lost := fun (t : Transit) => same t.eng t.entry t.job t.oid && t.off < x.2 && x.1 < t.off + t.len
  let gone := s.core.eng.transit.filter lost
  let first := word (gone.foldl (fun n t => min n (max t.off x.1)) r.off)
  let bad := match findJob s r.job with
    | some j => (match j.cmd with
      | .vstg _ _ _ _ t off | .vldg _ _ _ _ t off _ =>
        word (laneOff j t.val off (gone.foldl (fun n t => min n t.pos) r.pos / max 1 (tySize t.val)))
      | _ => first)
    | none => first
  let s := onJob s r.job (fun j => { j with
    perf := gone.foldl (fun l t => perfAdd l t.pos t.len) j.perf })
  let s := onEng s (fun e => { e with
    reports := e.reports.filter (fun q => !(same q.eng q.entry q.job q.oid && q.off < x.2 && x.1 ≤ q.off)),
    transit := e.transit.filter (fun t => !lost t) })
  raiseEFault s ⟨0x05, sub, r.eng, r.entry.toNat, r.step, bad⟩

/-- A delivered report that the base gives up, of a copy of a channel, or of another command: the copy engine's first,
then the matrix engine's, then the vector engine's (04 R99). -/
def givenUp (s : State) (p : Option (Fin 4) → Bool) : Option Report :=
  [Eng.copy, .matrix, .vector].findSome? (fun e => s.core.eng.reports.find? (fun r =>
    r.eng == e && r.sent && r.sub.isSome && p ((findJob s r.job).bind (fun j => chanOf j.cmd))))

/-- COPY_STOP: an unresolvable cause stops the copy and traps (06 R159). -/
def execCopyStop (core : Nat) (ch : Fin 4) (sub : Fin 4) (s : State) : Out :=
  .next (atCore s core (fun s =>
    match givenUp s (fun c => c == some ch) with
    | some r => match findJob s r.job with
      | some j => stopCopy s j 0x05 sub.val none r.step none
      | none => s
    | none => s))

/-! ## RESTART and DISCARD (06 R159) -/

/-- The stopped copy of a channel that CMD acts on: of several the one that issued first (DESIGN CHOICE, log entry 91).
-/
def stoppedJob (s : State) (ch : Fin 4) : Option (Job × Nat) :=
  s.core.eng.jobs.findSome? (fun j => if chanOf j.cmd == some ch && !j.done then j.stop.map (fun o => (j, o)) else none)

/-- The channel returns to RUN, also when another of its copies stands stopped (06 R159, DESIGN CHOICE, log entry 91). -/
def chanRun (s : State) (ch : Fin 4) : State :=
  onEng s (fun e => { e with chans := e.chans.set ch { e.chans[ch] with stopped := false, undel := 0 } })

/-- RESTART: the bytes from the stop are requested again; those of a local source stay held. -/
def restartOp (s : State) (ch : Fin 4) : State :=
  match stoppedJob s ch with
  | none => s
  | some (j, o) =>
    let s := chanRun (onJob s j.id (fun j => { j with stop := none, gran := none })) ch
    let again := fun (job pos : Nat) => isFar j && job == j.id && o ≤ pos
    onEng s (fun e => { e with
      pends := e.pends.map (fun p => if again p.job p.pos then { p with need := true, arrived := false } else p),
      transit := e.transit.map (fun t => if again t.job t.pos then { t with need := true } else t) })

/-- DISCARD: the bytes from the stop count as delivered with their old contents, and the copy completes. -/
def discardOp (s : State) (ch : Fin 4) : State :=
  match stoppedJob s ch with
  | none => s
  | some (j, o) =>
    let s := onJob s j.id (fun j =>
      { j with stop := none, step := j.nsteps, formed := j.nsteps, bcIn := true, bcOut := true, perf := [(0, j.npos)] })
    let s := onEng s (fun e => { e with
      pends := e.pends.filter (fun p => !(p.job == j.id && o ≤ p.pos)),
      transit := e.transit.filter (fun t => !(t.job == j.id && o ≤ t.pos)) })
    completeJob (chanRun s ch) j

/-- Whether a CMD write of 1 or 2 may act: kernel mode, in an engine trap (06 R151). -/
def cmdAllowed (s : State) : Bool := s.core.csr.mode && s.core.csr.engt

/-- RESTART, the CMD write of CHST. -/
def execRestart (ch : Fin 4) (s : State) : Out := .next (if cmdAllowed s then restartOp s ch else s)

/-- DISCARD, the CMD write of CHST. -/
def execDiscard (ch : Fin 4) (s : State) : Out := .next (if cmdAllowed s then discardOp s ch else s)

/-! ## Rings (01 R6 to R11) -/

/-- Whether a ring's engine has no command in progress and, when enabled, its ring has run out (01 R8). -/
def ringDrained (s : State) (e : Eng) : Bool :=
  let r := s.core.eng.rings[engIdx e]
  !s.core.eng.jobs.any (fun j => j.eng == e && !j.done) && (!r.en || r.head == r.tail)

/-- The ring after a write of RGCFG. -/
def ringOf (v : Word) : Ring :=
  let n := v.toNat
  ⟨n.testBit 31, max 4 (bitsOf n 27 24), bitsOf n 21 3 * 8, 0, 0, 0, true, 0, none⟩

/-- RGCFG_WRITE: once the ring has drained, the configuration changes, HEAD and TAIL become 0 and the ring is idle;
until then the write waits (01 R8, R11). -/
def execRgcfgWrite (e : Eng) (v : Word) (s : State) : Out :=
  if ringDrained s e then .next (onEng s (fun g => { g with rings := g.rings.set (engIdx e) (ringOf v) })) else .next s

/-- What a ring does next in a cycle. -/
inductive RingAct where
  | none | idle | underrun | illegal
  | cmd (i : Instr)
deriving DecidableEq, Repr

/-- The idle count of a command (01 R10). -/
def idleCount (h : Hdr) : Nat :=
  if h.wk = 0 then h.wv.val else if h.wk = 2 then 64 * h.wv.val else if h.wk = 3 then 4096 * h.wv.val else 0

/-- The ring of engine `e` in this cycle: it goes idle when nothing is published at the end of its last command's
occupancy; an idle ring may issue only an ALIGN; else its head issues at its cycle (01 R10, R11). -/
def ringAct (s : State) (e : Eng) : RingAct :=
  let k := engIdx e
  let r := s.core.eng.rings[k]
  let scc := s.core.csr.scc
  match ringWord s.core.eng k with
  | none => if r.en && !r.idle && r.vis == r.head && r.nextIss ≤ scc then .idle else .none
  | some w =>
    let f := CmdFields.unpack w
    if f.wk = 1 then .none
    else if r.idle then .underrun
    else if r.nextIss + idleCount f.hdr ≤ scc then
      match decodeCmd e w with
      | some i => .cmd i
      | none => .illegal
    else .none

/-- RING_IDLE: the ring becomes idle. -/
def execRingIdle (e : Eng) (s : State) : Out :=
  match ringAct s e with
  | .idle => .next (onEng s (fun g => { g with rings := g.rings.set (engIdx e) { g.rings[engIdx e] with idle := true } }))
  | _ => .next s

/-- A ring underrun or an undecodable word, precise before its entry (01 R11, 02 R50). -/
def ringFault (s : State) (e : Eng) (code sub : Nat) : State :=
  raiseEFault s ⟨code, sub, e, (s.core.eng.rings[engIdx e]).head.toNat, 0, 0⟩

end Sys2Proof.Machine
end

