-- ==== Sys2Proof/Machine/Eng.lean ====
section
/-! DEFINITION. Machine/Eng.lean: the ENG group, and the opening of a segment (spec 05 R136 to R141, 01 R6 to R14, R28, 06 R151,
R163, 15 R324, 19 R354, R359, 03 R73). -/

namespace Sys2Proof.Machine

/-! ## TAIL (05 R136, 01 R8, 04 R101) -/

/-- Publishing up to `v`: beyond the ring's size, or back without a kernel engine trap, it is an illegal operand.
Withdrawn entries never issue. -/
def publish (s : State) (e : Eng) (v : Word) : Except Trap State :=
  let k := engIdx e
  let r := s.core.eng.rings[k]
  let new := v.setWidth 16
  let old := (r.tail - r.head).toNat
  let cnt := (new - r.head).toNat
  if 2 ^ r.lgsz < cnt ∨ (cnt < old ∧ !(s.core.csr.mode && s.core.csr.engt)) then .error (trapOperand 0 v)
  else
    let vis := if cnt < (r.vis - r.head).toNat then new else r.vis
    .ok (onEng s (fun g => { g with rings := g.rings.set k { r with tail := new, vis := vis } }))

/-- RTAIL (05 R136). -/
def execRtail (e : Eng) (b : XReg) (s : State) : Out :=
  match publish s e (rdX s b) with
  | .error t => .next (takeTrap s t)
  | .ok s => .next (retire 1 s)

/-- RSTAT returns the status word as the cycles before left it (05 R137). -/
def execRstat (a : XReg) (e : Eng) (s : State) : Out := .next (retire 1 (wrX s a (s.core.eng.rstatL[engIdx e])))

/-! ## Segments (01 R13, R14, 05 R138) -/

/-- A ring whose head is an ALIGN of another number. -/
def alignMismatch (s : State) (n : Fin 64) : Option (Fin 3 × Fin 64) :=
  (List.finRange 3).findSome? (fun k => match ringAlign s.core.eng k with
    | some m => if m = n then none else some (k, m)
    | none => none)

/-- Asking the die's leave manager for a class: the leave held so far ends, class 0 is granted at once, another class
waits in arrival order (22 R399). -/
def askPower (s : State) (cls : Fin 4) : State :=
  let d := dieOf s.core.id
  let die := s.base.dies[d]
  let w := die.waiting.filter (fun p => p.1 != s.core.id)
  let w := if cls = 0 then w else w ++ [(s.core.id, cls)]
  { s with
    core := { s.core with power := if cls = 0 then some 0 else none }
    base := { s.base with dies := s.base.dies.set d { die with waiting := w } } }

/-- Whether every ring has arrived and the power class is granted. -/
def alignReady (s : State) (cls : Fin 4) : Bool :=
  s.core.power == some cls && (List.finRange 3).all (fun k => ringArrived s.core.eng k)

/-- Whether the release of a waiting SALIGN falls in this cycle: the first multiple of 16 after G. -/
def releaseDue (s : State) : Bool :=
  match s.core.wait with
  | .salign _ (some g) => g < s.gtc && s.gtc % 16 == 0
  | _ => false

/-- The release: SCC becomes 0, every ALIGN issues, and STATUS names the segment (01 R13). A command whose writes have
performed and whose completion is yet to come goes on into the new segment (01 R24), and so does one whose positions its
channel has yet to count (06 R150). The next instruction executes at SCC 0, in this cycle. -/
def releaseSegment (s : State) (n : Fin 64) (cls : Fin 4) : State :=
  let scc := s.core.csr.scc
  let s := onCsr s (fun r => { r with seg := BitVec.ofNat 6 n.val, pclass := BitVec.ofNat 2 cls.val, scc := 0 })
  let s := onEng s (fun e => { e with
    jobs := (e.jobs.filter (fun j => !j.done || j.npos != 0)).map (fun j => { j with old := true, iss := 0, minDone := j.minDone - scc }),
    transit := e.transit.map (fun t => { t with iss := none }),
    fq := e.fq.map (fun p => (p.1, 0)),
    rings := e.rings.map (fun r =>
      if r.en then { r with head := r.head + 1, idle := false, nextIss := 1, arr := none } else { r with arr := none }) })
  retire 0 { s with core := { s.core with wait := .none } }

/-- The alignment-mismatch fault of a waiting SALIGN, whose power request is withdrawn (DESIGN CHOICE, log entry 79). -/
def mismatchTrap (s : State) (k : Fin 3) (m : Fin 64) : State :=
  takeTrapAt (dropPower s s.core.id) ⟨0x13, 0, 0, word m.val⟩ s.core.seq.pc k.val

/-- SALIGN (05 R138); BADADDR of its illegal-operand fault is 0 (DESIGN CHOICE, log entry 80). ENGT and EPEND are tested
in every cycle of its stall (DESIGN CHOICE, log entry 89). -/
def execSalign (n : Fin 64) (cls : Fin 4) (s : State) : Out :=
  if s.core.csr.engt || s.core.csr.epend then .next (takeTrap s (trapOperand 0 0))
  else match alignMismatch s n with
    | some (k, m) => .next (mismatchTrap s k m)
    | none =>
      match s.core.wait with
      | .salign c _ => if releaseDue s then .next (releaseSegment s n c) else .next s
      | _ => .next (setWait (askPower s cls) (.salign cls none))

/-- SEGMENT_RELEASE: the release of a waiting SALIGN, whose number is its instruction's (01 R13). -/
def execSegmentRelease (s : State) : Out :=
  if releaseDue s then
    match s.core.wait, (codeWord s s.core.seq.pc.toNat).bind decodeSeq with
    | .salign c _, some (.salign n _) =>
      (match alignMismatch s n with
      | some (k, m) => .next (mismatchTrap s k m)
      | none => .next (releaseSegment s n c))
    | _, _ => .next s
  else .next s

/-- The first waiting request of the die that the leave manager can grant now: requests are granted in arrival order,
and none of class 1 to 3 from 95 °C (22 R399). -/
def grantable (s : State) (d : Fin 8) : Option (Nat × Fin 4) :=
  let die := s.base.dies[d]
  match die.waiting with
  | [] => none
  | (c, k) :: _ => if s.base.temp.toNat < 95 && powerHeld s d + die.costs[k] ≤ die.cap then some (c, k) else none

/-- POWER_LEAVE_GRANT: the first die with a request that can be granted grants it (22 R399). -/
def execPowerLeaveGrant (s : State) : Out :=
  match (List.finRange 8).findSome? (fun d => (grantable s d).map (fun p => (d, p))) with
  | none => .next s
  | some (d, c, k) =>
    let s := onBase s (fun b => { b with dies := b.dies.set d { b.dies[d] with waiting := (b.dies[d]).waiting.drop 1 } })
    .next (onCore s c (fun x => { x with power := some k }))

/-! ## The format queue and the slots (05 R139, R140) -/

/-- FPUSH stalls while the queue is full; the word can be popped from the next SCC cycle, or at once while SCC stands.
-/
def execFpush (b : XReg) (s : State) : Out :=
  if Config.formatQueueSize ≤ s.core.eng.fq.length then .next s
  else
    let c := if standing s then s.core.csr.scc else s.core.csr.scc + 1
    .next (retire 1 (onEng s (fun e => { e with fq := e.fq ++ [(rdX s b, c)] })))

/-- SLOTRD returns the slot's word as the cycles before left it; slot 0 is illegal (05 R140). -/
def execSlotrd (a : XReg) (slot : Fin 16) (s : State) : Out :=
  if slot = 0 then .next (takeTrap s trapIllegal) else .next (retire 1 (wrX s a (s.core.eng.slotL[slot])))

/-! ## Engine CSRs (05 R141) -/

/-- An engine's CSRs, the two of each ring first. -/
inductive Ecsr where
  | rgcfg | rgptr
  | chst (ch : Fin 4) | chkCfg (k : Fin 4) | chkHit (k : Fin 4)
  | mxspill
  | vfcr | vwst | gctl (k : Fin 4) | gbase (k : Fin 4)
deriving DecidableEq, Repr

/-- The CSR that a number names, if the engine defines it. -/
def ecsrOf (e : Eng) (n : Nat) : Option Ecsr :=
  if n = 0 then some .rgcfg
  else if n = 1 then some .rgptr
  else match e with
    | .copy =>
      if 4 ≤ n ∧ n < 8 then some (.chst (Fin.ofNat 4 (n - 4)))
      else if 8 ≤ n ∧ n < 12 then some (.chkCfg (Fin.ofNat 4 (n - 8)))
      else if 12 ≤ n ∧ n < 16 then some (.chkHit (Fin.ofNat 4 (n - 12)))
      else none
    | .matrix => if n = 2 then some .mxspill else none
    | .vector =>
      if n = 2 then some .vfcr
      else if n = 3 then some .vwst
      else if 4 ≤ n ∧ n < 8 then some (.gctl (Fin.ofNat 4 (n - 4)))
      else if 8 ≤ n ∧ n < 12 then some (.gbase (Fin.ofNat 4 (n - 8)))
      else none

/-- The value of an engine CSR. -/
def ecsrGet (s : State) (e : Eng) (r : Ecsr) : Word :=
  let g := s.core.eng
  match r with
  | .rgcfg => rgcfgWord (g.rings[engIdx e])
  | .rgptr => rgptrWord (g.rings[engIdx e])
  | .chst ch => chstWord g ch
  | .chkCfg k => g.chkCfg[k]
  | .chkHit k => g.chkHit[k]
  | .mxspill => g.mxspill
  | .vfcr => g.vfcr
  | .vwst => g.vwst
  | .gctl k => g.gctl[k]
  | .gbase k => g.gbase[k]

/-- The bits of CHKCFG, MXSPILL, VFCR and GCTL that software can write, and those of VWST that do not read as zero. -/
def chkCfgMask : Word := 0xF0001FFFFFFFFFFF
def mxspillMask : Word := 0xFFF8FFFFFFFFC000
def vfcrMask : Word := 0x3F3F
def gctlMask : Word := 0x00FFF87800000000
def vwstMask : Word := 0x77F1F

/-- A write of a global access register clears V in its extent registers, which then serve no command (19 R359). -/
def clearExtG (e : Engines) (k : Fin 4) : Engines :=
  { e with
    ext := e.ext.set (extG k) ⟨{ (e.ext[extG k]).cur with v := false }, { (e.ext[extG k]).nxt with v := false }⟩
    extJob := e.extJob.set (extG k) 0 }

/-- A write of an engine CSR: the state after it, a stall, or a trap. -/
def ecsrSet (s : State) (e : Eng) (r : Ecsr) (v : Word) : Res Unit :=
  match r with
  | .rgcfg =>
    if ringDrained s e then .ok (onEng s (fun g => { g with rings := g.rings.set (engIdx e) (ringOf v) })) () else .stall s
  | .rgptr => match publish s e v with
    | .error t => .trap s t
    | .ok s => .ok s ()
  | .chst ch =>
    let cmd := bitsOf v.toNat 61 60
    if cmd = 0 ∨ cmd = 3 then .ok s ()
    else if !cmdAllowed s then .trap s (trapOperand 2 v)
    else .ok (if cmd = 1 then restartOp s ch else discardOp s ch) ()
  | .chkCfg k => .ok (onEng s (fun g => { g with chkCfg := g.chkCfg.set k (v &&& chkCfgMask) })) ()
  | .chkHit k => .ok (onEng s (fun g => { g with chkHit := g.chkHit.set k v })) ()
  | .mxspill => .ok (onEng s (fun g => { g with mxspill := v &&& mxspillMask })) ()
  | .vfcr => .ok (onEng s (fun g => { g with vfcr := v &&& vfcrMask })) ()
  | .vwst => .ok s ()
  | .gctl k => .ok (onEng s (fun g => clearExtG { g with gctl := g.gctl.set k (v &&& gctlMask) } k)) ()
  | .gbase k => .ok (onEng s (fun g => clearExtG { g with gbase := g.gbase.set k v } k)) ()

/-- ECSRR (05 R141). -/
def execEcsrr (a : XReg) (e : Eng) (n : Fin 256) (s : State) : Out :=
  match ecsrOf e n.val with
  | none => .next (takeTrap s trapIllegal)
  | some r => .next (retire 1 (wrX s a (ecsrGet s e r)))

/-- ECSRW (05 R141, 01 R8, 06 R151). -/
def execEcsrw (e : Eng) (n : Fin 256) (b : XReg) (s : State) : Out :=
  match ecsrOf e n.val with
  | none => .next (takeTrap s trapIllegal)
  | some r => finish (ecsrSet s e r (rdX s b)) (fun s _ => .next (retire 1 s))

end Sys2Proof.Machine
end

