-- ==== Sys2Proof/Machine/Issued.lean ====
section
/-! DEFINITION. Machine/Issued.lean: a command that is in flight as though it had just issued, which a PROGRESS record that kernel
software writes into a context area names (spec 01 R27, 04 R112). -/

namespace Sys2Proof.Machine

/-- The issue of an engine command. -/
def cmdIssue (i : Instr) (s : State) : Out :=
  match i with
  | .cnop h => execCnop h s
  | .qld h qd off => execQld h qd off s
  | .cpy h ch qd qs bc => execCpy h ch qd qs bc s
  | .fill h ch qd bc poff => execFill h ch qd bc poff s
  | .gather h ch qd qs qx bc => execGather h ch qd qs qx bc s
  | .scatter h ch qd qs qx bc => execScatter h ch qd qs qx bc s
  | .scatadd h ch qd qs qx bc => execScatadd h ch qd qs qx bc s
  | .topkr h ch qd qs qx bc tab k => execTopkr h ch qd qs qx bc tab k s
  | .topkc h ch qd qs qx bc k => execTopkc h ch qd qs qx bc k s
  | .topkcTab h ch qd qs qx bc e0 kcap => execTopkcTab h ch qd qs qx bc e0 kcap s
  | .compact h ch qd qs qx bc coff => execCompact h ch qd qs qx bc coff s
  | .expand h ch qd qs qx bc z => execExpand h ch qd qs qx bc z s
  | .accrd h ch qd qs bc rm => execAccrd h ch qd qs bc rm s
  | .accwr h ch qd qs bc rm acc => execAccwr h ch qd qs bc rm acc s
  | .dscan h ch qd qs bc => execDscan h ch qd qs bc s
  | .dskip h ch qd qs qx bc dcls poff => execDskip h ch qd qs qx bc dcls poff s
  | .prefetch h qs res => execPrefetch h qs res s
  | .evict h qs inv => execEvict h qs inv s
  | .chkarm h qs off clr k => execChkarm h qs off clr k s
  | .mnop h => execMnop h s
  | .wload h spa we => execWload h spa we s
  | .wconst h ty we ord cb kb => execWconst h ty we ord cb kb s
  | .wfree h we => execWfree h we s
  | .mma h tile spa we lbl nrow => execMma h tile spa we lbl nrow s
  | .mmat h tile spa we lbl nrow => execMmat h tile spa we lbl nrow s
  | .mmaz h tile spa we lbl nrow => execMmaz h tile spa we lbl nrow s
  | .accz h tile => execAccz h tile s
  | .slmap h tile slot lbl => execSlmap h tile slot lbl s
  | .slclr h tile all lbl => execSlclr h tile all lbl s
  | .slspill h tile lbl => execSlspill h tile lbl s
  | .slfill h tile lbl => execSlfill h tile lbl s
  | .bind h tile spa ts acc cstr nrow => execBind h tile spa ts acc cstr nrow s
  | .drain h tile spa nrow => execDrain h tile spa nrow s
  | .drainq h tile spa nrow => execDrainq h tile spa nrow s
  | .vnop h => execVnop h s
  | .vwin h wt mode wr ws => execVwin h wt mode wr ws s
  | .vmov h vd va m t fm => execVmov h vd va m t fm s
  | .vadd h vd va vb m t rm sat => execVadd h vd va vb m t rm sat s
  | .vsub h vd va vb m t rm sat => execVsub h vd va vb m t rm sat s
  | .vmul h vd va vb m t rm => execVmul h vd va vb m t rm s
  | .vfma h vd va vb m t rm => execVfma h vd va vb m t rm s
  | .vmin h vd va vb m t => execVmin h vd va vb m t s
  | .vmax h vd va vb m t => execVmax h vd va vb m t s
  | .vabs h vd va m t => execVabs h vd va m t s
  | .vneg h vd va m t => execVneg h vd va m t s
  | .vdiv h vd va vb m t rm => execVdiv h vd va vb m t rm s
  | .vsqrt h vd va m t rm => execVsqrt h vd va m t rm s
  | .vrsq h vd va m t rm => execVrsq h vd va m t rm s
  | .vrcp h vd va m t rm => execVrcp h vd va m t rm s
  | .vexp2 h vd va m t rm => execVexp2 h vd va m t rm s
  | .vlog2 h vd va m t rm => execVlog2 h vd va m t rm s
  | .vcvt h vd va m t rm stt part => execVcvt h vd va m t rm stt part s
  | .vand h vd va vb m t => execVand h vd va vb m t s
  | .vor h vd va vb m t => execVor h vd va vb m t s
  | .vxor h vd va vb m t => execVxor h vd va vb m t s
  | .vshl h vd va vb m t count imf => execVshl h vd va vb m t count imf s
  | .vshr h vd va vb m t count imf => execVshr h vd va vb m t count imf s
  | .vshra h vd va vb m t count imf => execVshra h vd va vb m t count imf s
  | .vpopc h vd va m t => execVpopc h vd va m t s
  | .vctz h vd va m t => execVctz h vd va m t s
  | .vclmul h vd va vb m t hi => execVclmul h vd va vb m t hi s
  | .vpxor h vd va vb m t excl seed => execVpxor h vd va vb m t excl seed s
  | .vpsum h vd va m t rm => execVpsum h vd va m t rm s
  | .vred h vd va m t rm op => execVred h vd va m t rm op s
  | .vcmp h mk va vb m t pred => execVcmp h mk va vb m t pred s
  | .vsel h vd va vb m t => execVsel h vd va vb m t s
  | .vbcast h vd va m t src val => execVbcast h vd va m t src val s
  | .viota h vd m t idx => execViota h vd m t idx s
  | .vperm h vd va vb m t => execVperm h vd va vb m t s
  | .vcompr h vd va m t z => execVcompr h vd va m t z s
  | .vld h vd m t off => execVld h vd m t off s
  | .vldg h vd g m t off mr => execVldg h vd g m t off mr s
  | .vst h va m t off => execVst h va m t off s
  | .vstg h va g m t off => execVstg h va g m t off s
  | .vmtest h mk va vb m t row => execVmtest h mk va vb m t row s
  | .mand h mk mi mj nb => execMand h mk mi mj nb s
  | .mor h mk mi mj nb => execMor h mk mi mj nb s
  | .mnot h mk mi => execMnot h mk mi s
  | .mpop h vd mi m t => execMpop h vd mi m t s
  | _ => .next s

/-- The job that command `i` becomes on a core whose engines hold no other command, once its format word is `fmt`: none
when its checks at issue fail. -/
def issuedJob (s : State) (i : Instr) (fmt : Word) : Option Job :=
  let s := onCsr (onEng s (fun e => { e with
    jobs := [], pends := [], transit := [], freeze := none, efault := none, fq := [(fmt, 0)] })) (fun r => { r with schmode := 2 })
  match cmdIssue i s with
  | .next t => t.core.eng.jobs.head?
  | _ => none

end Sys2Proof.Machine
end

