-- ==== Sys2Proof/Machine/Tile.lean ====
section
/-! DEFINITION. Machine/Tile.lean: the TILE group: the end of a lease, stage messages, buckets, and placing a launch record
(spec 05 R142 to R147, 01 R33, 22 R397, R403). -/

namespace Sys2Proof.Machine

/-! ## TRETIRE (05 R142) -/

/-- Every ring with EN 1 is idle with nothing published, and no command or write is in flight: a command whose writes
have all performed is still in flight until it completes (DESIGN CHOICE, log entry 74). -/
def enginesQuiet (e : Engines) : Bool :=
  (List.finRange 3).all (fun k => !(e.rings[k]).en || ((e.rings[k]).idle && (e.rings[k]).head == (e.rings[k]).tail)) &&
  e.jobs.all (fun j => j.done) && e.pends.isEmpty && e.transit.isEmpty

/-- TRETIRE stalls until the engines, the store buffer and the posted requests have finished, writes the dirty L1
words back, and retires the lease; it is illegal in an engine trap, and when a ring has a published ALIGN at its head,
with a BADADDR of 0 (DESIGN CHOICE, log entry 80). -/
def execTretire (s : State) : Out :=
  if s.core.csr.engt then .next (takeTrap s (trapOperand 0 0))
  else if (List.finRange 3).any (fun k => (ringAlign s.core.eng k).isSome) then .next (takeTrap s (trapOperand 0 0))
  else if enginesQuiet s.core.eng && s.core.sb.isEmpty && s.core.posted.isEmpty then
    .next (endRetired (writeBack s s.core.id (fun _ => true)))
  else .next s

/-! ## Stage messages (05 R143, R144) -/

/-- The checks of the scratchpad offset. -/
def stageOffset (v : Word) : Option Trap :=
  if v.toNat % 64 ≠ 0 then some (trapOperand 1 v)
  else if 0x3FFFC0 < v.toNat then some (trapOperand 0 v)
  else none

/-- The launch of a lease. -/
def launchOf (s : State) (l : Lease) : Option Launch := s.base.launches.find? (fun k => k.id == l.launch)

/-- Whether stage `g` is the last of a lease's launch. -/
def lastStage (s : State) (l : Lease) : Bool := ((launchOf s l).map (fun k => decide (k.stages.length ≤ l.stage.val + 1))).getD true

/-- The queue from stage `g` to the next one of a launch, empty when nothing has been put. -/
def stageQueue (s : State) (launch : BitVec 32) (g : Nat) : StageQ :=
  (s.base.stageqs.find? (fun q => q.launch == launch && q.stage == g)).getD ⟨launch, g, [], []⟩

/-- Replacing a stage queue. -/
def putStageQueue (s : State) (q : StageQ) : State :=
  onBase s (fun b => { b with stageqs := q :: b.stageqs.filter (fun p => !(p.launch == q.launch && p.stage == q.stage)) })

/-- STGPUT: the base accepts the message, or drops it when it already holds its tag; a full queue stalls. In the last
stage it faults with BADADDR x[B] (DESIGN CHOICE, log entry 81). -/
def execStgput (b : XReg) (s : State) : Out :=
  let v := rdX s b
  match stageOffset v, s.core.lease with
  | some t, _ => .next (takeTrap s t)
  | none, none => .next (takeTrap s (trapOperand 0 v))
  | none, some l =>
    if lastStage s l then .next (takeTrap s (trapOperand 0 v))
    else
      let q := stageQueue s l.launch l.stage.val
      let counted := fun (s : State) => retire 1 (onMyLease s (fun l => { l with puts := l.puts + 1 }))
      if q.seen.contains (l.id, l.puts) then .next (counted s)
      else if Config.stageQueueSize ≤ q.msgs.length then .next s
      else
        let m : Msg := ⟨l.id, l.puts, spadBytes s v.toNat 64⟩
        .next (counted (putStageQueue s { q with msgs := q.msgs ++ [m], seen := q.seen ++ [(l.id, l.puts)] }))

/-- STGGET: the oldest message not yet taken; a reissued lease first takes again what it held. A taken message stays
held for the lease. In stage 0 it faults with BADADDR x[B] (DESIGN CHOICE, log entry 81). -/
def execStgget (b : XReg) (s : State) : Out :=
  let v := rdX s b
  match stageOffset v, s.core.lease with
  | some t, _ => .next (takeTrap s t)
  | none, none => .next (takeTrap s (trapOperand 0 v))
  | none, some l =>
    if l.stage = 0 then .next (takeTrap s (trapOperand 0 v))
    else
      let taken := fun (s : State) (m : Msg) =>
        retire 1 (spadStore (onMyLease s (fun l => { l with held := l.held ++ [m] })) v.toNat m.data)
      match l.redo with
      | m :: rest => .next (taken (onMyLease s (fun l => { l with redo := rest })) m)
      | [] =>
        let q := stageQueue s l.launch (l.stage.val - 1)
        match q.msgs with
        | m :: rest => .next (taken (putStageQueue s { q with msgs := rest }) m)
        | [] => .next s

/-! ## DISPATCH (05 R145) -/

/-- The first of the remaining `n` entries, from index `i` on, whose bound holds `cnt`, by code reads; a count above
the last bound traps. -/
def bucket (t : Nat) (cnt : Word) (k : State → Word → Out) : Nat → Nat → State → Out
  | 0, _, s => .next (takeTrap s (trapOperand 0 cnt))
  | n + 1, i, s => withCode s (t + 8 + 8 * i)
      (fun s e => if cnt.toNat ≤ e.toNat % 2 ^ 32 then k s e else bucket t cnt k n (i + 1) s) .next

/-- DISPATCH rounds a count up to a bucket and jumps to its code. -/
def execDispatch (b : XReg) (table : Fin 4194304) (s : State) : Out :=
  let t := table.val
  let cnt := rdX s b
  if t % 8 ≠ 0 then .next (takeTrap s (trapOperand 1 (word t)))
  else withCode s t (fun s h =>
    let n := h.toNat % 128
    if n = 0 ∨ 64 < n then .next (takeTrap s (trapOperand 0 (word t)))
    else bucket t cnt (fun s e =>
      let tgt := word (e.toNat / 2 ^ 32)
      if tgt.toNat % 8 ≠ 0 then .next (takeTrap s (trapOperand 1 tgt))
      else .next (jumpTo 4 tgt (wrX s b (word (e.toNat % 2 ^ 32))))) n 0 s) .next

/-! ## Work queues (05 R147, 22 R397, R391) -/

/-- The queue that a record's header names, if it is one of the sixteen (DEDUCED, log entry 37). -/
def recordQueue (data : List Byte) : Option (Fin 16) :=
  let q := bytesNat ((data.drop 3).take 1)
  if h : q < 16 then some ⟨q, h⟩ else none

/-- The size of a launch record by its header: one with a bad stage count is a header alone (22 R397). -/
def recordSize (hdr : List Byte) : Nat :=
  let n := bytesNat ((hdr.drop 1).take 1)
  if n = 0 ∨ 8 < n then 128 else 128 + 64 * n

/-- What becomes of a record offered to the base. -/
inductive Offer where
  | full | denied
  | accepted (s : State) (id : BitVec 32)

/-- The type 1 records of an accepted launch record, 40 bytes each after the launch id (22 R403, DEDUCED, log entry
37). -/
def captureLaunch (s : State) (id : BitVec 32) (data : List Byte) : State :=
  let one := fun (s : State) (bs : List Byte) => captureRec s 1 (natBytes 8 id.toNat ++ bs)
  let s := one s (data.take 40)
  (List.range ((data.length - 40 + 39) / 40)).foldl (fun s k => one s ((data.drop (40 + 40 * k)).take 40)) s

/-- Offering a record to its queue for partition `pid`; the launch takes an id that no live launch has. Of a queue that
is full and that the partition may not use either, the permission is tested first: 05 R147 gives the two refusals no
order (DESIGN CHOICE, log entry 84). -/
def offer (s : State) (pid : Fin 16) (data : List Byte) (tag : Bool) : Offer :=
  match recordQueue data with
  | none => .denied
  | some q =>
    if !(s.base.qcfg[q]).getLsbD pid.val then .denied
    else if Config.queueExtra + 1 ≤ (s.base.queues[q]).length then .full
    else
      let n := freshId (launchIds s ++ replayIds s) s.nextLaunch
      let id := BitVec.ofNat 32 n
      let s := onBase s (fun b => { b with queues := b.queues.set q (b.queues[q] ++ [⟨id, pid, data, tag⟩]) })
      .accepted (captureLaunch { s with nextLaunch := n } id data) id

/-- The base's read of a record's first `n` bytes, as a request of the sequencer that stalls and traps like any (04
R97, R106, 08 R191, R192): in an extent that is not resident it waits as a store does, until LAUNCH ends (DESIGN CHOICE,
log entry 82). -/
def recordRead (s : State) (b : CReg) (o : ObjEnt) (off n : Nat) (k : State → List Byte → Out) : Out :=
  match nonResident o off n with
  | some x => finish (residencyWait s b o x) (fun s _ => .next s)
  | none =>
    match dramRead s o off n s.core.id with
    | (s, .busy) => .next s
    | (s, .bad) => .next (takeTrap s (trapUnresolved 2 b (word off)))
    | (s, .ok) =>
      let (s, bs) := homeGet s (some s.core.id) o off n
      k s bs

/-- LAUNCH: the header is read, the whole record is checked, and the base accepts or refuses it. Like a home
instruction it waits until the store buffer is empty (DESIGN CHOICE, log entry 83). -/
def execLaunch (a : XReg) (b : CReg) (s : State) : Out :=
  let off := (rdC s b).cursor.toNat
  let done := fun (s : State) (v : Word) => Host.Outcome.next (retire 1 (wrX (setWait s .none) a v))
  withHome s b off 128 64 permR [1, 2] (fun s o k => recordRead s b o k 128 (fun s hdr =>
    let n := recordSize hdr
    withCap s b (checkHome s b off n 64 permR [1, 2]) (fun s o => recordRead s b o k n (fun s data =>
      let tag := ((paOf o (k + 16)).map (tagAt s.base)).getD false
      match offer s s.core.csr.pid data tag with
      | .full => done s (word (2 ^ 63))
      | .denied => done s (word (2 ^ 62))
      | .accepted s id => done s (word id.toNat)))))

end Sys2Proof.Machine
end

