-- ==== Sys2Proof/Machine/Walk.lean ====
section
/-! DEFINITION. Machine/Walk.lean: the walker: launch records, rejections, iterations, lease starts, and their replay (spec 01
R29 to R32, 02 R60, 22 R390, R397, R403, R404). -/

namespace Sys2Proof.Machine

/-! ## Responses to commands (22 R389, R390) -/

/-- The device address of host physical address `h` (09 R204, DEDUCED, log entry 35). -/
def hostPa (h : Nat) : Nat := 0x1000000000000 + h % 0x1000000000000

/-- Answering a command: STATUS (0 OK, 1 REFUSED, 2 TIMEOUT, 3 NOPOWER, 4 BADCMD), its TAG and a value go to its
source. -/
def respond (s : State) (c : CmdCtx) (status value : Nat) : State :=
  let bs := natBytes 8 (status + c.tag.toNat * 256) ++ natBytes 8 value
  match c.src with
  | .host =>
    let s := homePutPa s (hostPa s.base.hcqbase.toNat + 0x4000 + 16 * (s.base.hcqhead.toNat % 256)) bs false false c.pid
    onBase s (fun b => { b with hcqhead := b.hcqhead + 1 })
  | .sideband => onBase s (fun b => { b with sideData := bs })
  | .kernel => homePutPa (homePutPa s (fwPa 34 + 0x80) bs false false c.pid) (fwPa 34 + 0x40) (natBytes 8 0) false false c.pid

/-! ## Launch records (01 R29, R30, 22 R397) -/

/-- The loop-nest levels of a record. -/
def recLoops (d : List Byte) : Vector Word 4 := Vector.ofFn (fun k => word (recNat d (0x20 + 8 * k.val) 8))

/-- The fields of a level word. -/
def lvValid (w : Word) : Bool := w.getLsbD 36
def lvTgt (w : Word) : Fin 4 := Fin.ofNat 4 (bitsOf w.toNat 35 34)
def lvOrder (w : Word) : Nat := bitsOf w.toNat 33 32
def lvCount (w : Word) : Nat := bitsOf w.toNat 31 0

/-- The valid levels, outermost first. -/
def levels (loops : Vector Word 4) : List Word := sortBy lvOrder (loops.toList.filter lvValid)

/-- The number of iterations: the product of the valid counts. -/
def iterations (loops : Vector Word 4) : Nat := ((levels loops).map lvCount).foldl (· * ·) 1

/-- Whether a list holds a value twice. -/
def repeats : List Nat → Bool
  | [] => false
  | a :: t => t.contains a || repeats t

/-- The stages of a record. -/
def recStages (d : List Byte) : List StageRec :=
  (List.range (recNat d 1 1)).map (fun k =>
    let o := 0x80 + 64 * k
    ⟨BitVec.ofNat 320 (recNat d o 40), BitVec.ofNat 24 (recNat d (o + 40) 3), BitVec.ofNat 24 (recNat d (o + 43) 3), 0⟩)

/-- Why the walker rejects a record, if it does: 1 reserved bit, 2 shared TGT or ORDER, 3 count above 2^48, 4 bad
header or stage. What makes a header or a stage bad besides the version and the stage count is a DESIGN CHOICE (log
entry 64). -/
def rejection (s : State) (d : List Byte) : Option Nat :=
  let n := recNat d 1 1
  if recNat d 0 1 ≠ 1 ∨ n = 0 ∨ 8 < n then some 4
  else
    let loops := recLoops d
    let lv := levels loops
    let area := recNat d 0x48 8
    let compl := findObj s (BitVec.ofNat 24 (recNat d 0x45 3))
    let code := fun (oid : BitVec 24) => ((findObj s oid).map (fun o => o.space != 0)).getD false
    if loops.toList.any (fun w => w.toNat / 2 ^ 37 != 0) || recNat d 0x50 48 != 0 ||
        (List.range n).any (fun k => recNat d (0x80 + 64 * k + 46) 18 != 0) then some 1
    else if repeats (lv.map (fun w => (lvTgt w).val)) || repeats (lv.map lvOrder) then some 2
    else if 2 ^ 48 < iterations loops then some 3
    else if area < 64 ||
        !((compl.map (fun o => (o.space == 1 || o.space == 2) && recNat d 0x40 5 + 64 ≤ o.len)).getD false) ||
        (recStages d).any (fun g => g.cores == 0 || !code g.code || (g.image != 0 && !code g.image)) then some 4
    else none

/-- The launch of an accepted record. -/
def launchRec (q : Queued) : Launch where
  id       := q.id
  pid      := q.pid
  abort    := (recNat q.data 2 1).testBit 0
  seed     := word (recNat q.data 8 8)
  capBits  := BitVec.ofNat 128 (recNat q.data 0x10 16)
  capTag   := q.tag
  loops    := recLoops q.data
  total    := iterations (recLoops q.data)
  stages   := recStages q.data
  rerun    := []
  live     := 0
  retired  := 0
  interrupts := 0
  faulted  := 0
  aborted  := false
  ents     := []
  complOid := BitVec.ofNat 24 (recNat q.data 0x45 3)
  complOff := recNat q.data 0x40 5
  area     := recNat q.data 0x48 8
  pins     := []

/-- The index tuple of iteration `n`: lexicographic, the outermost level slowest (01 R31). -/
def idxOf (loops : Vector Word 4) (n : Nat) : Vector (BitVec 32) 4 :=
  ((levels loops).reverse.foldl (fun (acc : Vector (BitVec 32) 4 × Nat) w =>
    (acc.1.set (lvTgt w) (BitVec.ofNat 32 (acc.2 % lvCount w)), acc.2 / lvCount w)) (Vector.replicate 4 0, n)).1

/-! ## Taking a record (01 R31) -/

/-- The launch record that a replay holds next, put together from its type 1 records (22 R403, R404). -/
def replayLaunch (r : Replay) : Option (Replay × Queued) :=
  match r.recs with
  | [] => none
  | a :: _ =>
    if capType a ≠ 1 then none
    else
      let size := recordSize (a.drop 24)
      let k := ceilDiv size 40
      let data := ((r.recs.take k).flatMap (fun b => b.drop 24)).take size
      some ({ r with recs := r.recs.drop k }, ⟨BitVec.ofNat 32 (recNat a 16 8), r.c.pid, data, true⟩)

/-- The record that the walker takes next from a queue; a replay stands in place of the queues. -/
def takeRecord (s : State) (q : Fin 16) : Option (State × Queued) :=
  match s.base.replay with
  | some r => (replayLaunch r).map (fun p =>
      (onBase s (fun b => { b with replay := some { p.1 with brought := p.1.brought ++ [p.2.id] } }), p.2))
  | none => match s.base.queues[q] with
    | [] => none
    | x :: rest => some (onBase s (fun b => { b with queues := b.queues.set q rest }), x)

/-- LAUNCH_WALK: the walker takes a record; it rejects it in its completion record, or the launch becomes live. A
launch of no iterations completes at once. -/
def execLaunchWalk (q : Fin 16) (s : State) : Out :=
  match takeRecord s q with
  | none => .next s
  | some (s, x) =>
    let l := launchRec x
    match rejection s x.data with
    | some r => .next (reportLaunch s l 1 r)
    | none => .next (finishLaunch (onBase s (fun b => { b with launches := b.launches ++ [l] })) l.id)

/-! ## Lease starts (01 R31, R32, 02 R60) -/

/-- Whether core `id` can take a lease: it holds none, and its die is neither fenced nor resetting (22 R396). -/
def coreFree (s : State) (id : Nat) : Bool :=
  let d := s.base.dies[dieOf id]
  id < Config.numCores && !d.fenced && !d.resetting && ((findCore s id).map (fun c => c.lease.isNone)).getD true

/-- The free core of a stage's core set with the lowest id. -/
def pickCore (s : State) (g : StageRec) : Option Nat :=
  (List.range Config.numCores).find? (fun k => g.cores.getLsbD k && coreFree s k)

/-- The number of the iteration of an index tuple in the enumeration. -/
def idxNum (loops : Vector Word 4) (idx : Vector (BitVec 32) 4) : Nat :=
  (levels loops).foldl (fun n w => n * lvCount w + (idx[lvTgt w]).toNat) 0

/-- The lease of a stage that starts next, and the launch after it: interrupted leases first, then the next iteration,
each in the order of the enumeration; a new lease takes an id that no live lease has (01 R31). -/
def nextLease (s : State) (l : Launch) (g : Fin 8) : Option (Lease × Launch) :=
  match (sortBy (fun x => idxNum l.loops x.idx) (l.rerun.filter (fun x => x.stage == g))).head? with
  | some x => some (x, { l with rerun := l.rerun.erase x, live := l.live + 1 })
  | none => match l.stages[g.val]? with
    | none => none
    | some st =>
      if st.next < l.total then
        some (⟨BitVec.ofNat 32 (freshId (leaseIds s) s.nextLid), l.id, g, idxOf l.loops st.next, st.code, l.abort, false, [], none,
            0, [], [], 0⟩,
          { l with live := l.live + 1, stages := l.stages.set g.val { st with next := st.next + 1 } })
      else none

/-- The bytes of an image object that a scratchpad takes: what lies beyond 4 MiB is left out (DESIGN CHOICE, log entry
63). -/
def imageLen (o : ObjEnt) : Nat := min o.len Config.spadSize

/-- The base reads an image: dirty words come back from the L1s and lines from the host, and the array checks what it
reads (10 R236, R251, 08 R191). A word that cannot be corrected is logged and taken as it stands, and so are the bytes
of an extent that is not resident (DESIGN CHOICE, log entry 63). -/
def imageFetch (s : State) (o : ObjEnt) (pid : Fin 16) : State :=
  let dirty := (allCores s).flatMap (fun c => (c.l1.filter (fun w => w.dirty && w.oid == o.oid)).map (fun w => w.pa))
  let s := if o.coh then dirty.foldl (fun s pa => probe s none pa 8 true) s else s
  let s := if s.base.bias.isEmpty then s
    else (granules 0 (imageLen o)).foldl (fun s g => ((paOf o g.1).map (hostRecall s)).getD s) s
  (dramRead s o 0 (imageLen o) 0x3FF pid).1

/-- The scratchpad that an image gives: its bytes, and 0 elsewhere; object id 0 names no image (02 R60, 22 R397). -/
def imageMem (s : State) (oid : BitVec 24) : Mem :=
  match (if oid = 0 then none else findObj s oid) with
  | none => []
  | some o =>
    ((o.exts.foldl (fun (acc : Mem × Nat) e =>
      (memWrites acc.1 (memMove s.base.mem e.pa (e.npg * 4096) acc.2), acc.2 + e.npg * 4096)) ([], 0)).1).filter
      (fun c => c.1 < imageLen o)

/-- The scratchpad image of a lease's stage. -/
def imageOf (l : Launch) (x : Lease) : BitVec 24 := ((l.stages[x.stage.val]?).map (fun g => g.image)).getD 0

/-- A core with lease-start state for a lease of a launch (01 R32, 04 R88, R92, R407). -/
def startCore (s : State) (l : Launch) (x : Lease) (c : Core) : Core :=
  let f := freeCore c
  let cap0 : Cap := ⟨l.capBits, l.capTag, (l.capBits.extractLsb' 48 48).setWidth 64⟩
  let xs := f.seq.x.set 1 ((x.idx[0]).setWidth 64) |>.set 2 ((x.idx[1]).setWidth 64) |>.set 3 ((x.idx[2]).setWidth 64)
    |>.set 4 ((x.idx[3]).setWidth 64) |>.set 5 (word x.stage.val) |>.set 6 (word c.id) |>.set 7 (x.id.setWidth 64)
  { f with
    seq := ⟨xs, (f.seq.c.set 0 cap0).set 1 spadCap, 0⟩
    csr := { Csr.start with
      tvec := ((s.base.kcode[l.pid]).map (fun k => k.trap)).getD 0, rngkey := l.seed, pid := l.pid }
    eng := { Engines.start with spad := imageMem s (imageOf l x) }
    lease := some x }

/-- Whether the base can read the image of a lease now: it waits while a channel carries a failing transfer, and while a
power-gated core wakes for its words (08 R192, 09 R219). -/
def imageAsk (s : State) (l : Launch) (x : Lease) : State × Fetch :=
  match (if imageOf l x = 0 then none else findObj s (imageOf l x)) with
  | some o => dramAsk s o 0 (imageLen o) 0x3FF l.pid
  | none => (s, .ok)

/-- Whether a lease start has nothing to do but wait for its image. -/
def imageHeld (s : State) (l : Launch) (x : Lease) : Bool :=
  match imageAsk s l x with
  | (t, .busy) => t.base == s.base
  | _ => false

/-- Placing a core in the machine: in its own place when it is listed, else last in turn order. -/
def placeCore (s : State) (id : Nat) (f : Core → Core) : State :=
  match findCore s id with
  | some _ => onCore s id f
  | none => { s with others := s.others ++ [f (Core.free id)] }

/-- A lease starts on a core by a message on VC3; the capture records it (09 R211, 22 R403). -/
def startLease (s : State) (l : Launch) (x : Lease) (core : Nat) : State :=
  let s := match (if imageOf l x = 0 then none else findObj s (imageOf l x)) with
    | some o => imageFetch s o l.pid
    | none => s
  let s := placeCore (dropPower (onLaunch (tellCore s (leaseSlice core) core l.pid) l.id (fun _ => l)) core) core (startCore s l x)
  captureRec s 2 (natBytes 4 l.id.toNat ++ natBytes 4 x.id.toNat ++ natBytes 4 core ++ natBytes 4 x.stage.val ++
    (x.idx.toList.map (fun i => natBytes 4 i.toNat)).flatten)

/-- The end of a replay: its command is answered, and an event of kind 6 is logged (22 R398, R404). -/
def endReplay (s : State) (r : Replay) (status : Nat) : State :=
  respond (logEvent (onBase s (fun b => { b with replay := none })) 6 r.pa 0 0) r.c status 0

/-- The lease start that a replay holds next: launch, lease id, core, stage. -/
def replayStart (r : Replay) : Option (BitVec 32 × BitVec 32 × Nat × Fin 8) :=
  match r.recs with
  | [] => none
  | a :: _ =>
    if capType a = 2 then
      some (BitVec.ofNat 32 (recNat a 16 4), BitVec.ofNat 32 (recNat a 20 4), recNat a 24 4, Fin.ofNat 8 (recNat a 28 4))
    else none

/-- The lease that a replay starts with the recorded id and indices: a returned lease of that id, else a fresh one,
and the launch after it (22 R403, R404). -/
def replayLease (l : Launch) (g : Fin 8) (id : BitVec 32) (idx : Vector (BitVec 32) 4) : Option (Lease × Launch) :=
  match l.rerun.find? (fun x => x.id == id && x.stage == g) with
  | some x => some ({ x with idx := idx }, { l with rerun := l.rerun.erase x, live := l.live + 1 })
  | none => (l.stages[g.val]?).map (fun st =>
      (⟨id, l.id, g, idx, st.code, l.abort, false, [], none, 0, [], [], 0⟩,
        { l with live := l.live + 1, stages := l.stages.set g.val { st with next := max st.next (idxNum l.loops idx + 1) } }))

/-- The indices of a recorded lease start. -/
def recIdx (a : List Byte) : Vector (BitVec 32) 4 := Vector.ofFn (fun k => BitVec.ofNat 32 (recNat a (32 + 4 * k.val) 4))

/-- A lease starts once the base can read its image. -/
def startReady (s : State) (l : Launch) (x : Lease) (core : Nat) (after : State → State) : Out :=
  match imageAsk s l x with
  | (t, .busy) => .next t
  | _ => .next (startLease (after s) l x core)

/-- LEASE_START: the next lease of a stage starts on its core. In a replay it is the recorded lease on its recorded
core; a core that cannot take it ends the replay, and so does a recorded id that another live lease has (01 R31, DESIGN
CHOICE, log entry 37). -/
def execLeaseStart (launch : BitVec 32) (stage : Fin 8) (s : State) : Out :=
  match s.base.launches.find? (fun l => l.id == launch) with
  | none => .next s
  | some l =>
    match s.base.replay with
    | none =>
      (match nextLease s l stage, (l.stages[stage.val]?).bind (pickCore s) with
      | some (x, l), some k => startReady s l x k (fun s => { s with nextLid := freshId (leaseIds s) s.nextLid })
      | _, _ => .next s)
    | some r =>
      match replayStart r with
      | none => .next s
      | some (la, id, k, g) =>
        if la ≠ launch ∨ g ≠ stage then .next s
        else
          let inSet := ((l.stages[stage.val]?).map (fun st => st.cores.getLsbD k)).getD false
          let die := s.base.dies[dieOf k]
          let taken := (leaseIds s).contains id && !l.rerun.any (fun x => x.id == id)
          if !inSet || Config.numCores ≤ k || die.fenced || die.resetting || taken then .next (endReplay s r 1)
          else if !coreFree s k then .next s
          else match replayLease l stage id (recIdx (r.recs.head?.getD [])) with
            | none => .next (endReplay s r 1)
            | some (x, l) =>
              let r := { r with recs := r.recs.drop 1, starts := r.starts + 1 }
              startReady s l x k (fun s => onBase s (fun b => { b with replay := some r }))

end Sys2Proof.Machine
end

