-- ==== Sys2Proof/Machine/Preempt.lean ====
section
/-! DEFINITION. Machine/Preempt.lean: preemption, the resume of a saved context, and the release of a FAULTED one (spec 01 R35,
R36, 04 R108 to R112, 06 R168, 10 R252, 12 R280, 15 R332). -/

namespace Sys2Proof.Machine

/-! ## Preemption (01 R35, 12 R280) -/

/-- Whether the sequencer waits for the response of a request that has left the core: its arrival is a completion (12
R280). A store to SLCFG whose slice still drains waits so too (DESIGN CHOICE, log entry 88: 05 R148 lists no such
stall). -/
def answering (w : Wait) : Bool :=
  match w with
  | .pgfetch _ _ _ | .config _ | .channel | .ending => true
  | _ => false

/-- Whether the sequencer of the current core stands at a boundary where the base can preempt it. -/
def atBoundary (s : State) : Bool := s.core.busy == 0 && !answering s.core.wait

/-- Whether a copy has a source read in progress: a step whose reads have been made and whose bytes still come, no cause
of the base holding them (01 R35, 06 R168). -/
def reading (s : State) (j : Job) : Bool :=
  (chanOf j.cmd).isSome && !j.done && j.stop.isNone && j.formed < j.step && !s.core.eng.reports.any (fun r => r.job == j.id)

/-- Whether the current core's context can be saved: an instruction boundary, every request answered, the store buffer
empty, every spill write acknowledged, no source read in progress, and a place for the area (01 R35, 04 R108, 10 R252,
12 R280, 15 R325). -/
def saveReady (s : State) : Bool :=
  atBoundary s && s.core.posted.isEmpty && s.core.sb.isEmpty && !s.core.eng.transit.any (fun t => t.job == 0) &&
  !s.core.eng.jobs.any (reading s) && ctxRoom s

/-- PREEMPTION: at an instruction boundary the base freezes the core, its buffers drain, and its context is saved;
while the core cannot be saved, the base tries again at the next GTC cycle. -/
def execPreemption (core : Nat) (s : State) : Out :=
  .next (atCore s core (fun s =>
    if s.core.lease.isNone then s
    else
      let s := if s.core.busy = 0 then drainAll s else s
      if saveReady s then saveContext (drainCore (giveUpWait s)) false
      else
        { s with
          core := { s.core with saving := s.core.saving || atBoundary s }
          inputs := s.inputs ++ [(s.gtc + 1, .preemption core)] }))

/-! ## Reading the context area back (04 R109, R112) -/

/-- The control registers that an area holds. -/
def areaCsr (m : Mem) (pa : Nat) : Csr :=
  let w := fun n => memWord m (pa + 0x440 + 8 * n)
  let st := w 0
  { seg := st.extractLsb' 10 6, pclass := st.extractLsb' 8 2, epend := st.getLsbD 6, engt := st.getLsbD 5,
    pmode := st.getLsbD 1, mode := st.getLsbD 0, tvec := w 1, epc := w 2, cause := w 3 &&& causeMask, badaddr := w 4,
    schmode := (w 8).setWidth 2, qk := (w 9).setWidth 4, extdist := (w 10).extractLsb' 12 12, rngkey := w 0x10,
    rngctr := w 0x11, spflag := (w 0x18).setWidth 4, spbad := w 0x19, resf := w 0x1A &&& resfMask,
    dstat := (w 0x1B).setWidth 3, scc := memNat m (pa + 8) 8, pid := Fin.ofNat 16 (w 0x22).toNat }

/-- The sequencer's registers that an area holds. -/
def areaSeq (m : Mem) (pa : Nat) : Seq :=
  ⟨(Vector.ofFn (fun (k : Fin 64) => memWord m (pa + 0x40 + 8 * k.val))).set 0 0,
   Vector.ofFn (fun (k : Fin 16) =>
     let a := pa + 0x240 + 32 * k.val
     ⟨BitVec.ofNat 128 (memNat m a 16), (memRead m (a + 24)).getLsbD 0, memWord m (a + 16)⟩),
   memWord m (pa + 0x10)⟩

/-- A ring that an area holds (01 R6, R7, R35); `nextIss` is kept beside the area. Engines see at once all that TAIL
publishes (DESIGN CHOICE, log entry 78). -/
def areaRing (m : Mem) (a nextIss : Nat) : Ring :=
  let c := memNat m a 8
  let p := memNat m (a + 8) 8
  let w := memNat m (a + 16) 8
  let tail := BitVec.ofNat 16 p
  ⟨c.testBit 31, max 4 (bitsOf c 27 24), bitsOf c 21 3 * 8, BitVec.ofNat 16 (p / 65536), tail, tail, w.testBit 1, nextIss,
    if w.testBit 0 then some (Fin.ofNat 64 (bitsOf w 13 8)) else none⟩

/-- The slot state of a tile that an area holds (15 R332). -/
def areaTile (m : Mem) (a : Nat) : Tile :=
  let occ := memNat m (a + 8) 1
  let rank := fun (s : Fin 8) => memNat m (a + 10 + s.val) 1
  ⟨Vector.ofFn (fun (s : Fin 8) => if occ.testBit s.val then some (Fin.ofNat 256 (memNat m (a + s.val) 1)) else none),
   sortBy rank ((List.finRange 8).filter (fun s => rank s != 255)),
   BitVec.ofNat 256 (memNat m (a + 32) 32), Fin.ofNat 16 (memNat m (a + 9) 1)⟩

/-- Refilling an extent register from the object table as it stands, for the object that a capability names (06 R168).
-/
def refill (s : State) (c : Cap) (r : ExtReg) : ExtReg :=
  if r.v then ((findObj s (capOid c)).bind (fun o => extRegAt o r.ostart)).getD ExtReg.none else r

/-- The capability register of a stream descriptor and of a global access register (06 R153, 19 R359). -/
def descCreg (d : Desc) : CReg := Fin.ofNat 16 (strm d).creg
def gctlCreg (w : Word) : CReg := Fin.ofNat 16 (bitsOf w.toNat 38 35)

/-! ## Writes and commands in flight (01 R27, R36, 04 R112, 06 R168) -/

/-- The fields of an in-flight record. -/
structure Rec where
  kind  : Nat
  eng   : Eng
  slot  : Fin 16
  rate  : Nat
  space : Nat
  pcyc  : Int
  nstep : Nat
  dst   : Nat
  len   : Nat
  doff  : Nat
deriving DecidableEq, Repr

/-- The engine of a code; 3 is reserved. -/
def engOf (n : Nat) : Eng := if n = 0 then .copy else if n = 1 then .matrix else .vector

/-- Record `i` of a context area. -/
def areaRec (m : Mem) (pa i : Nat) : Rec :=
  let n := memNat m (pa + 0x2000 + 16 * i) 16
  let len := bitsOf n 39 24
  ⟨bitsOf n 127 120, engOf (bitsOf n 119 118), Fin.ofNat 16 (bitsOf n 117 114), bitsOf n 113 112, bitsOf n 111 110,
    sextN 22 (bitsOf n 109 88), bitsOf n 87 64, bitsOf n 63 40, if len = 0 then 65536 else len, bitsOf n 23 0⟩

/-- How many records an area holds. -/
def areaCount (m : Mem) (pa : Nat) : Nat := min 512 (bitsOf (memNat m (pa + 0x20) 8) 9 0)

/-- `n` bytes of the in-flight data area from a record's DOFF. -/
def areaData (m : Mem) (pa : Nat) (r : Rec) (o n : Nat) : List Byte := memReadN m (pa + 0x4000 + 64 * r.doff + o) n

/-- When byte `n` of a record performs. -/
def recCycle (scc : Nat) (r : Rec) (n : Nat) : Nat := (scc + r.pcyc + rateOff r.rate n).toNat

/-- The addresses of a record's bytes: those of the write that it was saved from, moved to its DST, and as many as its
LEN. -/
def recAddrs (r : Rec) (as : List Int) : List Int :=
  let a0 := as.head?.getD r.dst
  let d : Int := if wrapN 64 a0 % 2 ^ 24 = r.dst then 0 else r.dst - a0
  let more := (List.range (r.len - as.length)).map (fun (k : Nat) => as.getLast?.getD (r.dst - 1) + 1 + (k : Int))
  ((as ++ more).take r.len).map (· + d)

/-- Whether a record's destination is the masks: a vector record's, at offsets that no program access reaches (19 R358).
-/
def inMasks (r : Rec) : Bool := r.eng == .vector && r.space == 0 && 0x800000 ≤ r.dst && r.dst < 0x800080

/-- Bytes of the masks from byte `a` of m0 to m7 on: a whole mask, or some of their bytes (19 R358). -/
def maskWrite (a : Nat) (bs : List Byte) : PWrite :=
  if a % 16 = 0 ∧ bs.length = 16 ∧ a < 128 then .mask (Fin.ofNat 8 (a / 16)) (BitVec.ofNat 128 (bytesNat bs))
  else .maskPart ((bs.zipIdx.map (fun p => (a + p.2, p.1))).filter (fun p => p.1 < 128))

/-- Bytes that perform as a record says, in its store or, with `masks`, in the masks. -/
def recBytes (scc : Nat) (r : Rec) (f : Pend) (masks : Bool) (ws : List (Int × Byte)) : List Pend :=
  let cuts := if r.rate = 0 then [] else (List.range (r.len / (64 * r.rate))).map (fun k => f.pos + 64 * r.rate * (k + 1))
  (cutBytes f.pos ws cuts).map (fun c => { f with
    pcyc := recCycle scc r (c.1 - f.pos), pos := c.1, len := if cuts.isEmpty then f.len else c.2.length,
    w := if masks then maskWrite (r.dst - 0x800000 + (c.1 - f.pos)) (c.2.map Prod.snd) else .bytes (storeOf r.space) c.2 })

/-- The type in which an ACCUMULATE record adds that no accumulating command was saved in: the tile's in the accumulator
store, else f32 (DESIGN CHOICE, log entry 11). -/
def addedType (m : Mem) (pa : Nat) (r : Rec) : Fin 16 :=
  let t := (areaTile m (pa + 0x1800 + 128 * (r.dst / 0x20000 % 16))).ttype
  if r.space = 1 ∧ tySize t.val ≠ 0 then t else 1

/-- The values that a record's data adds to its bytes, at 80 bytes a value; `own` gives those that the area does not
hold. -/
def recAdds (m : Mem) (pa : Nat) (r : Rec) (f : Pend) (ty : Fin 16) (rm : Fin 4) (as : List Int) (own : Option (Nat → Addend)) : Pend :=
  let sz := max 1 (tySize ty.val)
  let val := own.getD (fun i => heldVal (areaData m pa r (80 * i) 80))
  { f with w := .accum (storeOf r.space) ty rm ((List.range (r.len / sz)).map (fun i => ((as.drop (i * sz)).take sz, val i))) }

/-- The writes that a record stands for as it is written now, `g` being those it was saved from: KIND, placement, data
and when they perform come from the area; PENDING data is requested again. -/
def areaGroup (m : Mem) (pa scc : Nat) (r : Rec) (g : List Pend) : List Pend :=
  match g with
  | [] => []
  | f :: _ =>
    let pending := r.kind == 3
    let f := { f with eng := r.eng, arrived := !pending, need := pending, ready := 0, pcyc := recCycle scc r 0 }
    let as := recAddrs r (g.flatMap (fun p => match p.w with
      | .bytes _ ws => ws.map Prod.fst
      | .accum _ _ _ hs => hs.flatMap Prod.fst
      | _ => []))
    let data := fun n => if pending then (g.flatMap pendData).take n else areaData m pa r 0 n
    let store := recBytes scc r f (inMasks r && as.head?.getD (r.dst : Int) == (r.dst : Int)) (as.zip (data r.len))
    match r.kind, f.w with
    | 1, .weight _ d sd tag | 3, .weight _ d sd tag =>
      let bs := data (d.length + sd.length)
      if r.space = 2 then [{ f with w := .weight (Fin.ofNat 128 (r.dst / 8192)) (bs.take d.length) (bs.drop d.length) tag }]
      else store
    | 2, .accum _ ty rm _ => [recAdds m pa r f ty rm as none]
    | 3, .accum _ ty rm hs => [recAdds m pa r f ty rm as (some (fun i => ((hs[i]?).map Prod.snd).getD ⟨.nan, false⟩))]
    | 1, _ | 3, _ => store
    | 2, _ => [recAdds m pa r f (addedType m pa r) 0 as none]
    | _, _ => []

/-- A write of a record beyond those that were saved: STORE data performs, and ACCUMULATE data is added, rounded to
nearest even; PENDING names no command and does nothing (04 R112, DESIGN CHOICE, log entry 11). -/
def areaExtra (m : Mem) (pa scc : Nat) (r : Rec) : List Pend :=
  let p : Pend := ⟨0, r.eng, recCycle scc r 0, true, false, 0, r.len, 0, 0, .bytes .spad []⟩
  let as := recAddrs r []
  if r.kind = 1 then recBytes scc r p (inMasks r) (as.zip (areaData m pa r 0 r.len))
  else if r.kind = 2 then [recAdds m pa r p (addedType m pa r) 0 as none]
  else []

/-- Whether a saved write or command stands in the area whole; what had no room in it is kept beside (DESIGN CHOICE,
log entry 11). -/
def inArea (i : Nat) (r : Rec) (n : Nat) : Bool := i < 512 && 64 * r.doff + n ≤ 0x40000 && n != 0

/-- The writes in flight of a context that resumes: those of the saved records, those that a PROGRESS record became, and
those of added ones. -/
def areaPends (m : Mem) (x : Ctx) : List Pend :=
  let pa := x.pa
  let scc := memNat m (pa + 8) 8
  let gs := records x.jobs x.pends
  let n := gs.length
  let extra := fun (k : Nat) => areaExtra m pa scc (areaRec m pa k)
  let ready := fun (p : Pend) => { p with pcyc := p.pcyc + scc - x.scc, need := !p.arrived, ready := 0 }
  (gs.zipIdx.map (fun g =>
    let r := areaRec m pa g.2
    if !inArea g.2 r (recordData x.jobs g.1).length then g.1.map ready
    else if areaCount m pa ≤ g.2 then []
    else areaGroup m pa scc r g.1)).flatten ++
  ((x.jobs.filter partly).zipIdx.map (fun q =>
    let i := n + q.2
    if inArea i (areaRec m pa i) (32 + q.1.buf.length) && i < areaCount m pa then extra i else [])).flatten ++
  ((List.range (areaCount m pa - (n + x.jobs.countP partly))).map (fun k => extra (n + x.jobs.countP partly + k))).flatten

/-- A command at the step that NSTEP names, unless that is where it stood. -/
def atStep (j : Job) (n : Nat) : Job :=
  if stepUnit j % 2 ^ 24 = n then j
  else
    let k := ((List.range (j.nsteps + 1)).find? (fun k => n ≤ stepUnit { j with formed := k })).getD j.nsteps
    { j with step := k, formed := k }

/-- A partly executed command as its PROGRESS record, number `i`, says now; one whose record is gone has no step left.
-/
def areaProgress (m : Mem) (x : Ctx) (i : Nat) (j : Job) : Job :=
  let r := areaRec m x.pa i
  let d := fun o n => areaData m x.pa r o n
  if !inArea i r (32 + j.buf.length) then j
  else if areaCount m x.pa ≤ i ∨ r.kind ≠ 4 then { j with step := j.nsteps, formed := j.nsteps }
  else
    let cmd := (decodeCmd j.eng (word (bytesNat (d 0 8)))).getD j.cmd
    atStep { j with
      cmd := cmd, sset := r.slot, iss := bytesNat (d 8 8), snap := { j.snap with fmt := word (bytesNat (d 24 8)) },
      buf := d 32 j.buf.length, chk := if 12 ≤ (cmdHdr cmd).schk.val then some (bytesNat (d 16 8) % 2 ^ 48) else none } r.nstep

/-- A command with the slot and the source descriptor that its first record of a write holds: GBASE and GCTL of a VLDG,
MXSPILL of an SLFILL, else the descriptor of QS (01 R27, 04 R112). -/
def areaSource (m : Mem) (x : Ctx) (j : Job) : Job :=
  let j := { j with iss := j.iss + memNat m (x.pa + 8) 8 - x.scc }
  match (records x.jobs x.pends).zipIdx.find? (fun g => (g.1.head?.map (fun p => p.job)) == some j.id) with
  | none => j
  | some g =>
    let r := areaRec m x.pa g.2
    if !inArea g.2 r (recordData x.jobs g.1).length || areaCount m x.pa ≤ g.2 then j
    else
      let j := { j with sset := r.slot }
      let at_ := fun (k : Nat) => word (bytesNat (areaData m x.pa r (8 * k) 8))
      if r.kind ≠ 3 then j
      else match j.cmd with
      | .vldg _ _ _ _ _ _ _ => { j with snap := { j.snap with gbase := at_ 0, gctl := at_ 1 } }
      | .slfill _ _ _ => { j with snap := { j.snap with mxspill := at_ 0 } }
      | _ => { j with snap := { j.snap with qs := Vector.ofFn (fun k => at_ k.val) } }

/-- The command that an added PROGRESS record, number `i`, names, at the step NSTEP and with the id `id`: none when the
area holds no such record, its word is none of its engine's, or its checks at issue fail (04 R112, DESIGN CHOICE, log
entry 11). `u` is the core as it resumes, without commands. -/
def areaAdded (u : State) (pa : Nat) (i id : Nat) : Option Job :=
  let m := u.base.mem
  let r := areaRec m pa i
  let d := fun o => word (bytesNat (areaData m pa r o 8))
  if r.kind ≠ 4 then none
  else ((decodeCmd r.eng (d 0)).bind (fun cmd => issuedJob u cmd (d 24))).map (fun j =>
    let chk := if 12 ≤ (cmdHdr j.cmd).schk.val then some ((d 16).toNat % 2 ^ 48) else none
    let k := atStep j r.nstep
    { k with id := id, sset := r.slot, iss := (d 8).toNat, minDone := (d 8).toNat + (j.minDone - j.iss), chk := chk })

/-- The commands in flight of a context that resumes, those of records that became or were added as PROGRESS last: a
channel that is not STOPPED in the area holds no stopped copy. -/
def areaJobs (u : State) (x : Ctx) : List Job :=
  let m := u.base.mem
  let scc := memNat m (x.pa + 8) 8
  let gs := records x.jobs x.pends
  let n := gs.length
  let became := (gs.zipIdx.filter (fun g =>
    g.2 < areaCount m x.pa && inArea g.2 (areaRec m x.pa g.2) (recordData x.jobs g.1).length)).map Prod.snd
  let saved := x.jobs.map (fun j =>
    let j := areaSource m x { j with minDone := j.minDone + scc - x.scc }
    let k := match ((x.jobs.filter partly).findIdx? (fun i => i.id == j.id)) with
      | some i =>
        let k := areaProgress m x (n + i) j
        if cmdWord k = cmdWord j then k else (areaAdded u x.pa (n + i) j.id).getD k
      | none => j
    let stopped := ((chanOf j.cmd).map (fun ch => (memNat m (x.pa + 0x740 + 32 * ch.val) 8).testBit 62)).getD true
    { k with gran := none, stop := if stopped then k.stop else none })
  let last := x.jobs.foldl (fun k j => max k j.id) 0
  let all := n + x.jobs.countP partly
  let added := became ++ (List.range (areaCount m x.pa - all)).map (fun k => all + k)
  saved ++ added.zipIdx.filterMap (fun k => areaAdded u x.pa k.1 (last + 1 + k.2))

/-- The engine registers as commands see them after a resume. -/
def effOf (r : Csr) (e : Engines) : EffCsr := ⟨r.qk, r.extdist, e.vfcr, e.mxspill, e.gctl, e.gbase⟩

/-- The engines that an area holds, without commands and writes in flight. -/
def areaStores (s : State) (x : Ctx) : Engines :=
  let m := s.base.mem
  let pa := x.pa
  let scc := memNat m (pa + 8) 8
  let seq := areaSeq m pa
  let qs : Vector Desc 16 := Vector.ofFn (fun k => Vector.ofFn (fun w => memWord m (pa + 0x1000 + 64 * k.val + 8 * w.val)))
  let gctl : Vector Word 4 := Vector.ofFn (fun k => memWord m (pa + 0x1608 + 64 * k.val) &&& gctlMask)
  let extAt := fun a (c : CReg) => refill s seq.c[c] (extRegOf (memNat m a 16))
  let pair := fun a (c : CReg) => ExtPair.mk (extAt a c) (extAt (a + 16) c)
  let st := fun (base : Nat) (size : Nat) => memWrites [] (memMove m (pa + base) size 0)
  { Engines.start with
    rings := Vector.ofFn (fun k => areaRing m (pa + 0x560 + 24 * k.val) (x.nextIss[k] + scc - x.scc))
    fq := (List.range (min 32 (memNat m (pa + 0x5C0) 8))).map (fun k => (memWord m (pa + 0x5C8 + 8 * k), 0))
    slots := Vector.ofFn (fun k =>
      if 1 ≤ k.val ∧ k.val ≤ 11 then
        ⟨BitVec.ofNat 16 (memNat m (pa + 0x6FC + 4 * k.val) 2), BitVec.ofNat 16 (memNat m (pa + 0x6FE + 4 * k.val) 2)⟩
      else ⟨0, 0⟩)
    chans := Vector.ofFn (fun k =>
      let a := pa + 0x740 + 32 * k.val
      ⟨memNat m a 6, memNat m (a + 8) 6, (memNat m a 8).testBit 62, memWord m (a + 16)⟩)
    qs := qs
    gctl := gctl
    gbase := Vector.ofFn (fun k => memWord m (pa + 0x1600 + 64 * k.val))
    ext := Vector.ofFn (fun k =>
      if h : k.val < 16 then pair (pa + 0x1400 + 32 * k.val) (descCreg qs[k.val])
      else
        let g : Fin 4 := Fin.ofNat 4 (k.val - 16)
        pair (pa + 0x1620 + 64 * g.val) (gctlCreg gctl[g]))
    extJob := x.extJob
    chkCfg := x.chkCfg
    chkHit := x.chkHit
    masks := Vector.ofFn (fun k => BitVec.ofNat 128 (memNat m (pa + 0x1700 + 16 * k.val) 16))
    vfcr := memWord m (pa + 0x1780) &&& vfcrMask
    vwst := memWord m (pa + 0x1788) &&& vwstMask
    mxspill := memWord m (pa + 0x1848) &&& mxspillMask
    tiles := Vector.ofFn (fun t => areaTile m (pa + 0x1800 + 128 * t.val))
    wtag := Vector.ofFn (fun k =>
      let v := memNat m (pa + 0x1840 + 128 * (k.val / 8) + k.val % 8) 1
      if v = 0xFF then none else some (Fin.ofNat 16 v))
    spad := st 0x44000 Config.spadSize
    acc := st 0x444000 Config.accSize
    wpl := st 0x644000 0x100000
    side := st 0x744000 0x20000 }

/-- The engines that an area and the context's hidden part hold, with the commands and writes in flight. -/
def areaEng (s : State) (x : Ctx) : Engines :=
  let m := s.base.mem
  let r := areaCsr m x.pa
  let e := areaStores s x
  let u := { s with core := { Core.free s.core.id with seq := areaSeq m x.pa, csr := r, eng := { e with eff := effOf r e }, lease := some x.lease } }
  let jobs := areaJobs u x
  { e with
    chans := Vector.ofFn (fun k =>
      { e.chans[k] with
        wpBase := ((e.chans[k]).wpBase + 2 ^ 48 - openCount (jobs.filter (fun j => chanOf j.cmd == some k)) % 2 ^ 48) % 2 ^ 48 })
    jobs := jobs
    pends := areaPends m x
    transit := x.transit.map (fun t => { t with need := !t.arrived && t.job != 0, arrived := t.arrived || t.job == 0 })
    reports := x.reports
    nextJob := jobs.foldl (fun n j => max n j.id) 0
    efault := x.efault }

/-- The freeze with which a context resumes (04 R110): none for cause 0 and for a power throttle; else the cause,
slot, engine and step that the area holds. Its 2^24 cycles begin anew (DESIGN CHOICE, log entry 65). -/
def areaFreeze (s : State) (x : Ctx) : Option Freeze :=
  let n := memNat s.base.mem (x.pa + 0x18) 8
  let cause := n % 256
  if cause = 0 ∨ cause = 7 then none
  else
    let was := x.freeze.filter (fun f => f.cause == cause)
    some ⟨cause, Fin.ofNat 16 (bitsOf n 11 8), engOf (bitsOf n 13 12), bitsOf n 39 16, s.gtc, was.bind (fun f => f.job),
      (was.map (fun f => f.need)).getD 0, (was.map (fun f => f.bytes)).getD 0, was.bind (fun f => f.chan)⟩

/-- RSTAT of ring `k` (05 R137). -/
def rstatWord (s : State) (k : Fin 3) : Word :=
  let r := s.core.eng.rings[k]
  let mine := s.core.eng.jobs.filter (fun j => engIdx j.eng == k)
  let arr := ringArr s.core.eng k
  word ((mine.foldl (fun n j => n + recUse s j) 0) * 2 ^ 48 + arr.2 * 2 ^ 42 + b2n (mine.any (fun j => !j.done)) 40 + b2n arr.1 39
    + b2n r.idle 38 + b2n (standing s) 37 + b2n r.en 36 + r.lgsz * 2 ^ 32
    + r.tail.toNat * 2 ^ 16 + r.head.toNat)

/-- SLOTRD of slot `d` (05 R140). -/
def slotWord (e : Engines) (d : Fin 16) : Word :=
  if d = 0 then 0
  else if d.val ≤ 11 then word ((e.slots[d]).comp.toNat * 65536 + (e.slots[d]).iss.toNat)
  else word (chanWp e (Fin.ofNat 4 (d.val - 12)))

/-- RSTAT and SLOTRD of the current core as they stand now, which instructions see from the next cycle on (05 R137,
R140). -/
def latched (s : State) : Engines :=
  { s.core.eng with
    rstatL := Vector.ofFn (fun k => rstatWord s k)
    slotL := Vector.ofFn (fun k => slotWord s.core.eng k) }

/-- The power class of a context's segment, as its area holds it (01 R36, 04 R112). -/
def ctxClass (s : State) (x : Ctx) : Fin 4 := (areaCsr s.base.mem x.pa).pclass.toFin

/-- A core that takes up a context (01 R36): x6 keeps the core id of the lease's start. -/
def resumeCore (s : State) (x : Ctx) (c : Core) : Core :=
  let r := areaCsr s.base.mem x.pa
  let e := areaEng s x
  let c := { freeCore c with
    seq := areaSeq s.base.mem x.pa
    csr := r
    eng := { e with eff := effOf r e, freeze := areaFreeze s x, nextJob := e.nextJob + 1 }
    tcache := x.pins
    refusal := x.refusal
    power := if ctxClass s x = 0 then none else some (ctxClass s x)
    lease := some x.lease }
  { c with eng := latched { s with core := c } }

/-- Whether core `id`, which is to resume a context, has leave for class `k`: class 0 has, a granted request has, and
one that the leave manager can grant at once (22 R399). -/
def leaveNow (s : State) (id : Nat) (k : Fin 4) : Bool :=
  let d := dieOf id
  let die := s.base.dies[d]
  k == 0 || (findCore s id).bind (fun c => c.power) == some k ||
    (die.waiting.isEmpty && s.base.temp.toNat < 95 && powerHeld s d + die.costs[k] ≤ die.cap)

/-- The request for leave of a free core that is to resume a context waits in its die's queue, in arrival order (22
R399). -/
def queueLeave (s : State) (id : Nat) (k : Fin 4) : State :=
  let d := dieOf id
  let die := s.base.dies[d]
  if die.waiting.contains (id, k) then s
  else
    onBase (placeCore s id (fun c => { c with power := none })) (fun b => { b with
      dies := b.dies.set d { die with waiting := die.waiting.filter (fun p => p.1 != id) ++ [(id, k)] } })

/-- A context whose format word is wrong does not resume: its lease ends FAULTED with CODE 0x02, SUB 0 (04 R112). -/
def refuseContext (s : State) (x : Ctx) : State :=
  let s := onBase s (fun b =>
    { b.wrote (memPut b.mem (x.pa + 0x458) 8 (causeWord 2 0 0 0 false 0).toNat) (x.pa + 0x458) 8 with
      ctxs := b.ctxs.map (fun y => if y.pa = x.pa then { y with faulted := true } else y) })
  let l := x.lease
  let s := onLaunch s l.launch (fun k =>
    { k with live := k.live - 1, faulted := k.faulted + 1, ents := k.ents ++ [⟨l.idx, l.stage, 2, l.id, x.pa⟩] })
  finishLaunch s l.launch

/-- Whether a core belongs to the core set of a lease's stage (01 R36). -/
def inCoreSet (s : State) (l : Lease) (core : Nat) : Bool :=
  ((launchOf s l).bind (fun k => k.stages[l.stage.val]?)).any (fun g => g.cores.getLsbD core)

/-- CONTEXT_RESUME: a saved context resumes on a free core of its core set, once the base has its power leave; without
leave its request waits in its turn, and the base tries again at the next GTC cycle. -/
def execContextResume (core : Nat) (pa : Nat) (s : State) : Out :=
  match s.base.ctxs.find? (fun x => x.pa == pa && !x.faulted) with
  | none => .next s
  | some x =>
    if memNat s.base.mem pa 2 ≠ 1 ∨ memNat s.base.mem (pa + 4) 4 ≠ 0x764 then .next (refuseContext s x)
    else if !inCoreSet s x.lease core || !coreFree s core then .next s
    else if !leaveNow s core (ctxClass s x) then
      .next { queueLeave s core (ctxClass s x) with inputs := s.inputs ++ [(s.gtc + 1, .contextResume core pa)] }
    else
      let s' := placeCore s core (resumeCore s x)
      .next (onBase s' (fun b => { b with ctxs := b.ctxs.filter (fun y => y.pa != pa) }))

/-- CONTEXT_RELEASE: kernel software releases a FAULTED context; its pins go, those through a capability with P only
when the launch has completed (04 R108, 22 R393). -/
def execContextRelease (pa : Nat) (s : State) : Out :=
  match s.base.ctxs.find? (fun x => x.pa == pa && x.faulted) with
  | none => .next s
  | some x =>
    let s := onBase s (fun b => { b with ctxs := b.ctxs.filter (fun y => y.pa != pa) })
    let live := s.base.launches.any (fun l => l.id == x.lease.launch)
    let pins := if live then x.pins else x.pins.map (fun t => { t with long := false })
    .next (releasePins s pins x.lease.launch)

end Sys2Proof.Machine
end

