-- ==== Sys2Proof/Machine/Sync.lean ====
section
/-! DEFINITION. Machine/Sync.lean: the SYNC group (spec 12 R286 to R296, 10 R237, R241, R242). -/

namespace Sys2Proof.Machine

/-- FENCE performs the release half and then the acquire half (12 R286). -/
def execFence (ord : Ord) (s : State) : Out := released s ord [] (fun s => .next (retire 1 (acquireHalf (setWait s .none) ord)))

/-- The request of a barrier instruction at its home: `k` gets the PA and offset of a live barrier; elsewhere the
instruction traps as illegal-operand (12 R286). -/
def barrierHome (s : State) (o : ObjEnt) (off : Nat) (k : State → Nat → Nat → Out) : Out :=
  match paOf o off with
  | none => .next (takeTrap s (trapOperand 0 (word off)))
  | some pa => if liveBar s pa then k s pa off else .next (takeTrap s (trapOperand 0 (word off)))

/-- A barrier instruction without an ordering immediate. -/
def atBarrier (b : CReg) (s : State) (k : State → Nat → Nat → Out) : Out :=
  withOp s b (rdC s b).cursor.toNat 16 16 permA [1] (fun s o off => barrierHome s o off k)

/-- A barrier instruction with an ordering immediate. -/
def atBarrierOrd (b : CReg) (ord : Ord) (s : State) (k : State → Nat → Nat → Out) : Out :=
  withOrd s b ord (fun _ _ _ => []) (fun _ _ => true) (fun s o off _ => barrierHome s o off k)

/-- BINIT makes a live barrier with PEND and EXPECT from the operand; at a live object it clobbers (12 R287). -/
def execBinit (b : CReg) (expect : Fin 1048576) (kind : Fin 256) (s : State) : Out :=
  withOp s b (rdC s b).cursor.toNat 16 16 permA [1] (fun s o off =>
    if kind = 0 then .next (takeTrap s (trapOperand 0 0))
    else match paOf o off with
      | none => .next (takeTrap s (trapOperand 0 (word off)))
      | some pa =>
        if (liveObj s pa).isSome then .next (takeTrap s ⟨0x16, 0, 0, word off⟩)
        else
          let s := barWrite s pa ⟨0, expect.val, expect.val, 0, 0, kind.val⟩
          let l : LiveObj := ⟨pa, true, 0, 0, true, []⟩
          .next (retire 1 { s with base := { s.base with live := s.base.live ++ [l] } }))

/-- BXFER sets the reload counts, and a fresh phase's counts (12 R288). -/
def execBxfer (b : CReg) (c : XReg) (s : State) : Out :=
  atBarrier b s (fun s pa _ =>
    let xin := (rdX s c).setWidth 32
    let xout := (rdX s c).extractLsb' 32 32
    let fresh := ((liveObj s pa).map (fun l => l.fresh)).getD false
    let s := if fresh then barWrite s pa { barRead s pa with inb := xin.toNat, outb := xout.toNat } else s
    .next (retire 1 (onLive s pa (fun l => { l with xin := xin, xout := xout, fresh := false }))))

/-- BARR arrives and returns the generation; with A = 0 it is posted, and a refusal is raised at the next instruction
boundary (12 R289, R279). -/
def execBarr (a : XReg) (b : CReg) (c : XReg) (s : State) : Out :=
  let refuse := fun (s : State) (off : Word) => { s with core := { s.core with refusal := some (off, s.core.csr.mode) } }
  withOp s b (rdC s b).cursor.toNat 16 16 permA [1] (fun s o off =>
    let live := ((paOf o off).map (liveBar s)).getD false
    if !live then
      if a = 0 then .next (retire 1 (refuse s (word off))) else .next (takeTrap s (trapOperand 0 (word off)))
    else match (paOf o off).bind (fun pa => barOp s s.core.id pa 0 ((rdX s c).toNat % 16)) with
      | some (s, g) => .next (retire 1 (wrX s a (word g)))
      | none => if a = 0 then .next (retire 1 (refuse s (word off))) else .next (takeTrap s ⟨0x15, 0, 0, word off⟩))

/-- A BWAIT whose release has come completes: its acquire half follows the response (12 R290, 10 R240). -/
def bwaitDone (s : State) (ord : Ord) : State := retire 1 (setWait (acquireHalf s ord) .none)

/-- A BARRW whose release has come completes with the generation of its arrival (12 R291). -/
def barrwDone (s : State) (a : XReg) (g : Nat) (ord : Ord) : State :=
  retire 1 (wrX (setWait (acquireHalf s ord) .none) a (word g))

/-- BWAIT: release half, registration, the wait for another generation, acquire half (12 R290, 09 R225). -/
def execBwait (b : CReg) (c : XReg) (ord : Ord) (s : State) : Out :=
  match s.core.wait with
  | .bwait _ true => .next (bwaitDone s ord)
  | .bwait _ false => .next s
  | _ =>
    atBarrierOrd b ord s (fun s pa _ =>
      if (barRead s pa).gen ≠ (rdX s c).toNat % 16 then .next (bwaitDone s ord)
      else .next (setWait (registerWaiter s pa) (.bwait pa false)))

/-- BARRW: release half, arrival and registration as one transaction, the wait, acquire half; x[A] is the arrival's
generation. After a preemption its arrival is matched to the lease's resume arrival (12 R291, R280). -/
def execBarrw (a : XReg) (b : CReg) (c : XReg) (ord : Ord) (s : State) : Out :=
  match s.core.wait with
  | .barrw _ g true => .next (barrwDone s a g ord)
  | .barrw _ _ false => .next s
  | _ =>
    atBarrierOrd b ord s (fun s pa off =>
      let arrived : Option (State × Nat) :=
        match s.core.lease.bind (fun l => l.resumeArr) with
        | some (q, g) =>
          if q = pa then some (onLease s s.core.id (fun l => { l with resumeArr := none }), g)
          else barOp s s.core.id pa 0 ((rdX s c).toNat % 16)
        | none => barOp s s.core.id pa 0 ((rdX s c).toNat % 16)
      match arrived with
      | none => .next (takeTrap s ⟨0x15, 0, 0, word off⟩)
      | some (s, g) =>
        if (barRead s pa).gen ≠ g then .next (barrwDone s a g ord)
        else .next (setWait (registerWaiter s pa) (.barrw pa g false)))

/-- NREG of the sync object at `pa` (09 R226). -/
def syncNreg (s : State) (pa : Nat) : Nat := memNat s.base.mem (pa + 12) 2

/-- Writing NREG of the sync object at `pa`. -/
def syncPutNreg (s : State) (pa n : Nat) : State := homePutPa s (pa + 12) (natBytes 2 n) false false

/-- BFREE frees a live barrier without waiters or a live sync object without bound regions (12 R292). -/
def execBfree (b : CReg) (s : State) : Out :=
  withOp s b (rdC s b).cursor.toNat 16 16 permA [1] (fun s o off =>
    match (paOf o off).bind (fun pa => (liveObj s pa).map (fun l => (pa, l))) with
    | none => .next (takeTrap s (trapOperand 0 (word off)))
    | some (pa, l) =>
      if (l.isBar && !l.waiters.isEmpty) || (!l.isBar && syncNreg s pa != 0) then .next (takeTrap s (trapOperand 0 (word off)))
      else
        let s := homePutPa s pa (List.replicate 16 0) false false
        .next (retire 1 { s with base := { s.base with live := s.base.live.filter (fun k => k.pa != pa) } }))

/-- SOINIT makes a live sync object with VER 0 and NREG 0 (12 R293). -/
def execSoinit (b : CReg) (s : State) : Out :=
  withOp s b (rdC s b).cursor.toNat 16 16 permA [1] (fun s o off =>
    match paOf o off with
    | none => .next (takeTrap s (trapOperand 0 (word off)))
    | some pa =>
      if (liveObj s pa).isSome then .next (takeTrap s ⟨0x16, 0, 0, word off⟩)
      else
        let s := homePutPa s pa (List.replicate 16 0) false false
        let l : LiveObj := ⟨pa, false, 0, 0, false, []⟩
        .next (retire 1 { s with base := { s.base with live := s.base.live ++ [l] } }))

/-- The regions bound to the sync object at `pa` (10 R241). -/
def boundTo (s : State) (pa : Nat) (oid : BitVec 24) : Bool := s.base.objs.any (fun o => o.oid == oid && o.sync == pa)

/-- The regions bound to the sync object at an offset, as REL finds them when it begins (10 R241). -/
def boundAt (s : State) (o : ObjEnt) (off : Nat) : List (BitVec 24) :=
  match paOf o off with
  | none => []
  | some pa => (s.base.objs.filter (fun e => e.sync == pa)).map (fun e => e.oid)

/-- ACQ and REL at a live sync object; elsewhere they trap (12 R294). -/
def atSync (b : CReg) (ord : Ord) (s : State) (ready : State → List (BitVec 24) → Bool)
    (k : State → Nat → List (BitVec 24) → Out) : Out :=
  withOrd s b ord boundAt ready (fun s o off bound => match paOf o off with
    | none => .next (takeTrap s (trapOperand 0 (word off)))
    | some pa => if liveSync s pa then k s pa bound else .next (takeTrap s (trapOperand 0 (word off))))

/-- ACQ: the request, then the clean SOFT words of the regions bound when it acts at the home go, and the acquire half
(10 R242); a region that a rebind moves while the ACQ waits is in as its binding then stands: 10 R244 leaves it open
(DESIGN CHOICE, log entry 85). -/
def execAcq (b : CReg) (ord : Ord) (s : State) : Out :=
  atSync b ord s (fun _ _ => true) (fun s pa _ =>
    let s := dropWords s s.core.id (fun w => !w.dirty && boundTo s pa w.oid &&
      !((findObj s w.oid).map (fun e => e.coh)).getD false)
    .next (retire 1 (acquireHalf (setWait s .none) ord)))

/-- REL: the release half, the bound regions' dirty words committed and their earlier engine writes awaited, then VER
goes up (10 R241, 09 R226). -/
def execRel (b : CReg) (ord : Ord) (s : State) : Out :=
  atSync b ord s (fun s bound => !owes s (fun e => bound.contains e.oid)) (fun s pa bound =>
    let s := writeBack s s.core.id (fun w => bound.contains w.oid)
    let s := homePutPa s pa (natBytes 8 (memNat s.base.mem pa 8 + 1)) false false
    .next (retire 1 (acquireHalf (setWait s .none) ord)))

/-- The object of the sync object that cC names, after the core's checks; none for the null capability (12 R279, R295).
-/
def bindObj (s : State) (c : CReg) : Except Trap (Option ObjEnt) :=
  let k := rdC s c
  if !k.tag && k.bits = 0 then .ok none
  else match checkHome s c k.cursor.toNat 16 16 permA [1] with
    | .error t => .error t
    | .ok o => .ok (some o)

/-- The live sync object that cC names, 0 for the null capability, as the home finds it (12 R295). -/
def bindTarget (s : State) (c : CReg) (p : Option ObjEnt) : Except Trap Nat :=
  let off := (rdC s c).cursor
  match p with
  | none => .ok 0
  | some o => match paOf o off.toNat with
    | none => .error (trapOperand 0 off)
    | some pa => if liveSync s pa then .ok pa else .error (trapOperand 0 off)

/-- RBIND, once both capabilities have passed, records the sync object in the region's entry and moves NREG; a count
above 65,535 is refused (12 R279, R295). -/
def execRbind (b c : CReg) (s : State) : Out :=
  let off := (rdC s b).cursor.toNat
  withCap s b (checkHome s b off 1 1 (permR ||| permW) [1, 2, 3]) (fun s o =>
    match bindObj s c with
    | .error t => .next (takeTrap s t)
    | .ok p =>
      let s := if p.isSome then touchCap s c else s
      leaving s (fun s =>
        let s := sent s o off
        match bindTarget s c p with
        | .error t => .next (takeTrap s t)
        | .ok new =>
          if new = o.sync then .next (retire 1 s)
          else if new ≠ 0 ∧ syncNreg s new = 65535 then .next (takeTrap s (trapOperand 0 (rdC s c).cursor))
          else
            let s := onObj s o.oid (fun e => { e with sync := new })
            let s := if o.sync = 0 then s else syncPutNreg s o.sync (syncNreg s o.sync - 1)
            let s := if new = 0 then s else syncPutNreg s new (syncNreg s new + 1)
            .next (retire 1 s)))

/-- One core's turn in the sweep of RMODE: its dirty words of the region are written back and stay clean, tracked by the
directory; the words swept so far and the first word a second core wrote (10 R237). -/
def sweepCore (o : ObjEnt) (acc : State × List Nat × Option Nat) (id : Nat) : State × List Nat × Option Nat :=
  match findCore acc.1 id with
  | none => acc
  | some c =>
    let ws := sortBy (fun w => w.pa) (c.l1.filter (fun w => w.dirty && w.oid == o.oid))
    let s := writeBack acc.1 id (fun w => w.oid == o.oid)
    let dir := (c.l1.filter (fun w => w.oid == o.oid)).foldl (fun d w => dirAdd d id w.pa 8 false) s.base.dir
    let first := match acc.2.2 with
      | some k => some k
      | none => (ws.find? (fun w => acc.2.1.contains w.off)).map (fun w => w.off)
    ({ s with base := { s.base with dir := dir } }, acc.2.1 ++ ws.map (fun w => w.off), first)

/-- RMODE changes a region's coherence mode: to COHERENT with a sweep of the L1s in ascending core id and the conflict
flag; to SOFT its directory entries go (12 R296, 10 R237). -/
def execRmode (b : CReg) (mode : Bool) (s : State) : Out :=
  withOp s b (rdC s b).cursor.toNat 1 1 (permR ||| permW) [2, 3] (fun s o _ =>
    if o.coh = mode then .next (retire 1 s)
    else
      let s := onObj s o.oid (fun e => { e with coh := mode })
      if mode then
        let (s, _, hit) := (allCores s).foldl (fun acc c => sweepCore o acc c.id) (s, [], none)
        let s := match hit with
          | none => s
          | some off => onObj s o.oid (fun e => { e with conflict := true, caddr := off })
        .next (retire 1 s)
      else
        let ds := s.base.dir.filter (fun d => !o.exts.any (fun e => e.pa ≤ d.block * 128 && d.block * 128 < e.pa + e.npg * 4096))
        .next (retire 1 { s with base := { s.base with dir := ds } }))

end Sys2Proof.Machine
end

