-- ==== Sys2Proof/Machine/HomeEvents.lean ====
section
/-! DEFINITION. Machine/HomeEvents.lean: responses and releases that reach a core, reservations that expire, draining stores, and
directory probes (spec 09 R216 to R225, 10 R232, 12 R279). -/

namespace Sys2Proof.Machine

/-- The instruction at the current core's pc. -/
def atPc (s : State) : Option Instr := (codeWord s s.core.seq.pc.toNat).bind decodeSeq

/-- HOME_RESPONSE: the release of a registered BWAIT or BARRW has come, and its instruction completes (12 R279, R290,
R291). -/
def execHomeResponse (s : State) : Out :=
  match s.core.wait, atPc s with
  | .bwait _ true, some (.bwait _ _ ord) => .next (bwaitDone s ord)
  | .barrw _ g true, some (.barrw a _ _ ord) => .next (barrwDone s a g ord)
  | _, _ => .next s

/-- POSTED_BARR_REFUSAL: barrier-phase at the instruction boundary, with AUX 0xFFFE and the barrier's offset (12
R279). -/
def execPostedBarrRefusal (s : State) : Out :=
  match s.core.refusal with
  | none => .next s
  | some (off, _) =>
    .next (takeTrapAt { s with core := { s.core with refusal := none } } ⟨0x15, 0, 0xFFFE, off⟩ s.core.seq.pc 0)

/-- A wait whose release has arrived. -/
def freeWait (w : Wait) (pa : Nat) : Wait :=
  match w with
  | .bwait p r => .bwait p (r || p == pa)
  | .barrw p g r => .barrw p g (r || p == pa)
  | w => w

/-- BARRIER_RELEASE: the oldest release arrives at its core (09 R225). -/
def execBarrierRelease (s : State) : Out :=
  match s.base.releases with
  | [] => .next s
  | (c, pa) :: rest =>
    .next (onCore (onBase s (fun b => { b with releases := rest })) c (fun k => { k with wait := freeWait k.wait pa }))

/-- Whether a reservation is 4,096 cycles old (09 R221). -/
def resvOld (s : State) (r : Resv) : Bool := r.gtc + Config.resvLife ≤ s.gtc

/-- RESERVATION_TIMEOUT: reservations that have reached their age are removed. -/
def execReservationTimeout (s : State) : Out :=
  .next (onBase s (fun b => { b with resv := b.resv.filter (fun r => !resvOld s r) }))

/-- STORE_BUFFER_DRAIN: the oldest store drains into the L1 or to its home (10 R232). -/
def execStoreBufferDrain (s : State) : Out := .next (drainOne s)

/-- The bytes that words `first` to `last` of a block take. -/
def probeSpan (block : Nat) (first last : Fin 16) : Nat × Nat := (128 * block + 8 * first.val, 8 * (last.val + 1 - first.val))

/-- DIRECTORY_PROBE: the core writes back the overlapping dirty words of COHERENT regions and invalidates the
overlapping words; a power-gated core answers for clean words from its tags, and its dirty words wait for the array to
wake (09 R217 to R219). -/
def execDirectoryProbe (core : Nat) (block : Nat) (first last : Fin 16) (s : State) : Out :=
  let (a, n) := probeSpan block first last
  match findCore s core with
  | none => .next s
  | some c =>
    let hit := fun (w : L1Word) => overlaps w a n && cohWord s w
    if retains s a n c then .next (dirRefresh (wake (dropWords s core (fun w => !w.dirty && hit w)) core a n) block)
    else .next (dirRefresh (dropWords (writeBack s core hit) core hit) block)

/-- Whether a probe of a gated core has waited the 128 cycles of the wake (09 R219). -/
def wokenProbe (s : State) (p : Nat × Nat × Nat × Nat) : Bool := p.2.2.2 + 128 ≤ s.gtc

/-- RETENTION_WAKE_WRITEBACK: the data array has woken; the probed dirty words are written back and invalidated, and
the array returns to retention (09 R219). -/
def execRetentionWakeWriteback (core : Nat) (s : State) : Out :=
  let due := s.base.wakes.filter (fun p => p.1 == core && wokenProbe s p)
  let hit := fun (w : L1Word) => due.any (fun p => overlaps w p.2.1 p.2.2.1) && cohWord s w
  let s := onBase s (fun b => { b with wakes := b.wakes.filter (fun p => !due.contains p) })
  let s := dropWords (writeBack s core hit) core hit
  .next ((due.flatMap (fun p => blocksOf p.2.1 p.2.2.1)).foldl dirRefresh s)

end Sys2Proof.Machine
end

