-- ==== Sys2Proof/Machine/Vbus.lean ====
section
/-! DEFINITION. Machine/Vbus.lean: the vertical bus: a failing transfer, its retries, retraining and half width (spec 08 R192,
R195). -/

namespace Sys2Proof.Machine

/-- A vertical-bus log entry (08 R195). -/
def logVbus (s : State) (die : Fin 8) (chan : Fin 16) (event pa group attempt width : Nat) : State :=
  let p := vbusLogPa die.val
  let n := memNat s.base.mem p 8
  logAppend s p (n % 2 ^ 32 + width * 2 ^ 43 + attempt * 2 ^ 45 + group * 2 ^ 47 + chan.val * 2 ^ 52 + die.val * 2 ^ 56)
    event pa s.gtc

/-! ## Who waits for a granule (08 R192) -/

/-- The late positions of a command: those whose bytes have not come. -/
def lateOf (e : Engines) (j : Job) : List (Nat × Nat) :=
  (e.pends.filter (fun p => p.job == j.id && !p.arrived)).map (fun p => (p.pos, max 1 p.len)) ++
  (e.transit.filter (fun t => t.job == j.id && !t.arrived)).map (fun t => (t.pos, max 1 t.len))

/-- Whether a command takes bytes from an object; the table of a GATHER is the object that its capability names. -/
def readsFrom (j : Job) (o : ObjEnt) : Bool :=
  [j.snap.objS, j.snap.objX].any (fun x => (x.map (fun y => y.oid == o.oid)).getD false) ||
    (isGather j.cmd && capOid j.snap.capS == o.oid)

/-- The addresses of the source that bytes of a command take at destination positions `pos` to `pos + n - 1`, as first
address and length (07 R176 to R187, 15 R325, 19 R359): a selection takes all of its source. -/
def sourceOf (j : Job) (o : ObjEnt) (pos n : Nat) : List (Int × Nat) :=
  let whole := pieces (directView (jS j) 0) 0 (strmLen (jS j))
  let each := fun (f : Nat → Option Nat) (v : View) =>
    ((List.range n).filterMap (fun i => f (pos + i))).flatMap (fun p => (viewAddrs v p 1).map (fun a => (a, 1)))
  let cut := fun (l : List (Int × Nat × Nat)) => l.map (fun p => (p.1, p.2.2))
  match j.cmd with
  | .cpy _ _ _ _ _ => cut (pieces (cpySrc j 0).v pos n)
  | .gather _ _ _ _ _ _ | .scatter _ _ _ _ _ _ | .scatadd _ _ _ _ _ _ => cut (pieces (rowSrc j 0).v pos n)
  | .accwr _ _ _ _ _ _ _ =>
    let su := max 1 (tySize (jD j).ty)
    let st := max 1 (tySize (jS j).ty)
    cut (pieces (directView (jS j) 0) (pos / su * st) (ceilDiv n su * st))
  | .topkr _ _ _ _ _ _ _ _ | .topkc _ _ _ _ _ _ _ | .topkcTab _ _ _ _ _ _ _ _ => cut whole
  | .compact _ _ _ _ _ _ _ | .expand _ _ _ _ _ _ _ => each (packFrom j) (directView (jS j) 0)
  | .dskip _ _ _ _ _ _ _ _ => if strmLen (jD j) ≤ pos then [] else each (skipFrom j o) (skipSrc j o 0).v
  | .vldg _ _ _ _ t off _ =>
    let sz := max 1 (tySize t.val)
    ((List.range (128 / sz)).filter (fun i => i * sz < pos + n && pos < (i + 1) * sz)).map (fun i => ((laneOff j t.val off i : Nat), sz))
  | .slfill _ t l => [((recordOff j.snap.mxspill t.val l.val + pos : Nat), n)]
  | _ => []

/-- Whether late positions of a command await bytes of the granule at offset `off` of object `o` (DESIGN CHOICE, log
entry 53). -/
def awaitsGranule (j : Job) (o : ObjEnt) (off pos len : Nat) : Bool :=
  readsFrom j o && (sourceOf j o pos len).any (fun r => r.1 < off + 256 && (off : Int) < r.1 + r.2)

/-- The first position of a late part that awaits bytes of a granule: its element's, for a VLDG (20 R364). -/
def firstAwait (j : Job) (o : ObjEnt) (off pos len : Nat) : Nat :=
  match j.cmd with
  | .vldg _ _ _ _ t _ _ =>
    let sz := max 1 (tySize t.val)
    (((List.range (128 / sz)).map (fun i => i * sz)).find? (fun p => p < pos + len && pos < p + sz && awaitsGranule j o off p sz)).getD pos
  | _ => pos

/-- Reporting a memory error of a granule to every core whose engines await its bytes. -/
def reportGranule (s : State) (pa : Nat) : State :=
  match objAtPa s (pa / 256 * 256) with
  | none => s
  | some (o, off) =>
    (allCores s).foldl (fun s c => atCore s c.id (fun s =>
      s.core.eng.jobs.foldl (fun s j =>
        match (lateOf s.core.eng j).find? (fun l => awaitsGranule j o off l.1 l.2) with
        | some l => addReport s ⟨j.id, j.eng, j.entry, j.formed, 4, o.oid, off, firstAwait j o off l.1 l.2, s.gtc, false, none⟩
        | none => s) s)) s

/-- A granule that has passed arrives at the cores that await it (08 R192). -/
def granuleArrives (s : State) (pa : Nat) : State :=
  match objAtPa s (pa / 256 * 256) with
  | none => s
  | some (o, off) =>
    onCores s (fun c =>
      let mine := fun (id pos len : Nat) => c.eng.jobs.any (fun j => j.id == id && awaitsGranule j o off pos (max 1 len))
      { c with eng := { c.eng with
        pends := c.eng.pends.map (fun p =>
          if !p.arrived && !p.need && mine p.job p.pos p.len then { p with arrived := true, ready := s.gtc + p.lag } else p)
        transit := c.eng.transit.map (fun t =>
          if !t.arrived && !t.need && mine t.job t.pos t.len then { t with arrived := true } else t) } })

/-! ## The sequence (08 R192) -/

/-- The reports that wait for a channel become unresolvable when it is disabled. -/
def failReports (s : State) (die : Fin 8) (chan : Fin 16) : State :=
  onCores s (fun c => { c with eng := { c.eng with reports := c.eng.reports.map (fun r =>
    match (findObj s r.oid).bind (fun o => (paOf o r.off).bind (dramChan (some o))) with
    | some (d, k) => if r.cause = 4 ∧ d = die ∧ k = chan ∧ r.sub.isNone then { r with sub := some 2 } else r
    | none => r) } })

/-- The failing transfer has passed: those that queue behind it are sent in their order, each read of a whole granule
into its way, checked and logged; the reading serves the access that waits for it, which comes by the next cycle, and
what an uncorrectable word does is left to that access. -/
def sendQueued (s : State) (v : VChan) : State :=
  v.queue.foldl (fun s r =>
    let s := (wayRead s r.home r.kind (some (v.die, v.chan)) (r.gran * 256) 256 r.core r.pid).1
    if uncorrectable s.base (r.gran * 256) 256 then servesUntil s r.home r.gran (s.gtc + 1)
    else if r.dirty then useLine s r.home r.gran r.kind r.pid true else s) (putVchan s { v with vseq := none, queue := [] })

/-- The third retry has failed: at full width the channel retrains once and is then halved; at half width it is
disabled, and nothing queues on it any more. -/
def exhausted (s : State) (v : VChan) (q : VSeq) : State :=
  if v.width = 0 then putVchan s { v with vseq := some { q with attempt := if q.retrained then 4 else 3, since := s.gtc } }
  else
    let s := putVchan (logVbus s v.die v.chan 5 0 q.group.val 0 3) { v with width := 3, vseq := none, queue := [] }
    failReports s v.die v.chan

/-- TRANSFER_PARITY_ERROR: a first attempt fails, whether it begins a sequence or follows a retraining or a halving;
waiting cores are told. -/
def execTransferParityError (die : Fin 8) (chan : Fin 16) (group : Fin 32) (pa : Nat) (s : State) : Out :=
  let v := vchanOf s.base die chan
  let g := pa / 256 * 256
  if v.width = 3 then .next s
  else match v.vseq with
    | none =>
      let s := logVbus s die chan 1 g group.val 0 v.width.val
      .next (reportGranule (putVchan s { v with vseq := some ⟨g, group, 0, s.gtc, false, v.width != 0⟩ }) g)
    | some q =>
      if q.attempt ≠ 5 then .next s
      else
        let s := logVbus s die chan 1 q.pa group.val 0 v.width.val
        .next (putVchan s { v with vseq := some { q with attempt := 0, since := s.gtc } })

/-- TRANSFER_RETRY: the transfer is sent again, 24 cycles after a failed attempt, or once after a retraining or a
halving; a pass ends the sequence and delivers the granule, a failure is logged. -/
def execTransferRetry (die : Fin 8) (chan : Fin 16) (pass : Bool) (group : Fin 32) (s : State) : Out :=
  let v := vchanOf s.base die chan
  match v.vseq with
  | none => .next s
  | some q =>
    let ready := (q.attempt < 3 && q.since + 24 ≤ s.gtc) || q.attempt == 5
    if !ready then .next s
    else if pass then .next (granuleArrives (sendQueued s v) q.pa)
    else
      let a := if q.attempt = 5 then 0 else q.attempt + 1
      let s := logVbus s die chan 1 q.pa group.val a v.width.val
      if a = 3 then .next (exhausted s v q) else .next (putVchan s { v with vseq := some { q with attempt := a, since := s.gtc } })

/-- CHANNEL_RETRAIN_DONE: a retraining ends; after a success the transfer is sent again, after a failure the channel
is halved. -/
def execChannelRetrainDone (die : Fin 8) (chan : Fin 16) (ok : Bool) (s : State) : Out :=
  let v := vchanOf s.base die chan
  match v.vseq with
  | none => .next s
  | some q =>
    if q.attempt ≠ 3 then .next s
    else
      let s := logVbus s die chan (if ok then 3 else 2) 0 q.group.val 0 v.width.val
      .next (putVchan s { v with vseq := some { q with attempt := if ok then 5 else 4, since := s.gtc, retrained := true } })

/-- HALF_WIDTH_DONE: 256 cycles after it began, the half of the lanes with the first failing group is disabled. -/
def execHalfWidthDone (die : Fin 8) (chan : Fin 16) (s : State) : Out :=
  let v := vchanOf s.base die chan
  match v.vseq with
  | none => .next s
  | some q =>
    if q.attempt ≠ 4 ∨ s.gtc < q.since + 256 then .next s
    else
      let w : Fin 4 := if q.group.val < 16 then 2 else 1
      let s := logVbus s die chan 4 0 q.group.val 0 w.val
      .next (putVchan s { v with width := w, vseq := some { q with attempt := 5, since := s.gtc, halved := true } })

/-- What a channel does next by itself, once it is due: the retry 24 cycles after a failed attempt, the send after a
retraining or a halving, the end of a retraining within 4,096 cycles and of a halving after 256. The outcomes that the
world has not given by then, and the cycles that a transfer takes to reach the core, are free values (log entry 38).
-/
def vbusDue (s : State) (v : VChan) : Option Instr :=
  match v.vseq with
  | none => none
  | some q =>
    let pass := Config.retryPasses q.since v.die v.chan
    let cross := Config.crossCycles q.since
    if (q.attempt < 3 && q.since + 24 + (if pass then cross else 0) ≤ s.gtc) || (q.attempt == 5 && q.since + cross < s.gtc) then
      some (.transferRetry v.die v.chan pass (Config.retryGroup q.since v.die v.chan))
    else if q.attempt == 3 && q.since + (Config.retrainCycles q.since).val + 1 ≤ s.gtc then
      some (.channelRetrainDone v.die v.chan (Config.retrainOk s.gtc))
    else if q.attempt == 4 && q.since + 256 ≤ s.gtc then some (.halfWidthDone v.die v.chan)
    else none

end Sys2Proof.Machine
end

