-- ==== Sys2Proof/Machine/Host.lean ====
section
/-! DEFINITION. Machine/Host.lean: what the host and the side-band port do to the module: CXL.mem requests, BAR0, and messages
(spec 10 R250, 09 R223, 11 R260, R268, 22 R388 to R390, R400, R403). -/

namespace Sys2Proof.Machine

/-! ## CXL.mem (10 R250, 22 R388) -/

/-- Whether the host reaches the bytes: the two HDM decoders map the interleaved stacked DRAM window and LPDDR (22
R388), and host memory is the host's own. -/
def hdmMapped (pa n : Nat) : Bool :=
  paRangeOk pa n && match paKind pa with
    | .window => true
    | .lpddr => true
    | .host => true
    | _ => false

/-- The base's copies of the lines of host memory that the host writes go (10 R250). -/
def dropHostLines (s : State) (pa n : Nat) : State :=
  if paKind pa == .host then
    onBase s (fun b => { b with lines := b.lines.filter (fun l => l.gran * 256 + 256 ≤ pa || pa + n ≤ l.gran * 256) })
  else s

/-- A read of one granule's backing memory at a device address, through the ways of its home (08 R191, R192, 09 R200).
-/
def fetchAt (s : State) (pid : Fin 16) (pa n : Nat) : State × Fetch :=
  match objAtPa s pa, paKind pa with
  | some (o, off), _ => dramRead s o off n 0x3FF pid
  | none, .stage _ _ => (s, .ok)
  | none, _ => wayRead s (homeOfPa pa) 1 (dramChan none pa) pa n 0x3FF pid

/-- A request of the host or the base for bytes of one granule reaches its home, with `up` bytes and `down` bytes of
answer: dirty L1 copies of a COHERENT region come back, or its holders lose the words unless `read`, and in host bias
the host's lines do (09 R209, R217, 10 R251). -/
def reachAt (s : State) (pid : Fin 16) (pa n up down : Nat) (read : Bool) : State :=
  match objAtPa s pa with
  | some (o, off) => takeBack (serve s (homeOf o pa) up down pid .request none) none o off n read
  | none => hostRecall (serve s (homeOfPa pa) up down pid .request none) pa

/-- The bytes of one granule at a device address for partition `pid`, as the host or the base reads them, none while
their channel carries a failing transfer; `take` when the same transaction writes them too. A word that cannot be
corrected is logged and read as it stands (DESIGN CHOICE, log entry 63). -/
def readPa (s : State) (pid : Fin 16) (pa n : Nat) (take : Bool := false) : State × Option (List Byte) :=
  match fetchAt s pid pa n with
  | (s, .busy) => (s, none)
  | (s, _) =>
    let s := reachAt s pid pa n (if take then n else 0) n (!take)
    (s, some (memReadN s.base.mem pa n))

/-- Bytes of one granule at a device address commit; the base keeps no copy of a line of host memory that the host
writes (10 R250). -/
def putPa (s : State) (pid : Fin 16) (pa : Nat) (bs : List Byte) (atomic : Bool) : State :=
  dropHostLines (homePutPa s pa bs false atomic pid) pa bs.length

/-- Committing bytes of one granule at a device address for partition `pid`; a COHERENT region's holders lose the
words first (09 R217). -/
def writePa (s : State) (pid : Fin 16) (pa : Nat) (bs : List Byte) (atomic : Bool) : State :=
  putPa (reachAt s pid pa bs.length bs.length 0 false) pid pa bs atomic

/-- A range of bytes, granule by granule; none while one of them waits. -/
def readRange (s : State) (pid : Fin 16) (pa n : Nat) : State × Option (List Byte) :=
  (granules pa n).foldl (fun (acc : State × Option (List Byte)) g =>
    let (s, b) := readPa acc.1 pid g.1 g.2.2
    (s, acc.2.bind (fun a => b.map (a ++ ·)))) (s, some [])
def writeRange (s : State) (pid : Fin 16) (pa : Nat) (bs : List Byte) : State :=
  (granules pa bs.length).foldl (fun s g => writePa s pid g.1 ((bs.drop g.2.1).take g.2.2) false) s

/-- A command that waits behind a failing transfer is tried again at the next GTC cycle (08 R192). -/
def again (s : State) (i : Instr) : Out := .next { s with inputs := s.inputs ++ [(s.gtc + 1, i)] }

/-- Whether the host's request goes to homes of device memory, in arrival order (10 R250). -/
def hostRequest (i : Instr) : Bool :=
  match i with
  | .hostRead _ _ | .hostWrite _ _ | .hostAtomic _ _ _ _ => true
  | _ => false

/-- A request of the host that waits is tried again at the next GTC cycle, and those behind it wait with it (08 R192, 10
R250). -/
def hostAgain (s : State) (i : Instr) : Out :=
  .next { s with inputs := (s.gtc + 1, i) :: s.inputs.map (fun p => if hostRequest p.2 then (max p.1 (s.gtc + 1), p.2) else p) }

/-- HOST_READ: a CXL.mem read returns committed values; a range that no decoder maps does not reach the module (22
R388). -/
def execHostRead (pa len : Nat) (s : State) : Out :=
  if !hdmMapped pa len then .next s
  else
    match readRange s s.base.hpid pa len with
    | (s, none) => hostAgain s (.hostRead pa len)
    | (s, some bs) => .next (onBase s (fun b => { b with hostData := bs }))

/-- The type 3 record of the bytes that a write puts into one 32-byte block (22 R403). -/
def captureBlock (s : State) (pa : Nat) (bs : List Byte) : State :=
  let a := pa / 32 * 32
  let at_ := pa - a
  let data := List.replicate at_ 0 ++ bs ++ List.replicate (32 - at_ - bs.length) 0
  captureRec s 3 (natBytes 8 a ++ data ++ natBytes 4 s.base.capture.starts ++ natBytes 4 ((2 ^ bs.length - 1) * 2 ^ at_))

/-- A list of bytes cut at multiples of `w` of its address. -/
def cutAt (w : Nat) : Nat → Nat → List Byte → List (Nat × List Byte)
  | 0, _, _ => []
  | fuel + 1, pa, bs =>
    match bs with
    | [] => []
    | _ =>
      let n := w - pa % w
      (pa, bs.take n) :: cutAt w fuel (pa + n) (bs.drop n)

/-- The records of a host write, in ascending address. -/
def captureWrite (s : State) (pa : Nat) (bs : List Byte) : State :=
  (cutAt 32 (bs.length + 1) pa bs).foldl (fun s c => captureBlock s c.1 c.2) s

/-- Whether bytes that the host writes meet words of power-gated cores (09 R219). -/
def wakeAt (s : State) (pa n : Nat) : State × Fetch :=
  match objAtPa s pa with
  | some (o, off) => if hostDrops s pa n || !hdmMapped pa n then (s, .ok) else wakeAsk s o off n
  | none => (s, .ok)

/-- One 64-byte piece of a host write. -/
def hostWriteBlock (s : State) (pa : Nat) (bs : List Byte) : State :=
  if hostDrops s pa bs.length then logEvent s 3 pa 0 s.base.hpid.val
  else captureWrite (writePa s s.base.hpid pa bs false) pa bs

/-- HOST_WRITE: a CXL.mem write commits at its homes, with their digests; pieces in tagged blocks or span tables are
dropped and reported, and pieces that no decoder maps do not reach the module (22 R388). The write waits while power-
gated cores wake for words that it takes (09 R219). -/
def execHostWrite (pa : Nat) (data : List Byte) (s : State) : Out :=
  let ps := cutAt 64 (data.length + 1) pa data
  match ps.foldl (fun (acc : State × Fetch) p => let r := wakeAt acc.1 p.1 p.2.length; (r.1, acc.2.and r.2)) (s, .ok) with
  | (t, .busy) => hostAgain t (.hostWrite pa data)
  | _ =>
    .next (ps.foldl (fun s p =>
      if hostDrops s p.1 p.2.length || hdmMapped p.1 p.2.length then hostWriteBlock s p.1 p.2 else s) s)

/-- The value a home atomic writes, in the order of 12 R283; none for no write. -/
def atomicValue (op : Fin 11) (old v e : Word) : Option Word :=
  match op.val with
  | 0 => some (old + v)
  | 1 => some (old &&& v)
  | 2 => some (old ||| v)
  | 3 => some (old ^^^ v)
  | 4 => some (if old.slt v then old else v)
  | 5 => some (if old.slt v then v else old)
  | 6 => some (if old.ult v then old else v)
  | 7 => some (if old.ult v then v else old)
  | 8 => some v
  | 9 => if old = e then some v else none
  | _ => some (word (addTy 0 0 old.toNat v.toNat))

/-- HOST_ATOMIC: a host atomic is applied at its home in one transaction, its digest as a read-modify-write (11 R260);
the capture records the write it committed (22 R403). -/
def execHostAtomic (op : Fin 11) (pa : Nat) (v e : Word) (s : State) : Out :=
  let a := pa / 8 * 8
  if hostDrops s a 8 then .next (logEvent s 3 a 0 s.base.hpid.val)
  else if !hdmMapped a 8 then .next s
  else
    match readPa s s.base.hpid a 8 true with
    | (s, none) => hostAgain s (.hostAtomic op pa v e)
    | (s, some bs) =>
      let s := onBase s (fun b => { b with hostData := bs })
      match atomicValue op (word (bytesNat bs)) v e with
      | none => .next s
      | some w => .next (captureWrite (putPa s s.base.hpid a (wordBytes w) true) a (wordBytes w))

/-- HOST_LINE_INVALIDATE: the host writes its own memory; the bytes commit at their homes with the digests of their
blocks, and the base's copy of each line goes, so later HOST reads fetch the host's value (10 R250, 11 R258, R260).
Another range is not host memory, and nothing happens there. -/
def execHostLineInvalidate (pa : Nat) (data : List Byte) (s : State) : Out :=
  .next (if paRangeOk pa data.length && paKind pa == .host then writeRange s s.base.hpid pa data else s)

/-! ## BAR0 and the other command sources (22 R389, R390, R400) -/

/-- The host commands that wait in arrival order. -/
def hostQueued (s : State) : Nat := s.base.cmdq.countP (fun c => c.src == .host)

/-- Removing the last `n` host commands of a list given last first. -/
def unpost : Nat → List CmdArr → List CmdArr
  | 0, l => l
  | _, [] => []
  | n + 1, c :: t => if c.src = .host then unpost n t else c :: unpost (n + 1) t

/-- The source of a command that reads device memory, which a failing transfer may hold: put back, it is still under way
(08 R192, 22 R389). -/
def heldCmd (i : Instr) : Option CmdCtx :=
  match i with
  | .objset c _ | .launchq c _ _ | .replay c _ _ | .attest c _ _ | .fwload c _ => some c
  | _ => none

/-- The host's commands that have left the ring and are not executed: those that wait, replay, or are tried again. -/
def hostRunning (s : State) : Nat :=
  s.base.cmdWaits.countP (fun w => w.c.src == .host) + (s.base.replay.toList.countP (fun r => r.c.src == .host)) +
    s.inputs.countP (fun p => (heldCmd p.2).any (fun c => c.src == .host))

/-- HCQTAIL_WRITE: the host posts records; a write that would leave more than 256 unexecuted is ignored. -/
def execHcqtailWrite (v : Word) (s : State) : Out :=
  let new := v.setWidth 9
  let pending := (new - s.base.hcqhead).toNat
  if 256 < pending then .next s
  else
    let want := pending - hostRunning s
    let have_ := hostQueued s
    let q := if have_ ≤ want then s.base.cmdq ++ List.replicate (want - have_) ⟨.host, 0, Vector.replicate 8 0⟩
      else (unpost (have_ - want) s.base.cmdq.reverse).reverse
    .next (onBase s (fun b => { b with hcqtail := new, cmdq := q }))

/-- HCQBASE_WRITE: ignored while records are pending; bits 11:0 read 0. -/
def execHcqbaseWrite (v : Word) (s : State) : Out :=
  if s.base.hcqhead = s.base.hcqtail then .next (onBase s (fun b => { b with hcqbase := word (v.toNat / 4096 * 4096) })) else .next s

/-- What the register at offset `off` of BAR0 reads: its value, with its reserved bits 0; an offset that is not listed
reads 0 (22 R389). -/
def bar0Read (b : Base) (off : Nat) : Word :=
  match off with
  | 0x00 => b.hcqbase
  | 0x08 => b.hcqtail.setWidth 64
  | 0x10 => b.hcqhead.setWidth 64
  | 0x18 => word b.hpid.val
  | 0x20 => b.evtcount
  | 0x28 => b.temp.setWidth 64
  | _ => 0

/-- What a host write to offset `off` of BAR0 is: a read-only register and an offset that is not listed ignore it (22
R389). -/
def bar0Write (off : Nat) (v : Word) : Option Instr :=
  match off with
  | 0x00 => some (.hcqbaseWrite v)
  | 0x08 => some (.hcqtailWrite v)
  | 0x18 => some (.registerWrite .hpid v)
  | _ => none

/-- KERNEL_DOORBELL: kernel code has stored 1 to its doorbell, and its command joins the others in arrival order. -/
def execKernelDoorbell (s : State) : Out :=
  match s.base.kbell with
  | [] => .next s
  | p :: rest => .next (onBase s (fun b => { b with kbell := rest, cmdq := b.cmdq ++ [⟨.kernel, p, Vector.replicate 8 0⟩] }))

/-- SIDEBAND_MESSAGE: a message carries one command record; side-band commands carry PID 0. -/
def execSidebandMessage (rec_ : Vector Word 8) (s : State) : Out :=
  .next (onBase s (fun b => { b with cmdq := b.cmdq ++ [⟨.sideband, 0, rec_⟩] }))

/-- The logs that the side-band port reads: the event log, then the array logs, then the vertical-bus logs. -/
def logPa (log : Fin 17) : Nat :=
  if log.val = 0 then eventLogPa else if log.val ≤ 8 then arrayLogPa (log.val - 1) else vbusLogPa (log.val - 9)

/-- SIDEBAND_LOG_READ: eight bytes of a log at an offset; there are none beyond its 8 KiB. -/
def execSidebandLogRead (log : Fin 17) (off : Nat) (s : State) : Out :=
  .next (onBase s (fun b => { b with sideData := memReadN b.mem (logPa log + off) (min 8 (8192 - off)) }))

end Sys2Proof.Machine
end

