-- ==== Sys2Proof/Machine/Command.lean ====
section
/-! DEFINITION. Machine/Command.lean: command records and the commands of the object table, of capabilities, bias and launches
(spec 22 R390 to R395, R391, 11 R268, R269, 10 R251). -/

namespace Sys2Proof.Machine

/-! ## What commands share (22 R390, R391) -/

/-- A command that needs the main rail answers NOPOWER without it. -/
def powered (s : State) (c : CmdCtx) (k : State → Out) : Out := if s.base.rail then k s else .next (respond s c 3 0)

/-- A command that names bytes of device memory; an address outside the ranges of 09 R204 is refused (DESIGN CHOICE,
log entry 38). -/
def named (s : State) (c : CmdCtx) (pa n : Nat) (k : State → Out) : Out := if paRangeOk pa n then k s else .next (respond s c 1 0)

/-- A command `i` that reads bytes of device memory: it stays the command under way while they wait behind a failing
transfer (08 R192). -/
def fetched (s : State) (c : CmdCtx) (pa n : Nat) (i : Instr) (k : State → List Byte → Out) : Out :=
  match readRange s c.pid pa n with
  | (s, none) => again s i
  | (s, some bs) => k s bs

/-- Writing bytes of device memory for a command, in 64-byte pieces; one that the host could not write either is
dropped and reported like the host's (DEDUCED, log entry 66). -/
def basePut (s : State) (pid : Fin 16) (pa : Nat) (bs : List Byte) : State :=
  (cutAt 64 (bs.length + 1) pa bs).foldl (fun s p =>
    if hostDrops s p.1 p.2.length then logEvent s 3 p.1 0 pid.val else writePa s pid p.1 p.2 false) s

/-! ## The object table (22 R392, 09 R204) -/

/-- Whether an extent of an object lies where 09 R204 and its space, mode and die admit it. -/
def extentOk (s : State) (space : Nat) (dieLocal : Bool) (die : Fin 8) (e : Extent) : Bool :=
  let n := e.npg * 4096
  !e.res || (e.pa % 4096 == 0 && paRangeOk e.pa n && match paKind e.pa with
    | .window => space == 2 && !dieLocal
    | .dieWindow d => space == 2 && dieLocal && d == die.val
    | .lpddr => space == 2
    | .host => space == 3
    | .stage g o => space == 1 && (List.range 24).all (fun w =>
        wayKind s.base g w == 0 || o + n ≤ w * 2 ^ 20 || (w + 1) * 2 ^ 20 ≤ o)
    | .none => false)

/-- The extents of an image, up to the one of length 0. -/
def imageExtents (d : List Byte) : List Extent :=
  ((List.range 4).map (fun x =>
    let w := recNat d (64 + 16 * x) 8
    Extent.mk (bitsOf w 55 12 * 4096) (w.testBit 0) (recNat d (72 + 16 * x) 8 % 2 ^ 28))).takeWhile (fun e => e.npg != 0)

/-- The entry that OBJSET makes of an image. -/
def entryOf (d : List Byte) : ObjEnt :=
  let w := recNat d 0 8
  ⟨BitVec.ofNat 24 (bitsOf w 63 40), Fin.ofNat 8 (bitsOf w 39 37), w.testBit 36, false, w.testBit 34, Fin.ofNat 8 (bitsOf w 33 31),
    w.testBit 30, false, 1, 0, false, recNat d 8 8 % 2 ^ 48, recNat d 16 8, 0, 0, Fin.ofNat 16 (recNat d 40 8), imageExtents d,
    .plain⟩

/-- The pages that extents hold. -/
def pagesOf (es : List Extent) : Nat := es.foldl (fun n e => n + e.npg) 0

/-- OBJSET creates an entry from an image; refused when its id is in use or reserved, or the image breaks 09 R204 or
22 R392. -/
def execObjset (c : CmdCtx) (pa : Nat) (s : State) : Out :=
  powered s c (fun s => named s c pa 128 (fun s => fetched s c pa 128 (.objset c pa) (fun s d =>
    let e := entryOf d
    if (findObj s e.oid).isSome || e.space.val == 0 || 3 < e.space.val ||
        !e.exts.all (extentOk s e.space.val e.dielocal e.die) || pagesOf e.exts * 4096 < e.len then .next (respond s c 1 0)
    else .next (respond (onBase s (fun b => { b with objs := b.objs ++ [e] })) c 0 0))))

/-- The 128 bytes of an entry (22 R392). -/
def entryBytes (o : ObjEnt) : List Byte :=
  natBytes 8 (o.oid.toNat * 2 ^ 40 + o.space.val * 2 ^ 37 + b2n o.kernel 36 + b2n o.span 35 + b2n o.dielocal 34
      + o.die.val * 2 ^ 31 + b2n o.coh 30 + b2n o.conflict 29 + o.state.val * 2 ^ 27 + o.pins % 65536 * 2 ^ 11 + b2n o.basewr 10) ++
  natBytes 8 o.len ++ natBytes 8 o.sync ++ natBytes 8 o.dcfg.toNat ++ natBytes 8 o.caddr ++ natBytes 8 o.owner.val ++
  List.replicate 16 0 ++
  (List.range 4).flatMap (fun x => match o.exts[x]? with
    | some e => natBytes 8 (e.pa % 2 ^ 56 / 4096 * 4096 + b2n e.res 0) ++ natBytes 8 e.npg
    | none => List.replicate 16 0)

/-- OBJRD writes an entry to device memory; an id without an entry reads as INVALID. It works from the standby rail. -/
def execObjrd (c : CmdCtx) (oid : BitVec 24) (pa : Nat) (s : State) : Out :=
  named s c pa 128 (fun s =>
    let bs := match s.base.objs.find? (fun o => o.oid == oid) with
      | some o => entryBytes o
      | none => natBytes 8 (oid.toNat * 2 ^ 40) ++ List.replicate 120 0
    .next (respond (basePut s c.pid pa bs) c 0 0))

/-- The extent `x` of an object, when it is not resident. -/
def missingExtent (s : State) (oid : BitVec 24) (x : Nat) : Option (ObjEnt × Extent) :=
  match s.base.objs.find? (fun o => o.oid == oid) with
  | none => none
  | some o => match o.exts[x]? with
    | some e => if e.res then none else some (o, e)
    | none => none

/-- The posted PGFETCHes of a core for an extent have their response (10 R239, 12 R303). -/
def answered (c : Core) (oid : BitVec 24) (x : Nat) : Core := { c with posted := c.posted.filter (· != (oid, x)) }

/-- OBJEXT with w4 0 makes a non-resident extent resident at the given place; everything that waits for it then goes
on (22 R394). -/
def execObjextResolve (c : CmdCtx) (oid : BitVec 24) (x : Nat) (pbase : Word) (s : State) : Out :=
  powered s c (fun s =>
    match missingExtent s oid x with
    | none => .next (respond s c 1 0)
    | some (o, e) =>
      let e' : Extent := ⟨bitsOf pbase.toNat 55 12 * 4096, true, e.npg⟩
      if !extentOk s o.space.val o.dielocal o.die e' then .next (respond s c 1 0)
      else
        .next (respond (onCores (onObj s oid (fun o => { o with exts := o.exts.set x e' })) (fun c => answered c oid x)) c 0 0))

/-- Reports of an extent that the base reports unresolvable (22 R394). -/
def failReps (s : State) (oid : BitVec 24) (x : Nat) (rs : List Report) : List Report :=
  rs.map (fun r =>
    if r.cause = 3 ∧ r.oid = oid ∧ r.sub.isNone ∧ ((findObj s oid).bind (fun o => (extOf o r.off).map Prod.fst)) = some x then
      { r with sub := some 3 } else r)

/-- The waits of a core on an extent that the base reports unresolvable (22 R394). -/
def failExtent (s : State) (oid : BitVec 24) (x : Nat) (c : Core) : Core :=
  { c with
    wait := match c.wait with
      | .resid o y f => .resid o y (f || (o == oid && y == x))
      | .pgfetch o y f => .pgfetch o y (f || (o == oid && y == x))
      | w => w
    eng := { c.eng with reports := failReps s oid x c.eng.reports } }

/-- OBJEXT with w4 1 reports the fault of a non-resident extent unresolvable: each waiter takes its fault, one in a
saved context when it has resumed (22 R394). -/
def execObjextFail (c : CmdCtx) (oid : BitVec 24) (x : Nat) (s : State) : Out :=
  powered s c (fun s =>
    match missingExtent s oid x with
    | none => .next (respond s c 1 0)
    | some _ =>
      let t := onBase s (fun b => { b with ctxs := b.ctxs.map (fun y => { y with reports := failReps s oid x y.reports }) })
      .next (respond (onCores t (fun k => failExtent s oid x (answered k oid x))) c 0 0))

/-! ## Revocation (22 R395) -/

/-- The entry becomes INVALID: it leaves the table with its directory, cache-way and digest-way lines, and nothing
awaits its extents any more. -/
def dropEntry (s : State) (o : ObjEnt) : State :=
  let inside := fun (a : Nat) => o.exts.any (fun e => e.pa ≤ a && a < e.pa + e.npg * 4096)
  let store := fun (a : Nat) => dcfgEn o.dcfg && dcfgStore o.dcfg ≤ a && a < dcfgStore o.dcfg + digStoreLen o o.dcfg
  let s := onCores s (fun c => { c with posted := c.posted.filter (fun p => p.1 != o.oid) })
  onBase s (fun b => { b with
    objs := b.objs.filter (fun p => p.oid != o.oid)
    dir := b.dir.filter (fun d => !inside (d.block * 128))
    lines := b.lines.filter (fun l => !inside (l.gran * 256) && !store (l.gran * 256)) })

/-- OBJINV revokes an object: it answers at once when nothing pins the entry, else it waits. -/
def execObjinv (c : CmdCtx) (oid : BitVec 24) (timeout : Nat) (s : State) : Out :=
  powered s c (fun s =>
    match s.base.objs.find? (fun o => o.oid == oid) with
    | none => .next (respond s c 0 0)
    | some o =>
      let s := onObj s oid (fun o => { o with state := 2 })
      if o.pins = 0 then .next (respond (dropEntry s o) c 0 0)
      else .next (onBase s (fun b => { b with cmdWaits := b.cmdWaits ++ [⟨c, some oid, 0, s.gtc + timeout⟩] })))

/-- The wait of OBJINV for an object. -/
def invWait (s : State) (oid : BitVec 24) : Option CmdWait := s.base.cmdWaits.find? (fun w => w.oid == some oid)

/-- Removing a wait. -/
def dropWait (s : State) (w : CmdWait) : State := onBase s (fun b => { b with cmdWaits := b.cmdWaits.erase w })

/-- A waiting OBJINV whose object nothing pins any more answers OK. -/
def finishInv (s : State) (oid : BitVec 24) : State :=
  match invWait s oid, s.base.objs.find? (fun o => o.oid == oid) with
  | some w, some o => if o.pins = 0 then respond (dropEntry (dropWait s w) o) w.c 0 0 else s
  | some w, none => respond (dropWait s w) w.c 0 0
  | none, _ => s

/-- OBJINV_TIMEOUT: with pins still held it answers TIMEOUT, and the entry stays REVOKING. -/
def execObjinvTimeout (oid : BitVec 24) (s : State) : Out :=
  match invWait s oid with
  | none => .next s
  | some w => if w.deadline ≤ s.gtc then .next (respond (dropWait s w) w.c 2 0) else .next s

/-! ## Capabilities and span tables (22 R391, 11 R268, R269) -/

/-- CAPSTORE stores a capability with tag 1; refused in a tagged barrier line or a span table, and at an unaligned
address. -/
def execCapstore (c : CmdCtx) (pa : Nat) (lo hi : Word) (s : State) : Out :=
  powered s c (fun s => named s c pa 16 (fun s =>
    let span := ((objAtPa s pa).map (fun o => o.1.span)).getD false
    if pa % 16 ≠ 0 || tagged s.base pa 16 || span then .next (respond s c 1 0)
    else
      let bs := wordBytes lo ++ wordBytes hi
      let s := match objAtPa s pa with
        | some (o, off) => homeStore s none o off bs true false c.pid
        | none => homePutPa s pa bs true false c.pid
      .next (respond s c 0 0)))

/-- Whether all extents of an object lie in the staging ways of one slice (11 R268). -/
def oneSlice (o : ObjEnt) : Bool :=
  match o.exts.map (fun e => paKind e.pa) with
  | .stage g _ :: rest => rest.all (fun k => match k with
    | .stage g' _ => g' == g
    | _ => false)
  | _ => false

/-- SPCREATE makes a STAGE object a span table, one that is a span table already too: a fresh header, every entry
EMPTY. -/
def execSpcreate (c : CmdCtx) (oid : BitVec 24) (tpp : Nat) (s : State) : Out :=
  powered s c (fun s =>
    match s.base.objs.find? (fun o => o.oid == oid) with
    | none => .next (respond s c 1 0)
    | some o =>
      let ncap := (o.len - 64) / 16
      if o.space != 1 || !oneSlice o || o.len ≠ 64 + 16 * ncap || ncap = 0 || 65535 < ncap || tpp = 0 || 4096 < tpp then
        .next (respond s c 1 0)
      else
        let s := onObj s oid (fun o => { o with span := false })
        let s := homePutLong s o 0 (natBytes 8 0 ++ natBytes 8 (tpp + 0xFFFF * 2 ^ 32) ++ List.replicate (o.len - 16) 0) c.pid
        .next (respond (onObj s oid (fun o => { o with span := true })) c 0 0))

/-! ## Page bias (10 R251) -/

/-- Whether a page is one of device memory, whichever kind; host memory has no bias (10 R251; REFUSED for another page
is a DESIGN CHOICE, log entry 38). -/
def biasPage (p : Nat) : Bool := paRangeOk (p * 4096) 4096 && paKind (p * 4096) != .host

/-- BIAS to host: every dirty word of the page goes home, no L1 word, directory entry or line of it stays, and the
page is handed to host coherence. -/
def execBiasToHost (c : CmdCtx) (pa : Nat) (s : State) : Out :=
  powered s c (fun s => named s c pa 1 (fun s =>
    let p := pa / 4096
    if !biasPage p then .next (respond s c 1 0)
    else if s.base.bias.contains p then .next (respond s c 0 0)
    else
      let mine := fun (w : L1Word) => w.pa / 4096 == p
      let s := (allCores s).foldl (fun s k => dropWords (writeBack s k.id mine) k.id mine) s
      let s := (s.base.lines.filter (fun l => l.gran * 256 / 4096 == p)).foldl lineBack s
      let s := onBase s (fun b => { b with
        dir := b.dir.filter (fun d => d.block * 128 / 4096 != p)
        lines := b.lines.filter (fun l => l.gran * 256 / 4096 != p)
        bias := b.bias ++ [p] })
      .next (respond s c 0 0)))

/-- BIAS to device: the lines of the page that the host held come back and commit, and the page serves the device
again. -/
def execBiasToDevice (c : CmdCtx) (pa : Nat) (lines : List (Nat × List Byte)) (s : State) : Out :=
  powered s c (fun s => named s c pa 1 (fun s =>
    let p := pa / 4096
    if s.base.bias.contains p then
      let mine := lines.filter (fun l => hostMapped l.1 && l.1 / 4096 == p && (l.1 + l.2.length - 1) / 4096 == p)
      let s := mine.foldl (fun s l => writeRange s s.base.hpid l.1 l.2) s
      .next (respond (onBase s (fun b => { b with bias := b.bias.filter (· != p) })) c 0 0)
    else .next (respond s c 0 0)))

/-! ## Launches (22 R391, R397) -/

/-- Whether a launch record may stand at an address: 64-byte aligned, in STAGE or GLOBAL (22 R397); LAUNCHQ refuses
another place (DESIGN CHOICE, log entry 38). -/
def recordPlace (pa : Nat) : Bool := pa % 64 == 0 && paKind pa != .host

/-- LAUNCHQ places a launch record as LAUNCH does; refused with nothing enqueued when the queue differs from the
header's, is full, or may not be used. -/
def execLaunchq (c : CmdCtx) (pa : Nat) (queue : Nat) (s : State) : Out :=
  powered s c (fun s => named s c pa 128 (fun s =>
    if !recordPlace pa then .next (respond s c 1 0)
    else fetched s c pa 128 (.launchq c pa queue) (fun s hdr =>
      let n := recordSize hdr
      if (recordQueue hdr).map (fun q => q.val) ≠ some queue then .next (respond s c 1 0)
      else named s c pa n (fun s => fetched s c pa n (.launchq c pa queue) (fun s d =>
        match offer s c.pid d (tagAt s.base (pa + 16)) with
        | .accepted s id => .next (respond s c 0 id.toNat)
        | .full => .next (respond s c 1 0)
        | .denied => .next (respond s c 1 0))))))

/-- QCFG sets the partitions that may use a queue; a queue beyond 15 is refused. -/
def execQcfg (c : CmdCtx) (queue : Nat) (mask : BitVec 16) (s : State) : Out :=
  powered s c (fun s =>
    if h : queue < 16 then .next (respond (onBase s (fun b => { b with qcfg := b.qcfg.set queue mask })) c 0 0)
    else .next (respond s c 1 0))

end Sys2Proof.Machine
end

