-- ==== Sys2Proof/Machine/Dig.lean ====
section
/-! DEFINITION. Machine/Dig.lean: the DIG group (spec 12 R297 to R299, 11 R256, R265). -/

namespace Sys2Proof.Machine

/-- The lines of a region's digest store leave the digest ways with its configuration (11 R256). -/
def dropStore (s : State) (o : ObjEnt) : State :=
  let lo := dcfgStore o.dcfg
  if dcfgEn o.dcfg then
    onBase s (fun b => { b with lines := b.lines.filter (fun l => l.gran * 256 < lo || lo + digStoreLen o o.dcfg ≤ l.gran * 256) })
  else s

/-- DCFG, kernel-only, configures or removes a region's digests; an invalid word traps (12 R297, 11 R255, R256). -/
def execDcfg (b : CReg) (c : XReg) (s : State) : Out :=
  kernelOnly s (fun s =>
    withOp s b (rdC s b).cursor.toNat 1 1 permW [2, 3] (fun s o _ =>
      let w := rdX s c
      if dcfgEn w then
        if dcfgValid o w then
          let s := onBase (dropStore s o) (fun b =>
            { eccWritten b (dcfgStore w) (digStoreLen o w) with mem := digInit b.mem { o with dcfg := w } })
          .next (retire 1 (onObj s o.oid (fun e => { e with dcfg := w })))
        else .next (takeTrap s (trapOperand 0 w))
      else .next (retire 1 (onObj (dropStore s o) o.oid (fun e => { e with dcfg := 0 })))))

/-- The register after xA of a pair. -/
def pairReg (a : XReg) : XReg := a + 1

/-- DQ reads one block's digest at the block's home, ordered as a read of the block, into a register pair and sets the
sticky bits for WIDE and BUILDING (12 R298, 10 R248, 11 R266); it waits while a line of the digest does (08 R192). -/
def execDq (a : XReg) (b : CReg) (imm : BitVec 32) (s : State) : Out :=
  withHome s b (effOffImm s b imm) 1 1 permQ [2, 3] (fun s o off =>
    if dcfgEn o.dcfg then
      let j := off / dcfgB o.dcfg
      match digGet s o j s.core.id with
      | (s, none) => .next (setWait s .channel)
      | (s, some d) =>
        let s := serve (setWait s .none) (digHome o j) 0 16 s.core.csr.pid
        let s := wrX (wrX s a (word d.a)) (pairReg a) (word d.b)
        .next (retire 1 (onCsr s (fun r =>
          { r with dstat := r.dstat ||| (if d.st = 1 then 2 else if d.st = 2 then 4 else 0) })))
    else .next (takeTrap s (trapUnresolved 1 b (word off))))

/-- What a rebuild of block `j` reads at its home: the whole block, of which the host's lines come back in host bias and
the L1s' words have no part, and the lines of its digest (11 R265, 10 R248, R251, 08 R191, R192, 14 R313). -/
def rebuildRead (s : State) (o : ObjEnt) (j : Nat) : State × Fetch :=
  let a := j * dcfgB o.dcfg
  let r := dramRead (digRecall s o j) o a (min (dcfgB o.dcfg) (o.len - a)) s.core.id
  let q := digLines r.1 o j s.core.id s.core.csr.pid false
  (q.1, r.2.and q.2)

/-- Rebuilding block `j`, in one transaction at its home (11 R265). -/
def rebuildBlock (s : State) (o : ObjEnt) (j : Nat) : State :=
  let s := (digLines (serve s (digHome o j) 0 0 s.core.csr.pid) o j s.core.id s.core.csr.pid true).1
  onBase s (fun b => { b with mem := digRebuild b.mem o j })

/-- Rebuilding blocks in order, each as it stands. Every block is read before the first is rebuilt: one that fails traps
with nothing rebuilt, and one whose channel retries is waited for (04 R97, R98, 08 R191, R192, 12 R280). -/
def rebuildBlocks (b : CReg) (o : ObjEnt) (off : Nat) (js : List Nat) (s : State) : Res Unit :=
  match js.foldl (fun (acc : State × Fetch) j => let r := rebuildRead acc.1 o j; (r.1, acc.2.and r.2)) (s, .ok) with
  | (s, .busy) => .stall (setWait s .channel)
  | (s, .bad) => .stall (responseTrap s (trapUnresolved 2 b (word off)))
  | (s, .ok) => .ok (js.foldl (fun s j => rebuildBlock s o j) s) ()

/-- DREBUILD rebuilds the blocks of a range in ascending index; a block that is not resident is waited for like an
atomic's word (12 R299, 11 R265, 04 R106). -/
def execDrebuild (b : CReg) (c : XReg) (s : State) : Out :=
  let n := (rdX s c).toNat
  if n = 0 then .next (retire 1 s)
  else
    withHome s b (rdC s b).cursor.toNat n 1 (permR ||| permW) [2, 3] (fun s o off =>
      if dcfgEn o.dcfg then
        let w := dcfgB o.dcfg
        let j0 := off / w
        let m := (off + n - 1) / w + 1 - j0
        match nonResident o (j0 * w) (min (m * w) (o.len - j0 * w)) with
        | some x => finish (residencyWait s b o x) (fun s _ => .next s)
        | none =>
          finish (rebuildBlocks b o off ((List.range m).map (fun k => j0 + k)) (setWait s .none)) (fun s _ => .next (retire 1 s))
      else .next (takeTrap s (trapUnresolved 1 b (word off))))

end Sys2Proof.Machine
end

