-- ==== Sys2Proof/Machine/Registers.lean ====
section
/-! DEFINITION. Machine/Registers.lean: the base's registers: slice configuration, way masks, buckets and weights (spec 09
R201 to R213), and SLCFG_WRITE, PBKT_WRITE and REGISTER_WRITE. -/

namespace Sys2Proof.Machine

/-- Setting the sticky REJ of a slice (09 R203). -/
def slReject (s : State) (g : Nat) : State :=
  onBase s (fun b => { b with slstat := regSet b.slstat g (regGet b.slstat g 0 ||| 1) })

/-- Whether an object-table extent covers any byte of way `w` of slice `g` (09 R202). -/
def wayInUse (s : State) (g w : Nat) : Bool :=
  let lo := stagePa g (w * 2 ^ 20)
  s.base.objs.any (fun o => o.exts.any (fun e => e.pa < lo + 2 ^ 20 && lo < e.pa + e.npg * 4096))

/-- The kind code of way `w` in a value of SLCFG, and slice `g`'s value. -/
def slCode (v : Word) (w : Nat) : Nat := v.toNat / 4 ^ w % 4
def slcfgOf (b : Base) (g : Nat) : Word := regGet b.slcfg g 0x555500000000

/-- The lines of slice `g` whose way changes its kind with value `v`. -/
def slMoved (b : Base) (g : Nat) (v : Word) (l : CLine) : Bool := l.home == g && slCode (slcfgOf b g) l.way.val != slCode v l.way.val

/-- The new kinds apply, and the lines of the ways that change are no longer valid (09 R202). -/
def slApply (s : State) (g : Nat) (v : Word) : State :=
  onBase s (fun b => { b with slcfg := regSet b.slcfg g v, lines := b.lines.filter (fun l => !slMoved s.base g v l) })

/-- One cycle of an accepted SLCFG write that drains: a dirty line of a way that changes is written back, or, with
none left, the write takes effect (09 R202, R203; one line in a cycle, DESIGN CHOICE, log entry 67). -/
def slStep (s : State) (p : Nat × Word) : State :=
  match s.base.lines.find? (fun l => l.dirty && slMoved s.base p.1 p.2 l) with
  | some l => onBase (lineBack s l) (fun b => { b with lines := b.lines.map (fun k => if k = l then { l with dirty := false } else k) })
  | none => onBase (slApply s p.1 p.2) (fun b => { b with slpend := b.slpend.erase p })

/-- The draining of every slice in a cycle: the oldest write of each goes on. -/
def slDrain (s : State) : State :=
  ((List.range 256).filterMap (fun g => s.base.slpend.find? (fun p => p.1 == g))).foldl slStep s

/-- A write of SLCFG: refused for code 3, for more than four DIGEST ways, or when it takes a way in use from STAGE;
else the lines of changed CACHE and DIGEST ways are written back and dropped, which takes cycles when one of them is
dirty (09 R202). -/
def slcfgOp (s : State) (g : Nat) (v : Word) : State :=
  let old := slcfgOf s.base g
  let new := word (v.toNat % 2 ^ 48)
  let code := slCode
  let ws := List.range 24
  if ws.any (fun w => code new w == 3) || 4 < ws.countP (fun w => code new w == 2) ||
      ws.any (fun w => code old w == 0 && code new w != 0 && wayInUse s g w) then slReject s g
  else if s.base.slpend.any (fun p => p.1 == g) || s.base.lines.any (fun l => l.dirty && slMoved s.base g new l) then
    onBase s (fun b => { b with slpend := b.slpend ++ [(g, new)] })
  else slApply s g new

/-- A write of PBKT: refused when the sixteen RATEs of the slice would exceed 12,288; the level stays, counted anew
(09 R209). -/
def pbktOp (s : State) (g p : Nat) (v : Word) : State :=
  let new := word (bitsOf v.toNat 51 32 * 2 ^ 32 + bitsOf v.toNat 15 0)
  let rate := fun q => if q = p then bitsOf v.toNat 15 0 else bitsOf (pbktOf s.base g q).toNat 15 0
  if 12288 < ((List.range 16).map rate).foldl (· + ·) 0 then slReject s g
  else
    let lv := levelOf s g p
    onBase s (fun b => { b with pbkt := regSet b.pbkt (g * 16 + p) new, plvl := regSet b.plvl (g * 16 + p) (lv, s.gtc) })

/-- A write of SLSTAT, PWAY, NWGT or HPID (09 R203, R208, R213, 22 R389). -/
def plainRegOp (s : State) (r : PlainReg) (v : Word) : State :=
  match r with
  | .slstat g => onBase s (fun b => { b with slstat := regSet b.slstat g (regGet b.slstat g 0 &&& (v ||| 2)) })
  | .pway g p => onBase s (fun b => { b with pway := regSet b.pway (g * 16 + p) (word (v.toNat % 2 ^ 24)) })
  | .nwgt p => onBase s (fun b => { b with nwgt := b.nwgt.set (Fin.ofNat 16 p) (word (max 1 (v.toNat % 256))) })
  | .hpid => onBase s (fun b => { b with hpid := Fin.ofNat 16 v.toNat })

/-- An 8-byte store to the base configuration object; other offsets ignore it (09 R201). -/
def configWrite (s : State) (off : Nat) (v : Word) : State :=
  if 0x100000 ≤ off then
    (if off % 8 = 0 ∧ off < 0x100080 then plainRegOp s (.nwgt ((off - 0x100000) / 8)) v else s)
  else
    let g := off / 0x1000
    let r := off % 0x1000
    if r = 0 then slcfgOp s g v
    else if r = 8 then plainRegOp s (.slstat g) v
    else if 0x100 ≤ r ∧ r < 0x180 then plainRegOp s (.pway g ((r - 0x100) / 8)) v
    else if 0x180 ≤ r ∧ r < 0x200 then pbktOp s g ((r - 0x180) / 8) v
    else s

/-- SLCFG_WRITE (09 R202). -/
def execSlcfgWrite (g : Nat) (v : Word) (s : State) : Out := .next (if g < 256 then slcfgOp s g v else s)

/-- PBKT_WRITE (09 R209). -/
def execPbktWrite (g p : Nat) (v : Word) (s : State) : Out := .next (if g < 256 ∧ p < 16 then pbktOp s g p v else s)

/-- REGISTER_WRITE: a register with no refusal of its own takes the value (09 R201, 22 R389). -/
def execRegisterWrite (r : PlainReg) (v : Word) (s : State) : Out := .next (plainRegOp s r v)

end Sys2Proof.Machine
end

