-- ==== Sys2Proof/Machine/LoadStore.lean ====
section
/-! DEFINITION. Machine/LoadStore.lean: LD and ST (spec 05 R128, R129, 04 R105, R106, 09 R201). -/

namespace Sys2Proof.Machine

/-- The loaded value, sign- or zero-extended (05 R128). -/
def extendLoad (sgn : Bool) (bs : List Byte) : Word :=
  if sgn then word (wrapN 64 (sextN (8 * bs.length) (bytesNat bs))) else word (bytesNat bs)

/-- The space a capability's object must have for a space operand (04 R102). -/
def spaceOf (sp : Space) : Fin 8 := Fin.ofNat 8 sp.code

/-- LD: the checks of 04 R102, then the access; a non-resident extent gives 0 and sets RESF (05 R128). -/
def execLd (sp : Space) (sgn : Bool) (size : Fin 4) (a : XReg) (b : CReg) (c : XReg) (imm : BitVec 32) (s : State) : Out :=
  let n := 2 ^ size.val
  let off := effOff s b c imm
  withCap s b (checkCap s b off n n permR (some (spaceOf sp))) (fun s o =>
    let k := off.toNat
    if o.space = 0 then .next (retire 4 (wrX s a (extendLoad sgn (spadBytes s k n))))
    else if o.role = .baseConfig then
      if n = 8 then .next (retire 1 (wrX s a (configRead s k))) else .next (takeTrap s (trapOperand 1 (word k)))
    else finish (baseLoad s b o k n) (fun s v => .next (retire 1 (wrX s a (extendLoad sgn v.1)))))

/-- An 8-byte ST to the base configuration object completes when the register has taken the value, after the draining
that SLCFG requires (09 R201, R202). -/
def storeConfig (s : State) (k : Nat) (v : Word) : Out :=
  let busy := fun (s : State) (g : Nat) => s.base.slpend.any (fun p => p.1 == g)
  match s.core.wait with
  | .config g => if busy s g then .next s else .next (retire 1 (setWait s .none))
  | _ =>
    let t := configWrite s k v
    if k < 0x100000 ∧ k % 0x1000 = 0 ∧ t.base.slpend ≠ s.base.slpend then .next (setWait t (.config (k / 0x1000)))
    else .next (retire 1 t)

/-- ST: the checks of 04 R102 with need W, then the store as its space completes it (05 R129). -/
def execSt (sp : Space) (size : Fin 4) (a : XReg) (b : CReg) (c : XReg) (imm : BitVec 32) (s : State) : Out :=
  let n := 2 ^ size.val
  let off := effOff s b c imm
  let bs := natBytes n (rdX s a).toNat
  withCap s b (checkCap s b off n n permW (some (spaceOf sp))) (fun s o =>
    let k := off.toNat
    if o.space = 0 then .next (retire 1 (spadStore s k bs))
    else if o.role = .baseConfig then
      if n = 8 then storeConfig s k (rdX s a) else .next (takeTrap s (trapOperand 1 (word k)))
    else finish (baseStore s b o k bs none) (fun s _ =>
      let s := if o.role = .kernelCmd ∧ k ≤ 0x40 ∧ 0x40 < k + n ∧ (rdX s a).getLsbD 0 then
        { s with base := { s.base with kbell := s.base.kbell ++ [s.core.csr.pid] } } else s
      .next (retire 1 s)))

end Sys2Proof.Machine
end

