-- ==== Sys2Proof/Machine/Hash.lean ====
section
/-! DEFINITION. Machine/Hash.lean: SHA-512, which the spec names and does not define (spec 22 R401, R402): the function of FIPS
180-4 (PRESUMED, log entry 18). -/

namespace Sys2Proof.Machine

/-- The largest `r` below `2 ^ n`, counted on from `r`, whose `k`-th power does not exceed `a`. -/
def rootN (k a : Nat) : Nat → Nat → Nat
  | 0, r => r
  | n + 1, r => rootN k a n (if (r + 2 ^ n) ^ k ≤ a then r + 2 ^ n else r)

/-- The first 64 bits of the fractional part of the `k`-th root of `p`. -/
def rootFrac (k p : Nat) : Word := word (rootN k (p * 2 ^ (64 * k)) 70 0)

/-- The first 80 primes. -/
def shaPrimes : List Nat :=
  (List.range 410).filter (fun n => 2 ≤ n && (List.range n).all (fun d => d < 2 || n % d != 0))

/-- The eight working words. -/
structure Sha where
  a : Word
  b : Word
  c : Word
  d : Word
  e : Word
  f : Word
  g : Word
  h : Word
deriving DecidableEq, Repr

/-- The initial words, from the square roots of the first eight primes. -/
def Sha.start : Sha :=
  ⟨rootFrac 2 2, rootFrac 2 3, rootFrac 2 5, rootFrac 2 7, rootFrac 2 11, rootFrac 2 13, rootFrac 2 17, rootFrac 2 19⟩

/-- Word-wise sums. -/
def Sha.add (x y : Sha) : Sha := ⟨x.a + y.a, x.b + y.b, x.c + y.c, x.d + y.d, x.e + y.e, x.f + y.f, x.g + y.g, x.h + y.h⟩

/-- Three terms, each a rotation or, for the last one of the schedule, a shift. -/
def rot3 (x : Word) (i j k : Nat) : Word := x.rotateRight i ^^^ x.rotateRight j ^^^ x.rotateRight k
def rot2 (x : Word) (i j k : Nat) : Word := x.rotateRight i ^^^ x.rotateRight j ^^^ (x >>> k)

/-- One round with its constant plus schedule word. -/
def Sha.round (x : Sha) (kw : Word) : Sha :=
  let t := x.h + rot3 x.e 14 18 41 + ((x.e &&& x.f) ^^^ (~~~x.e &&& x.g)) + kw
  let u := rot3 x.a 28 34 39 + ((x.a &&& x.b) ^^^ (x.a &&& x.c) ^^^ (x.b &&& x.c))
  ⟨t + u, x.a, x.b, x.c, x.d + t, x.e, x.f, x.g⟩

/-- The next word of a schedule given last word first. -/
def shaNext (ws : List Word) : Word := rot2 (ws.getD 1 0) 19 61 6 + ws.getD 6 0 + rot2 (ws.getD 14 0) 1 8 7 + ws.getD 15 0

/-- A block of 128 bytes as sixteen big-endian words. -/
def shaWords (block : List Byte) : List Word := (List.range 16).map (fun k => word (bytesNat ((block.drop (8 * k)).take 8).reverse))

/-- The 80 words of a block's schedule. -/
def shaSchedule (block : List Byte) : List Word :=
  ((List.range 64).foldl (fun ws _ => shaNext ws :: ws) (shaWords block).reverse).reverse

/-- One block. -/
def Sha.block (ks : List Word) (x : Sha) (block : List Byte) : Sha :=
  x.add ((List.zipWith (· + ·) ks (shaSchedule block)).foldl Sha.round x)

/-- A message with its padding: a one bit, zeros, and its length in bits, big-endian. -/
def shaPadded (m : List Byte) : List Byte :=
  m ++ 0x80 :: List.replicate ((128 - (m.length + 17) % 128) % 128) 0 ++ (natBytes 16 (8 * m.length)).reverse

/-- SHA-512 of a byte string, as 64 bytes. -/
def sha512 (m : List Byte) : List Byte :=
  let p := shaPadded m
  let ks := shaPrimes.map (rootFrac 3)
  let x := (List.range (p.length / 128)).foldl (fun x k => x.block ks ((p.drop (128 * k)).take 128)) Sha.start
  [x.a, x.b, x.c, x.d, x.e, x.f, x.g, x.h].flatMap (fun w => (wordBytes w).reverse)

end Sys2Proof.Machine
end

