-- ==== Sys2Proof/Machine/Pss.lean ====
section
/-! DEFINITION. Machine/Pss.lean: RSASSA-PSS with SHA-512, MGF1 with SHA-512 and a 64-byte salt, under RSA-4096 keys (spec 22
R401, R402): the functions of RFC 8017 (PRESUMED, log entry 18). Keys and salts are constants without a body. -/

namespace Sys2Proof.Machine

/-- `b ^ e` modulo `n`, by the low `bits` bits of `e`. -/
def powMod (n : Nat) : Nat → Nat → Nat → Nat
  | 0, _, _ => 1 % n
  | bits + 1, b, e => (if e.testBit 0 then b else 1) * powMod n bits (b * b % n) (e / 2) % n

/-- The number that an octet string holds, and the octets of a number, most significant first. -/
def octetsNat (bs : List Byte) : Nat := bytesNat bs.reverse
def natOctets (n v : Nat) : List Byte := (natBytes n v).reverse

/-- The octets of a signature, and of an encoded message of 4,095 bits. -/
def pssLen : Nat := 512

/-- MGF1 with SHA-512: `n` bytes of mask from a seed. -/
def mgf1 (seed : List Byte) (n : Nat) : List Byte :=
  ((List.range ((n + 63) / 64)).flatMap (fun k => sha512 (seed ++ natOctets 4 k))).take n

/-- The exclusive or of two octet strings. -/
def octetXor (a b : List Byte) : List Byte := List.zipWith (· ^^^ ·) a b

/-- Octets with the one bit above 4,095 clear. -/
def clearTop (bs : List Byte) : List Byte :=
  match bs with
  | [] => []
  | b :: t => (b &&& 0x7F) :: t

/-- The hash that binds message and salt. -/
def pssHash (m salt : List Byte) : List Byte := sha512 (List.replicate 8 0 ++ sha512 m ++ salt)

/-- The data block before its mask: zeros, a one, the salt. -/
def pssBlock (salt : List Byte) : List Byte := List.replicate 382 0 ++ 1 :: salt

/-- The encoded message of `m` with a salt of 64 bytes. -/
def pssEncode (m salt : List Byte) : List Byte :=
  let h := pssHash m salt
  clearTop (octetXor (pssBlock salt) (mgf1 h 447)) ++ h ++ [0xBC]

/-- Whether `em` encodes `m`: the trailer, the clear top bit, the zeros and the one of the data block, and the hash. -/
def pssMatches (m em : List Byte) : Bool :=
  let masked := em.take 447
  let h := (em.drop 447).take 64
  let db := clearTop (octetXor masked (mgf1 h 447))
  em.getLast? == some 0xBC && clearTop masked == masked && db.take 383 == List.replicate 382 0 ++ [1] && pssHash m (db.drop 383) == h

/-- Whether `sig` is the signature of `m` under the key with modulus `n` and exponent `e` (22 R401). -/
def pssVerify (n e : Nat) (m sig : List Byte) : Bool :=
  sig.length == pssLen && octetsNat sig < n && pssMatches m (natOctets pssLen (powMod n 4096 (octetsNat sig) e))

/-- The signature of `m` by the private exponent `d` of modulus `n`, with `salt` (22 R402). -/
def pssSign (n d : Nat) (m salt : List Byte) : List Byte :=
  natOctets pssLen (powMod n 4096 (octetsNat (pssEncode m salt)) d)

/-- The modulus of 4,096 bits, odd, whose free bits are `x`. -/
def rsaModulus (x : BitVec 4094) : Nat := 2 ^ 4095 + 2 * x.toNat + 1

/-- The key whose digest is fused: its modulus and its exponent, odd and above 1 (22 R401). -/
def romModulus : Nat := rsaModulus Config.romKey
def romExponent : Nat := 2 * Config.romExponent.toNat + 3

/-- Whether the base ROM accepts an image: its last 512 bytes sign the bytes before them (22 R401). -/
def imageVerifies (img : List Byte) : Bool :=
  let n := img.length - pssLen
  pssVerify romModulus romExponent (img.take n) (img.drop n)

/-- The device identity key's signature, with the salt it draws at GTC `t` (22 R402). -/
def deviceSign (t : Nat) (m : List Byte) : List Byte :=
  pssSign (rsaModulus Config.deviceKey) Config.deviceExponent.toNat m (natOctets 64 (Config.pssSalt t).toNat)

end Sys2Proof.Machine
end

