-- ==== Sys2Proof/Machine/Manage.lean ====
section
/-! DEFINITION. Machine/Manage.lean: fencing and resetting dies, power and temperature, replay capture, attestation and firmware,
the rails, module reset, and the GTC cycle (spec 01 R12, R38, 09 R209 to R213, R227, 10 R253, 22 R396 to R404). -/

namespace Sys2Proof.Machine

/-! ## Dies (09 R227, 22 R396) -/

/-- The meaning of an instruction whose request a failing channel holds at its home and which then writes there (12
R280). -/
def heldRequest (i : Instr) : Option (State → Out) :=
  match i with
  | .aadd a b c imm => some (execAadd a b c imm)
  | .aand a b c imm => some (execAand a b c imm)
  | .aor a b c imm => some (execAor a b c imm)
  | .axor a b c imm => some (execAxor a b c imm)
  | .amin a b c imm => some (execAmin a b c imm)
  | .amax a b c imm => some (execAmax a b c imm)
  | .aminn a b c imm => some (execAminn a b c imm)
  | .amaxn a b c imm => some (execAmaxn a b c imm)
  | .aswp a b c imm => some (execAswp a b c imm)
  | .acas a b c imm => some (execAcas a b c imm)
  | .fadd a b c imm => some (execFadd a b c imm)
  | .sc a b c imm => some (execSc a b c imm)
  | .drebuild b c => some (execDrebuild b c)
  | _ => none

/-- A request of core `id` that has left and waits at its home is applied, although the core is lost: its channel is
taken as passing and what a power-gated core holds as taken back, both as they stand (09 R227, 12 R280, DESIGN CHOICE,
log entry 86). -/
def applyHeld (s : State) (id : Nat) : State :=
  atCore s id (fun s =>
    match s.core.wait, (atPc s).bind heldRequest with
    | .channel, some run =>
      (match run (onCores (onBase s (fun b => { b with vbus := [] })) (fun c => { c with gated := false })) with
      | .next t =>
        onCores (onBase t (fun b => { b with vbus := s.base.vbus })) (fun c =>
          { c with gated := ((findCore s c.id).map (fun k => k.gated)).getD false })
      | _ => s)
    | _, _ => s)

/-- One core of a fenced die: a request that has left is applied, its waits and power requests are withdrawn, its lease
returns INTERRUPTED, everything it held is lost, and its reservation number advances. -/
def fenceCore (s : State) (id : Nat) : State :=
  let s := dropPower (withdraw (applyHeld s id) id) id
  match findCore s id with
  | none => s
  | some c =>
    let s := onCore s id (fun c => { freeCore c with resvSeq := c.resvSeq + 1 })
    match c.lease with
    | some l => endInterrupted s l c.tcache
    | none => s

/-- Fencing a die: its cores lose what they hold, and no directory entry names them (09 R227). -/
def fenceDie (s : State) (d : Fin 8) : State :=
  let mine := (allCores s).filter (fun c => dieOf c.id == d)
  let s := mine.foldl (fun s c => fenceCore s c.id) s
  let s := (s.base.dir.map (fun e => e.block)).foldl dirRefresh s
  let s := { s with holds := s.holds.filter (fun h => dieOf h.core != d) }
  onBase s (fun b => { b with dies := b.dies.set d { b.dies[d] with fenced := true } })

/-- DIEFENCE fences a die, with an event of kind 4; a die beyond 7 is refused. -/
def execDiefence (c : CmdCtx) (die : Nat) (s : State) : Out :=
  powered s c (fun s =>
    if h : die < 8 then .next (respond (logEvent (fenceDie s ⟨die, h⟩) 4 0 die c.pid.val) c 0 0) else .next (respond s c 1 0))

/-- DIERESET fences the die unless it is fenced, and resets its cores; it answers within 2^21 cycles, and until then
the die takes no lease. -/
def execDiereset (c : CmdCtx) (die : Nat) (s : State) : Out :=
  powered s c (fun s =>
    if h : die < 8 then
      let d : Fin 8 := ⟨die, h⟩
      let s := if (s.base.dies[d]).fenced then s else fenceDie s d
      let s := logEvent s 4 0 die c.pid.val
      .next (onBase s (fun b => { b with
        dies := b.dies.set d { b.dies[d] with resetting := true }
        cmdWaits := b.cmdWaits ++ [⟨c, none, d, s.gtc + 2 ^ 21⟩] }))
    else .next (respond s c 1 0))

/-- The die fence of a module at 115 °C or above: every die that is not fenced is, with its event, and an event of
kind 5 is logged (22 R399, DESIGN CHOICE, log entry 34). -/
def overheat (s : State) : State :=
  if 115 ≤ s.base.temp.toNat then
    let ds := (List.finRange 8).filter (fun d => !(s.base.dies[d]).fenced)
    logEvent (ds.foldl (fun s d => logEvent (fenceDie s d) 4 0 d.val 0) s) 5 s.base.temp.toNat 0 0
  else s

/-- DIERESET_RESPONSE: the reset has finished; from its OK on, the die's cores take leases, unless the module is still
at 115 °C, which fences the die again (22 R399). -/
def execDieresetResponse (die : Fin 8) (s : State) : Out :=
  match s.base.cmdWaits.find? (fun w => w.oid.isNone && w.die == die) with
  | none => .next s
  | some w =>
    let s := onBase (dropWait s w) (fun b => { b with dies := b.dies.set die { b.dies[die] with fenced := false, resetting := false } })
    .next (overheat (respond s w.c 0 0))

/-- VBTRAIN retrains a channel at full width; its event names group 0, and the value is WIDTH afterwards (08 R195). On a
channel that carries a failing transfer the width changes at once, and the sequence and what queues behind it go on: 08
R192 does not say (DESIGN CHOICE, log entry 87). -/
def execVbtrain (c : CmdCtx) (die chan : Nat) (ok : Bool) (s : State) : Out :=
  powered s c (fun s =>
    if h : die < 8 ∧ chan < 16 then
      let v := vchanOf s.base ⟨die, h.1⟩ ⟨chan, h.2⟩
      let w : Fin 4 := if ok then 0 else v.width
      let s := logVbus s v.die v.chan (if ok then 3 else 2) 0 0 0 w.val
      .next (respond (putVchan s { v with width := w }) c 0 w.val)
    else .next (respond s c 1 0))

/-! ## Power and temperature (22 R399) -/

/-- LVCFG sets a die's capacity and class costs; refused below the largest cost, or when the eight dies would exceed
2,400 W. -/
def execLvcfg (c : CmdCtx) (die : Nat) (cap costs : Word) (s : State) : Out :=
  powered s c (fun s =>
    if h : die < 8 then
      let d : Fin 8 := ⟨die, h⟩
      let n := cap.toNat % 65536
      let k := fun i => bitsOf costs.toNat (8 * i + 7) (8 * i)
      let others := (List.finRange 8).foldl (fun t e => if e = d then t else t + (s.base.dies[e]).cap) 0
      if n < max (k 0) (max (k 1) (k 2)) ∨ 2400 < n + others then .next (respond s c 1 0)
      else
        .next (respond (onBase s (fun b => { b with
          dies := b.dies.set d { b.dies[d] with cap := n, costs := #v[0, k 0, k 1, k 2] } })) c 0 0)
    else .next (respond s c 1 0))

/-- THERMAL_STEP: a new temperature. From 105 °C the class-0 cores stand until it is below 100 °C; on reaching 115 °C,
and at or above it with a die that is not fenced, every die is fenced, and an event of kind 5 is logged. -/
def execThermalStep (temp : BitVec 8) (s : State) : Out :=
  let old := s.base.temp.toNat
  let s := onBase s (fun b => { b with temp := temp, hot := decide (105 ≤ temp.toNat) || (b.hot && decide (100 ≤ temp.toNat)) })
  .next (if old < 115 || (List.finRange 8).any (fun d => !(s.base.dies[d]).fenced) then overheat s else s)

/-- Whether a core is held frozen by the throttle in this cycle: a class-0 core, always when hot, else one cycle in
four from 95 °C. -/
def throttleNow (s : State) (c : Core) : Bool :=
  c.lease.isSome && c.csr.pclass == 0 && (s.base.hot || (95 ≤ s.base.temp.toNat && s.gtc % 4 == 0))

/-- POWER_THROTTLE: each core stands or runs in this cycle as its class and the temperature say. -/
def execPowerThrottle (s : State) : Out := .next (onCores s (fun c => { c with throttled := throttleNow s c }))

/-! ## Replay capture (22 R403, R404) -/

/-- CAPCFG 0 stops the capture. -/
def execCapcfgStop (c : CmdCtx) (_pa _len : Nat) (s : State) : Out :=
  powered s c (fun s => .next (respond (onBase s (fun b => { b with capture := { b.capture with mode := 0 } })) c 0 0))

/-- Starting a capture in mode `m`; a length that is no multiple of 64 is refused. -/
def capStart (c : CmdCtx) (pa len : Nat) (m : Fin 3) (s : State) : Out :=
  powered s c (fun s => named s c pa len (fun s =>
    if len % 64 ≠ 0 then .next (respond s c 1 0)
    else .next (respond (onBase s (fun b => { b with capture := ⟨m, pa, len, 0, 0⟩ })) c 0 0)))

/-- CAPCFG 1 captures until the buffer is full. -/
def execCapcfgFull (c : CmdCtx) (pa len : Nat) (s : State) : Out := capStart c pa len 1 s

/-- CAPCFG 2 captures and wraps. -/
def execCapcfgWrap (c : CmdCtx) (pa len : Nat) (s : State) : Out := capStart c pa len 2 s

/-- The records of a buffer in the order in which they were recorded: in one that has wrapped the oldest stands where
GTC falls (22 R403). -/
def recordOrder (rs : List (List Byte)) : List (List Byte) :=
  match ((rs.zip (rs.drop 1)).findIdx? (fun p => decide (recNat p.2 8 8 < recNat p.1 8 8))) with
  | some i => rs.drop (i + 1) ++ rs.take (i + 1)
  | none => rs

/-- The lease starts that a buffer which has wrapped has lost: what its first host write counts beyond those before
it. -/
def lostStarts (rs : List (List Byte)) : Nat :=
  let before := rs.takeWhile (fun a => capType a != 3)
  (((rs.drop before.length).head?.map (fun a => recNat a 56 4)).getD 0) - before.countP (fun a => capType a == 2)

/-- REPLAY re-runs a capture: its launches, lease starts and host writes come in recorded order, and its timer values
are returned. It answers when the replay ends. -/
def execReplay (c : CmdCtx) (pa len : Nat) (s : State) : Out :=
  powered s c (fun s => named s c pa len (fun s =>
    if len % 64 ≠ 0 then .next (respond s c 1 0)
    else fetched s c pa len (.replay c pa len) (fun s bs =>
      let recs := recordOrder (((List.range (len / 64)).map (fun k => (bs.drop (64 * k)).take 64)).filter (fun r =>
        1 ≤ capType r && capType r ≤ 4))
      let timers := (recs.filter (fun r => capType r == 4)).map (fun r =>
        (BitVec.ofNat 32 (recNat r 16 8), recNat r 24 8, word (recNat r 32 8)))
      let rest := recs.filter (fun r => capType r != 4)
      .next (onBase s (fun b => { b with replay := some ⟨c, pa, rest, lostStarts rest, timers, []⟩ })))))

/-- The bytes that the mask of a type 3 record selects, with their addresses. -/
def maskedBytes (r : List Byte) : List (Nat × Byte) :=
  (List.range 32).filterMap (fun b => if (recNat r 60 4).testBit b then some (recNat r 16 8 + b, r.getD (24 + b) 0) else none)

/-- Bytes at neighbouring addresses as runs. -/
def runsOf (ps : List (Nat × Byte)) : List (Nat × List Byte) :=
  ps.foldr (fun p acc => match acc with
    | (a, l) :: t => if a = p.1 + 1 then (p.1, p.2 :: l) :: t else (p.1, [p.2]) :: acc
    | [] => [(p.1, [p.2])]) []

/-- A replay's next host write, when its count of lease starts is reached: consecutive type 3 records of one GTC and
count, which commit as the write that they record did. -/
def replayWrite (s : State) (r : Replay) : Option State :=
  match r.recs with
  | [] => none
  | a :: _ =>
    if capType a ≠ 3 ∨ r.starts < recNat a 56 4 then none
    else
      let same := r.recs.takeWhile (fun b => capType b == 3 && recNat b 8 8 == recNat a 8 8 && recNat b 56 4 == recNat a 56 4)
      let s := onBase s (fun b => { b with replay := some { r with recs := r.recs.drop same.length } })
      let parts := (runsOf (same.flatMap maskedBytes)).flatMap (fun p => cutAt 64 (p.2.length + 1) p.1 p.2)
      some (parts.foldl (fun s p => hostWriteBlock s p.1 p.2) s)

/-! ## Attestation and firmware (22 R401, R402) -/

/-- The measurement of the kernel code object of partition `p`: zero when none is installed. -/
def kernelMeasure (s : State) (p : Fin 16) : List Byte :=
  match (s.base.kcode[p]).bind (fun k => findObj s k.oid) with
  | some o => sha512 (objBytes s o 0 o.len)
  | none => List.replicate 64 0

/-- ATTEST writes a quote: nonce, measurements and signature; with a nonce of zeros the certificate stands for the
measurements. It works from the standby rail. -/
def execAttest (c : CmdCtx) (noncePa quotePa : Nat) (s : State) : Out :=
  named s c noncePa 64 (fun s => named s c quotePa 1728 (fun s => fetched s c noncePa 64 (.attest c noncePa quotePa) (fun s nonce =>
    let body := if nonce.all (· == 0) then natBytes 1152 Config.certificate.toNat
      else natBytes 64 Config.romMeasure.toNat ++ sha512 s.base.firmware ++
        (List.finRange 16).flatMap (kernelMeasure s)
    let q := nonce ++ body
    .next (respond (basePut s c.pid quotePa (q ++ deviceSign s.gtc q)) c 0 0))))

/-- FWLOAD verifies an image and stores it for the next module reset; it works from the standby rail. -/
def execFwload (c : CmdCtx) (pa : Nat) (s : State) : Out :=
  named s c pa Config.imageSize (fun s => fetched s c pa Config.imageSize (.fwload c pa) (fun s img =>
    if imageVerifies img then .next (respond (onBase s (fun b => { b with image := some img })) c 0 0)
    else .next (respond s c 1 0)))

/-- The kernel code that an image installs, per partition (22 R401, 04 R92). -/
def installed (img : List Byte) : Vector (Option KCode) 16 :=
  Vector.ofFn (fun p => ((Config.firmwareKernel img)[p.val]?).map (fun k => ⟨BitVec.ofNat 24 k.1, word k.2⟩))

/-- The code of partition `p` as an image gives it, and where its kernel code object lies: at most a way of 1 MiB, in
way 14 of slice `p` (DESIGN CHOICE, log entry 27). -/
def kernelBytes (img : List Byte) (p : Fin 16) : List Byte := (Config.firmwareCode img p).take 0x100000
def kernelPa (p : Fin 16) : Nat := stagePa p.val 0xE00000

/-- The kernel code object of each partition that has one stands installed (22 R401, 04 R92). -/
def installKernels (b : Base) (img : List Byte) : Base :=
  (List.finRange 16).foldl (fun b p => match b.kcode[p] with
    | none => b
    | some k =>
      let bs := kernelBytes img p
      { b with
        mem := memWriteL b.mem (kernelPa p) bs
        objs := b.objs ++ [fwObj k.oid.toNat true true bs.length (kernelPa p) (ceilDiv bs.length 4096) .plain] }) b

/-! ## Rails and reset (22 R391, R400, R401) -/

/-- MAIN_RAIL_DOWN: only the functions of the standby rail are left. -/
def execMainRailDown (s : State) : Out := .next (onBase s (fun b => { b with rail := false }))

/-- MAIN_RAIL_UP: the main rail is back. -/
def execMainRailUp (s : State) : Out := .next (onBase s (fun b => { b with rail := true }))

/-- MODULE_RESET: the ROM verifies the stored image and runs it; the machine is as after reset, with its kernel code
objects installed. Host memory, the sensor and the outside world's schedule go on (DESIGN CHOICE, log entry 27); a
sensor at 115 °C fences the dies (22 R399). -/
def execModuleReset (s : State) : Out :=
  let fresh := match s.base.image with
    | some img => if imageVerifies img then some img else none
    | none => none
  let r := State.reset
  let img := fresh.getD s.base.firmware
  .next (overheat { r with
    inputs := s.inputs.map (fun p => (p.1 - s.gtc, p.2))
    nextLid := s.nextLid
    nextLaunch := s.nextLaunch
    nextCtx := s.nextCtx
    base := installKernels { r.base with
      mem := s.base.mem.filter (fun c => 0x1000000000000 ≤ c.1 && c.1 < 0x2000000000000)
      temp := s.base.temp
      hot := decide (105 ≤ s.base.temp.toNat)
      rail := s.base.rail
      firmware := img
      kcode := match fresh with
        | some img => installed img
        | none => s.base.kcode } img })

/-! ## The GTC cycle (01 R12, 05 R137, R140, 09 R211 to R213) -/

/-- The wait of SALIGN once every ring has arrived and the class is granted: G is the cycle that ends (01 R13). -/
def alignWait (s : State) : Wait :=
  match s.core.wait with
  | .salign cls none => if alignReady s cls then .salign cls (some s.gtc) else .salign cls none
  | w => w

/-- Whether a freeze takes an MXSPILL written while SCC stands: the matrix engine's own do, those of a fault and of the
checks at an issue (15 R324, R333, R334). -/
def takesSpill (e : Engines) : Bool :=
  (e.freeze.map (fun f =>
    f.eng == .matrix && (f.cause == 6 || (f.job.isNone && (f.cause == 1 || f.cause == 2 || f.cause == 5))))).getD false

/-- One core at the end of a GTC cycle: SCC advances unless the core stands still, and then engines see what was
published and written; RSTAT and SLOTRD show this cycle from the next one on, and in a new SCC cycle runs of bytes begin
(07 R171). A core that unfreezes starts the next cycle at the same SCC. -/
def cycleCore (s : State) : State :=
  let c := s.core
  let still := standing s
  let thawed := (c.eng.freeze.map (fun f => f.cause == 0)).getD false
  let e := { c.eng with
    offMark := none
    chkNow := Vector.replicate 4 false
    lateUse := 0
    eff := if !still then effOf c.csr c.eng
      else if takesSpill c.eng then { c.eng.eff with mxspill := c.eng.mxspill } else c.eng.eff
    rstatL := (latched s).rstatL
    slotL := (latched s).slotL
    freeze := if thawed then none else c.eng.freeze }
  let e := if still then e else { e with rings := e.rings.map (fun r => { r with vis := r.tail }) }
  let t := { s with core := { c with
      csr := { c.csr with scc := if still then c.csr.scc else c.csr.scc + 1 }
      eng := e
      wait := alignWait s
      busy := c.busy - 1 } }
  if still then t else lateRecords t

/-- GTC_CYCLE: GTC advances; the output ports choose; every core's cycle ends; slices that drain go on (09 R203).
Buckets refill by the advance itself (`levelOf`). Without the main rail the cores stand. -/
def execGtcCycle (s : State) : Out :=
  let t := if s.base.rail then
      onBase (slDrain ((allCores s).foldl (fun s c => atCore s c.id cycleCore) s)) (fun b =>
        { b with ports := b.ports.map (cyclePort b.nwgt s.gtc) })
    else s
  .next { t with gtc := s.gtc + 1 }

end Sys2Proof.Machine
end

