-- ==== Sys2Proof/Machine/Page.lean ====
section
/-! DEFINITION. Machine/Page.lean: the PAGE group and span tables (spec 11 R268 to R278, 12 R300 to R307). -/

namespace Sys2Proof.Machine

/-- The fields of a span table's header (11 R269). -/
structure SpanHdr where
  nextpos : Nat
  nent    : Nat
  opened  : Nat
  curtag  : Nat
  tpp     : Nat
  ver     : Nat
  live    : Nat
  pset    : Bool
  pool    : Nat
deriving DecidableEq, Repr

/-- An entry of a span table (11 R270): state 0 EMPTY, 1 MAPPED, 2 RETIRED. -/
structure SpanEnt where
  first : Nat
  count : Nat
  tag   : Nat
  state : Nat
  pgno  : Nat
deriving DecidableEq, Repr

/-- A span table as one transaction sees it. -/
structure Span where
  h  : SpanHdr
  es : List SpanEnt
deriving DecidableEq, Repr

/-- The value of OPEN for no entry (11 R269). -/
def noEntry : Nat := 0xFFFF

/-- Reading the table of object `o`. -/
def spanRead (s : State) (o : ObjEnt) : Span :=
  let w := fun k => objNat s.base.mem o (8 * k) 8
  let ncap := (o.len - 64) / 16
  ⟨⟨w 0 % 2 ^ 48, bitsOf (w 1) 63 48, bitsOf (w 1) 47 32, bitsOf (w 1) 19 16, bitsOf (w 1) 15 0, w 2, w 3,
    (w 4).testBit 24, bitsOf (w 4) 23 0⟩,
   (List.range ncap).map (fun i =>
     let n := objNat s.base.mem o (0x40 + 16 * i) 16
     ⟨bitsOf n 127 80, bitsOf n 79 64, bitsOf n 39 36, bitsOf n 35 34, bitsOf n 31 0⟩)⟩

/-- The words of a header (11 R269). -/
def spanHdrWords (h : SpanHdr) : List Nat :=
  [h.nextpos, h.tpp + h.curtag * 2 ^ 16 + h.opened * 2 ^ 32 + h.nent * 2 ^ 48, h.ver % 2 ^ 64, h.live,
   h.pool + b2n h.pset 24]

/-- An entry's 128 bits (11 R270). -/
def spanEntNat (e : SpanEnt) : Nat := e.pgno + e.state * 2 ^ 34 + e.tag * 2 ^ 36 + e.count * 2 ^ 64 + e.first * 2 ^ 80

/-- Writing the table back, in the same transaction. -/
def spanWrite (s : State) (o : ObjEnt) (t : Span) : State :=
  let s := (spanHdrWords t.h).zipIdx.foldl (fun s p => homePut s o (8 * p.2) (natBytes 8 p.1) false false) s
  t.es.zipIdx.foldl (fun s p =>
    if objNat s.base.mem o (0x40 + 16 * p.2) 16 = spanEntNat p.1 then s
    else homePut s o (0x40 + 16 * p.2) (natBytes 16 (spanEntNat p.1)) false false) s

/-- VER goes up when a transaction changes anything (11 R273). -/
def spanBump (t t' : Span) : Span := if t = t' then t else { t' with h := { t'.h with ver := t.h.ver + 1 } }

/-- A status: 0 OK, 1 NOROOM, 2 BADPOS, 3 BADPAGE (11 R273). -/
abbrev SpanStatus := Nat

/-- Replacing entry `i`. -/
def setEnt (es : List SpanEnt) (i : Nat) (e : SpanEnt) : List SpanEnt := es.set i e

/-- Mapping a page: the lowest EMPTY entry below NENT, else entry NENT; none is NOROOM (11 R274). -/
def spanMap (t : Span) (oid pgno tag : Nat) : Span × SpanStatus × Nat :=
  let below := (t.es.take t.h.nent).findIdx? (fun e => e.state == 0)
  let i := below.getD t.h.nent
  if t.es.length ≤ i then (t, 1, 0)
  else
    let h := { t.h with
      nent := max t.h.nent (i + 1), pset := true, pool := if t.h.pset then t.h.pool else oid }
    (⟨h, setEnt t.es i ⟨0, 0, tag, 1, pgno⟩⟩, 0, i)

/-- Releasing an entry: RETIRED or spare becomes EMPTY, else BADPAGE (11 R274, 12 R302). -/
def spanUnmap (t : Span) (i : Nat) : Span × SpanStatus :=
  match t.es[i]? with
  | none => (t, 3)
  | some e =>
    if e.state = 2 ∨ (e.state = 1 ∧ e.count = 0) then
      (⟨{ t.h with opened := if t.h.opened = i then noEntry else t.h.opened }, setEnt t.es i ⟨0, 0, 0, 0, 0⟩⟩, 0)
    else (t, 3)

/-- Appending `n` tokens: into OPEN while it has CURTAG, room and the right position, else into the lowest spare of
CURTAG; none is NOROOM (11 R275). -/
def spanAppend (t : Span) : Nat → Nat → Option Span
  | _, 0 => some t
  | 0, _ => none
  | fuel + 1, n =>
    let h := t.h
    let o? := if h.opened = noEntry then none else t.es[h.opened]?
    match o?.filter (fun e => e.tag == h.curtag && e.count < h.tpp && e.first + e.count == h.nextpos) with
    | some e =>
      let k := min n (h.tpp - e.count)
      spanAppend ⟨{ h with nextpos := h.nextpos + k, live := h.live + k }, setEnt t.es h.opened { e with count := e.count + k }⟩
        fuel (n - k)
    | none =>
      match t.es.findIdx? (fun e => e.state == 1 && e.count == 0 && e.tag == h.curtag) with
      | none => none
      | some i =>
        let e := t.es.getD i ⟨0, 0, 0, 0, 0⟩
        spanAppend ⟨{ h with nextpos := h.nextpos + 1, live := h.live + 1, opened := i },
          setEnt t.es i { e with first := h.nextpos, count := 1 }⟩ fuel (n - 1)

/-- Setting NEXTPOS (11 R275, 12 R307). -/
def spanSetPos (t : Span) (p : Nat) : Span × SpanStatus :=
  if p < t.h.nextpos ∨ 2 ^ 48 ≤ p then (t, 2)
  else match spanAppend t (2 * t.es.length + 2) (p - t.h.nextpos) with
    | some t' => (t', 0)
    | none => (t, 1)

/-- Retiring a tag (11 R276): the table and the tokens retired. -/
def spanRetire (t : Span) (tag : Nat) (close : Bool) : Span × Nat :=
  let hit := fun (e : SpanEnt) => e.state == 1 && e.tag == tag && decide (0 < e.count)
  let gone := t.es.filter hit
  let n := (gone.map (fun e => e.count)).foldl (· + ·) 0
  let below := fun p => (gone.map (fun e => min e.count (p - e.first))).foldl (· + ·) 0
  let es := t.es.map (fun e =>
    if hit e then { e with state := 2 }
    else if close && e.state == 1 && decide (0 < e.count) then { e with first := e.first - below e.first } else e)
  let opened := if (t.es[t.h.opened]?.map hit).getD false then noEntry else t.h.opened
  (⟨{ t.h with live := t.h.live - n, opened := opened, nextpos := if close then t.h.nextpos - n else t.h.nextpos }, es⟩, n)

/-- Truncating at position `p` (11 R277): the table and the tokens freed. OPEN becomes the entry that holds NEXTPOS -
1, also where nothing is freed. -/
def spanTrunc (t : Span) (p : Nat) : Span × Nat :=
  let held := fun (e : SpanEnt) => e.state == 1 && decide (0 < e.count)
  let cut := fun (e : SpanEnt) =>
    if !held e then e
    else if e.first < p ∧ p < e.first + e.count then { e with count := p - e.first }
    else if p ≤ e.first then { e with count := 0 } else e
  let es := t.es.map cut
  let freed := (t.es.map (fun e => e.count - (cut e).count)).foldl (· + ·) 0
  let np := min t.h.nextpos p
  let opened := (es.findIdx? (fun e => held e && decide (e.first < np) && decide (np ≤ e.first + e.count))).getD noEntry
  (⟨{ t.h with nextpos := np, live := t.h.live - freed, opened := opened }, es⟩, freed)

/-- A PAGE-group instruction on the span table of cB: S, then a STAGE object marked as a span table, then what `also`
checks besides; only then its request leaves (12 R279, R281, R300). -/
def atSpanWith {α : Type} (b : CReg) (s : State) (also : State → (State → α → Out) → Out) (k : State → α → ObjEnt → Span → Out) :
    Out :=
  let off := (rdC s b).cursor.toNat
  withCap s b (checkHome s b off 1 1 permS [1]) (fun s o =>
    if o.span then also s (fun s p => leaving s (fun s => k (sent s o off) p o (spanRead s o)))
    else .next (takeTrap s (trapOperand 0 (word off))))

/-- One that names no second object. -/
def atSpan (b : CReg) (s : State) (k : State → ObjEnt → Span → Out) : Out :=
  atSpanWith b s (fun s go => go s ()) (fun s _ o t => k s o t)

/-- PGMAP: faults of cC first, then the refusals, then the mapping (12 R301). -/
def execPgmap (a : XReg) (b c : CReg) (tag : Fin 16) (s : State) : Out :=
  let off := (rdC s c).cursor.toNat
  atSpanWith b s (fun s go => withCap s c (checkCap s c off 4096 1 (permR ||| permW) none) go) (fun s p o t =>
    if off % 4096 ≠ 0 ∨ (p.space ≠ 1 ∧ p.space ≠ 2) ∨ (t.h.pset ∧ p.oid.toNat ≠ t.h.pool) then
      .next (retire 1 (wrX s a 3))
    else
      let (t', st, i) := spanMap t p.oid.toNat (off / 4096) tag.val
      .next (retire 1 (wrX (spanWrite s o (spanBump t t')) a (word (st + i * 65536)))))

/-- PGUNMAP releases an entry (12 R302). -/
def execPgunmap (a : XReg) (b : CReg) (c : XReg) (s : State) : Out :=
  atSpan b s (fun s o t =>
    let (t', st) := spanUnmap t (rdX s c).toNat
    .next (retire 1 (wrX (spanWrite s o (spanBump t t')) a (word st))))

/-- The request of a PGFETCH for an extent that is not resident: the host is asked for it. -/
def askFetch (s : State) (o : ObjEnt) (off : Nat) : State := askExtent (sent s o off) o off

/-- PGFETCH makes an extent resident: 0 when it is, 1 when the base reports it unresolvable; with A = 0 it is posted,
and what it awaits stays with the core (12 R303, 10 R239). -/
def execPgfetch (a : XReg) (b : CReg) (imm : BitVec 32) (s : State) : Out :=
  withHome s b (effOffImm s b imm) 1 1 permS [1, 2, 3] (fun s o off =>
    let answer := fun (s : State) (v : Word) => Host.Outcome.next (retire 1 (wrX (setWait s .none) a v))
    if o.space = 1 then answer (sent s o off) 0
    else match s.core.wait, extOf o off with
    | .pgfetch _ _ failed, _ => if residentAt o off then answer s 0 else if failed then answer s 1 else .next s
    | _, none => answer (sent s o off) 1
    | _, some (x, e, _) =>
      if e.res then answer (sent s o off) 0
      else if a = 0 then
        let s := askFetch s o off
        answer { s with core := { s.core with posted := s.core.posted ++ [(o.oid, x)] } } 0
      else .next (setWait (askFetch s o off) (.pgfetch o.oid x false)))

/-- SPTAG sets CURTAG, and the tag of a named spare; another entry is refused (12 R304). -/
def execSptag (b : CReg) (c : XReg) (tag : Fin 16) (s : State) : Out :=
  atSpan b s (fun s o t =>
    let i := (rdX s c).toNat % 65536
    let t' := { t with h := { t.h with curtag := tag.val } }
    if i = noEntry then .next (retire 1 (spanWrite s o (spanBump t t')))
    else match t.es[i]? with
      | some e =>
        if e.state = 1 ∧ e.count = 0 then
          .next (retire 1 (spanWrite s o (spanBump t { t' with es := setEnt t.es i { e with tag := tag.val } })))
        else .next (takeTrap s (trapOperand 0 (rdX s c)))
      | none => .next (takeTrap s (trapOperand 0 (rdX s c))))

/-- SPRET retires a tag's tokens, HOLE or CLOSE (12 R305, 11 R276). -/
def execSpret (a : XReg) (b : CReg) (tag : Fin 16) (mode : Bool) (s : State) : Out :=
  atSpan b s (fun s o t =>
    let (t', n) := spanRetire t tag.val mode
    .next (retire 1 (wrX (spanWrite s o (spanBump t t')) a (word n))))

/-- SPTRUNC frees the tokens at and above a position (12 R306, 11 R277). -/
def execSptrunc (a : XReg) (b : CReg) (c : XReg) (s : State) : Out :=
  atSpan b s (fun s o t =>
    let (t', n) := spanTrunc t (rdX s c).toNat
    .next (retire 1 (wrX (spanWrite s o (spanBump t t')) a (word n))))

/-- SPPOS GET reads NEXTPOS and changes nothing (12 R307). -/
def execSpposGet (a : XReg) (b : CReg) (_c : XReg) (s : State) : Out :=
  atSpan b s (fun s _ t => .next (retire 1 (wrX s a (word t.h.nextpos))))

/-- SPPOS SET sets NEXTPOS, appending tokens (12 R307, 11 R275). -/
def execSpposSet (a : XReg) (b : CReg) (c : XReg) (s : State) : Out :=
  atSpan b s (fun s o t =>
    let (t', st) := spanSetPos t (rdX s c).toNat
    .next (retire 1 (wrX (spanWrite s o (spanBump t t')) a (word st))))

end Sys2Proof.Machine
end

