-- ==== Sys2Proof/Machine/Sys.lean ====
section
/-! DEFINITION. Machine/Sys.lean: the SYS group (spec 05 R115 to R121, 02 R42). -/

namespace Sys2Proof.Machine

/-- NOP only advances the pc (05 R115). -/
def execNop (s : State) : Out := .next (retire 1 s)

/-- A hint executes as NOP (02 R42, 05 R115). -/
def execHint (_k : Fin 8) (s : State) : Out := .next (retire 1 s)

/-- HALT, in kernel mode, ends the lease as FAULTED with its context area kept, once what the core has sent is
answered (05 R116, 04 R108). -/
def execHalt (s : State) : Out := kernelOnly s (fun s => .next (faultLease s))

/-- TRAP takes the trap with AUX = code; EPC is the next instruction (05 R117). -/
def execTrap (code : BitVec 16) (s : State) : Out :=
  .next (takeTrapAt s ⟨0x04, 0, code.toNat, 0⟩ (s.core.seq.pc + 8) 0)

/-- ERET, in kernel mode, returns to EPC in PMODE (05 R118). -/
def execEret (s : State) : Out := kernelOnly s (fun s => .next (doEret s))

/-- CSRR reads a CSR; GTC as a timer read (05 R119, 04 R92). -/
def execCsrr (a : XReg) (csr : Fin 4096) (s : State) : Out :=
  if csrDefined csr.val then
    if csr.val = 0x021 then
      let (s, v) := readGtc s
      .next (retire 1 (wrX s a v))
    else .next (retire 1 (wrX s a (csrGet s csr.val)))
  else .next (takeTrap s trapIllegal)

/-- The write forms: an undefined CSR is illegal, a read-only one or a kernel one in tile mode traps (05 R119). -/
def csrWriteForm (csr : Fin 4096) (v : Word) (s : State) : Out :=
  if csrDefined csr.val then
    if csrRo csr.val || (csrKernel csr.val && !s.core.csr.mode) then .next (takeTrap s (trapOperand 2 (word csr.val)))
    else .next (retire 1 (onCsr s (fun r => csrSet r csr.val v)))
  else .next (takeTrap s trapIllegal)

/-- CSRW (05 R119). -/
def execCsrw (csr : Fin 4096) (b : XReg) (s : State) : Out := csrWriteForm csr (rdX s b) s

/-- CSRSET (05 R119). -/
def execCsrset (csr : Fin 4096) (b : XReg) (s : State) : Out := csrWriteForm csr (csrGet s csr.val ||| rdX s b) s

/-- CSRCLR (05 R119). -/
def execCsrclr (csr : Fin 4096) (b : XReg) (s : State) : Out := csrWriteForm csr (csrGet s csr.val &&& ~~~(rdX s b)) s

/-- GTIME reads the global time counter (05 R120). -/
def execGtime (a : XReg) (s : State) : Out :=
  let (s, v) := readGtc s
  .next (retire 1 (wrX s a v))

/-- RNGNEXT writes the generator's output and advances its counter (05 R121, 04 R107). -/
def execRngnext (a : XReg) (s : State) : Out :=
  let v := rngOut s.core.csr.rngkey s.core.csr.rngctr
  .next (retire 1 (onCsr (wrX s a v) (fun r => { r with rngctr := r.rngctr + 1 })))

end Sys2Proof.Machine
end

