-- ==== Sys2Proof/Machine/Dispatch.lean ====
section
/-! DEFINITION. Machine/Dispatch.lean: one arm for each row of the opcode table, each one call of its meaning. -/

namespace Sys2Proof.Machine

def exec (i : Instr) (s : State) : Host.Outcome State Fault Refusal :=
  match i with
  | .nop => Sys2Proof.Machine.execNop s
  | .hint k => Sys2Proof.Machine.execHint k s
  | .halt => Sys2Proof.Machine.execHalt s
  | .trap code => Sys2Proof.Machine.execTrap code s
  | .eret => Sys2Proof.Machine.execEret s
  | .csrr a csr => Sys2Proof.Machine.execCsrr a csr s
  | .csrw csr b => Sys2Proof.Machine.execCsrw csr b s
  | .csrset csr b => Sys2Proof.Machine.execCsrset csr b s
  | .csrclr csr b => Sys2Proof.Machine.execCsrclr csr b s
  | .gtime a => Sys2Proof.Machine.execGtime a s
  | .rngnext a => Sys2Proof.Machine.execRngnext a s
  | .add a b c => Sys2Proof.Machine.execAdd a b c s
  | .sub a b c => Sys2Proof.Machine.execSub a b c s
  | .and a b c => Sys2Proof.Machine.execAnd a b c s
  | .or a b c => Sys2Proof.Machine.execOr a b c s
  | .xor a b c => Sys2Proof.Machine.execXor a b c s
  | .sll a b c => Sys2Proof.Machine.execSll a b c s
  | .srl a b c => Sys2Proof.Machine.execSrl a b c s
  | .sra a b c => Sys2Proof.Machine.execSra a b c s
  | .mul a b c => Sys2Proof.Machine.execMul a b c s
  | .mulh a b c => Sys2Proof.Machine.execMulh a b c s
  | .div a b c => Sys2Proof.Machine.execDiv a b c s
  | .divn a b c => Sys2Proof.Machine.execDivn a b c s
  | .rem a b c => Sys2Proof.Machine.execRem a b c s
  | .remn a b c => Sys2Proof.Machine.execRemn a b c s
  | .min a b c => Sys2Proof.Machine.execMin a b c s
  | .max a b c => Sys2Proof.Machine.execMax a b c s
  | .minn a b c => Sys2Proof.Machine.execMinn a b c s
  | .maxn a b c => Sys2Proof.Machine.execMaxn a b c s
  | .slt a b c => Sys2Proof.Machine.execSlt a b c s
  | .sltn a b c => Sys2Proof.Machine.execSltn a b c s
  | .clz a b => Sys2Proof.Machine.execClz a b s
  | .ctz a b => Sys2Proof.Machine.execCtz a b s
  | .popc a b => Sys2Proof.Machine.execPopc a b s
  | .clmul a b c => Sys2Proof.Machine.execClmul a b c s
  | .clmulh a b c => Sys2Proof.Machine.execClmulh a b c s
  | .addi a b imm => Sys2Proof.Machine.execAddi a b imm s
  | .andi a b imm => Sys2Proof.Machine.execAndi a b imm s
  | .ori a b imm => Sys2Proof.Machine.execOri a b imm s
  | .xori a b imm => Sys2Proof.Machine.execXori a b imm s
  | .slli a b sh => Sys2Proof.Machine.execSlli a b sh s
  | .srli a b sh => Sys2Proof.Machine.execSrli a b sh s
  | .srai a b sh => Sys2Proof.Machine.execSrai a b sh s
  | .slti a b imm => Sys2Proof.Machine.execSlti a b imm s
  | .sltni a b imm => Sys2Proof.Machine.execSltni a b imm s
  | .movhi a b imm => Sys2Proof.Machine.execMovhi a b imm s
  | .beq b c imm => Sys2Proof.Machine.execBeq b c imm s
  | .bne b c imm => Sys2Proof.Machine.execBne b c imm s
  | .blt b c imm => Sys2Proof.Machine.execBlt b c imm s
  | .bge b c imm => Sys2Proof.Machine.execBge b c imm s
  | .bltn b c imm => Sys2Proof.Machine.execBltn b c imm s
  | .bgen b c imm => Sys2Proof.Machine.execBgen b c imm s
  | .jal a imm => Sys2Proof.Machine.execJal a imm s
  | .jalr a b imm => Sys2Proof.Machine.execJalr a b imm s
  | .ld sp sgn size a b c imm => Sys2Proof.Machine.execLd sp sgn size a b c imm s
  | .st sp size a b c imm => Sys2Proof.Machine.execSt sp size a b c imm s
  | .cderive a b c => Sys2Proof.Machine.execCderive a b c s
  | .crestrict a b perm => Sys2Proof.Machine.execCrestrict a b perm s
  | .csetoff a b c => Sys2Proof.Machine.execCsetoff a b c s
  | .cincoff a b imm => Sys2Proof.Machine.execCincoff a b imm s
  | .cgetbase a b => Sys2Proof.Machine.execCgetbase a b s
  | .cgetlen a b => Sys2Proof.Machine.execCgetlen a b s
  | .cgetoff a b => Sys2Proof.Machine.execCgetoff a b s
  | .cldc a b c imm => Sys2Proof.Machine.execCldc a b c imm s
  | .cstc a b c imm => Sys2Proof.Machine.execCstc a b c imm s
  | .rtail e b => Sys2Proof.Machine.execRtail e b s
  | .rstat a e => Sys2Proof.Machine.execRstat a e s
  | .salign n cls => Sys2Proof.Machine.execSalign n cls s
  | .fpush b => Sys2Proof.Machine.execFpush b s
  | .slotrd a slot => Sys2Proof.Machine.execSlotrd a slot s
  | .ecsrr a e ecsr => Sys2Proof.Machine.execEcsrr a e ecsr s
  | .ecsrw e ecsr b => Sys2Proof.Machine.execEcsrw e ecsr b s
  | .tretire => Sys2Proof.Machine.execTretire s
  | .stgput b => Sys2Proof.Machine.execStgput b s
  | .stgget b => Sys2Proof.Machine.execStgget b s
  | .dispatch b table => Sys2Proof.Machine.execDispatch b table s
  | .launch a b => Sys2Proof.Machine.execLaunch a b s
  | .aadd a b c imm => Sys2Proof.Machine.execAadd a b c imm s
  | .aand a b c imm => Sys2Proof.Machine.execAand a b c imm s
  | .aor a b c imm => Sys2Proof.Machine.execAor a b c imm s
  | .axor a b c imm => Sys2Proof.Machine.execAxor a b c imm s
  | .amin a b c imm => Sys2Proof.Machine.execAmin a b c imm s
  | .amax a b c imm => Sys2Proof.Machine.execAmax a b c imm s
  | .aminn a b c imm => Sys2Proof.Machine.execAminn a b c imm s
  | .amaxn a b c imm => Sys2Proof.Machine.execAmaxn a b c imm s
  | .aswp a b c imm => Sys2Proof.Machine.execAswp a b c imm s
  | .acas a b c imm => Sys2Proof.Machine.execAcas a b c imm s
  | .fadd a b c imm => Sys2Proof.Machine.execFadd a b c imm s
  | .lr a b imm => Sys2Proof.Machine.execLr a b imm s
  | .sc a b c imm => Sys2Proof.Machine.execSc a b c imm s
  | .fence ord => Sys2Proof.Machine.execFence ord s
  | .binit b expect kind => Sys2Proof.Machine.execBinit b expect kind s
  | .bxfer b c => Sys2Proof.Machine.execBxfer b c s
  | .barr a b c => Sys2Proof.Machine.execBarr a b c s
  | .bwait b c ord => Sys2Proof.Machine.execBwait b c ord s
  | .barrw a b c ord => Sys2Proof.Machine.execBarrw a b c ord s
  | .bfree b => Sys2Proof.Machine.execBfree b s
  | .soinit b => Sys2Proof.Machine.execSoinit b s
  | .acq b ord => Sys2Proof.Machine.execAcq b ord s
  | .rel b ord => Sys2Proof.Machine.execRel b ord s
  | .rbind b c => Sys2Proof.Machine.execRbind b c s
  | .rmode b mode => Sys2Proof.Machine.execRmode b mode s
  | .dcfg b c => Sys2Proof.Machine.execDcfg b c s
  | .dq a b imm => Sys2Proof.Machine.execDq a b imm s
  | .drebuild b c => Sys2Proof.Machine.execDrebuild b c s
  | .pgmap a b c tag => Sys2Proof.Machine.execPgmap a b c tag s
  | .pgunmap a b c => Sys2Proof.Machine.execPgunmap a b c s
  | .pgfetch a b imm => Sys2Proof.Machine.execPgfetch a b imm s
  | .sptag b c tag => Sys2Proof.Machine.execSptag b c tag s
  | .spret a b tag mode => Sys2Proof.Machine.execSpret a b tag mode s
  | .sptrunc a b c => Sys2Proof.Machine.execSptrunc a b c s
  | .spposGet a b c => Sys2Proof.Machine.execSpposGet a b c s
  | .spposSet a b c => Sys2Proof.Machine.execSpposSet a b c s
  | .align e n => Sys2Proof.Machine.execAlign e n s
  | .engineHint e h k => Sys2Proof.Machine.execEngineHint e h k s
  | .cnop h => Sys2Proof.Machine.execCnop h s
  | .qld h qd off => Sys2Proof.Machine.execQld h qd off s
  | .cpy h ch qd qs bc => Sys2Proof.Machine.execCpy h ch qd qs bc s
  | .fill h ch qd bc poff => Sys2Proof.Machine.execFill h ch qd bc poff s
  | .gather h ch qd qs qx bc => Sys2Proof.Machine.execGather h ch qd qs qx bc s
  | .scatter h ch qd qs qx bc => Sys2Proof.Machine.execScatter h ch qd qs qx bc s
  | .scatadd h ch qd qs qx bc => Sys2Proof.Machine.execScatadd h ch qd qs qx bc s
  | .topkr h ch qd qs qx bc tab k => Sys2Proof.Machine.execTopkr h ch qd qs qx bc tab k s
  | .topkc h ch qd qs qx bc k => Sys2Proof.Machine.execTopkc h ch qd qs qx bc k s
  | .topkcTab h ch qd qs qx bc e0 kcap => Sys2Proof.Machine.execTopkcTab h ch qd qs qx bc e0 kcap s
  | .compact h ch qd qs qx bc coff => Sys2Proof.Machine.execCompact h ch qd qs qx bc coff s
  | .expand h ch qd qs qx bc z => Sys2Proof.Machine.execExpand h ch qd qs qx bc z s
  | .accrd h ch qd qs bc rm => Sys2Proof.Machine.execAccrd h ch qd qs bc rm s
  | .accwr h ch qd qs bc rm acc => Sys2Proof.Machine.execAccwr h ch qd qs bc rm acc s
  | .dscan h ch qd qs bc => Sys2Proof.Machine.execDscan h ch qd qs bc s
  | .dskip h ch qd qs qx bc dcls poff => Sys2Proof.Machine.execDskip h ch qd qs qx bc dcls poff s
  | .prefetch h qs res => Sys2Proof.Machine.execPrefetch h qs res s
  | .evict h qs inv => Sys2Proof.Machine.execEvict h qs inv s
  | .chkarm h qs off clr k => Sys2Proof.Machine.execChkarm h qs off clr k s
  | .mnop h => Sys2Proof.Machine.execMnop h s
  | .wload h spa we => Sys2Proof.Machine.execWload h spa we s
  | .wconst h ty we ord cb kb => Sys2Proof.Machine.execWconst h ty we ord cb kb s
  | .wfree h we => Sys2Proof.Machine.execWfree h we s
  | .mma h tile spa we lbl nrow => Sys2Proof.Machine.execMma h tile spa we lbl nrow s
  | .mmat h tile spa we lbl nrow => Sys2Proof.Machine.execMmat h tile spa we lbl nrow s
  | .mmaz h tile spa we lbl nrow => Sys2Proof.Machine.execMmaz h tile spa we lbl nrow s
  | .accz h tile => Sys2Proof.Machine.execAccz h tile s
  | .slmap h tile slot lbl => Sys2Proof.Machine.execSlmap h tile slot lbl s
  | .slclr h tile all lbl => Sys2Proof.Machine.execSlclr h tile all lbl s
  | .slspill h tile lbl => Sys2Proof.Machine.execSlspill h tile lbl s
  | .slfill h tile lbl => Sys2Proof.Machine.execSlfill h tile lbl s
  | .bind h tile spa ts acc cstr nrow => Sys2Proof.Machine.execBind h tile spa ts acc cstr nrow s
  | .drain h tile spa nrow => Sys2Proof.Machine.execDrain h tile spa nrow s
  | .drainq h tile spa nrow => Sys2Proof.Machine.execDrainq h tile spa nrow s
  | .vnop h => Sys2Proof.Machine.execVnop h s
  | .vwin h wt mode wr ws => Sys2Proof.Machine.execVwin h wt mode wr ws s
  | .vmov h vd va m t fm => Sys2Proof.Machine.execVmov h vd va m t fm s
  | .vadd h vd va vb m t rm sat => Sys2Proof.Machine.execVadd h vd va vb m t rm sat s
  | .vsub h vd va vb m t rm sat => Sys2Proof.Machine.execVsub h vd va vb m t rm sat s
  | .vmul h vd va vb m t rm => Sys2Proof.Machine.execVmul h vd va vb m t rm s
  | .vfma h vd va vb m t rm => Sys2Proof.Machine.execVfma h vd va vb m t rm s
  | .vmin h vd va vb m t => Sys2Proof.Machine.execVmin h vd va vb m t s
  | .vmax h vd va vb m t => Sys2Proof.Machine.execVmax h vd va vb m t s
  | .vabs h vd va m t => Sys2Proof.Machine.execVabs h vd va m t s
  | .vneg h vd va m t => Sys2Proof.Machine.execVneg h vd va m t s
  | .vdiv h vd va vb m t rm => Sys2Proof.Machine.execVdiv h vd va vb m t rm s
  | .vsqrt h vd va m t rm => Sys2Proof.Machine.execVsqrt h vd va m t rm s
  | .vrsq h vd va m t rm => Sys2Proof.Machine.execVrsq h vd va m t rm s
  | .vrcp h vd va m t rm => Sys2Proof.Machine.execVrcp h vd va m t rm s
  | .vexp2 h vd va m t rm => Sys2Proof.Machine.execVexp2 h vd va m t rm s
  | .vlog2 h vd va m t rm => Sys2Proof.Machine.execVlog2 h vd va m t rm s
  | .vcvt h vd va m t rm stt part => Sys2Proof.Machine.execVcvt h vd va m t rm stt part s
  | .vand h vd va vb m t => Sys2Proof.Machine.execVand h vd va vb m t s
  | .vor h vd va vb m t => Sys2Proof.Machine.execVor h vd va vb m t s
  | .vxor h vd va vb m t => Sys2Proof.Machine.execVxor h vd va vb m t s
  | .vshl h vd va vb m t count imf => Sys2Proof.Machine.execVshl h vd va vb m t count imf s
  | .vshr h vd va vb m t count imf => Sys2Proof.Machine.execVshr h vd va vb m t count imf s
  | .vshra h vd va vb m t count imf => Sys2Proof.Machine.execVshra h vd va vb m t count imf s
  | .vpopc h vd va m t => Sys2Proof.Machine.execVpopc h vd va m t s
  | .vctz h vd va m t => Sys2Proof.Machine.execVctz h vd va m t s
  | .vclmul h vd va vb m t hi => Sys2Proof.Machine.execVclmul h vd va vb m t hi s
  | .vpxor h vd va vb m t excl seed => Sys2Proof.Machine.execVpxor h vd va vb m t excl seed s
  | .vpsum h vd va m t rm => Sys2Proof.Machine.execVpsum h vd va m t rm s
  | .vred h vd va m t rm op => Sys2Proof.Machine.execVred h vd va m t rm op s
  | .vcmp h mk va vb m t pred => Sys2Proof.Machine.execVcmp h mk va vb m t pred s
  | .vsel h vd va vb m t => Sys2Proof.Machine.execVsel h vd va vb m t s
  | .vbcast h vd va m t src val => Sys2Proof.Machine.execVbcast h vd va m t src val s
  | .viota h vd m t idx => Sys2Proof.Machine.execViota h vd m t idx s
  | .vperm h vd va vb m t => Sys2Proof.Machine.execVperm h vd va vb m t s
  | .vcompr h vd va m t z => Sys2Proof.Machine.execVcompr h vd va m t z s
  | .vld h vd m t off => Sys2Proof.Machine.execVld h vd m t off s
  | .vldg h vd g m t off mr => Sys2Proof.Machine.execVldg h vd g m t off mr s
  | .vst h va m t off => Sys2Proof.Machine.execVst h va m t off s
  | .vstg h va g m t off => Sys2Proof.Machine.execVstg h va g m t off s
  | .vmtest h mk va vb m t row => Sys2Proof.Machine.execVmtest h mk va vb m t row s
  | .mand h mk mi mj nb => Sys2Proof.Machine.execMand h mk mi mj nb s
  | .mor h mk mi mj nb => Sys2Proof.Machine.execMor h mk mi mj nb s
  | .mnot h mk mi => Sys2Proof.Machine.execMnot h mk mi s
  | .mpop h vd mi m t => Sys2Proof.Machine.execMpop h vd mi m t s
  | .segmentRelease => Sys2Proof.Machine.execSegmentRelease s
  | .powerLeaveGrant => Sys2Proof.Machine.execPowerLeaveGrant s
  | .ringIdle e => Sys2Proof.Machine.execRingIdle e s
  | .engineReadStep => Sys2Proof.Machine.execEngineReadStep s
  | .timedWritePerform => Sys2Proof.Machine.execTimedWritePerform s
  | .dataArrival core e entry lo hi => Sys2Proof.Machine.execDataArrival core e entry lo hi s
  | .freezeResume => Sys2Proof.Machine.execFreezeResume s
  | .freezeTimeout => Sys2Proof.Machine.execFreezeTimeout s
  | .engineFaultTrap => Sys2Proof.Machine.execEngineFaultTrap s
  | .translationFaultReport core e entry o => Sys2Proof.Machine.execTranslationFaultReport core e entry o s
  | .causeResolved core => Sys2Proof.Machine.execCauseResolved core s
  | .copyStop core ch sub => Sys2Proof.Machine.execCopyStop core ch sub s
  | .restart ch => Sys2Proof.Machine.execRestart ch s
  | .discard ch => Sys2Proof.Machine.execDiscard ch s
  | .rgcfgWrite e v => Sys2Proof.Machine.execRgcfgWrite e v s
  | .registerWrite r v => Sys2Proof.Machine.execRegisterWrite r v s
  | .slcfgWrite g v => Sys2Proof.Machine.execSlcfgWrite g v s
  | .pbktWrite g p v => Sys2Proof.Machine.execPbktWrite g p v s
  | .preemption core => Sys2Proof.Machine.execPreemption core s
  | .contextResume core pa => Sys2Proof.Machine.execContextResume core pa s
  | .launchWalk queue => Sys2Proof.Machine.execLaunchWalk queue s
  | .leaseStart launch stage => Sys2Proof.Machine.execLeaseStart launch stage s
  | .homeTransaction => Sys2Proof.Machine.execHomeTransaction s
  | .homeResponse => Sys2Proof.Machine.execHomeResponse s
  | .postedBarrRefusal => Sys2Proof.Machine.execPostedBarrRefusal s
  | .barrierRelease => Sys2Proof.Machine.execBarrierRelease s
  | .reservationTimeout => Sys2Proof.Machine.execReservationTimeout s
  | .storeBufferDrain => Sys2Proof.Machine.execStoreBufferDrain s
  | .directoryProbe core block first last => Sys2Proof.Machine.execDirectoryProbe core block first last s
  | .retentionWakeWriteback core => Sys2Proof.Machine.execRetentionWakeWriteback core s
  | .transferParityError die chan group pa => Sys2Proof.Machine.execTransferParityError die chan group pa s
  | .memoryErrorReport core e entry => Sys2Proof.Machine.execMemoryErrorReport core e entry s
  | .transferRetry die chan pass group => Sys2Proof.Machine.execTransferRetry die chan pass group s
  | .channelRetrainDone die chan ok => Sys2Proof.Machine.execChannelRetrainDone die chan ok s
  | .halfWidthDone die chan => Sys2Proof.Machine.execHalfWidthDone die chan s
  | .hostRead pa len => Sys2Proof.Machine.execHostRead pa len s
  | .hostWrite pa data => Sys2Proof.Machine.execHostWrite pa data s
  | .hostAtomic op pa v e => Sys2Proof.Machine.execHostAtomic op pa v e s
  | .hostLineInvalidate pa data => Sys2Proof.Machine.execHostLineInvalidate pa data s
  | .hcqtailWrite v => Sys2Proof.Machine.execHcqtailWrite v s
  | .hcqbaseWrite v => Sys2Proof.Machine.execHcqbaseWrite v s
  | .kernelDoorbell => Sys2Proof.Machine.execKernelDoorbell s
  | .sidebandMessage rec => Sys2Proof.Machine.execSidebandMessage rec s
  | .sidebandLogRead log off => Sys2Proof.Machine.execSidebandLogRead log off s
  | .objset c pa => Sys2Proof.Machine.execObjset c pa s
  | .objextResolve c oid x pbase => Sys2Proof.Machine.execObjextResolve c oid x pbase s
  | .objextFail c oid x => Sys2Proof.Machine.execObjextFail c oid x s
  | .objinv c oid timeout => Sys2Proof.Machine.execObjinv c oid timeout s
  | .objinvTimeout oid => Sys2Proof.Machine.execObjinvTimeout oid s
  | .objrd c oid pa => Sys2Proof.Machine.execObjrd c oid pa s
  | .capstore c pa lo hi => Sys2Proof.Machine.execCapstore c pa lo hi s
  | .spcreate c oid tpp => Sys2Proof.Machine.execSpcreate c oid tpp s
  | .biasToHost c pa => Sys2Proof.Machine.execBiasToHost c pa s
  | .biasToDevice c pa lines => Sys2Proof.Machine.execBiasToDevice c pa lines s
  | .launchq c pa queue => Sys2Proof.Machine.execLaunchq c pa queue s
  | .qcfg c queue mask => Sys2Proof.Machine.execQcfg c queue mask s
  | .diefence c die => Sys2Proof.Machine.execDiefence c die s
  | .diereset c die => Sys2Proof.Machine.execDiereset c die s
  | .vbtrain c die chan ok => Sys2Proof.Machine.execVbtrain c die chan ok s
  | .lvcfg c die cap costs => Sys2Proof.Machine.execLvcfg c die cap costs s
  | .capcfgStop c pa len => Sys2Proof.Machine.execCapcfgStop c pa len s
  | .capcfgFull c pa len => Sys2Proof.Machine.execCapcfgFull c pa len s
  | .capcfgWrap c pa len => Sys2Proof.Machine.execCapcfgWrap c pa len s
  | .replay c pa len => Sys2Proof.Machine.execReplay c pa len s
  | .attest c noncePa quotePa => Sys2Proof.Machine.execAttest c noncePa quotePa s
  | .fwload c pa => Sys2Proof.Machine.execFwload c pa s
  | .thermalStep temp => Sys2Proof.Machine.execThermalStep temp s
  | .powerThrottle => Sys2Proof.Machine.execPowerThrottle s
  | .moduleReset => Sys2Proof.Machine.execModuleReset s
  | .gtcCycle => Sys2Proof.Machine.execGtcCycle s
  | .mainRailDown => Sys2Proof.Machine.execMainRailDown s
  | .mainRailUp => Sys2Proof.Machine.execMainRailUp s
  | .dieresetResponse die => Sys2Proof.Machine.execDieresetResponse die s
  | .contextRelease pa => Sys2Proof.Machine.execContextRelease pa s

end Sys2Proof.Machine
end

