-- ==== Sys2Proof/Machine/Schedule.lean ====
section
/-! DEFINITION. Machine/Schedule.lean: what happens next: the order of agents inside a GTC cycle, as plain data in the state (log
entry 4), the command engine's choice, and the sequencer's fetch (spec 01 R4, R10, R13, 04 R91, R99, 05 R113, 12 R279, 22 R389 to
R391). -/

namespace Sys2Proof.Machine

/-- What a step does: an instruction or an event at a state, or a change that no row of the opcode table names. -/
inductive Action where
  | run (s : State) (i : Instr)
  | go (s : State)

/-! ## Commands (22 R389 to R391) -/

/-- The sources that R391 admits for a command: the host, the side-band port, kernel code. -/
def admits (op : Nat) (src : Src) : Bool :=
  match src with
  | .host => 1 ≤ op && op ≤ 0x10
  | .sideband => 1 ≤ op && op ≤ 0x11
  | .kernel => (1 ≤ op && op ≤ 8) || op == 0x0A || op == 0x0C || op == 0x10

/-- The command of a record; none for one that R391 does not list, or not from this source. -/
def cmdInstr (s : State) (c : CmdCtx) (w : Vector Word 8) : Option Instr :=
  let op := w[0].toNat % 256
  let n1 := w[1].toNat
  let n2 := w[2].toNat
  let oid := BitVec.ofNat 24 n1
  if !admits op c.src then none
  else match op with
    | 0x01 => some (.objset c n1)
    | 0x02 => if w[4] = 0 then some (.objextResolve c oid n2 w[3]) else if w[4] = 1 then some (.objextFail c oid n2) else none
    | 0x03 => some (.objinv c oid n2)
    | 0x04 => some (.objrd c oid n2)
    | 0x05 => some (.capstore c n1 w[2] w[3])
    | 0x06 => some (.spcreate c oid n2)
    | 0x07 => if n2 = 1 then some (.biasToHost c n1)
      else if n2 = 0 then some (.biasToDevice c n1 (Config.hostLines s.gtc (n1 / 4096))) else none
    | 0x08 => some (.launchq c n1 n2)
    | 0x09 => some (.qcfg c n1 (w[2].setWidth 16))
    | 0x0A => some (.diefence c n1)
    | 0x0B => some (.diereset c n1)
    | 0x0C => some (.vbtrain c n1 n2 (Config.retrainOk s.gtc))
    | 0x0D => some (.lvcfg c n1 w[2] w[3])
    | 0x0E => if w[3] = 0 then some (.capcfgStop c n1 n2) else if w[3] = 1 then some (.capcfgFull c n1 n2)
      else if w[3] = 2 then some (.capcfgWrap c n1 n2) else none
    | 0x0F => some (.replay c n1 n2)
    | 0x10 => some (.attest c n1 n2)
    | 0x11 => some (.fwload c n1)
    | _ => none

/-- Eight words of memory. -/
def recAt (s : State) (pa : Nat) : Vector Word 8 := Vector.ofFn (fun k => memWord s.base.mem (pa + 8 * k.val))

/-- The record of an arrived command: in the ring at HCQHEAD, in the message, or in the kernel command object. -/
def recordOf (s : State) (a : CmdArr) : Vector Word 8 :=
  match a.src with
  | .host => recAt s (hostPa s.base.hcqbase.toNat + 64 * (s.base.hcqhead.toNat % 256))
  | .sideband => a.w
  | .kernel => recAt s (fwPa 34)

/-- The partition a command acts for: HPID, 0, or the kernel's. -/
def pidOf (s : State) (a : CmdArr) : Fin 16 :=
  match a.src with
  | .host => s.base.hpid
  | .sideband => 0
  | .kernel => a.pid

/-- The command engine takes the next command when none is under way; a bad one answers BADCMD (22 R390). -/
def nextCmd (s : State) : Option Action :=
  match s.base.cmdq with
  | [] => none
  | a :: rest =>
    if !s.base.cmdWaits.isEmpty || s.base.replay.isSome || s.inputs.any (fun p => p.1 ≤ s.gtc + 1 && (heldCmd p.2).isSome) then none
    else
      let w := recordOf s a
      let c : CmdCtx := ⟨a.src, (w[0]).extractLsb' 8 8, pidOf s a⟩
      let t := onBase s (fun b => { b with cmdq := rest })
      match cmdInstr s c w with
      | some i => some (.run t i)
      | none => some (.go (respond t c 4 0))

/-! ## The base (DESIGN CHOICE, log entry 4) -/

/-- The first listed core for which `f` answers. -/
def someCore (s : State) (f : State → Option Action) : Option Action :=
  (allCores s).findSome? (fun c => f { s with core := c })

/-- The base gives up the cause of a report: a copy stops, another command goes on without its bytes. -/
def giveUpAct (s t : State) (r : Report) : Action :=
  let id := t.core.id
  let sub := r.sub.getD 0
  match (findJob t r.job).bind (fun j => chanOf j.cmd) with
  | some ch => .run s (.copyStop id ch (Fin.ofNat 4 sub))
  | none => .go (atCore s id (fun s => giveUp s r sub))

/-- Whether a core frozen for a cause of the base has none left (04 R110). -/
def causeGone (s : State) : Bool :=
  (s.core.eng.freeze.map (fun f => f.cause == 3 || f.cause == 4)).getD false && !s.core.eng.reports.any (fun r => r.sent)

/-- What the base does about the reports of core `t.core`; `s` is the whole machine. -/
def reportAct (s t : State) : Option Action :=
  let id := t.core.id
  match unsent t 3 (fun _ => true), unsent t 4 (fun r => r.found + 4 ≤ t.gtc) with
  | some r, _ => some (.run s (.translationFaultReport id r.eng r.entry r.pos))
  | none, some r => some (.run s (.memoryErrorReport id r.eng r.entry))
  | none, none =>
    if t.core.eng.efault.isSome then none
    else match givenUp t (fun _ => true) with
      | some r => some (giveUpAct s t r)
      | none => if t.core.eng.reports.any (reportOver t) || causeGone t then some (.run s (.causeResolved id)) else none

/-- A queue or a stage for which the walker can act. -/
def walkAct (s : State) : Option Action :=
  match (List.finRange 16).find? (fun q => !(s.base.queues[q]).isEmpty) with
  | some q => some (.run s (.launchWalk q))
  | none => s.base.launches.findSome? (fun l => (List.finRange 8).findSome? (fun g =>
      if ((nextLease s l g).map (fun p => !imageHeld s p.2 p.1)).getD false && ((l.stages[g.val]?).bind (pickCore s)).isSome then
        some (.run s (.leaseStart l.id g)) else none))

/-- Whether the recorded lease start at the head of a replay has only to wait for its image. -/
def startHeld (s : State) (r : Replay) (la id : BitVec 32) (g : Fin 8) : Bool :=
  ((s.base.launches.find? (fun l => l.id == la)).bind (fun l => replayLease l g id (recIdx (r.recs.head?.getD [])))).any
    (fun p => imageHeld s p.2 p.1)

/-- What a replay does next. With no record left it ends OK once no lease of a launch that it brought is live; what such
a launch has not started then stays with the walker. A record that can never come about ends it with REFUSED: a launch
id that is in use, a lease start of no live launch, a host write whose count is not reached (DESIGN CHOICE, log entry
37). -/
def replayAct (s : State) (r : Replay) : Option Action :=
  let refused := some (Action.go (endReplay s r 1))
  match replayWrite s r, replayLaunch r, replayStart r with
  | some t, _, _ => some (.go t)
  | none, some (_, q), _ => if (launchIds s).contains q.id then refused else some (.run s (.launchWalk 0))
  | none, none, some (la, id, k, g) =>
    if !s.base.launches.any (fun l => l.id == la) then refused
    else if startHeld s r la id g then none
    else if coreFree s k || Config.numCores ≤ k || (s.base.dies[dieOf k]).fenced || (s.base.dies[dieOf k]).resetting then
      some (.run s (.leaseStart la g))
    else none
  | none, none, none =>
    if !r.recs.isEmpty then refused
    else if s.base.launches.any (fun l => r.brought.contains l.id && l.live != 0) then none
    else some (.go (endReplay s r 0))

/-- What a waiting command does next (22 R395, R396). -/
def waitAct (s : State) (w : CmdWait) : Option Action :=
  match w.oid with
  | some oid =>
    if ((s.base.objs.find? (fun o => o.oid == oid)).map (fun o => o.pins == 0)).getD true then some (.go (finishInv s oid))
    else if w.deadline ≤ s.gtc then some (.run s (.objinvTimeout oid)) else none
  | none => if w.deadline ≤ s.gtc then some (.run s (.dieresetResponse w.die)) else none

/-- The first due entry of the world's schedule, and the schedule without it (DESIGN CHOICE, log entry 8). -/
def dueInput (gtc : Nat) : List (Nat × Instr) → Option (Instr × List (Nat × Instr))
  | [] => none
  | p :: t => if p.1 ≤ gtc then some (p.2, t) else (dueInput gtc t).map (fun r => (r.1, p :: r.2))

/-- Without the main rail a command that waits or replays answers NOPOWER (22 R391). -/
def railAct (s : State) : Option Action :=
  match s.base.cmdWaits with
  | w :: _ => some (.go (respond (dropWait s w) w.c 3 0))
  | [] => match s.base.replay with
    | some r => some (.go (endReplay s r 3))
    | none => nextCmd s

/-- The base's part of a GTC cycle: what the world does, then what the base owes, one action at a time. -/
def baseAct (s : State) : Option Action :=
  match dueInput s.gtc s.inputs with
  | some (i, rest) => some (.run { s with inputs := rest } i)
  | none =>
    if !s.base.rail then railAct s
    else if !s.base.kbell.isEmpty then some (.run s .kernelDoorbell)
    else if !s.base.releases.isEmpty then some (.run s .barrierRelease)
    else if s.base.resv.any (resvOld s) then some (.run s .reservationTimeout)
    else match someCore s (reportAct s) with
    | some a => some a
    | none =>
      if (List.finRange 8).any (fun d => (grantable s d).isSome) then some (.run s .powerLeaveGrant)
      else if (s.core :: s.others).any (fun c => c.throttled != throttleNow s c) then some (.run s .powerThrottle)
      else match s.base.wakes.find? (wokenProbe s) with
      | some p => some (.run s (.retentionWakeWriteback p.1))
      | none => match s.base.vbus.findSome? (vbusDue s) with
      | some i => some (.run s i)
      | none => match s.base.cmdWaits.findSome? (waitAct s) with
        | some a => some a
        | none => match nextCmd s with
          | some a => some a
          | none => match s.base.replay with
            | some r => replayAct s r
            | none => walkAct s

/-! ## A core (01 R10, R15, 04 R99, 05 R113) -/

/-- What the ring of engine `e` does in this cycle (01 R10, R11, 02 R50). -/
def ringStep (s : State) (e : Eng) : Option Action :=
  match ringAct s e with
  | .none => none
  | .idle => some (.run s (.ringIdle e))
  | .underrun => some (.go (ringFault s e 0x11 2))
  | .illegal => some (.go (ringFault s e 0x10 0))
  | .cmd i => some (.run s i)

/-- One engine in this cycle: its due read steps, then its ring. -/
def engineAct (s : State) (e : Eng) : Option Action := if (dueOf s e).isSome then some (.run s .engineReadStep) else ringStep s e

/-- What a frozen core does: its freeze ends, in a resume or in a fault once nothing can end it (01 R21, R22); until
then a command that the check waits for takes the steps that need no cycle. -/
def frozenAct (s : State) (f : Freeze) : Option Action :=
  if freezeEnds s f then some (.run s .freezeResume)
  else if freezeStuck s f then some (.go (raiseEFault s ⟨0x11, 3, f.eng, freezeEntry s f, f.step, 0⟩))
  else if freezeExpired s f then some (.run s .freezeTimeout)
  else (freeJob s f).map (fun j => .go (readStep s j))

/-- Data that the base has meanwhile is formed and requested again, whether or not SCC stands, and a late fill sends its
reads (01 R25, R36, 15 R325). -/
def lateAct (s : State) : Option Action :=
  match formJob s, fillJob s with
  | some j, _ => some (.go (attempt s (formNext s j) j))
  | none, some j => some (.go (attempt s (readStep s j) j))
  | none, none => (renewNext s).map .go

/-- The engines of the current core in this cycle: copy, matrix, vector. -/
def engAct (s : State) : Option Action :=
  if s.core.lease.isNone then none
  else match lateAct s with
    | some a => some a
    | none => if s.core.saving then none else match s.core.eng.freeze with
      | some f => frozenAct s f
      | none =>
        if s.core.throttled then none else
        if s.core.eng.reports.any (fun r => r.sent) then some (.go (refreeze s))
        else [Eng.copy, Eng.matrix, Eng.vector].findSome? (engineAct s)

/-- The performs, landings and reports of the current core in this cycle. -/
def perfAct (s : State) : Option Action :=
  if s.core.lease.isNone then none
  else if (nextPerform s (nextReads s)).isSome then some (.run s .timedWritePerform)
  else if (nextTransit s).isSome then some (.run s .homeTransaction)
  else match landBlocked s with
  | some t => some (.go t)
  | none => (newReport s).map (fun r => .go (addReport s r))

/-- Whether a registered wait has been released. -/
def waitOver (w : Wait) : Bool :=
  match w with
  | .bwait _ r => r
  | .barrw _ _ r => r
  | _ => false

/-- The sequencer's fetch and its instruction: a word beyond the code object and an undecodable one trap (05 R113, 02
R42). -/
def fetchAct (s : State) : Action :=
  withCode s s.core.seq.pc.toNat (fun s w => match decodeSeq w with
    | some i => .run s i
    | none => .go (takeTrap s trapIllegal)) .go

/-- The sequencer's part of a cycle, at an instruction boundary: an engine fault first, then a barrier's refusal, then
its instruction. -/
def seqAct (s : State) : Action :=
  if s.core.lease.isNone || s.core.busy ≠ 0 || s.core.saving then .go s
  else if s.core.wait = .ending then .go (faultLease s)
  else if s.core.eng.efault.isSome && !s.core.csr.mode && !answering s.core.wait then .run s .engineFaultTrap
  else if (s.core.refusal.map (fun r => r.2 == s.core.csr.mode)).getD false then .run s .postedBarrRefusal
  else if releaseDue s then .run { s with phase := .seq } .segmentRelease
  else if waitOver s.core.wait then .run s .homeResponse
  else fetchAct s

/-- The next core's turn; after the last one the cycle ends. -/
def turnCore (s : State) : State :=
  let last := s.others.length ≤ s.rot
  let t := match s.others with
    | [] => s
    | c :: rest => { s with core := c, others := rest ++ [s.core] }
  if last then { t with rot := 0, phase := .cycle } else { t with rot := s.rot + 1, phase := .eng }

/-- What happens next. -/
def nextAction (s : State) : Action :=
  match s.phase with
  | .base => (baseAct s).getD (.go { s with phase := if s.base.rail then .eng else .cycle })
  | .eng => (engAct s).getD (.go { s with phase := .perf })
  | .perf => (perfAct s).getD (.go { settle s with phase := .drain })
  | .drain =>
    if s.core.sb.isEmpty then .go { s with phase := .seq } else .run { s with phase := .seq } .storeBufferDrain
  | .seq => seqAct { s with phase := .turn }
  | .turn => .go (turnCore s)
  | .cycle => .run { s with phase := .base } .gtcCycle

/-! ## Placing a word where the sequencer fetches (DESIGN CHOICE, log entry 21) -/

/-- The physical address of the current core's next word. -/
def fetchPa (s : State) : Option Nat :=
  (codeObj s).bind (fun o => if s.core.seq.pc.toNat + 8 ≤ o.len then paOf o s.core.seq.pc.toNat else none)

/-- A lease for a core that has none: lease 0 of launch 0, with code object 1. -/
def bareLease : Lease where
  id      := 0
  launch  := 0
  stage   := 0
  idx     := Vector.replicate 4 0
  code    := 1
  abort   := false
  reissue := false
  journal := []
  resumeArr := none
  puts    := 0
  held    := []
  redo    := []
  tread   := 0

/-- The current core at an instruction boundary of its sequencer, on a lease, nothing else due before its next
instruction. -/
def readyCore (s : State) : State :=
  { s with
    phase := .seq
    core := { s.core with
      lease := some (s.core.lease.getD bareLease), wait := .none, busy := 0, refusal := none,
      eng := { s.core.eng with efault := none } } }

/-- A STAGE object that covers the pc, as the code object of the current core, in kernel mode as its partition's
kernel code. -/
def placeCode (s : State) : State :=
  let s := if s.core.csr.mode && (s.base.kcode[s.core.csr.pid]).isNone then
      { s with base := { s.base with kcode := s.base.kcode.set s.core.csr.pid (some ⟨2, 0⟩) } } else s
  let oid := (codeOid s).getD 1
  let n := s.core.seq.pc.toNat / 4096 + 1
  { s with base := { s.base with
      objs := fwObj oid.toNat false false (4096 * n) (stagePa 0 0) n .plain :: s.base.objs } }

end Sys2Proof.Machine
end

