-- ==== Sys2Proof/Machine/Step.lean ====
section
/-! DEFINITION. Machine/Step.lean: one step of the machine, and the placing of an instruction where the next step fetches. -/

namespace Sys2Proof.Machine

/-- One step: the next action of the schedule, an instruction or event given its meaning by `exec`. -/
def step (s : State) : Host.Outcome State Fault Refusal :=
  match nextAction s with
  | .run t i => exec i t
  | .go t => .next t

/-- `s` with the sequencer word `w` where the next step fetches: the current core at an instruction boundary, with a
lease and a code object that covers its pc (DESIGN CHOICE, log entry 21). -/
def State.withFetchWord (s : State) (nbits w : Nat) : State :=
  let t := readyCore s
  let v := wordBytes (word (w % 2 ^ nbits))
  match fetchPa t with
  | some pa => { t with base := { t.base with mem := memWriteL t.base.mem pa v } }
  | none =>
    let u := placeCode t
    match fetchPa u with
    | some pa => { u with base := { u.base with mem := memWriteL u.base.mem pa v } }
    | none => u

end Sys2Proof.Machine
end

