-- ==== Sys2Proof/Safety.lean ====
section
/-! DEFINITION. Safety.lean: what counts as a safe run, in the terms of the claims. -/

namespace Sys2Proof.Machine

/-- The step takes `s` to `t`. -/
def Steps (s t : State) : Prop := step s = .next t

/-- Some number of steps takes `s` to `t`. -/
inductive Reaches : State → State → Prop where
  | refl (s : State) : Reaches s s
  | tail {s t u : State} : Reaches s t → Steps t u → Reaches s u

/-- A step of `s` neither faults nor is refused. -/
def Goes (s : State) : Prop := ∃ t, Steps s t

/-- Every state that `s` reaches goes on. -/
def SafeRun (s : State) : Prop := ∀ t, Reaches s t → Goes t

end Sys2Proof.Machine
end

