-- ==== Sys2Proof/Certificates/Slice0/Obligations.lean ====
section
/-! DEFINITION. Certificates/Slice0/Obligations.lean: the statements for the provers, with the words they share
(`Sys2Proof.Claims`). -/

section

/-! ## The words of the claims -/

namespace Sys2Proof.Claims
open Machine

/-- The value of scalar register `r`: x0 reads 0 (02 R41). -/
def reg (s : State) (r : XReg) : Word := if r = 0 then 0 else s.core.seq.x[r]

/-- `s` with `v` in register `a`; a write of x0 is discarded (02 R41). Nothing else changes. -/
def put (s : State) (a : XReg) (v : Word) : State :=
  if a = 0 then s else { s with core := { s.core with seq := { s.core.seq with x := s.core.seq.x.set a v } } }

/-- `s` with `v` in capability register `a`. -/
def putCap (s : State) (a : CReg) (v : Cap) : State :=
  { s with core := { s.core with seq := { s.core.seq with c := s.core.seq.c.set a v } } }

/-- `s` with the pc at `p`, the next instruction no earlier than `n` GTC cycles after this one (05 R113). -/
def goTo (n : Nat) (p : Word) (s : State) : State :=
  { s with core := { s.core with seq := { s.core.seq with pc := p }, busy := n } }

/-- `s` at the next instruction. -/
def past (n : Nat) (s : State) : State := goTo n (s.core.seq.pc + 8) s

/-- The instruction completes after `n` cycles with `v` in x[a], the pc 8 further, and nothing else changed. -/
def Writes (i : Instr) (s : State) (a : XReg) (v : Word) (n : Nat) : Prop := exec i s = .next (past n (put s a v))

/-- The same with the value given bit by bit. -/
def WritesBits (i : Instr) (s : State) (a : XReg) (f : Nat → Bool) (n : Nat) : Prop :=
  ∃ v : Word, (∀ k, k < 64 → v.getLsbD k = f k) ∧ Writes i s a v n

/-- The state in which the trap handler starts (04 R98): EPC, CAUSE, BADADDR and PMODE are saved, the mode is kernel,
and the pc is TVEC without its bits 2:0. -/
def inHandler (s : State) (epc cause bad : Word) : State :=
  { s with core := { s.core with
      csr := { s.core.csr with epc := epc, cause := cause, badaddr := bad, pmode := s.core.csr.mode, mode := true }
      seq := { s.core.seq with pc := s.core.csr.tvec &&& ~~~7#64 }, wait := .none, busy := 0 } }

/-- The state after a sequencer trap with CODE, SUB, AUX and BADADDR (04 R94, R98): in kernel mode it also ends the
lease as FAULTED, once what the core has sent is answered (04 R100, R108). -/
def trapped (s : State) (code sub aux : Nat) (bad epc : Word) : State :=
  let t := inHandler s epc (BitVec.ofNat 64 (code + sub * 2 ^ 16 + aux * 2 ^ 24)) bad
  if s.core.csr.mode then faultLease t else t

/-- The instruction traps, precisely: EPC is its own offset. -/
def Traps (i : Instr) (s : State) (code sub aux : Nat) (bad : Word) : Prop :=
  exec i s = .next (trapped s code sub aux bad s.core.seq.pc)

end Sys2Proof.Claims

open Sys2Proof Sys2Proof.Claims

/-! ## Words -/

/-- R114's worked words, and words of the other sequencer groups and of the three engines written out from R43 to R55,
decode to the instructions they stand for; the word 0 is a NOP, and a word of an unassigned group is none. -/
def Obligations.WorkedWordsDecode : Prop :=
  decodeSeq 0x08A0000000000200 = some (.addi 10 0 0x200) ∧
  decodeSeq 0x08C3000900000001 = some (.movhi 12 12 1) ∧
  decodeSeq 0x0C05560100000002 = some (.bne 21 22 2) ∧
  decodeSeq 0x1490C41500000008 = some (.ld .global true 1 9 3 4 8) ∧
  decodeSeq 0x0005800500000008 = some (.csrw 8 22) ∧
  decodeSeq 0x2000000200000201 = some (.salign 1 2) ∧
  decodeSeq 0x2002C00000010000 = some (.rtail .matrix 11) ∧
  decodeSeq 0x28A10B0000000008 = some (.aadd 10 4 11 8) ∧
  decodeSeq 0x2CA1C00400000304 = some (.barrw 10 7 0 ⟨3, false, false, true, false, false⟩) ∧
  decodeSeq 0x30C0C00100000000 = some (.dq 12 3 0) ∧
  decodeSeq 0x34C2400400000102 = some (.spret 12 9 2 true) ∧
  decodeCmd .copy 0x4100000000000000 = some (.align .copy 1) ∧
  decodeCmd .copy 0x0250024C80000000 = some (.cpy ⟨0, 2, 5, 0⟩ 1 3 2 false) ∧
  decodeCmd .matrix 0x034C0420100281C0 = some (.mma ⟨0, 3, 4, 12⟩ 2 0x40 5 3 64) ∧
  decodeCmd .vector 0x0000110810010044 = some (.vcvt ⟨0, 0, 0, 0⟩ 2 1 0 2 0 1 1) ∧
  decodeSeq 0 = some .nop ∧
  decodeSeq 0xE000000000000000 = some (.hint 0) ∧
  decodeSeq 0x3800000000000000 = none

namespace Sys2Proof.Claims

/-- The instructions of the sequencer, which stand in its opcode map (02 R43, R44). -/
def isSequencer : Instr → Bool
  | .nop .. | .hint .. | .halt .. | .trap .. | .eret .. | .csrr .. | .csrw .. | .csrset .. | .csrclr .. | .gtime ..
  | .rngnext .. | .add .. | .sub .. | .and .. | .or .. | .xor .. | .sll .. | .srl .. | .sra .. | .mul .. | .mulh ..
  | .div .. | .divn .. | .rem .. | .remn .. | .min .. | .max .. | .minn .. | .maxn .. | .slt .. | .sltn .. | .clz ..
  | .ctz .. | .popc .. | .clmul .. | .clmulh .. | .addi .. | .andi .. | .ori .. | .xori .. | .slli .. | .srli .. |
  .srai .. | .slti .. | .sltni .. | .movhi .. | .beq .. | .bne .. | .blt .. | .bge .. | .bltn .. | .bgen .. |
  .jal .. | .jalr .. | .ld .. | .st .. | .cderive .. | .crestrict .. | .csetoff .. | .cincoff .. | .cgetbase .. |
  .cgetlen .. | .cgetoff .. | .cldc .. | .cstc .. | .rtail .. | .rstat .. | .salign .. | .fpush .. | .slotrd .. |
  .ecsrr .. | .ecsrw .. | .tretire .. | .stgput .. | .stgget .. | .dispatch .. | .launch .. | .aadd .. | .aand .. |
  .aor .. | .axor .. | .amin .. | .amax .. | .aminn .. | .amaxn .. | .aswp .. | .acas .. | .fadd .. | .lr .. |
  .sc .. | .fence .. | .binit .. | .bxfer .. | .barr .. | .bwait .. | .barrw .. | .bfree .. | .soinit .. | .acq .. |
  .rel .. | .rbind .. | .rmode .. | .dcfg .. | .dq .. | .drebuild .. | .pgmap .. | .pgunmap .. | .pgfetch .. |
  .sptag .. | .spret .. | .sptrunc .. | .spposGet .. | .spposSet .. => true
  | _ => false

/-- The commands of the engines, which stand in their opcode maps (02 R48, R50, R55). -/
def isCommand : Instr → Bool
  | .align .. | .engineHint .. | .cnop .. | .qld .. | .cpy .. | .fill .. | .gather .. | .scatter .. | .scatadd .. |
  .topkr .. | .topkc .. | .topkcTab .. | .compact .. | .expand .. | .accrd .. | .accwr .. | .dscan .. | .dskip .. |
  .prefetch .. | .evict .. | .chkarm .. | .mnop .. | .wload .. | .wconst .. | .wfree .. | .mma .. | .mmat .. |
  .mmaz .. | .accz .. | .slmap .. | .slclr .. | .slspill .. | .slfill .. | .bind .. | .drain .. | .drainq .. |
  .vnop .. | .vwin .. | .vmov .. | .vadd .. | .vsub .. | .vmul .. | .vfma .. | .vmin .. | .vmax .. | .vabs .. |
  .vneg .. | .vdiv .. | .vsqrt .. | .vrsq .. | .vrcp .. | .vexp2 .. | .vlog2 .. | .vcvt .. | .vand .. | .vor .. |
  .vxor .. | .vshl .. | .vshr .. | .vshra .. | .vpopc .. | .vctz .. | .vclmul .. | .vpxor .. | .vpsum .. | .vred ..
  | .vcmp .. | .vsel .. | .vbcast .. | .viota .. | .vperm .. | .vcompr .. | .vld .. | .vldg .. | .vst .. | .vstg ..
  | .vmtest .. | .mand .. | .mor .. | .mnot .. | .mpop .. => true
  | _ => false

end Sys2Proof.Claims

/-- Every well-formed sequencer instruction has a word, and its word decodes to it, with every operand at every value
that the encoding admits (02 R39 to R46). -/
def Obligations.SequencerWordsRoundTrip : Prop :=
  ∀ i : Instr, i.wf = true → isSequencer i = true → ∃ w, encodeSeq i = some w ∧ decodeSeq w = some i

/-- Every well-formed engine command has a word, and in the ring of its engine that word decodes to it (02 R47 to
R55). -/
def Obligations.CommandWordsRoundTrip : Prop :=
  ∀ i : Instr, i.wf = true → isCommand i = true → ∃ e w, encodeCmd i = some (e, w) ∧ decodeCmd e w = some i

/-- What the decoder yields is well-formed: no word decodes to an operand the spec does not admit (02 R41 to R55). -/
def Obligations.DecodedInstructionsAreWellFormed : Prop :=
  (∀ (w : Word) (i : Instr), decodeSeq w = some i → i.wf = true) ∧
  (∀ (e : Eng) (w : Word) (i : Instr), decodeCmd e w = some i → i.wf = true)

/-! ## The step -/

namespace Sys2Proof.Claims
open Machine

/-- The sequencer of the current core is about to fetch: its turn has come, it holds a lease, is not busy and is not
being saved, no engine fault is taken first (in kernel mode, and while a sent request is unanswered, it waits, 04 R99,
12 R280), no refused barrier arrival of its mode is reported first, and its wait, if any, is not over. -/
def Fetches (s : State) : Prop :=
  s.phase = .seq ∧ s.core.lease.isSome = true ∧ s.core.busy = 0 ∧ s.core.saving = false ∧ s.core.wait ≠ .ending ∧
    (s.core.eng.efault = none ∨ s.core.csr.mode = true ∨ answering s.core.wait = true) ∧
    (∀ r, s.core.refusal = some r → r.2 ≠ s.core.csr.mode) ∧ releaseDue s = false ∧ waitOver s.core.wait = false

/-- The code object that the core fetches from (04 R91): the partition's kernel code in kernel mode, else the stage's.
-/
def Code (s : State) (o : ObjEnt) : Prop :=
  ∃ oid, (if s.core.csr.mode then (s.base.kcode[s.core.csr.pid]).map (fun k => k.oid) else s.core.lease.map (fun l => l.code)) = some oid ∧
    findObj s oid = some o

/-- The state in which the instruction of this turn runs: the turn is over after it. -/
def turned (s : State) : State := { s with phase := .turn }

/-- The home's answer to the fetch of the eight bytes at the pc: the machine after it, and whether the array delivers
them, retries, or fails; when it delivers them, dirty copies have come back (08 R191, R192, 10 R236). -/
def fetched (s : State) (o : ObjEnt) : State × Fetch :=
  let r := dramRead (turned s) o s.core.seq.pc.toNat 8 s.core.id
  (if r.2 = .ok then takeBack r.1 none o s.core.seq.pc.toNat 8 else r.1, r.2)

end Sys2Proof.Claims

/-- A step at an instruction boundary runs the instruction that the eight bytes at the pc encode, as the code object's
home holds them, and the turn of this core is then over; bytes that encode none trap as illegal-instruction; a fetch
at or beyond the code object's length raises a capability fault with SUB 2, AUX 0xFFFF and the offset in EPC and
BADADDR (05 R113, 02 R42). The home of a STAGE code object without L1 copies answers at once when no page is in host
bias, the fetch sending no packet; while another's channel retries, the sequencer stands; bytes that the array cannot
correct trap as an access-unresolved with SUB 2 (the model's choice, log entry 62). An engine's ring runs its head:
when no late data is to be formed, no engine before it acts and it has no read step due, a published head entry whose
issue cycle has come, on a ring that is not idle, is decoded and run (01 R8 to R11), the word being read when it
issues (the model's choice, log entry 22); a word that encodes no command raises illegal-command, precise before its
entry (02 R50). -/
def Obligations.StepRunsTheDecodedInstruction : Prop :=
  (∀ (s : Machine.State) (o : Machine.ObjEnt), Fetches s → Code s o →
    (∀ pa, s.core.seq.pc.toNat + 8 ≤ o.len → Machine.paOf o s.core.seq.pc.toNat = some pa →
      let t := (fetched s o).1
      (o.space = 1 → o.coh = false → s.base.bias = [] → fetched s o = (turned s, .ok)) ∧
      ((fetched s o).2 = .ok →
        (∀ i, decodeSeq (BitVec.ofNat 64 (bytesNat (Machine.memReadN t.base.mem pa 8))) = some i → Machine.step s = Machine.exec i t) ∧
        (decodeSeq (BitVec.ofNat 64 (bytesNat (Machine.memReadN t.base.mem pa 8))) = none →
          Machine.step s = .next (trapped t 0x01 0 0 0 t.core.seq.pc))) ∧
      ((fetched s o).2 = .busy → Machine.step s = .next t) ∧
      ((fetched s o).2 = .bad → Machine.step s = .next (trapped t 0x05 2 0xFFFF s.core.seq.pc t.core.seq.pc))) ∧
    (o.len ≤ s.core.seq.pc.toNat → Machine.step s = .next (trapped (turned s) 0x03 2 0xFFFF s.core.seq.pc s.core.seq.pc))) ∧
  (∀ (s : Machine.State) (e : Eng) (w : Word), s.phase = .eng → s.core.lease.isSome = true → s.core.eng.freeze = none →
    s.core.throttled = false → s.core.saving = false → (∀ r ∈ s.core.eng.reports, r.sent = false) → Machine.lateAct s = none →
    (∀ d : Eng, d.code < e.code → Machine.engineAct s d = none) → Machine.dueOf s e = none →
    Machine.ringWord s.core.eng (Machine.engIdx e) = some w → w.toNat / 2 ^ 62 ≠ 1 →
    (s.core.eng.rings[Machine.engIdx e]).idle = false →
    (s.core.eng.rings[Machine.engIdx e]).nextIss + Machine.idleCount (CmdFields.unpack w).hdr ≤ s.core.csr.scc →
    (∀ i, decodeCmd e w = some i → Machine.step s = Machine.exec i s) ∧
    (decodeCmd e w = none → Machine.step s = .next (Machine.raiseEFault s
      ⟨0x10, 0, e, (s.core.eng.rings[Machine.engIdx e]).head.toNat, 0, 0⟩)))

/-! ## SYS group -/

/-- NOP, and every word of the hint region, only advances the pc by 8 (05 R115). -/
def Obligations.NopAndHintsOnlyAdvance : Prop :=
  ∀ s : Machine.State, Machine.exec .nop s = .next (past 1 s) ∧ ∀ k, Machine.exec (.hint k) s = .next (past 1 s)

/-- TRAP takes the trap with CODE 0x04, SUB 0, AUX its code and BADADDR 0, with the next instruction in EPC; in kernel
mode it ends the lease as FAULTED; its code is IMM[15:0], and IMM[31:16] is ignored (05 R117, 04 R98, R100). -/
def Obligations.TrapEntersTheHandler : Prop :=
  (∀ (s : Machine.State) (code : BitVec 16), Machine.exec (.trap code) s = .next (trapped s 0x04 0 code.toNat 0 (s.core.seq.pc + 8))) ∧
  ∀ w : Word, w.toNat / 2 ^ 58 = 0 → w.toNat / 2 ^ 32 % 256 = 0x02 → decodeSeq w = some (.trap (BitVec.ofNat 16 w.toNat))

/-- ERET in kernel mode without a waiting engine fault returns to EPC in the mode of PMODE, and after an engine trap
clears ENGT and lets the core unfreeze at the next GTC cycle (05 R118, 04 R100); the low bits of EPC read 0 there
(DEDUCED, log entry 13). With a waiting fault and tile mode in PMODE, that fault is taken at once, with EPC kept (04
R99). HALT, ERET and DCFG in tile mode trap as illegal-instruction with SUB 2 (04 R91, 05 R116, R118, 12 R297). -/
def Obligations.EretReturnsAndTileModeTraps : Prop :=
  ∀ s : Machine.State,
    (s.core.csr.mode = false → Traps .halt s 0x01 2 0 0 ∧ Traps .eret s 0x01 2 0 0 ∧ ∀ b c, Traps (.dcfg b c) s 0x01 2 0 0) ∧
    (s.core.csr.mode = true →
      let r := s.core.csr
      let back : Machine.State := { s with core := { s.core with
        csr := { r with mode := r.pmode, engt := false }
        seq := { s.core.seq with pc := r.epc &&& ~~~7#64 }
        busy := 0
        eng := if r.engt then { s.core.eng with freeze := s.core.eng.freeze.map (fun f => { f with cause := 0 }) } else s.core.eng } }
      ((s.core.eng.efault = none ∨ r.pmode = true ∨ r.epend = false) → Machine.exec .eret s = .next back) ∧
      (∀ f, s.core.eng.efault = some f → r.pmode = false → r.epend = true →
        ∃ t, Machine.exec .eret s = .next t ∧ t.core.csr.mode = true ∧ t.core.csr.pmode = false ∧ t.core.csr.epc = r.epc ∧
          t.core.csr.engt = true ∧ t.core.csr.epend = false ∧ t.core.csr.badaddr = f.bad ∧
          t.core.csr.cause = Machine.causeWord f.code f.sub f.aux f.eng.code true f.step ∧
          t.core.seq.pc = r.tvec &&& ~~~7#64 ∧ t.core.seq.x = s.core.seq.x ∧ t.core.seq.c = s.core.seq.c ∧
          t.base = s.base ∧ t.others = s.others))

/-- HALT in kernel mode ends the lease as FAULTED: its store buffer drains and the answers to what it has posted come
in first, and there is a place for its context area (the model's choice, log entry 11), and it stands until then; then
the core is free, the context area is kept with the lease, and its launch, when other leases of it live, has one live
lease fewer and one faulted one more, with an entry that names the area (05 R116, 04 R108, 22 R397). -/
def Obligations.HaltEndsTheLease : Prop :=
  ∀ s : Machine.State, s.core.csr.mode = true →
    let t := Machine.drainAll s
    Machine.exec .halt s = .next (if t.core.sb = [] ∧ t.core.posted = [] ∧ Machine.ctxRoom t = true then Machine.endFaulted t
      else { t with core := { t.core with wait := .ending } }) ∧
    (∀ l : Machine.Lease, s.core.lease = some l →
      let u := Machine.endFaulted s
      u.core.lease = none ∧ u.nextCtx = s.nextCtx + 1 ∧ ∃ x ∈ u.base.ctxs, x.faulted = true ∧ x.lease = l ∧
        ∀ k ∈ s.base.launches, k.id = l.launch → 2 ≤ k.live → (∀ k' ∈ s.base.launches, k'.id = l.launch → k' = k) →
          { k with live := k.live - 1, faulted := k.faulted + 1, ents := k.ents ++ [⟨l.idx, l.stage, 2, l.id, x.pa⟩] } ∈ u.base.launches)

/-- CSRR of every CSR of R92 but GTC writes the CSR's value, in both modes: STATUS as R93 lays it out, the plain
registers whole, the narrow ones zero-extended, EXTDIST in bits 23:12 (05 R119, 04 R92 to R96). -/
def Obligations.CsrrReadsEveryRegister : Prop :=
  ∀ (s : Machine.State) (a : XReg),
    let r := s.core.csr
    let b (x : Bool) : Nat := if x then 1 else 0
    Writes (.csrr a 0x000) s a (BitVec.ofNat 64 (r.seg.toNat * 1024 + r.pclass.toNat * 256 + b r.epend * 64 + b r.engt * 32
      + b (s.core.eng.freeze.isSome || s.core.throttled) * 16 + b r.pmode * 2 + b r.mode)) 1 ∧
    Writes (.csrr a 0x001) s a r.tvec 1 ∧ Writes (.csrr a 0x002) s a r.epc 1 ∧ Writes (.csrr a 0x003) s a r.cause 1 ∧
    Writes (.csrr a 0x004) s a r.badaddr 1 ∧ Writes (.csrr a 0x008) s a (BitVec.ofNat 64 r.schmode.toNat) 1 ∧
    Writes (.csrr a 0x009) s a (BitVec.ofNat 64 r.qk.toNat) 1 ∧
    Writes (.csrr a 0x00A) s a (BitVec.ofNat 64 (r.extdist.toNat * 4096)) 1 ∧
    Writes (.csrr a 0x010) s a r.rngkey 1 ∧ Writes (.csrr a 0x011) s a r.rngctr 1 ∧
    Writes (.csrr a 0x018) s a (BitVec.ofNat 64 r.spflag.toNat) 1 ∧ Writes (.csrr a 0x019) s a r.spbad 1 ∧
    Writes (.csrr a 0x01A) s a r.resf 1 ∧ Writes (.csrr a 0x01B) s a (BitVec.ofNat 64 r.dstat.toNat) 1 ∧
    Writes (.csrr a 0x020) s a (BitVec.ofNat 64 r.scc) 1 ∧ Writes (.csrr a 0x022) s a (BitVec.ofNat 64 r.pid.val) 1

namespace Sys2Proof.Claims
open Machine

/-- The numbers of the CSRs (04 R92). -/
def csrNumbers : List Nat :=
  [0x000, 0x001, 0x002, 0x003, 0x004, 0x008, 0x009, 0x00A, 0x010, 0x011, 0x018, 0x019, 0x01A, 0x01B, 0x020, 0x021, 0x022]

/-- The CSRs that no instruction writes, and those that only kernel mode writes (04 R92). -/
def csrReadOnly : List Nat := [0x020, 0x021, 0x022]
def csrKernelOnly : List Nat := [0x000, 0x001, 0x002, 0x003, 0x004, 0x019]

/-- The registers after a write of `v` to CSR `n` of R92: reserved and read-only bits keep their values. -/
def csrAfter (r : Csr) (n : Nat) (v : Word) : Csr :=
  if n = 0x000 then { r with pmode := v.getLsbD 1 }
  else if n = 0x001 then { r with tvec := v }
  else if n = 0x002 then { r with epc := v }
  else if n = 0x003 then { r with cause := v &&& ~~~0xF100#64 }
  else if n = 0x004 then { r with badaddr := v }
  else if n = 0x008 then { r with schmode := BitVec.ofNat 2 v.toNat }
  else if n = 0x009 then { r with qk := BitVec.ofNat 4 v.toNat }
  else if n = 0x00A then { r with extdist := BitVec.ofNat 12 (v.toNat / 2 ^ 12) }
  else if n = 0x010 then { r with rngkey := v }
  else if n = 0x011 then { r with rngctr := v }
  else if n = 0x018 then { r with spflag := BitVec.ofNat 4 v.toNat }
  else if n = 0x019 then { r with spbad := v }
  else if n = 0x01A then { r with resf := v &&& ~~~0xFFC#64 }
  else { r with dstat := BitVec.ofNat 3 v.toNat }

/-- The write form completes: the CSR takes the value, the pc is 8 further, and nothing else changes. -/
def Sets (i : Instr) (s : State) (n : Nat) (v : Word) : Prop :=
  exec i s = .next (past 1 { s with core := { s.core with csr := csrAfter s.core.csr n v } })

end Sys2Proof.Claims

/-- CSRW, CSRSET and CSRCLR write x[B], CSR | x[B] and CSR & ~x[B]: in kernel mode to every CSR of R92 that is not
read-only, in tile mode to those that are not kernel-only either; otherwise they trap as illegal-operand with SUB 2
and the number in BADADDR. A number outside R92 traps as illegal-instruction in all four forms (05 R119). -/
def Obligations.CsrWritesTakeEffectOrTrap : Prop :=
  ∀ (s : Machine.State) (n : Fin 4096) (a b : XReg),
    (n.val ∈ csrNumbers → n.val ∉ csrReadOnly → (n.val ∉ csrKernelOnly ∨ s.core.csr.mode = true) →
      Sets (.csrw n b) s n.val (reg s b) ∧
      Sets (.csrset n b) s n.val (Machine.csrGet s n.val ||| reg s b) ∧
      Sets (.csrclr n b) s n.val (Machine.csrGet s n.val &&& ~~~(reg s b))) ∧
    (n.val ∉ csrNumbers → Traps (.csrr a n) s 0x01 0 0 0 ∧ Traps (.csrw n b) s 0x01 0 0 0 ∧ Traps (.csrset n b) s 0x01 0 0 0 ∧
      Traps (.csrclr n b) s 0x01 0 0 0) ∧
    (n.val ∈ csrNumbers → (n.val ∈ csrReadOnly ∨ (n.val ∈ csrKernelOnly ∧ s.core.csr.mode = false)) →
      Traps (.csrw n b) s 0x02 2 0 (BitVec.ofNat 64 n.val) ∧ Traps (.csrset n b) s 0x02 2 0 (BitVec.ofNat 64 n.val) ∧
      Traps (.csrclr n b) s 0x02 2 0 (BitVec.ofNat 64 n.val))

namespace Sys2Proof.Claims
open Machine

/-- `s` after one more timer read of its lease. -/
def ticked (s : State) (l : Lease) : State := { s with core := { s.core with lease := some { l with tread := l.tread + 1 } } }

end Sys2Proof.Claims

/-- GTIME, and CSRR of GTC, write the GTC value of the cycle; outside a replay the read is recorded in a capture with
the lease's id, its number within the lease and the value, as numbers of 8 bytes each (the model's reading, log entry
37), and nothing else of the machine changes; in a replay they write the recorded value of that read, where there is one
(05 R120, 04 R92, 22 R403, R404). RNGNEXT writes the fixed function of RNGKEY and RNGCTR and increments RNGCTR modulo
2^64 (04 R107, 05 R121). -/
def Obligations.TimeAndRandomReads : Prop :=
  ∀ (s : Machine.State) (a : XReg),
    (s.core.lease = none → Machine.exec (.gtime a) s = .next (past 1 (put s a (BitVec.ofNat 64 s.gtc))) ∧
      Machine.exec (.csrr a 0x021) s = .next (past 1 (put s a (BitVec.ofNat 64 s.gtc)))) ∧
    (∀ (l : Machine.Lease) (r : Machine.Replay) (v : BitVec 32 × Nat × Word), s.core.lease = some l → s.base.replay = some r →
      r.timers.find? (fun t => t.1 == l.id && t.2.1 == l.tread) = some v →
      let u := { s with base := { s.base with replay := some { r with timers := r.timers.erase v } } }
      let t := Machine.captureRec (ticked u l) 4 (natBytes 8 l.id.toNat ++ natBytes 8 l.tread ++ natBytes 8 v.2.2.toNat)
      Machine.exec (.gtime a) s = .next (past 1 (put t a v.2.2)) ∧ Machine.exec (.csrr a 0x021) s = .next (past 1 (put t a v.2.2))) ∧
    (∀ l : Machine.Lease, s.core.lease = some l →
      (∀ r, s.base.replay = some r → r.timers.find? (fun t => t.1 == l.id && t.2.1 == l.tread) = none) →
      let t := Machine.captureRec (ticked s l) 4 (natBytes 8 l.id.toNat ++ natBytes 8 l.tread ++ natBytes 8 (s.gtc % 2 ^ 64))
      Machine.exec (.gtime a) s = .next (past 1 (put t a (BitVec.ofNat 64 s.gtc))) ∧
      Machine.exec (.csrr a 0x021) s = .next (past 1 (put t a (BitVec.ofNat 64 s.gtc))) ∧
      (s.base.capture.mode = 0 → t = ticked s l)) ∧
    (let z := s.core.csr.rngctr * 0x9E3779B97F4A7C15 + s.core.csr.rngkey
     let z := (z ^^^ (z >>> 30)) * 0xBF58476D1CE4E5B9
     let z := (z ^^^ (z >>> 27)) * 0x94D049BB133111EB
     let t := put s a (z ^^^ (z >>> 31))
     Machine.exec (.rngnext a) s = .next (past 1 { t with core := { t.core with
       csr := { t.core.csr with rngctr := BitVec.ofNat 64 (s.core.csr.rngctr.toNat + 1) } } }))

/-! ## ALU and ALUI groups -/

/-- ADD and SUB wrap modulo 2^64; AND, OR and XOR act bit by bit; SLL, SRL and SRA shift by x[C] modulo 64, the last
the signed value; A may equal B or C, and a write of x0 is discarded (05 R122). -/
def Obligations.SumsBitwiseOperationsAndShifts : Prop :=
  ∀ (s : Machine.State) (a b c : XReg),
    let n := (reg s c).toNat % 64
    Writes (.sll a b c) s a (BitVec.ofNat 64 ((reg s b).toNat * 2 ^ n)) 1 ∧
    Writes (.srl a b c) s a (BitVec.ofNat 64 ((reg s b).toNat / 2 ^ n)) 1 ∧
    Writes (.sra a b c) s a (BitVec.ofInt 64 ((reg s b).toInt / 2 ^ n)) 1 ∧
    Writes (.add a b c) s a (BitVec.ofNat 64 ((reg s b).toNat + (reg s c).toNat)) 1 ∧
    Writes (.sub a b c) s a (BitVec.ofInt 64 ((reg s b).toNat - (reg s c).toNat)) 1 ∧
    WritesBits (.and a b c) s a (fun k => (reg s b).getLsbD k && (reg s c).getLsbD k) 1 ∧
    WritesBits (.or a b c) s a (fun k => (reg s b).getLsbD k || (reg s c).getLsbD k) 1 ∧
    WritesBits (.xor a b c) s a (fun k => (reg s b).getLsbD k != (reg s c).getLsbD k) 1

/-- MUL gives the low half of the product, MULH the high half of the signed product; CLMUL and CLMULH the bits 63:0
and 127:64 of the carry-less product, bit k being the parity of the pairs of one bits that meet there (05 R122). -/
def Obligations.ProductsAndCarrylessProducts : Prop :=
  ∀ (s : Machine.State) (a b c : XReg),
    let bit (k : Nat) : Bool :=
      (List.range 64).countP (fun j => decide (j ≤ k) && (reg s b).getLsbD j && (reg s c).getLsbD (k - j)) % 2 == 1
    Writes (.mul a b c) s a (BitVec.ofNat 64 ((reg s b).toNat * (reg s c).toNat)) 3 ∧
    Writes (.mulh a b c) s a (BitVec.ofInt 64 ((reg s b).toInt * (reg s c).toInt / 2 ^ 64)) 3 ∧
    WritesBits (.clmul a b c) s a bit 3 ∧
    WritesBits (.clmulh a b c) s a (fun k => bit (64 + k)) 3

/-- Division handles its edge cases without a trap: by zero the quotients are all ones and the remainders the
dividend; else the quotients truncate toward zero and the remainders take the dividend's sign, so that -2^63 / -1
wraps to -2^63 (05 R122, R123). -/
def Obligations.DivisionHandlesItsCorners : Prop :=
  ∀ (s : Machine.State) (a b c : XReg),
    let x := reg s b
    let y := reg s c
    (y = 0 → Writes (.div a b c) s a 0xFFFFFFFFFFFFFFFF 36 ∧ Writes (.divn a b c) s a 0xFFFFFFFFFFFFFFFF 36 ∧
      Writes (.rem a b c) s a x 36 ∧ Writes (.remn a b c) s a x 36) ∧
    (y ≠ 0 → Writes (.div a b c) s a (BitVec.ofInt 64 (x.toInt.tdiv y.toInt)) 36 ∧
      Writes (.divn a b c) s a (BitVec.ofNat 64 (x.toNat / y.toNat)) 36 ∧
      Writes (.rem a b c) s a (BitVec.ofInt 64 (x.toInt.tmod y.toInt)) 36 ∧
      Writes (.remn a b c) s a (BitVec.ofNat 64 (x.toNat % y.toNat)) 36)

/-- MIN, MAX, SLT compare signed, MINN, MAXN, SLTN unsigned; CLZ and CTZ count the zero bits above the highest and
below the lowest one bit, 64 for 0; POPC counts the one bits (05 R122). -/
def Obligations.ComparisonsAndBitCounts : Prop :=
  ∀ (s : Machine.State) (a b c : XReg),
    let x := reg s b
    let y := reg s c
    Writes (.min a b c) s a (if x.toInt < y.toInt then x else y) 1 ∧
    Writes (.max a b c) s a (if x.toInt < y.toInt then y else x) 1 ∧
    Writes (.minn a b c) s a (if x.toNat < y.toNat then x else y) 1 ∧
    Writes (.maxn a b c) s a (if x.toNat < y.toNat then y else x) 1 ∧
    Writes (.slt a b c) s a (if x.toInt < y.toInt then 1 else 0) 1 ∧
    Writes (.sltn a b c) s a (if x.toNat < y.toNat then 1 else 0) 1 ∧
    (∃ n : Nat, n ≤ 64 ∧ (∀ i, 64 - n ≤ i → x.getLsbD i = false) ∧ (n < 64 → x.getLsbD (63 - n) = true) ∧
      Writes (.clz a b) s a (BitVec.ofNat 64 n) 1) ∧
    (∃ n : Nat, n ≤ 64 ∧ (∀ i, i < n → x.getLsbD i = false) ∧ (n < 64 → x.getLsbD n = true) ∧
      Writes (.ctz a b) s a (BitVec.ofNat 64 n) 1) ∧
    Writes (.popc a b) s a (BitVec.ofNat 64 ((List.range 64).countP (fun i => x.getLsbD i))) 1

/-- The ALUI group acts as its ALU counterpart on the sign-extended immediate, the shifts on IMM[5:0]; SLTNI reads the
extended immediate as unsigned; MOVHI puts IMM in bits 63:32 and keeps bits 31:0; the shifts ignore IMM[31:6] (05
R124). -/
def Obligations.ImmediateForms : Prop :=
  (∀ w : Word, w.toNat / 2 ^ 58 = 0x02 →
    let a := Fin.ofNat 64 (w.toNat / 2 ^ 52)
    let b := Fin.ofNat 64 (w.toNat / 2 ^ 46)
    let sh := Fin.ofNat 64 w.toNat
    (w.toNat / 2 ^ 32 % 256 = 0x04 → decodeSeq w = some (.slli a b sh)) ∧
    (w.toNat / 2 ^ 32 % 256 = 0x05 → decodeSeq w = some (.srli a b sh)) ∧
    (w.toNat / 2 ^ 32 % 256 = 0x06 → decodeSeq w = some (.srai a b sh))) ∧
  ∀ (s : Machine.State) (a b : XReg) (imm : BitVec 32) (sh : Fin 64),
    let x := reg s b
    let i := BitVec.ofInt 64 imm.toInt
    Writes (.addi a b imm) s a (BitVec.ofInt 64 (x.toInt + imm.toInt)) 1 ∧ Writes (.andi a b imm) s a (x &&& i) 1 ∧
    Writes (.ori a b imm) s a (x ||| i) 1 ∧ Writes (.xori a b imm) s a (x ^^^ i) 1 ∧
    Writes (.slli a b sh) s a (BitVec.ofNat 64 (x.toNat * 2 ^ sh.val)) 1 ∧
    Writes (.srli a b sh) s a (BitVec.ofNat 64 (x.toNat / 2 ^ sh.val)) 1 ∧
    Writes (.srai a b sh) s a (BitVec.ofInt 64 (x.toInt / 2 ^ sh.val)) 1 ∧
    Writes (.slti a b imm) s a (if x.toInt < imm.toInt then 1 else 0) 1 ∧
    Writes (.sltni a b imm) s a (if x.toNat < i.toNat then 1 else 0) 1 ∧
    Writes (.movhi a b imm) s a (BitVec.ofNat 64 (imm.toNat * 2 ^ 32 + x.toNat % 2 ^ 32)) 1

/-! ## Control transfer -/

/-- A branch whose condition holds goes to pc + 8 × sext(IMM), else to the next instruction; it writes no register.
JAL and JALR link pc + 8 and jump; JALR reads x[B] before it writes x[A], and a target that is no multiple of 8 traps
as illegal-operand with SUB 1 and the target in BADADDR (05 R126, R127). -/
def Obligations.BranchesAndJumps : Prop :=
  ∀ (s : Machine.State) (a b c : XReg) (imm : BitVec 32),
    let x := reg s b
    let y := reg s c
    let goes (p : Bool) := if p then goTo 2 (BitVec.ofInt 64 (s.core.seq.pc.toNat + 8 * imm.toInt)) s else past 1 s
    Machine.exec (.beq b c imm) s = .next (goes (x = y)) ∧ Machine.exec (.bne b c imm) s = .next (goes (x ≠ y)) ∧
    Machine.exec (.blt b c imm) s = .next (goes (x.toInt < y.toInt)) ∧ Machine.exec (.bge b c imm) s = .next (goes (y.toInt ≤ x.toInt)) ∧
    Machine.exec (.bltn b c imm) s = .next (goes (x.toNat < y.toNat)) ∧ Machine.exec (.bgen b c imm) s = .next (goes (y.toNat ≤ x.toNat)) ∧
    (let t := BitVec.ofInt 64 ((reg s b).toInt + imm.toInt)
    Machine.exec (.jal a imm) s =
      .next (goTo 2 (BitVec.ofInt 64 (s.core.seq.pc.toNat + 8 * imm.toInt)) (put s a (s.core.seq.pc + 8))) ∧
    (t.toNat % 8 = 0 → Machine.exec (.jalr a b imm) s = .next (goTo 2 t (put s a (s.core.seq.pc + 8)))) ∧
    (t.toNat % 8 ≠ 0 → Traps (.jalr a b imm) s 0x02 1 0 t))

/-! ## The capability check and plain memory -/

namespace Sys2Proof.Claims
open Machine

/-- The checks of 04 R102 in their order, each with its trap (CODE, SUB, AUX, BADADDR). The last four speak of the
entry that the fifth one looked up. -/
def capChecks (s : State) (b : CReg) (off : Int) (size align : Nat) (need : BitVec 8) (space : Option (Fin 8)) :
    List (Prop × Trap) :=
  let c := s.core.seq.c[b]
  let bad := BitVec.ofInt 64 off
  let cap (sub : Nat) : Trap := ⟨0x03, sub, b.val, bad⟩
  let entry (p : ObjEnt → Prop) : Prop := ∀ o, findObj s (capOid c) = some o → p o
  [(c.tag = true, cap 1),
   (capPerm c &&& need = need ∧ (capOid c = 0xFFFFFF → need &&& 0x5C = 0), cap 3),
   (capLo c ≤ off ∧ off + size ≤ capLo c + capLen c, cap 2),
   (1 < align → off % align = 0, ⟨0x02, 1, 0, bad⟩),
   (findObj s (capOid c) ≠ none, cap 6),
   (entry (fun o => o.kernel = true → s.core.csr.mode = true), cap 7),
   (entry (fun o => ∀ sp, space = some sp → o.space = sp), cap 4),
   (entry (fun o => need &&& 6 ≠ 0 → o.span = false ∧ o.basewr = false), cap 3)]

/-- The exact offset of LD, ST, CLDC and CSTC, and of the home instructions with an immediate (04 R102, 12 R281). -/
def off3 (s : State) (b : CReg) (c : XReg) (imm : BitVec 32) : Int :=
  (s.core.seq.c[b]).cursor.toNat + (reg s c).toInt + imm.toInt
def off2 (s : State) (b : CReg) (imm : BitVec 32) : Int := (s.core.seq.c[b]).cursor.toNat + imm.toInt
def off1 (s : State) (b : CReg) : Int := (s.core.seq.c[b]).cursor.toNat

/-- The object space that a SPACE operand names. -/
def spaceNo (sp : Space) : Fin 8 := Fin.ofNat 8 sp.code

/-- The check that an instruction makes before anything else, by its need mask, size and spaces (04 R102, 12 R281);
BWAIT and BARRW make it unless they are registered already and wait. -/
def firstCheck (s : State) : Instr → Option (Except Trap ObjEnt)
  | .ld sp _ size _ b c imm => some (checkCap s b (off3 s b c imm) (2 ^ size.val) (2 ^ size.val) 1 (some (spaceNo sp)))
  | .st sp size _ b c imm => some (checkCap s b (off3 s b c imm) (2 ^ size.val) (2 ^ size.val) 2 (some (spaceNo sp)))
  | .cldc _ b c imm => some (checkCap s b (off3 s b c imm) 16 16 1 none)
  | .cstc _ b c imm => some (checkCap s b (off3 s b c imm) 16 16 2 none)
  | .aadd _ b _ imm | .aand _ b _ imm | .aor _ b _ imm | .axor _ b _ imm | .amin _ b _ imm | .amax _ b _ imm | .aminn _ b _ imm
  | .amaxn _ b _ imm | .aswp _ b _ imm | .acas _ b _ imm | .fadd _ b _ imm | .lr _ b imm | .sc _ b _ imm =>
    some (checkHome s b (off2 s b imm) 8 8 4 [1, 2, 3])
  | .binit b _ _ | .bxfer b _ | .barr _ b _ | .bfree b | .soinit b => some (checkHome s b (off1 s b) 16 16 4 [1])
  | .acq b _ | .rel b _ => some (checkHome s b (off1 s b) 16 16 4 [1])
  | .bwait b _ _ => match s.core.wait with
    | .bwait _ _ => none
    | _ => some (checkHome s b (off1 s b) 16 16 4 [1])
  | .barrw _ b _ _ => match s.core.wait with
    | .barrw _ _ _ => none
    | _ => some (checkHome s b (off1 s b) 16 16 4 [1])
  | .rbind b _ => some (checkHome s b (off1 s b) 1 1 3 [1, 2, 3])
  | .rmode b _ => some (checkHome s b (off1 s b) 1 1 3 [2, 3])
  | .dq _ b imm => some (checkHome s b (off2 s b imm) 1 1 8 [2, 3])
  | .pgmap _ b _ _ | .pgunmap _ b _ | .sptag b _ _ | .spret _ b _ _ | .sptrunc _ b _ | .spposGet _ b _ | .spposSet _ b _ =>
    some (checkHome s b (off1 s b) 1 1 16 [1])
  | .pgfetch _ b imm => some (checkHome s b (off2 s b imm) 1 1 16 [1, 2, 3])
  | .launch _ b => some (checkHome s b (off1 s b) 128 64 1 [1, 2])
  | _ => none

end Sys2Proof.Claims

/-- The capability check stops at the first failure of R102's list, with that check's trap, and passes with the
looked-up entry when none fails; the home instructions then refuse a space that they do not admit (04 R102, R407, 12
R281). -/
def Obligations.CapabilityChecksStopAtTheFirstFailure : Prop :=
  ∀ (s : Machine.State) (b : CReg) (off : Int) (size align : Nat) (need : BitVec 8) (space : Option (Fin 8)),
    let cs := capChecks s b off size align need space
    (∀ o, Machine.checkCap s b off size align need space = .ok o ↔
      Machine.findObj s (Machine.capOid s.core.seq.c[b]) = some o ∧ ∀ x ∈ cs, x.1) ∧
    (∀ t, Machine.checkCap s b off size align need space = .error t ↔
      ∃ k p, cs[k]? = some (p, t) ∧ ¬ p ∧ ∀ (j : Nat) (q : Prop × Machine.Trap), j < k → cs[j]? = some q → q.1) ∧
    (∀ o spaces, Machine.checkHome s b off size align need spaces = .ok o ↔
      Machine.checkCap s b off size align need none = .ok o ∧ o.space ∈ spaces) ∧
    (∀ o spaces, Machine.checkCap s b off size align need none = .ok o → o.space ∉ spaces →
      Machine.checkHome s b off size align need spaces = .error ⟨0x02, 0, 0, BitVec.ofInt 64 off⟩)

/-- An access whose check fails has no effect but its trap, precise at the instruction (04 R98, R102, 12 R279); that
LAUNCH checks an alignment of 64, with CODE 0x02 SUB 1, is the model's reading (log entry 37). An access leaves its
object in the translation cache of 64 entries, pinned: besides the cache and the pins, of objects and of launches,
nothing changes, and the scratchpad takes no entry; an object that is not cached yet needs a place, or an entry whose
object is not REVOKING (else it is not cached: the model's choice, log entry 69) (04 R103, R407, 22 R393). -/
def Obligations.FailedChecksTrapAndLookupsPin : Prop :=
  (∀ (s : Machine.State) (i : Instr) (t : Machine.Trap), firstCheck s i = some (.error t) → Traps i s t.code t.sub t.aux t.bad) ∧
  (∀ (s : Machine.State) (b : CReg), let oid := Machine.capOid s.core.seq.c[b]
    (oid = 0xFFFFFF → Machine.touchCap s b = s) ∧
    (oid ≠ 0xFFFFFF →
      (s.core.tcache.length < 64 ∨ (∃ e ∈ s.core.tcache, e.oid = oid ∨ ∀ o ∈ s.base.objs, o.oid = e.oid → o.state ≠ 2) →
        ∃ e ∈ (Machine.touchCap s b).core.tcache, e.oid = oid) ∧
      ∃ tc objs ls, Machine.touchCap s b =
          { s with core := { s.core with tcache := tc }, base := { s.base with objs := objs, launches := ls } } ∧
        (s.core.tcache.length ≤ 64 → tc.length ≤ 64) ∧
        objs.map (fun o => { o with pins := 0 }) = s.base.objs.map (fun o => { o with pins := 0 }) ∧
        ls.map (fun l => { l with pins := [] }) = s.base.launches.map (fun l => { l with pins := [] })))

namespace Sys2Proof.Claims
open Machine

/-- The little-endian number of `n` bytes (00 R2). -/
def little (f : Nat → Byte) : Nat → Nat
  | 0 => 0
  | n + 1 => little f n + (f n).toNat * 2 ^ (8 * n)

/-- The value of `n` loaded bytes that stand for `m`: sign- or zero-extended (05 R128). -/
def loaded (sgn : Bool) (n m : Nat) : Word :=
  if sgn ∧ 2 ^ (8 * n - 1) ≤ m then BitVec.ofInt 64 (m - 2 ^ (8 * n)) else BitVec.ofNat 64 m

/-- The capability register that 16 loaded bytes give: the cursor is the loaded LO (04 R90). -/
def capOf (m : Nat) (tag : Bool) : Cap := ⟨BitVec.ofNat 128 m, tag, BitVec.ofNat 64 (m / 2 ^ 48 % 2 ^ 48)⟩

/-- `s` after the access of `b`'s object (its translation cached). -/
def at' (s : State) (b : CReg) : State := touchCap s b

/-- `s` with the sequencer waiting for `w`. -/
def waits (s : State) (w : Wait) : State := { s with core := { s.core with wait := w } }

/-- The `n` bytes that register `x` stores, lowest first. -/
def bytesOf (x : Nat) (n : Nat) : List Byte := (List.range n).map (fun k => BitVec.ofNat 8 (x / 2 ^ (8 * k)))

/-- `s` with the scratchpad `m`. -/
def withSpad (s : State) (m : Mem) : State := { s with core := { s.core with eng := { s.core.eng with spad := m } } }

/-- A memory that differs from `m` in the bytes from `a` on, which are `bs`. -/
def Overwrites (m' m : Mem) (a : Nat) (bs : List Byte) : Prop :=
  ∀ k, memRead m' k = if a ≤ k ∧ k < a + bs.length then bs.getD (k - a) 0 else memRead m k

end Sys2Proof.Claims

/-- A checked LD or CLDC completes: from the scratchpad with its bytes, little-endian and extended, or a capability
without tag; from the base configuration object with a register (LD of 8 bytes only); else with what the base answers
(04 R90, R105, 05 R128, R135). -/
def Obligations.LoadsDeliverTheirBytes : Prop :=
  ∀ (s : Machine.State) (sp : Space) (sgn : Bool) (size : Fin 4) (a : XReg) (ca b : CReg) (c : XReg) (imm : BitVec 32)
    (o : Machine.ObjEnt),
    let n := 2 ^ size.val
    let k := (off3 s b c imm).toNat
    (Machine.checkCap s b (off3 s b c imm) n n 1 (some (spaceNo sp)) = .ok o →
      (o.space = 0 → Machine.exec (.ld sp sgn size a b c imm) s =
        .next (past 4 (put (at' s b) a (loaded sgn n (little (fun i => Machine.memRead s.core.eng.spad (k + i)) n))))) ∧
      (o.space ≠ 0 → o.role = .baseConfig → Machine.exec (.ld sp sgn size a b c imm) s =
        .next (if n = 8 then past 1 (put (at' s b) a (Machine.configRead (at' s b) k))
          else trapped (at' s b) 0x02 1 0 (BitVec.ofNat 64 k) s.core.seq.pc)) ∧
      (o.space ≠ 0 → o.role ≠ .baseConfig → ∀ t bs tag, Machine.baseLoad (at' s b) b o k n = .ok t (bs, tag) →
        bs.length = n → Machine.exec (.ld sp sgn size a b c imm) s =
          .next (past 1 (put t a (loaded sgn n (little (fun i => bs.getD i 0) n)))))) ∧
    (Machine.checkCap s b (off3 s b c imm) 16 16 1 none = .ok o →
      (o.space = 0 → Machine.exec (.cldc ca b c imm) s =
        .next (past 4 (putCap (at' s b) ca (capOf (little (fun i => Machine.memRead s.core.eng.spad (k + i)) 16) false)))) ∧
      (o.space ≠ 0 → o.role = .baseConfig →
        Machine.exec (.cldc ca b c imm) s = .next (trapped (at' s b) 0x02 1 0 (BitVec.ofNat 64 k) s.core.seq.pc)) ∧
      (o.space ≠ 0 → o.role ≠ .baseConfig → ∀ t bs tag, Machine.baseLoad (at' s b) b o k 16 = .ok t (bs, tag) → bs.length = 16 →
        Machine.exec (.cldc ca b c imm) s = .next (past 1 (putCap t ca (capOf (little (fun i => bs.getD i 0) 16) tag)))))

/-- What the base answers to a load: for GLOBAL and HOST the youngest buffered bytes, and a wait when only some are
buffered; 0 and RESF for an extent that is not resident; for GLOBAL the L1's bytes, fetched first where it does not
hold the word, with a wait while the channel retries and a trap at bytes that cannot be corrected; for STAGE and HOST
the committed bytes of the home: a home read outside host bias of a region without L1 copies changes nothing but
bucket levels and ports (05 R128, 04 R97, R106, 10 R232, R233). -/
def Obligations.BaseLoadsForwardMissOrRead : Prop :=
  ∀ (s : Machine.State) (b : CReg) (o : Machine.ObjEnt) (k n : Nat), 0 < n →
    let hit := fun i => Machine.sbByte s.core.sb o.oid (k + i)
    let none' := ∀ i, i < n → hit i = none
    (o.space ≠ 1 → (∀ i, i < n → hit i ≠ none) →
      ∃ tag, Machine.baseLoad s b o k n = .ok s ((List.range n).map (fun i => (hit i).getD 0), tag)) ∧
    (o.space ≠ 1 → (∃ i, i < n ∧ hit i ≠ none) → (∃ i, i < n ∧ hit i = none) → Machine.baseLoad s b o k n = .stall s) ∧
    ((o.space = 1 ∨ none') → Machine.residentAt o k = false →
      let r := s.core.csr.resf
      let r' := if r.getLsbD 0 then r ||| 2
        else BitVec.ofNat 64 (k % 2 ^ 48 * 2 ^ 16 + b.val * 2 ^ 12 + (if r.getLsbD 1 then 2 else 0) + 1)
      Machine.baseLoad s b o k n =
        .ok { s with core := { s.core with csr := { s.core.csr with resf := r' } } } (List.replicate n 0, false)) ∧
    (none' → o.space = 2 → Machine.residentAt o k = true → n ≤ 8 → k % 8 + n ≤ 8 →
      ∀ pa w, Machine.paOf o (8 * (k / 8)) = some pa → s.core.l1.find? (fun x => x.pa == pa) = some w →
        ∃ bs, bs.length = n ∧ (∀ i, i < n → bs.getD i 0 = BitVec.ofNat 8 (w.val.toNat / 2 ^ (8 * (k % 8 + i)))) ∧
          Machine.baseLoad s b o k n = .ok s (bs, w.tag)) ∧
    (none' → o.space = 2 → Machine.residentAt o k = true → n ≤ 8 → k % 8 + n ≤ 8 →
      ∀ pa, Machine.paOf o (8 * (k / 8)) = some pa → s.core.l1.find? (fun x => x.pa == pa) = none →
        let d := Machine.dramRead s o k n s.core.id
        (d.2 = .busy → Machine.baseLoad s b o k n = .stall d.1) ∧
        (d.2 = .bad → Machine.baseLoad s b o k n = .trap d.1 ⟨0x05, 2, b.val, BitVec.ofNat 64 k⟩) ∧
        (d.2 = .ok → ∃ w, (Machine.l1Fill d.1 o (8 * (k / 8))).core.l1.find? (fun x => x.pa == pa) = some w ∧
          ∃ bs, bs.length = n ∧ (∀ i, i < n → bs.getD i 0 = BitVec.ofNat 8 (w.val.toNat / 2 ^ (8 * (k % 8 + i)))) ∧
            Machine.baseLoad s b o k n = .ok (Machine.l1Fill d.1 o (8 * (k / 8))) (bs, w.tag))) ∧
    (o.space = 1 → Machine.residentAt o k = true → ∀ pa, Machine.paOf o k = some pa →
      let g := Machine.homeGet s (some s.core.id) o k n
      Machine.baseLoad s b o k n = .ok g.1 (g.2, Machine.tagAt g.1.base pa)) ∧
    (none' → o.space = 3 → Machine.residentAt o k = true → ∀ pa, Machine.paOf o k = some pa → Machine.dramChan (some o) pa = none →
      k % 256 + n ≤ 256 → (∀ c ∈ s.core :: s.others, c.gated = false) →
        let d := Machine.useLine s (Machine.homeOf o pa) (pa / 256) 1 s.core.csr.pid false
        let g := Machine.homeGet d (some s.core.id) o k n
        Machine.baseLoad s b o k n = .ok g.1 (g.2, Machine.tagAt g.1.base pa)) ∧
    (o.coh = false → (∀ i, i < n → ∀ pa, Machine.paOf o (k + i) = some pa → pa / 4096 ∉ s.base.bias) →
      (Machine.homeGet s (some s.core.id) o k n).2 = Machine.objBytes s o k n ∧
      ∃ lv ps, (Machine.homeGet s (some s.core.id) o k n).1 = { s with base := { s.base with plvl := lv, ports := ps } })

/-- A checked ST or CSTC completes: to the scratchpad at once, changing just its bytes; to the base configuration
object as a register write (ST of 8 bytes only), which waits only where SLCFG has lines to drain (09 R202); else as
the base takes it, a store of bit 0 to offset 0x40 of the kernel command object ringing its bell (05 R129, R135, 04
R90, R105, 22 R390). -/
def Obligations.StoresGoWhereTheirObjectIs : Prop :=
  ∀ (s : Machine.State) (sp : Space) (size : Fin 4) (a : XReg) (ca b : CReg) (c : XReg) (imm : BitVec 32) (o : Machine.ObjEnt),
    let n := 2 ^ size.val
    let k := (off3 s b c imm).toNat
    let bs := bytesOf (reg s a).toNat n
    let cap := s.core.seq.c[ca]
    let cs := bytesOf cap.bits.toNat 16
    (Machine.checkCap s b (off3 s b c imm) n n 2 (some (spaceNo sp)) = .ok o →
      (o.space = 0 → Machine.Memory.wf s.core.eng.spad = true → ∃ m, Overwrites m s.core.eng.spad k bs ∧
        Machine.exec (.st sp size a b c imm) s = .next (past 1 (withSpad (at' s b) m))) ∧
      (o.space ≠ 0 → o.role = .baseConfig → Machine.exec (.st sp size a b c imm) s =
        if n = 8 then Machine.storeConfig (at' s b) k (reg s a)
        else .next (trapped (at' s b) 0x02 1 0 (BitVec.ofNat 64 k) s.core.seq.pc)) ∧
      (∀ v : Word, (∀ g, s.core.wait ≠ .config g) → (Machine.configWrite s k v).base.slpend = s.base.slpend →
        Machine.storeConfig s k v = .next (past 1 (Machine.configWrite s k v))) ∧
      (o.space ≠ 0 → o.role ≠ .baseConfig → ∀ t, Machine.baseStore (at' s b) b o k bs none = .ok t () →
        Machine.exec (.st sp size a b c imm) s = .next (past 1
          (if o.role = .kernelCmd ∧ k ≤ 0x40 ∧ 0x40 < k + n ∧ (reg t a).getLsbD 0 then
            { t with base := { t.base with kbell := t.base.kbell ++ [t.core.csr.pid] } } else t)))) ∧
    (Machine.checkCap s b (off3 s b c imm) 16 16 2 none = .ok o →
      (o.space = 0 → Machine.Memory.wf s.core.eng.spad = true → ∃ m, Overwrites m s.core.eng.spad k cs ∧
        Machine.exec (.cstc ca b c imm) s = .next (past 1 (withSpad (at' s b) m))) ∧
      (o.space ≠ 0 → o.role = .baseConfig →
        Machine.exec (.cstc ca b c imm) s = .next (trapped (at' s b) 0x02 1 0 (BitVec.ofNat 64 k) s.core.seq.pc)) ∧
      (o.space ≠ 0 → o.role ≠ .baseConfig → ∀ t, Machine.baseStore (at' s b) b o k cs (some cap.tag) = .ok t () →
        Machine.exec (.cstc ca b c imm) s = .next (past 1 t)))

/-- How the base takes a store: STAGE commits at the home, or traps as barrier-clobber on a tagged block; GLOBAL and
HOST go to the end of the store buffer, or wait while it is full; an extent that is not resident is asked for once, in
an event of kind 1, and the sequencer waits, and traps as access-unresolved with SUB 3 once the base has given it up;
an offset that no extent covers traps with SUB 1 at once (05 R129, 04 R97, R106, 09 R223, 10 R232). -/
def Obligations.BaseStoresCommitBufferOrWait : Prop :=
  ∀ (s : Machine.State) (b : CReg) (o : Machine.ObjEnt) (k : Nat) (bs : List Byte) (tag : Option Bool),
    let s0 := waits s .none
    (Machine.residentAt o k = true → o.space = 1 → ∀ pa, Machine.paOf o k = some pa →
      Machine.baseStore s b o k bs tag = if Machine.tagged s.base pa bs.length then .trap s0 ⟨0x16, 0, 0, BitVec.ofNat 64 k⟩
        else .ok (Machine.homeStore s0 (some s.core.id) o k bs (tag == some true) false) ()) ∧
    (Machine.residentAt o k = true → o.space ≠ 1 →
      Machine.baseStore s b o k bs tag = if s.core.sb.length < 16 then
        .ok { s0 with core := { s0.core with sb := s.core.sb ++ [⟨o.oid, k, bs, tag⟩] } } () else .stall s0) ∧
    (Machine.extOf o k = none → Machine.baseStore s b o k bs tag = .trap s0 ⟨0x05, 1, b.val, BitVec.ofNat 64 k⟩) ∧
    (∀ x e a, Machine.extOf o k = some (x, e, a) → e.res = false →
      (s.core.wait = .none → Machine.baseStore s b o k bs tag =
        .stall (waits (Machine.logEvent s 1 (o.oid.toNat * 2 ^ 40 + k) (Machine.dieOf s.core.id).val s.core.csr.pid.val)
          (.resid o.oid x false))) ∧
      (s.core.wait = .resid o.oid x false → Machine.baseStore s b o k bs tag = .stall s) ∧
      (s.core.wait = .resid o.oid x true →
        Machine.baseStore s b o k bs tag = .trap s0 ⟨0x05, 3, b.val, BitVec.ofNat 64 k⟩))

/-- A write at a home changes just its bytes: their tags go, the first granule taking the given tag, and reservations
on words that it touches end; the rest of the machine is as it was; in a region with digests only bytes of its digest
store change besides. Said of every object that is no capacity table (04 R90, 09 R215, R221, 11 R256, R260); besides,
the ways of the home may take the granule and write another back (09 R200, R208), its transfer may queue on a failing
channel, and the array's errors in the lines that are read are logged, the log's bytes too being written (08 R192,
R193). A write that reaches over the end of an extent is the two writes of its parts. -/
def Obligations.HomeWritesTouchOnlyTheirBytes : Prop :=
  ∀ (s : Machine.State) (o : Machine.ObjEnt) (off x a : Nat) (e : Machine.Extent) (bs : List Byte) (tag atomic : Bool),
    Machine.extOf o off = some (x, e, a) → (∀ p, o.role ≠ .capTable p) → bs ≠ [] →
    (∀ k, k = a + e.npg * 4096 - off → k < bs.length → Machine.homePut s o off bs tag atomic =
      Machine.homePut (Machine.homePut s o off (bs.take k) tag atomic) o (off + k) (bs.drop k) tag atomic) ∧
    (off + bs.length ≤ a + e.npg * 4096 → Machine.Memory.wf s.base.mem = true →
    let pa := e.pa + (off - a)
    let t := Machine.homePut s o off bs tag atomic
    let store := o.dcfg.toNat / 2 ^ 35 * 4096
    let blocks := (o.len + Machine.dcfgB o.dcfg - 1) / Machine.dcfgB o.dcfg
    ∃ m ts rs ls es lv ps vb fe, t = { s with base := { s.base with
        mem := m, tags := ts, resv := rs, lines := ls, ecc := es, plvl := lv, ports := ps, vbus := vb, fetched := fe } } ∧
      (o.dcfg.getLsbD 0 = false → s.base.ecc = [] → Overwrites m s.base.mem pa bs) ∧
      (off + bs.length ≤ o.len → s.base.ecc = [] → ∀ k, ¬ (store ≤ k ∧ k < store + 16 * blocks + (blocks + 3) / 4) →
        Machine.memRead m k = if pa ≤ k ∧ k < pa + bs.length then bs.getD (k - pa) 0 else Machine.memRead s.base.mem k) ∧
      (∀ g ∈ ts, if g = pa / 16 ∧ tag then True else if pa < (g + 1) * 16 ∧ g * 16 < pa + bs.length then False
        else g ∈ s.base.tags) ∧
      (tag = true → pa / 16 ∈ ts) ∧ (∀ r ∈ rs, r ∈ s.base.resv ∧ ¬ (pa < r.pa + 8 ∧ r.pa < pa + bs.length)) ∧
      (s.base.ecc = [] → (∀ g ∈ s.base.tags, ¬ (pa < (g + 1) * 16 ∧ g * 16 < pa + bs.length) → g ∈ ts) ∧
        (∀ r ∈ s.base.resv, ¬ (pa < r.pa + 8 ∧ r.pa < pa + bs.length) → r ∈ rs)))

/-! ## Capabilities -/

namespace Sys2Proof.Claims
open Machine

/-- The lookup of a derivation succeeds (05 R130). -/
def Derives (s : State) (b : CReg) : Prop := ∃ o, findObj s (capOid s.core.seq.c[b]) = some o ∧ o.state ≠ 2

/-- The capability fault of a derivation from cB, with its cursor in BADADDR. -/
def CapFault (i : Instr) (s : State) (b : CReg) (sub : Nat) : Prop := Traps i s 0x03 sub b.val (s.core.seq.c[b]).cursor

/-- The derivations of 05 R130. -/
def derivations (a b : CReg) (c : XReg) (imm : BitVec 32) : List Instr :=
  [.cderive a b c, .crestrict a b (BitVec.ofNat 8 imm.toNat), .csetoff a b c, .cincoff a b imm]

end Sys2Proof.Claims

/-- CDERIVE narrows, CRESTRICT masks permissions, CSETOFF and CINCOFF move the cursor; the sources are read before cA
is written, and an untagged source of the last two makes no lookup and stays untagged. An untagged source of the first
two faults with SUB 1, a range outside the source's with SUB 2, an absent entry with SUB 6 and a REVOKING object with
SUB 5, with the cursor in BADADDR (05 R130 to R133, 04 R102). That the bounds of CDERIVE go before the lookup is the
model's choice (log entry 68), and so is BADADDR of the faults of the other three (log entry 76). -/
def Obligations.DerivationsNeverGrow : Prop :=
  ∀ (s : Machine.State) (a b : CReg) (c : XReg) (perm : BitVec 8) (imm : BitVec 32),
    let k := s.core.seq.c[b]
    let lo := k.cursor.toNat
    let len := (reg s c).toNat
    let moved (v : Word) := { k with cursor := v }
    let outside := lo < Machine.capLo k ∨ Machine.capLo k + Machine.capLen k < lo + len ∨ 2 ^ 48 ≤ len
    (k.tag = true → Derives s b →
      (Machine.capLo k ≤ lo → lo + len ≤ Machine.capLo k + Machine.capLen k → len < 2 ^ 48 → lo < 2 ^ 48 →
        ∃ d : Machine.Cap, d.tag = true ∧ Machine.capOid d = Machine.capOid k ∧ Machine.capPerm d = Machine.capPerm k ∧
          Machine.capLo d = lo ∧ Machine.capLen d = len ∧ d.cursor = k.cursor ∧
          Machine.exec (.cderive a b c) s = .next (past 1 (putCap (at' s b) a d))) ∧
      (∃ d : Machine.Cap, d.tag = true ∧ Machine.capOid d = Machine.capOid k ∧ Machine.capPerm d = Machine.capPerm k &&& perm ∧
        Machine.capLo d = Machine.capLo k ∧ Machine.capLen d = Machine.capLen k ∧ d.cursor = k.cursor ∧
        Machine.exec (.crestrict a b perm) s = .next (past 1 (putCap (at' s b) a d))) ∧
      Machine.exec (.csetoff a b c) s = .next (past 1 (putCap (at' s b) a (moved (BitVec.ofNat 64 (Machine.capLo k + len))))) ∧
      Machine.exec (.cincoff a b imm) s = .next (past 1 (putCap (at' s b) a (moved (BitVec.ofInt 64 (lo + imm.toInt)))))) ∧
    (k.tag = false →
      Machine.exec (.csetoff a b c) s = .next (past 1 (putCap s a (moved (BitVec.ofNat 64 (Machine.capLo k + len))))) ∧
      Machine.exec (.cincoff a b imm) s = .next (past 1 (putCap s a (moved (BitVec.ofInt 64 (lo + imm.toInt))))) ∧
      CapFault (.cderive a b c) s b 1 ∧ CapFault (.crestrict a b perm) s b 1) ∧
    (k.tag = true → outside → CapFault (.cderive a b c) s b 2) ∧
    (k.tag = true → ∀ i ∈ derivations a b c imm, (i ≠ .cderive a b c ∨ ¬ outside) →
      (Machine.findObj s (Machine.capOid k) = none → CapFault i s b 6) ∧
      (∀ o, Machine.findObj s (Machine.capOid k) = some o → o.state = 2 → CapFault i s b 5))

/-- CGETBASE, CGETLEN and CGETOFF read LO, LEN and the cursor less LO modulo 2^64, of untagged registers too, and
never fault (05 R134). -/
def Obligations.CapabilityReads : Prop :=
  ∀ (s : Machine.State) (a : XReg) (b : CReg), let k := s.core.seq.c[b]
    Writes (.cgetbase a b) s a (BitVec.ofNat 64 (k.bits.toNat / 2 ^ 48 % 2 ^ 48)) 1 ∧
    Writes (.cgetlen a b) s a (BitVec.ofNat 64 (k.bits.toNat % 2 ^ 48)) 1 ∧
    Writes (.cgetoff a b) s a (BitVec.ofInt 64 (k.cursor.toNat - (k.bits.toNat / 2 ^ 48 % 2 ^ 48 : Nat))) 1

/-! ## Home instructions -/

namespace Sys2Proof.Claims
open Machine

/-- A home instruction passes its checks, and leaves: the store buffer is empty (10 R234, 12 R281). -/
def Leaves (s : State) (b : CReg) (off : Int) (size align : Nat) (need : BitVec 8) (spaces : List (Fin 8)) (o : ObjEnt) : Prop :=
  s.core.sb = [] ∧ checkHome s b off size align need spaces = .ok o

/-- The machine as the slice of `o` took a request without data at `pa` (09 R209). -/
def asked (s : State) (b : CReg) (o : ObjEnt) (pa : Nat) : State := serve (at' s b) (homeOf o pa) 0 0 s.core.csr.pid

/-- The same at offset `k` of `o`, where an extent covers it. -/
def askedAt (s : State) (b : CReg) (o : ObjEnt) (k : Nat) : State :=
  match paOf o k with
  | some pa => asked s b o pa
  | none => at' s b

/-- The same for a request that names a second capability, `c`, once both have passed. -/
def askedBoth (s : State) (b c : CReg) (o : ObjEnt) (k : Nat) : State :=
  let q := at' (at' s b) c
  match paOf o k with
  | some pa => serve q (homeOf o pa) 0 0 q.core.csr.pid
  | none => q

/-- The trap that the response of a request brings: in tile mode an engine fault that stands goes first, and the
instruction executes again after it (02 R62, 04 R99). -/
def answered (s : State) (code sub aux : Nat) (bad : Word) : State :=
  match s.core.eng.efault, s.core.csr.mode with
  | some f, false => takeEFault s f
  | _, _ => trapped s code sub aux bad s.core.seq.pc

/-- The machine as an atomic of 8 bytes reaches the word at `pa`: the core's own L1 copy of a GLOBAL word is back at
its home, and the array has answered. -/
def atWord (s : State) (b : CReg) (o : ObjEnt) (k pa : Nat) : State × Fetch :=
  let t := waits (at' s b) .none
  dramRead (if o.space = 2 then ownWord t pa else t) o k 8 s.core.id

/-- The atomic names a resident word of an object other than the base's registers. -/
def Reaches (o : ObjEnt) (k pa : Nat) : Prop := o.role ≠ .baseConfig ∧ residentAt o k = true ∧ paOf o k = some pa

/-- The word as the home holds it, and the machine after reading it. -/
def oldWord (t : State) (o : ObjEnt) (k : Nat) : State × Word :=
  let r := homeGet t (some t.core.id) o k 8
  (r.1, BitVec.ofNat 64 (bytesNat r.2))

/-- The same for a read-modify-write, with the word out of every other holder's hands. -/
def takenWord (t : State) (o : ObjEnt) (k : Nat) : State × Word :=
  let r := homeTake t (some t.core.id) o k 8
  (r.1, BitVec.ofNat 64 (bytesNat r.2))

/-- The value atomics of 12 R283 on the old value, x[A] and x[C]: what each writes, none for no write. -/
def valueAtomics (s : State) (a : XReg) (b : CReg) (c : XReg) (imm : BitVec 32) : List (Instr × (Word → Option Word)) :=
  let y := reg s c
  [(.aadd a b c imm, fun old => some (BitVec.ofNat 64 (old.toNat + y.toNat))),
   (.aand a b c imm, fun old => some (old &&& y)), (.aor a b c imm, fun old => some (old ||| y)),
   (.axor a b c imm, fun old => some (old ^^^ y)),
   (.amin a b c imm, fun old => some (if old.toInt < y.toInt then old else y)),
   (.amax a b c imm, fun old => some (if old.toInt < y.toInt then y else old)),
   (.aminn a b c imm, fun old => some (if old.toNat < y.toNat then old else y)),
   (.amaxn a b c imm, fun old => some (if old.toNat < y.toNat then y else old)),
   (.aswp a b c imm, fun _ => some y),
   (.acas a b c imm, fun old => if old = reg s a then some y else none),
   (.fadd a b c imm, fun old => some (BitVec.ofNat 64 (addTy 0 0 old.toNat y.toNat)))]

end Sys2Proof.Claims

/-- A value atomic returns the old word in x[A] and commits its result at the home in one transaction, as an atomic
write of the 8 bytes; ACAS writes only when the old value is x[A]; at a tagged block it traps as barrier-clobber (12
R281, R283, 09 R223). While the word's channel retries the instruction waits, and at a word that cannot be corrected
it traps as access-unresolved, an engine fault that then stands in tile mode going first (02 R62, 04 R97, 08 R192);
the base's registers take no atomic (09 R201). The bytes that the request counts for, and that an ACAS that writes
nothing takes the word all the same, are the model's choice (log entry 71). -/
def Obligations.ValueAtomicsReturnTheOldWord : Prop :=
  ∀ (s : Machine.State) (a : XReg) (b : CReg) (c : XReg) (imm : BitVec 32) (o : Machine.ObjEnt) (pa : Nat),
    let k := (off2 s b imm).toNat
    (Leaves s b (off2 s b imm) 8 8 4 [1, 2, 3] o → o.role = .baseConfig → ∀ p ∈ valueAtomics s a b c imm,
      Machine.exec p.1 s = .next (trapped (at' s b) 0x02 1 0 (BitVec.ofNat 64 k) s.core.seq.pc)) ∧
    (Leaves s b (off2 s b imm) 8 8 4 [1, 2, 3] o → Reaches o k pa →
      let t := (atWord s b o k pa).1
      ((atWord s b o k pa).2 = .busy → ∀ p ∈ valueAtomics s a b c imm, Machine.exec p.1 s = .next (waits t .channel)) ∧
      ((atWord s b o k pa).2 = .bad → ∀ p ∈ valueAtomics s a b c imm,
        Machine.exec p.1 s = .next (answered t 0x05 2 b.val (BitVec.ofNat 64 k))) ∧
      ((atWord s b o k pa).2 = .ok → Machine.tagged t.base pa 8 = false → ∀ p ∈ valueAtomics s a b c imm,
        let u := (takenWord t o k).1
        let old := (takenWord t o k).2
        Machine.exec p.1 s = .next (past 1 (put (match p.2 old with
          | none => u
          | some v => Machine.homePut u o k (bytesOf v.toNat 8) false true) a old))) ∧
      ((atWord s b o k pa).2 = .ok → Machine.tagged t.base pa 8 = true → ∀ p ∈ valueAtomics s a b c imm,
        Machine.exec p.1 s = .next (answered t 0x16 0 0 (BitVec.ofNat 64 k))))

/-- LR returns the word and makes the core's one reservation in the slice, on that word, under a new sequence number;
SC stores and returns 0 only while that reservation stands for its word, lease and time, else it returns 1; after SC
none of the core's stands in the slice (12 R284, R285, 09 R220, R221). In a COHERENT region the dirty copies of the
word commit before SC is evaluated, and in host bias the host's line, and end the reservations on it (10 R236, R251). -/
def Obligations.ReservationsGuardTheStore : Prop :=
  ∀ (s : Machine.State) (a : XReg) (b : CReg) (c : XReg) (imm : BitVec 32) (o : Machine.ObjEnt) (pa : Nat),
    let k := (off2 s b imm).toNat
    Leaves s b (off2 s b imm) 8 8 4 [1, 2, 3] o → Reaches o k pa → (atWord s b o k pa).2 = .ok →
      let w := (atWord s b o k pa).1
      let t := Machine.takeBack (Machine.serve w (Machine.homeOf o pa) 8 0 w.core.csr.pid) (some w.core.id) o k 8
      let slice := Machine.homeOf o pa
      let mine := fun (r : Machine.Resv) => r.slice = slice ∧ r.core = t.core.id
      let dropped := fun (u : Machine.State) =>
        { u with base := { u.base with resv := u.base.resv.filter (fun r => ¬ (r.slice = slice ∧ r.core = u.core.id)) } }
      let lease := (t.core.lease.map (fun l => l.id)).getD 0
      let stands := ∃ r ∈ t.base.resv, mine r ∧ r.pa = pa ∧ r.seq = t.core.resvSeq ∧ r.lease = lease ∧ t.gtc < r.gtc + 4096
      (let v := oldWord (Machine.ownWord w pa) o k
       ∃ kept, (∀ r ∈ kept, r ∈ v.1.base.resv ∧ ¬ mine r) ∧
         Machine.exec (.lr a b imm) s = .next (past 1 (put { v.1 with
           core := { v.1.core with resvSeq := v.1.core.resvSeq + 1 }
           base := { v.1.base with resv := ⟨slice, t.core.id, lease, pa, t.gtc, v.1.core.resvSeq + 1⟩ :: kept } } a v.2))) ∧
      (stands → Machine.tagged t.base pa 8 = false → Machine.exec (.sc a b c imm) s = .next (past 1
        (put (dropped (Machine.homePut (Machine.takeBack t (some t.core.id) o k 8 false) o k (bytesOf (reg s c).toNat 8) false true))
          a 0))) ∧
      (stands → Machine.tagged t.base pa 8 = true →
        Machine.exec (.sc a b c imm) s = .next (answered t 0x16 0 0 (BitVec.ofNat 64 k))) ∧
      (¬ stands → Machine.exec (.sc a b c imm) s = .next (past 1 (put (dropped t) a 1)))

namespace Sys2Proof.Claims
open Machine

/-- What the release half of an ordering immediate leaves, after the check of cB: the write-backs it performs (10
R239, 12 R281). -/
def released' (s : State) (b : CReg) (o : Ord) : State := releaseWrites (at' s b) o

/-- `s` with its instruction begun, unless it has begun already: the SCC and the regions `bs` at that moment stay (10
R239, R241). -/
def begins (s : State) (bs : List (BitVec 24)) : State :=
  match s.core.wait with
  | .order _ _ => s
  | _ => waits s (.order s.core.csr.scc bs)

/-- The regions that the instruction fixed when it began, which is now unless it stalls already. -/
def fixes (s : State) (bs : List (BitVec 24)) : List (BitVec 24) :=
  match s.core.wait with
  | .order _ cs => cs
  | _ => bs

/-- The words of the current core that an ACQ of the sync object at `pa` drops (10 R242). -/
def acqDrops (s : State) (pa : Nat) (w : L1Word) : Bool :=
  !w.dirty && boundTo s pa w.oid && !((findObj s w.oid).map (fun e => e.coh)).getD false

end Sys2Proof.Claims

/-- FENCE, ACQ and REL complete once their release half is done, and stall until then, with the cycle of their begin
and REL's bound regions kept: ACQ drops the clean SOFT words of the bound regions; REL waits for their earlier engine
writes, commits their dirty words and adds one to VER. After a FENCE with the GLOBAL domain at an agent scope above
ENGINE the core holds no dirty L1 word and no word of a SOFT region (12 R286, R294, 10 R239 to R242, 09 R226). -/
def Obligations.OrderingInstructionsComplete : Prop :=
  ∀ (s : Machine.State) (b : CReg) (ord : Ord) (o : Machine.ObjEnt) (pa : Nat),
    (Machine.releaseReady s ord = false → Machine.exec (.fence ord) s = .next (begins s [])) ∧
    (Machine.releaseReady s ord = true →
      Machine.exec (.fence ord) s = .next (past 1 (Machine.acquireHalf (waits (Machine.releaseWrites s ord) .none) ord))) ∧
    (∀ u : Machine.State, ord.ascope ≠ 0 → ord.global = true → Machine.releaseReady s ord = true →
      Machine.exec (.fence ord) s = .next u →
      ∀ w ∈ u.core.l1, w.dirty = false ∧ ∃ e, Machine.findObj u w.oid = some e ∧ e.coh = true) ∧
    (Leaves s b (off1 s b) 16 16 4 [1] o → Machine.paOf o (off1 s b).toNat = some pa →
      let q := at' s b
      let bs := fixes q ((q.base.objs.filter (fun e => e.sync = pa)).map (fun e => e.oid))
      let r := released' s b ord
      let t := Machine.serve r (Machine.homeOf o pa) 0 0 r.core.csr.pid
      (Machine.releaseReady q ord = false → ∀ i ∈ [Instr.acq b ord, .rel b ord], Machine.exec i s = .next (begins q bs)) ∧
      (Machine.releaseReady q ord = true →
        (Machine.liveSync t pa = true → Machine.exec (.acq b ord) s =
          .next (past 1 (Machine.acquireHalf (waits (Machine.dropWords t t.core.id (acqDrops t pa)) .none) ord))) ∧
        (Machine.owes r (fun e => bs.contains e.oid) = true → Machine.exec (.rel b ord) s = .next (begins r bs)) ∧
        (Machine.owes r (fun e => bs.contains e.oid) = false → Machine.liveSync t pa = true →
          let u := Machine.writeBack t t.core.id (fun w => bs.contains w.oid)
          Machine.exec (.rel b ord) s = .next (past 1 (Machine.acquireHalf
            (waits (Machine.homePutPa u pa (bytesOf (Machine.memNat u.base.mem pa 8 + 1) 8) false false) .none) ord))) ∧
        (Machine.liveSync t pa = false →
          Machine.exec (.acq b ord) s = .next (trapped t 0x02 0 0 s.core.seq.c[b].cursor t.core.seq.pc))))

namespace Sys2Proof.Claims
open Machine

/-- A barrier or sync instruction through cB reaches the 16 bytes at `pa` of a STAGE object (12 R286). -/
def AtSyncObj (s : State) (b : CReg) (o : ObjEnt) (pa : Nat) : Prop :=
  Leaves s b (off1 s b) 16 16 4 [1] o ∧ paOf o (off1 s b).toNat = some pa

/-- `s` with a new live object. -/
def withLive (s : State) (l : LiveObj) : State := { s with base := { s.base with live := s.base.live ++ [l] } }

/-- `s` with the live object at `pa` changed. -/
def liveAt (s : State) (pa : Nat) (f : LiveObj → LiveObj) : State :=
  { s with base := { s.base with live := s.base.live.map (fun l => if l.pa = pa then f l else l) } }

/-- `s` with the 16 bytes at `pa` written. -/
def put16 (s : State) (pa v : Nat) : State := homePutPa s pa (bytesOf v 16) false false

/-- The 16 bytes of a barrier (09 R222). -/
def barNat (gen pend expect inb outb kind : Nat) : Nat :=
  gen + pend * 2 ^ 4 + expect * 2 ^ 24 + inb * 2 ^ 44 + outb * 2 ^ 76 + kind * 2 ^ 120

end Sys2Proof.Claims

/-- BINIT and SOINIT make a live object at a place that holds none, and clobber one that does; BXFER sets a barrier's
reload counts, and a fresh phase's counts; BFREE ends a barrier without waiters or a sync object without bound
regions, clearing its bytes (12 R287, R288, R292, R293, 09 R222, R226). -/
def Obligations.LiveObjectsBeginAndEnd : Prop :=
  ∀ (s : Machine.State) (b : CReg) (c : XReg) (expect : Fin 1048576) (kind : Fin 256) (o : Machine.ObjEnt) (pa : Nat),
    AtSyncObj s b o pa →
      let t := asked s b o pa
      let clobber := trapped t 0x16 0 0 s.core.seq.c[b].cursor t.core.seq.pc
      let refused (bad : Word) := trapped t 0x02 0 0 bad t.core.seq.pc
      let x := (reg s c).toNat
      (kind = 0 → Machine.exec (.binit b expect kind) s = .next (refused 0)) ∧
      (kind ≠ 0 → Machine.exec (.binit b expect kind) s = .next (if (Machine.liveObj t pa).isSome then clobber
        else past 1 (withLive (put16 t pa (barNat 0 expect.val expect.val 0 0 kind.val)) ⟨pa, true, 0, 0, true, []⟩))) ∧
      (Machine.exec (.soinit b) s = .next (if (Machine.liveObj t pa).isSome then clobber
        else past 1 (withLive (Machine.homePutPa t pa (List.replicate 16 0) false false) ⟨pa, false, 0, 0, false, []⟩))) ∧
      (∀ l, Machine.liveObj t pa = some l → l.isBar = true →
        let v := Machine.barRead t pa
        let u := if l.fresh then put16 t pa (barNat v.gen v.pend v.expect (x % 2 ^ 32) (x / 2 ^ 32) v.kind) else t
        Machine.exec (.bxfer b c) s = .next (past 1 (liveAt u pa
          (fun l => { l with xin := BitVec.ofNat 32 x, xout := BitVec.ofNat 32 (x / 2 ^ 32), fresh := false })))) ∧
      (∀ l, Machine.liveObj t pa = some l →
        (if l.isBar then l.waiters = [] else Machine.memNat t.base.mem (pa + 12) 2 = 0) →
        let u := Machine.homePutPa t pa (List.replicate 16 0) false false
        Machine.exec (.bfree b) s =
          .next (past 1 { u with base := { u.base with live := u.base.live.filter (fun k => k.pa ≠ pa) } })) ∧
      (Machine.liveObj t pa = none → ∀ i ∈ [Instr.bxfer b c, .bfree b],
        Machine.exec i s = .next (refused s.core.seq.c[b].cursor))

namespace Sys2Proof.Claims
open Machine

/-- The lease of the current core, whose operations on barriers count and whose journal has room (09 R224, R228). -/
def Counts (s : State) (l : Lease) : Prop := s.core.lease = some l ∧ l.reissue = false ∧ (l.abort = true ∨ l.journal.length < 8)

/-- Generation `g` is the barrier's present or last one. -/
def Current (g gen : Nat) : Prop := g = gen ∨ (g + 1) % 16 = gen

/-- `s` after one arrival of the current core's lease at the barrier at `pa`: one pending fewer, the phase no longer
fresh, the arrival in the journal, and the phase complete if nothing is left to come (09 R224, R228). -/
def arrived (s : State) (pa : Nat) : State :=
  let v := barRead s pa
  let t := liveAt (put16 s pa (barNat v.gen (v.pend - 1) v.expect v.inb v.outb v.kind)) pa (fun l => { l with fresh := false })
  tryComplete (onLease t s.core.id (fun l => { l with journal := l.journal ++ [⟨pa, 0, v.gen, true⟩] })) pa

/-- `s` with the current core registered as a waiter at `pa`, and waiting for `w`. -/
def registered (s : State) (pa : Nat) (w : Wait) : State :=
  waits (liveAt s pa (fun l => { l with waiters := l.waiters ++ [s.core.id] })) w

end Sys2Proof.Claims

/-- BARR arrives and returns the generation; a refused arrival traps as barrier-phase, or, posted with A = 0, is
reported at the next boundary. BWAIT waits for another generation than x[C]'s, BARRW arrives and waits for the end of
its own phase, or, given up in the wait before, takes that arrival again; both stall in their release half, and
complete when the release has come (12 R279, R280, R289 to R291, 09 R224, R225, 10 R240). -/
def Obligations.BarrierArrivalsAndWaits : Prop :=
  ∀ (s : Machine.State) (a : XReg) (b : CReg) (c : XReg) (ord : Ord) (o : Machine.ObjEnt) (pa : Nat) (l : Machine.Lease),
    let g := (reg s c).toNat % 16
    (AtSyncObj s b o pa → Machine.liveBar (asked s b o pa) pa = true → Counts s l →
      let t := asked s b o pa
      let v := Machine.barRead t pa
      (v.pend ≠ 0 → Current g v.gen → Machine.exec (.barr a b c) s = .next (past 1 (put (arrived t pa) a (BitVec.ofNat 64 v.gen)))) ∧
      (v.pend = 0 ∨ ¬ Current g v.gen → Machine.exec (.barr a b c) s = .next (
        if a = 0 then past 1 { t with core := { t.core with refusal := some (s.core.seq.c[b].cursor, t.core.csr.mode) } }
        else trapped t 0x15 0 0 s.core.seq.c[b].cursor t.core.seq.pc))) ∧
    (AtSyncObj s b o pa →
      let q := at' s b
      let r := released' s b ord
      let t := Machine.serve r (Machine.homeOf o pa) 0 0 r.core.csr.pid
      let v := Machine.barRead t pa
      ((∀ p d, s.core.wait ≠ .bwait p d) →
        (Machine.releaseReady q ord = false → Machine.exec (.bwait b c ord) s = .next (begins q (fixes q []))) ∧
        (Machine.releaseReady q ord = true → Machine.liveBar t pa = true → Machine.exec (.bwait b c ord) s = .next (
          if v.gen ≠ g then past 1 (waits (Machine.acquireHalf t ord) .none) else registered t pa (.bwait pa false)))) ∧
      ((∀ p d e, s.core.wait ≠ .barrw p d e) →
        (Machine.releaseReady q ord = false → Machine.exec (.barrw a b c ord) s = .next (begins q (fixes q []))) ∧
        (Machine.releaseReady q ord = true → Machine.liveBar t pa = true → Counts s l → l.resumeArr = none →
          v.pend ≠ 0 → Current g v.gen →
            let u := arrived t pa
            Machine.exec (.barrw a b c ord) s = .next (
              if (Machine.barRead u pa).gen ≠ v.gen then past 1 (put (waits (Machine.acquireHalf u ord) .none) a (BitVec.ofNat 64 v.gen))
              else registered u pa (.barrw pa v.gen false))) ∧
        (Machine.releaseReady q ord = true → Machine.liveBar t pa = true → Counts s l → l.resumeArr = some (pa, v.gen) →
          Machine.exec (.barrw a b c ord) s = .next (registered
            (Machine.onLease t t.core.id (fun l => { l with resumeArr := none })) pa (.barrw pa v.gen false))))) ∧
    (∀ q, s.core.wait = .bwait q true → Machine.exec (.bwait b c ord) s = .next (past 1 (waits (Machine.acquireHalf s ord) .none))) ∧
    (∀ q h, s.core.wait = .barrw q h true → Machine.exec (.barrw a b c ord) s =
      .next (past 1 (put (waits (Machine.acquireHalf s ord) .none) a (BitVec.ofNat 64 h)))) ∧
    (∀ q, s.core.wait = .bwait q false → Machine.exec (.bwait b c ord) s = .next s) ∧
    (∀ q h, s.core.wait = .barrw q h false → Machine.exec (.barrw a b c ord) s = .next s)

/-- A phase completes when its three counts are 0, and not before: GEN goes up modulo 16, the counts are reloaded, the
phase is fresh, and every waiter is released (09 R224, R225, 12 R288). -/
def Obligations.PhasesCompleteAtZero : Prop :=
  ∀ (s : Machine.State) (pa off : Nat) (o : Machine.ObjEnt) (l : Machine.LiveObj), Machine.Memory.wf s.base.mem = true →
    Machine.objAtPa s pa = some (o, off) → (∀ i, i < 16 → Machine.paOf o (off + i) = some (pa + i)) → o.space = 1 →
    o.dcfg.getLsbD 0 = false → o.role = .plain →
    Machine.liveObj s pa = some l →
    let v := Machine.barRead s pa
    let t := Machine.tryComplete s pa
    (v.pend = 0 → v.inb = 0 → v.outb = 0 →
      Machine.barRead t pa = { v with gen := (v.gen + 1) % 16, pend := v.expect, inb := l.xin.toNat, outb := l.xout.toNat } ∧
      t.base.releases = s.base.releases ++ l.waiters.map (fun c => (c, pa)) ∧
      Machine.liveObj t pa = some { l with waiters := [], fresh := true } ∧ t.core = s.core ∧ t.others = s.others) ∧
    (v.pend ≠ 0 ∨ v.inb ≠ 0 ∨ v.outb ≠ 0 → t = s)

/-- RBIND records a sync object, or none for the null capability, in the region's entry, and moves both NREG counts by
one; its request leaves only when both capabilities pass (12 R279); RMODE changes the coherence mode, and to SOFT
drops the region's directory entries; to a mode the region has it only completes (12 R295, R296, 10 R237, R241). -/
def Obligations.RegionsBindAndChangeMode : Prop :=
  ∀ (s : Machine.State) (b c : CReg) (mode : Bool) (o : Machine.ObjEnt),
    let null := s.core.seq.c[c]
    let t := askedAt s b o (off1 s b).toNat
    let entry (u : Machine.State) (f : Machine.ObjEnt → Machine.ObjEnt) :=
      { u with base := { u.base with objs := u.base.objs.map (fun e => if e.oid = o.oid then f e else e) } }
    let nreg (u : Machine.State) (pa : Nat) := Machine.memNat u.base.mem (pa + 12) 2
    let setNreg (u : Machine.State) (pa n : Nat) := Machine.homePutPa u (pa + 12) (bytesOf n 2) false false
    (Leaves s b (off1 s b) 1 1 3 [1, 2, 3] o → null.tag = false → null.bits = 0 →
      Machine.exec (.rbind b c) s = .next (past 1 (if o.sync = 0 then t
        else setNreg (entry t (fun e => { e with sync := 0 })) o.sync (nreg (entry t (fun e => { e with sync := 0 })) o.sync - 1)))) ∧
    (Leaves s b (off1 s b) 1 1 3 [1, 2, 3] o → null.tag = true ∨ null.bits ≠ 0 → ∀ f,
      Machine.checkHome (at' s b) c (off1 s c) 16 16 4 [1] = .error f → Machine.exec (.rbind b c) s = .next (Machine.takeTrap (at' s b) f)) ∧
    (Leaves s b (off1 s b) 1 1 3 [1, 2, 3] o → null.tag = true ∨ null.bits ≠ 0 → ∀ p pa,
      let u := askedBoth s b c o (off1 s b).toNat
      Machine.checkHome (at' s b) c (off1 s c) 16 16 4 [1] = .ok p → pa ≠ 0 → Machine.paOf p (off1 s c).toNat = some pa →
      Machine.liveSync u pa = true → o.sync ≠ pa →
      nreg u pa ≠ 65535 →
      let e := entry u (fun e => { e with sync := pa })
      let f := if o.sync = 0 then e else setNreg e o.sync (nreg e o.sync - 1)
      Machine.exec (.rbind b c) s = .next (past 1 (setNreg f pa (nreg f pa + 1)))) ∧
    (Leaves s b (off1 s b) 1 1 3 [2, 3] o →
      (o.coh = mode → Machine.exec (.rmode b mode) s = .next (past 1 t)) ∧
      (o.coh = true → mode = false →
        let u := entry t (fun e => { e with coh := false })
        Machine.exec (.rmode b mode) s = .next (past 1 { u with base := { u.base with dir := u.base.dir.filter (fun d =>
          ¬ ∃ e ∈ o.exts, e.pa ≤ d.block * 128 ∧ d.block * 128 < e.pa + e.npg * 4096) } })) ∧
      (o.coh = false → mode = true → ∃ u, Machine.exec (.rmode b mode) s = .next (past 1 u) ∧
        (∀ w ∈ u.core.l1, w.oid = o.oid → w.dirty = false) ∧ u.core.seq = s.core.seq ∧ u.core.csr = s.core.csr ∧
        u.gtc = s.gtc ∧ (∀ e ∈ u.base.objs, e.oid = o.oid → e.coh = true)))

/-- DCFG in kernel mode gives a region its digests, every block claiming nothing, or takes them away, and an invalid
word traps; DQ reads a block's digest into a register pair, with the sticky WIDE and BUILDING; DREBUILD rebuilds the
blocks of its range, none for length 0 (said of resident blocks outside host bias, without errors of the array and
power-gated cores);
DQ waits while a line of the digest does; DQ
and DREBUILD of a region without digests trap as access-unresolved (12 R297 to R299, 11 R255, R256, R265, R266). -/
def Obligations.DigestInstructions : Prop :=
  ∀ (s : Machine.State) (a : XReg) (b : CReg) (c : XReg) (imm : BitVec 32) (o : Machine.ObjEnt),
    let t := at' s b
    let d := askedAt s b o (off1 s b).toNat
    let w := reg s c
    let cfg (u : Machine.State) (v : Word) :=
      { u with base := { u.base with objs := u.base.objs.map (fun e => if e.oid = o.oid then { e with dcfg := v } else e) } }
    let mem (u : Machine.State) (m : Machine.Mem) := { u with base := { u.base with mem := m } }
    let k := (off2 s b imm).toNat
    let lo := (off1 s b).toNat
    let size := Machine.dcfgB o.dcfg
    (s.core.csr.mode = true → Leaves s b (off1 s b) 1 1 2 [2, 3] o → Machine.exec (.dcfg b c) s = .next (
      if w.getLsbD 0 = false then past 1 (cfg (Machine.dropStore d o) 0)
      else if Machine.dcfgValid o w then
        past 1 (cfg (mem { d with base := Machine.eccWritten (Machine.dropStore d o).base (Machine.dcfgStore w) (Machine.digStoreLen o w) }
          (Machine.digInit d.base.mem { o with dcfg := w })) w)
      else trapped d 0x02 0 0 w d.core.seq.pc)) ∧
    (Leaves s b (off2 s b imm) 1 1 8 [2, 3] o → o.dcfg.getLsbD 0 = true →
      let got := Machine.digGet t o (k / size) t.core.id
      let r := Machine.serve (waits got.1 .none) (Machine.digHome o (k / size)) 0 16 got.1.core.csr.pid
      (s.base.bias = [] → s.base.ecc = [] → s.base.vbus = [] → got.2 = some (Machine.digRead t.base.mem o (k / size))) ∧
      (got.2 = none → Machine.exec (.dq a b imm) s = .next (waits got.1 .channel)) ∧
      (∀ d, got.2 = some d →
        let u := put (put r a (BitVec.ofNat 64 d.a)) (a + 1) (BitVec.ofNat 64 d.b)
        Machine.exec (.dq a b imm) s = .next (past 1 { u with core := { u.core with csr := { u.core.csr with
          dstat := u.core.csr.dstat ||| (if d.st = 1 then 2 else if d.st = 2 then 4 else 0) } } }))) ∧
    (w = 0 → Machine.exec (.drebuild b c) s = .next (past 1 s)) ∧
    (w ≠ 0 → Leaves s b (off1 s b) w.toNat 1 3 [2, 3] o → o.dcfg.getLsbD 0 = true →
      let j := lo / size
      let n := (lo + w.toNat - 1) / size + 1 - j
      Machine.nonResident o (j * size) (min (n * size) (o.len - j * size)) = none →
        s.base.bias = [] → s.base.ecc = [] → s.base.vbus = [] → (∀ k ∈ s.core :: s.others, k.gated = false) →
        ∃ ls lv ps, Machine.exec (.drebuild b c) s = .next (past 1 { waits t .none with base := { t.base with
          mem := (List.range n).foldl (fun m i => Machine.digRebuild m o (j + i)) t.base.mem, lines := ls, plvl := lv, ports := ps } })) ∧
    (o.dcfg.getLsbD 0 = false →
      (Leaves s b (off2 s b imm) 1 1 8 [2, 3] o →
        Machine.exec (.dq a b imm) s = .next (trapped t 0x05 1 b.val (BitVec.ofNat 64 k) t.core.seq.pc)) ∧
      (w ≠ 0 → Leaves s b (off1 s b) w.toNat 1 3 [2, 3] o →
        Machine.exec (.drebuild b c) s = .next (trapped t 0x05 1 b.val (BitVec.ofNat 64 lo) t.core.seq.pc)))

namespace Sys2Proof.Claims
open Machine

/-- The PAGE instructions that only need the table of cB, with what each does to the table and what it returns (12
R302, R304 to R307): the new table and the value for x[A], if it writes one. -/
def spanOps (s : State) (a : XReg) (b : CReg) (c : XReg) (tag : Fin 16) (mode : Bool) (t : Span) :
    List (Instr × Span × Option Nat) :=
  let x := (reg s c).toNat
  [(.pgunmap a b c, (spanUnmap t x).1, some (spanUnmap t x).2),
   (.spret a b tag mode, (spanRetire t tag.val mode).1, some (spanRetire t tag.val mode).2),
   (.sptrunc a b c, (spanTrunc t x).1, some (spanTrunc t x).2),
   (.spposSet a b c, (spanSetPos t x).1, some (spanSetPos t x).2)] ++
  (if x % 65536 = 0xFFFF then [(.sptag b c tag, { t with h := { t.h with curtag := tag.val } }, none)] else
    match t.es[x % 65536]? with
    | some e => if e.state = 1 ∧ e.count = 0 then
        [(.sptag b c tag, ⟨{ t.h with curtag := tag.val }, t.es.set (x % 65536) { e with tag := tag.val }⟩, none)] else []
    | none => [])

end Sys2Proof.Claims

/-- A PAGE instruction is one transaction on the table of cB: it writes the new table, with VER one higher if anything
changed, returns its status or count in x[A], and changes nothing else; SPPOS GET changes nothing; SPTAG refuses an
entry that is no spare; PGMAP refuses a page of another pool with status 3; an object that is no span table traps as
illegal-operand, no request leaving, and neither does PGMAP's when cC fails its checks (12 R279, R300 to R307, 11
R273). PGFETCH returns 0 for a resident offset, 1 for one that no extent covers or that the base has given up, and
else asks the host once and waits, or, posted with A = 0, goes on (12 R303, 04 R106, 22 R394). -/
def Obligations.PageInstructionsChangeTablesAndFetch : Prop :=
  ∀ (s : Machine.State) (a : XReg) (b c : CReg) (x : XReg) (tag : Fin 16) (mode : Bool) (o p : Machine.ObjEnt) (pa : Nat),
    (Leaves s b (off1 s b) 1 1 16 [1] o → Machine.paOf o (off1 s b).toNat = some pa →
      let t := asked s b o pa
      let v := Machine.spanRead t o
      let wrote (u : Machine.State) (v' : Machine.Span) :=
        Machine.spanWrite u o (if v = v' then v else { v' with h := { v'.h with ver := v.h.ver + 1 } })
      let page := (off1 s c).toNat
      (o.span = true →
        (∀ q ∈ spanOps s a b x tag mode v, Machine.exec q.1 s = .next (past 1 (match q.2.2 with
          | none => wrote t q.2.1
          | some r => put (wrote t q.2.1) a (BitVec.ofNat 64 r)))) ∧
        Machine.exec (.spposGet a b x) s = .next (past 1 (put t a (BitVec.ofNat 64 v.h.nextpos))) ∧
        ((reg s x).toNat % 65536 ≠ 0xFFFF → (∀ e, v.es[(reg s x).toNat % 65536]? = some e → e.state ≠ 1 ∨ e.count ≠ 0) →
          Machine.exec (.sptag b x tag) s = .next (trapped t 0x02 0 0 (reg s x) t.core.seq.pc)) ∧
        (∀ f, Machine.checkCap (at' s b) c (off1 s c) 4096 1 3 none = .error f →
          Machine.exec (.pgmap a b c tag) s = .next (Machine.takeTrap (at' s b) f)) ∧
        (Machine.checkCap (at' s b) c (off1 s c) 4096 1 3 none = .ok p →
          let u := askedBoth s b c o (off1 s b).toNat
          let m := Machine.spanMap v p.oid.toNat (page / 4096) tag.val
          Machine.exec (.pgmap a b c tag) s = .next (past 1 (
            if page % 4096 = 0 ∧ (p.space = 1 ∨ p.space = 2) ∧ (v.h.pset = true → p.oid.toNat = v.h.pool) then
              put (wrote u m.1) a (BitVec.ofNat 64 (m.2.1 + m.2.2 * 65536))
            else put u a 3)))) ∧
      (o.span = false → ∀ i ∈ [Instr.pgunmap a b x, .spret a b tag mode, .sptrunc a b x, .spposSet a b x, .sptag b x tag,
        .spposGet a b x, .pgmap a b c tag], Machine.exec i s = .next (trapped (at' s b) 0x02 0 0 s.core.seq.c[b].cursor s.core.seq.pc))) ∧
    (∀ imm : BitVec 32, Leaves s b (off2 s b imm) 1 1 16 [1, 2, 3] o →
      let t := at' s b
      let k := (off2 s b imm).toNat
      let sent := askedAt s b o k
      let ask := Machine.logEvent sent 1 (o.oid.toNat * 2 ^ 40 + k) (Machine.dieOf sent.core.id).val sent.core.csr.pid.val
      let answer (u : Machine.State) (v : Word) : Machine.Out := .next (past 1 (put (waits u .none) a v))
      (o.space = 1 → Machine.exec (.pgfetch a b imm) s = answer sent 0) ∧
      (o.space ≠ 1 → (∀ q x f, s.core.wait ≠ .pgfetch q x f) →
        (Machine.residentAt o k = true → Machine.exec (.pgfetch a b imm) s = answer sent 0) ∧
        (Machine.extOf o k = none → Machine.exec (.pgfetch a b imm) s = answer sent 1) ∧
        (∀ x e st, Machine.extOf o k = some (x, e, st) → e.res = false →
          (a = 0 → Machine.exec (.pgfetch a b imm) s =
            answer { ask with core := { ask.core with posted := ask.core.posted ++ [(o.oid, x)] } } 0) ∧
          (a ≠ 0 → Machine.exec (.pgfetch a b imm) s = .next (waits ask (.pgfetch o.oid x false))))) ∧
      (o.space ≠ 1 → ∀ q x f, s.core.wait = .pgfetch q x f →
        Machine.exec (.pgfetch a b imm) s =
          if Machine.residentAt o k = true then answer t 0 else if f = true then answer t 1 else .next t))

/-- The tables' arithmetic: mapping takes the lowest empty entry below NENT, else entry NENT; unmapping frees a
retired or spare entry and refuses any other with status 3, changing nothing; truncating makes NEXTPOS at most the
position, LIVE falls by the tokens freed, no mapped token stays at or above it, a table with none there keeps its
entries, and OPEN becomes the mapped entry that holds NEXTPOS - 1, or 0xFFFF where none does; NEXTPOS never falls by
SET (11 R274 to R277). -/
def Obligations.SpanTableArithmetic : Prop :=
  ∀ (t : Machine.Span) (oid page tag i p : Nat) (e : Machine.SpanEnt),
    (∀ k, k < t.h.nent → k < t.es.length → (t.es[k]?.map (fun e => e.state)) = some 0 →
      (∀ j, j < k → (t.es[j]?.map (fun e => e.state)) ≠ some 0) →
      (Machine.spanMap t oid page tag).2 = (0, k) ∧
      (Machine.spanMap t oid page tag).1.es = t.es.set k ⟨0, 0, tag, 1, page⟩ ∧ (Machine.spanMap t oid page tag).1.h.nent = t.h.nent) ∧
    ((∀ j, j < t.h.nent → (t.es[j]?.map (fun e => e.state)) ≠ some 0) →
      (t.h.nent < t.es.length → (Machine.spanMap t oid page tag).2 = (0, t.h.nent) ∧
        (Machine.spanMap t oid page tag).1.es = t.es.set t.h.nent ⟨0, 0, tag, 1, page⟩ ∧
        (Machine.spanMap t oid page tag).1.h.nent = t.h.nent + 1) ∧
      (t.es.length ≤ t.h.nent → Machine.spanMap t oid page tag = (t, 1, 0))) ∧
    (t.es[i]? = some e → (e.state = 2 ∨ (e.state = 1 ∧ e.count = 0)) →
      (Machine.spanUnmap t i).2 = 0 ∧ (Machine.spanUnmap t i).1.es = t.es.set i ⟨0, 0, 0, 0, 0⟩) ∧
    (t.es[i]? = some e → e.state ≠ 2 → (e.state ≠ 1 ∨ e.count ≠ 0) → Machine.spanUnmap t i = (t, 3)) ∧
    (let u := Machine.spanTrunc t p
     let mapped (f : Machine.SpanEnt) : Prop := f.state = 1 ∧ 0 < f.count
     let last (f : Machine.SpanEnt) : Prop := mapped f ∧ f.first < u.1.h.nextpos ∧ u.1.h.nextpos ≤ f.first + f.count
     u.1.h.nextpos = min t.h.nextpos p ∧ u.1.h.live = t.h.live - u.2 ∧
     (∀ f ∈ u.1.es, mapped f → f.first + f.count ≤ p) ∧
     ((∀ f ∈ t.es, mapped f → f.first + f.count ≤ p) → u.1.es = t.es ∧ u.2 = 0) ∧
     ((∃ f, u.1.es[u.1.h.opened]? = some f ∧ last f) ∨ (u.1.h.opened = 0xFFFF ∧ ∀ f ∈ u.1.es, ¬ last f))) ∧
    (p < t.h.nextpos → Machine.spanSetPos t p = (t, 2)) ∧
    ((Machine.spanSetPos t p).2 = 0 → (Machine.spanSetPos t p).1.h.nextpos = p)

/-! ## The rings, the engine registers and segments -/

namespace Sys2Proof.Claims
open Machine

/-- `s` with ring `e` changed. -/
def withRing (s : State) (e : Eng) (r : Ring) : State :=
  { s with core := { s.core with eng := { s.core.eng with rings := s.core.eng.rings.set (engIdx e) r } } }

/-- `s` with the engines `g`. -/
def withEng (s : State) (g : Engines) : State := { s with core := { s.core with eng := g } }

/-- The CSRs of an engine with their values: RGCFG and RGPTR; CHST, CHKCFG and CHKHIT; MXSPILL; VFCR, VWST, GCTL and
GBASE (01 R6, R7, 05 R141, 06 R151, R163, 15 R324, 19 R354, R359, 03 R73). -/
def engineCsrs (g : Engines) (e : Eng) : List (Nat × Word) :=
  let r := g.rings[engIdx e]
  [(0, BitVec.ofNat 64 ((if r.en then 2 ^ 31 else 0) + r.lgsz * 2 ^ 24 + r.base)),
   (1, BitVec.ofNat 64 (r.head.toNat * 2 ^ 16 + r.tail.toNat))] ++
  match e with
  | .copy => (List.finRange 4).flatMap (fun (k : Fin 4) => [(4 + k.val, chstWord g k), (8 + k.val, g.chkCfg[k]), (12 + k.val, g.chkHit[k])])
  | .matrix => [(2, g.mxspill)]
  | .vector => [(2, g.vfcr), (3, g.vwst)] ++ (List.finRange 4).flatMap (fun (k : Fin 4) => [(4 + k.val, g.gctl[k]), (8 + k.val, g.gbase[k])])

/-- The plain engine CSRs with what a write of `v` makes of the engines: reserved bits ignore it, VWST is read-only,
and a global access register loses its extents. -/
def engineWrites (g : Engines) (v : Word) : List (Eng × Nat × Engines) :=
  (List.finRange 4).flatMap (fun (k : Fin 4) =>
    [(.copy, 8 + k.val, { g with chkCfg := g.chkCfg.set k (v &&& 0xF0001FFFFFFFFFFF) }),
     (.copy, 12 + k.val, { g with chkHit := g.chkHit.set k v }),
     (.vector, 4 + k.val, clearExtG { g with gctl := g.gctl.set k (v &&& 0x00FFF87800000000) } k),
     (.vector, 8 + k.val, clearExtG { g with gbase := g.gbase.set k v } k)]) ++
  [(.matrix, 2, { g with mxspill := v &&& 0xFFF8FFFFFFFFC000 }), (.vector, 2, { g with vfcr := v &&& 0x3F3F }), (.vector, 3, g)]

/-- The ring has drained: its engine has no command in progress, and nothing is published if it is enabled (01 R8). -/
def Drained (s : State) (e : Eng) : Prop :=
  (∀ j ∈ s.core.eng.jobs, j.eng = e → j.done = true) ∧
    let r := s.core.eng.rings[engIdx e]
    r.en = true → r.head = r.tail

end Sys2Proof.Claims

/-- RTAIL, and a write of RGPTR, publish up to x[B][15:0], which withdraws entries only in a kernel engine trap and
never reaches beyond the ring; RSTAT and SLOTRD read the words that the cycles before left, slot 0 being illegal;
FPUSH appends to the format queue, and waits while it holds 32 words (05 R136, R137, R139 to R141). -/
def Obligations.RingsPublishAndReport : Prop :=
  ∀ (s : Machine.State) (e : Eng) (a b : XReg) (slot : Fin 16),
    let r := s.core.eng.rings[Machine.engIdx e]
    let new : BitVec 16 := BitVec.ofNat 16 (reg s b).toNat
    let cnt := (new - r.head).toNat
    let legal := cnt ≤ 2 ^ r.lgsz ∧ ((r.tail - r.head).toNat ≤ cnt ∨ (s.core.csr.mode = true ∧ s.core.csr.engt = true))
    let vis := if cnt < (r.vis - r.head).toNat then new else r.vis
    (∀ i ∈ [Instr.rtail e b, .ecsrw e 1 b],
      (legal → Machine.exec i s = .next (past 1 (withRing s e { r with tail := new, vis := vis }))) ∧
      (¬ legal → Traps i s 0x02 0 0 (reg s b))) ∧
    Writes (.rstat a e) s a s.core.eng.rstatL[Machine.engIdx e] 1 ∧
    (slot ≠ 0 → Writes (.slotrd a slot) s a s.core.eng.slotL[slot] 1) ∧ Traps (.slotrd a 0) s 0x01 0 0 0 ∧
    (s.core.eng.fq.length < 32 →
      let c := s.core.csr.scc + (if Machine.standing s then 0 else 1)
      Machine.exec (.fpush b) s = .next (past 1 (withEng s { s.core.eng with fq := s.core.eng.fq ++ [(reg s b, c)] }))) ∧
    (32 ≤ s.core.eng.fq.length → Machine.exec (.fpush b) s = .next s)

/-- ECSRR reads every engine CSR and ECSRW writes it within its writable bits; a number that the engine does not
define is illegal; RGCFG changes once its ring has drained, which the write waits for, and the ring starts empty and
idle; CMD of CHST restarts or discards a stopped copy, in a kernel engine trap only (05 R141, 01 R6 to R8, 06 R151,
R159). The events RGCFG_WRITE, RESTART and DISCARD are those parts by themselves. -/
def Obligations.EngineRegistersReadAndWrite : Prop :=
  ∀ (s : Machine.State) (e : Eng) (n : Fin 256) (a b : XReg) (ch : Fin 4) (v : Word),
    let g := s.core.eng
    let trapOpen := s.core.csr.mode = true ∧ s.core.csr.engt = true
    let cfg (v : Word) : Machine.Ring :=
      ⟨v.getLsbD 31, max 4 (v.toNat / 2 ^ 24 % 16), v.toNat / 8 % 2 ^ 19 * 8, 0, 0, 0, true, 0, none⟩
    (∀ p ∈ engineCsrs g e, n.val = p.1 → Writes (.ecsrr a e n) s a p.2 1) ∧
    ((∀ p ∈ engineCsrs g e, n.val ≠ p.1) → Traps (.ecsrr a e n) s 0x01 0 0 0 ∧ Traps (.ecsrw e n b) s 0x01 0 0 0) ∧
    (∀ p ∈ engineWrites g (reg s b), n.val = p.2.1 → Machine.exec (.ecsrw p.1 n b) s = .next (past 1 (withEng s p.2.2))) ∧
    (Drained s e → Machine.exec (.ecsrw e 0 b) s = .next (past 1 (withRing s e (cfg (reg s b)))) ∧
      Machine.exec (.rgcfgWrite e v) s = .next (withRing s e (cfg v))) ∧
    (¬ Drained s e → Machine.exec (.ecsrw e 0 b) s = .next s ∧ Machine.exec (.rgcfgWrite e v) s = .next s) ∧
    (n.val = 4 + ch.val →
      let cmd := (reg s b).toNat / 2 ^ 60 % 4
      (cmd = 0 ∨ cmd = 3 → Machine.exec (.ecsrw .copy n b) s = .next (past 1 s)) ∧
      (trapOpen → cmd = 1 → Machine.exec (.ecsrw .copy n b) s = .next (past 1 (Machine.restartOp s ch))) ∧
      (trapOpen → cmd = 2 → Machine.exec (.ecsrw .copy n b) s = .next (past 1 (Machine.discardOp s ch))) ∧
      (¬ trapOpen → cmd = 1 ∨ cmd = 2 → Traps (.ecsrw .copy n b) s 0x02 2 0 (reg s b))) ∧
    (trapOpen → Machine.exec (.restart ch) s = .next (Machine.restartOp s ch) ∧
      Machine.exec (.discard ch) s = .next (Machine.discardOp s ch)) ∧
    (¬ trapOpen → Machine.exec (.restart ch) s = .next s ∧ Machine.exec (.discard ch) s = .next s)

namespace Sys2Proof.Claims
open Machine

/-- `s` as a segment opens with number `n` and class `c`: SCC is 0, every ring's ALIGN has issued, the next entries
may issue from cycle 1, and the waiting SALIGN is done (01 R13); a command whose completion is yet to come, or whose
positions its channel has yet to count, goes on as one of an ended segment (01 R24, 06 R150; log entry 48). The next
instruction executes at SCC 0: the sequencer is not busy. -/
def segment (s : State) (n : Fin 64) (c : Fin 4) : State :=
  past 0 { s with core := { s.core with
    csr := { s.core.csr with seg := BitVec.ofNat 6 n.val, pclass := BitVec.ofNat 2 c.val, scc := 0 }
    eng := { s.core.eng with
      jobs := (s.core.eng.jobs.filter (fun j => !j.done || j.npos ≠ 0)).map
        (fun j => { j with old := true, iss := 0, minDone := j.minDone - s.core.csr.scc })
      transit := s.core.eng.transit.map (fun t => { t with iss := none })
      fq := s.core.eng.fq.map (fun p => (p.1, 0))
      rings := s.core.eng.rings.map (fun r =>
        if r.en then { r with head := r.head + 1, idle := false, nextIss := 1, arr := none } else { r with arr := none }) }
    wait := .none } }

/-- The ring whose head is a published ALIGN of another number than `n`, the lowest first. -/
def Mismatch (s : State) (n : Fin 64) (k : Fin 3) (m : Fin 64) : Prop :=
  ringAlign s.core.eng k = some m ∧ m ≠ n ∧ ∀ j < k, ∀ q, ringAlign s.core.eng j = some q → q = n

/-- `s` after the core asked its die for a power class: class 0 is granted at once, another waits its turn (22 R399). -/
def askedPower (s : State) (c : Fin 4) : State :=
  let d := dieOf s.core.id
  let w := (s.base.dies[d]).waiting.filter (fun p => p.1 ≠ s.core.id)
  let die := { s.base.dies[d] with waiting := if c = 0 then w else w ++ [(s.core.id, c)] }
  { s with
    core := { s.core with power := if c = 0 then some 0 else none }
    base := { s.base with dies := s.base.dies.set d die } }

/-- The die's leave manager can grant its oldest request: below 95 °C, within the cap (22 R399). -/
def Grants (s : State) (d : Fin 8) (core : Nat) (c : Fin 4) : Prop :=
  (∃ t, (s.base.dies[d]).waiting = (core, c) :: t) ∧ s.base.temp.toNat < 95 ∧
    powerHeld s d + (s.base.dies[d]).costs[c] ≤ (s.base.dies[d]).cap

end Sys2Proof.Claims

/-- SALIGN asks for its power class and waits; its release, at a multiple of 16 GTC cycles after the last arrival,
opens the segment: SCC 0, STATUS with its number and class. It is illegal in an engine trap, and a ring with another
number at its head is an alignment mismatch, named in CAUSE, which in kernel mode ends the lease (05 R138, 01 R13, 22
R399). The model's choices: commands that go on into the new segment (log entry 48), the request that a mismatch
withdraws (79), BADADDR 0 of the illegal operand (80). An ALIGN entry waits for it,
SEGMENT_RELEASE is its release, and POWER_LEAVE_GRANT gives the oldest request of the first die that can. -/
def Obligations.SegmentsOpenTogether : Prop :=
  ∀ (s : Machine.State) (n : Fin 64) (c : Fin 4) (e : Eng),
    let ok := s.core.csr.engt = false ∧ s.core.csr.epend = false
    let aligned := ∀ k m, Machine.ringAlign s.core.eng k = some m → m = n
    (¬ ok → Traps (.salign n c) s 0x02 0 0 0) ∧
    (ok → ∀ k m, Mismatch s n k m →
      let t := inHandler (Machine.dropPower s s.core.id) s.core.seq.pc (BitVec.ofNat 64 (0x13 + k.val * 2 ^ 10)) (BitVec.ofNat 64 m.val)
      Machine.exec (.salign n c) s = .next (if s.core.csr.mode then Machine.faultLease t else t)) ∧
    (ok → aligned → s.core.wait = .none →
      Machine.exec (.salign n c) s = .next (waits (askedPower s c) (.salign c none))) ∧
    (ok → aligned → ∀ d g, s.core.wait = .salign d (some g) → g < s.gtc → s.gtc % 16 = 0 →
      Machine.exec (.salign n c) s = .next (segment s n d) ∧
      (∀ w, Machine.codeWord s s.core.seq.pc.toNat = some w → decodeSeq w = some (.salign n c) →
        Machine.exec .segmentRelease s = .next (segment s n d))) ∧
    (ok → aligned → ∀ d g, s.core.wait = .salign d g → (∀ x, g = some x → ¬ (x < s.gtc ∧ s.gtc % 16 = 0)) →
      Machine.exec (.salign n c) s = .next s ∧ Machine.exec .segmentRelease s = .next s) ∧
    Machine.exec (.align e n) s = .next s ∧
    (∀ d core p, Grants s d core p → (∀ f < d, ∀ x q, ¬ Grants s f x q) →
      let die := { s.base.dies[d] with waiting := (s.base.dies[d]).waiting.drop 1 }
      Machine.exec .powerLeaveGrant s = .next (Machine.onCore { s with base := { s.base with dies := s.base.dies.set d die } } core
        (fun x => { x with power := some p })))

/-! ## Leases from inside: TRETIRE, stage messages, DISPATCH, LAUNCH -/

namespace Sys2Proof.Claims
open Machine

/-- The core has nothing left in flight: every enabled ring idle with nothing published, every command done, no write
on its way, the store buffer empty, every posted request answered (05 R142). -/
def Quiet (s : State) : Prop :=
  (∀ r ∈ s.core.eng.rings.toList, r.en = true → r.idle = true ∧ r.head = r.tail) ∧ (∀ j ∈ s.core.eng.jobs, j.done = true) ∧
    s.core.eng.pends = [] ∧ s.core.eng.transit = [] ∧ s.core.sb = [] ∧ s.core.posted = []

/-- `s` with the current lease changed. -/
def withLease (s : State) (l : Lease) : State := { s with core := { s.core with lease := some l } }

/-- `s` with a stage queue replaced. -/
def withStage (s : State) (q : StageQ) : State :=
  { s with base := { s.base with
    stageqs := q :: s.base.stageqs.filter (fun p => ¬ (p.launch = q.launch ∧ p.stage = q.stage)) } }

/-- A code read at offset `off` delivers `w`, and leaves the machine as `t` (04 R91, 10 R236). -/
def Reads (s : State) (off : Nat) (w : Word) (t : State) : Prop := codeRead s off = (t, .ok, some w)

/-- A scratchpad offset that a stage message may have (05 R143). -/
def MsgOffset (v : Word) : Prop := v.toNat % 64 = 0 ∧ v.toNat ≤ 0x3FFFC0

end Sys2Proof.Claims

/-- TRETIRE waits until engines, store buffer and posted requests have finished, writes the dirty L1 words back and
ends the lease: the core is free, with no dirty word and with its registers as they start (the model's choice, log entry
2); in an engine trap, or with an ALIGN at a ring's head, it is
illegal (05 R142; BADADDR 0 is the model's choice, log entry 80, and so is the wait for commands whose writes have all
performed, 74). STGPUT queues 64 bytes of the scratchpad for the next stage, or only counts when the base holds its
tag already, and waits while 256 messages not yet taken are queued (that only these count is the model's choice, log
entry 51); STGGET takes back what a reissued lease held, then the oldest message not yet taken,
and waits for one; in the wrong stage both trap, with x[B] in BADADDR as the model's choice (log entry 81) (05 R143,
R144). -/
def Obligations.LeasesRetireAndPassMessages : Prop :=
  ∀ (s : Machine.State) (b : XReg) (l : Machine.Lease), s.core.lease = some l →
    let v := reg s b
    let n := l.stage.val
    let q := Machine.stageQueue s l.launch n
    let u := Machine.writeBack s s.core.id (fun _ => true)
    let counted (t : Machine.State) := past 1 (withLease t { l with puts := l.puts + 1 })
    (s.core.csr.engt = true ∨ (∃ k, (Machine.ringAlign s.core.eng k).isSome = true) → Traps .tretire s 0x02 0 0 0) ∧
    (s.core.csr.engt = false → (∀ k, Machine.ringAlign s.core.eng k = none) →
      (Quiet s → Machine.exec .tretire s = .next (Machine.endRetired u) ∧
        ∃ ws, (∀ w ∈ ws, w.dirty = false) ∧ (Machine.endRetired u).core = { Machine.Core.free s.core.id with
          resvSeq := s.core.resvSeq, gated := s.core.gated, l1 := ws }) ∧
      (¬ Quiet s → Machine.exec .tretire s = .next s)) ∧
    (MsgOffset v → Machine.lastStage s l = false →
      ((l.id, l.puts) ∈ q.seen → Machine.exec (.stgput b) s = .next (counted s)) ∧
      ((l.id, l.puts) ∉ q.seen → q.msgs.length < 256 → Machine.exec (.stgput b) s = .next (counted (withStage s { q with
        msgs := q.msgs ++ [⟨l.id, l.puts, Machine.memReadN s.core.eng.spad v.toNat 64⟩], seen := q.seen ++ [(l.id, l.puts)] }))) ∧
      ((l.id, l.puts) ∉ q.seen → 256 ≤ q.msgs.length → Machine.exec (.stgput b) s = .next s)) ∧
    (MsgOffset v → n ≠ 0 →
      let p := Machine.stageQueue s l.launch (n - 1)
      let took (t : Machine.State) (m : Machine.Msg) (l' : Machine.Lease) := past 1 (withSpad
        (withLease t { l' with held := l.held ++ [m] }) (Machine.memWriteL s.core.eng.spad v.toNat m.data))
      (∀ m rest, l.redo = m :: rest → Machine.exec (.stgget b) s = .next (took s m { l with redo := rest })) ∧
      (∀ m rest, l.redo = [] → p.msgs = m :: rest →
        Machine.exec (.stgget b) s = .next (took (withStage s { p with msgs := rest }) m l)) ∧
      (l.redo = [] → p.msgs = [] → Machine.exec (.stgget b) s = .next s)) ∧
    (v.toNat % 64 ≠ 0 → Traps (.stgput b) s 0x02 1 0 v ∧ Traps (.stgget b) s 0x02 1 0 v) ∧
    (v.toNat % 64 = 0 → 0x3FFFC0 < v.toNat → Traps (.stgput b) s 0x02 0 0 v ∧ Traps (.stgget b) s 0x02 0 0 v) ∧
    (MsgOffset v → (Machine.lastStage s l = true → Traps (.stgput b) s 0x02 0 0 v) ∧ (n = 0 → Traps (.stgget b) s 0x02 0 0 v))

/-- DISPATCH rounds x[B] up to the first bucket of the table that holds it, by code reads in the table's order, and
jumps to that bucket's code; a count above every bucket, a misaligned table or target, a bad header and a table beyond
the code object trap, and no register changes (05 R145). A code read of a STAGE object without L1 copies, no page
being in host bias, delivers its word at once and leaves the state as it was, with no packet (the model's choice, log
entry 62); while another's channel retries, the instruction stands. LAUNCH reads the record at cB and offers it to its
queue: x[A] is the launch id, or 2^63 when the queue is full, or 2^62 when the partition may not use it; while the
array retries it stands, and at bytes that cannot be corrected it traps (05 R147, 22 R397, 04 R97, 08 R192). That it
waits for an empty store buffer is the model's choice (log entry 83). -/
def Obligations.DispatchAndLaunch : Prop :=
  ∀ (s : Machine.State) (a b : XReg) (cb : CReg) (table : Fin 4194304) (k : Nat) (h e : Word) (o : Machine.ObjEnt)
    (u : Nat → Machine.State),
    let t := table.val
    let x := reg s b
    let size := h.toNat % 128
    let bound (w : Word) := w.toNat % 2 ^ 32
    let passed (n : Nat) := ∀ j < n, ∃ w, Reads (u j) (t + 8 + 8 * j) w (u (j + 1)) ∧ bound w < x.toNat
    let target : Word := BitVec.ofNat 64 (e.toNat / 2 ^ 32)
    (∀ off, Machine.codeObj s = some o → o.space = 1 → o.coh = false → s.base.bias = [] → Machine.codeRead s off = (s, .ok, Machine.codeWord s off)) ∧
    (t % 8 ≠ 0 → Traps (.dispatch b table) s 0x02 1 0 (BitVec.ofNat 64 t)) ∧
    (t % 8 = 0 → ∀ v, (Machine.codeRead s t = (v, .ok, none) →
        Machine.exec (.dispatch b table) s = .next (trapped v 0x03 2 0xFFFF (BitVec.ofNat 64 t) v.core.seq.pc)) ∧
      (∀ w, Machine.codeRead s t = (v, .busy, w) → Machine.exec (.dispatch b table) s = .next v)) ∧
    (t % 8 = 0 → Reads s t h (u 0) →
      (size = 0 ∨ 64 < size →
        Machine.exec (.dispatch b table) s = .next (trapped (u 0) 0x02 0 0 (BitVec.ofNat 64 t) (u 0).core.seq.pc)) ∧
      (1 ≤ size → size ≤ 64 → k < size → passed k → Reads (u k) (t + 8 + 8 * k) e (u (k + 1)) → x.toNat ≤ bound e →
        let v := u (k + 1)
        Machine.exec (.dispatch b table) s = .next (
          if target.toNat % 8 = 0 then goTo 4 target (put v b (BitVec.ofNat 64 (bound e)))
          else trapped v 0x02 1 0 target v.core.seq.pc)) ∧
      (1 ≤ size → size ≤ 64 → passed size →
        Machine.exec (.dispatch b table) s = .next (trapped (u size) 0x02 0 0 x (u size).core.seq.pc))) ∧
    (Leaves s cb (off1 s cb) 128 64 1 [1, 2] o →
      let k := (off1 s cb).toNat
      let d := Machine.dramRead (at' s cb) o k 128 (at' s cb).core.id
      let r := Machine.homeGet d.1 (some d.1.core.id) o k 128
      let n := Machine.recordSize r.2
      Machine.nonResident o k 128 = none →
        (d.2 = .busy → Machine.exec (.launch a cb) s = .next d.1) ∧
        (d.2 = .bad → Machine.exec (.launch a cb) s = .next (trapped d.1 0x05 2 cb.val (BitVec.ofNat 64 k) d.1.core.seq.pc)) ∧
        (d.2 = .ok → ∀ p, Machine.checkHome r.1 cb (off1 r.1 cb) n 64 1 [1, 2] = .ok p → off1 r.1 cb = off1 s cb →
          Machine.nonResident p k n = none →
          let f := Machine.dramRead (at' r.1 cb) p k n (at' r.1 cb).core.id
          let g := Machine.homeGet f.1 (some f.1.core.id) p k n
          let tag := ((Machine.paOf p (k + 16)).map (Machine.tagAt g.1.base)).getD false
          f.2 = .ok → Machine.exec (.launch a cb) s = .next (past 1 (match Machine.offer g.1 g.1.core.csr.pid g.2 tag with
            | .full => put (waits g.1 .none) a (BitVec.ofNat 64 (2 ^ 63))
            | .denied => put (waits g.1 .none) a (BitVec.ofNat 64 (2 ^ 62))
            | .accepted u id => put (waits u .none) a (BitVec.ofNat 64 id.toNat)))))

/-! ## The issue of engine commands -/

namespace Sys2Proof.Claims
open Machine

/-- The entry number at the head of engine `e`'s ring. -/
def headOf (s : State) (e : Eng) : Nat := (s.core.eng.rings[engIdx e]).head.toNat

/-- Job `j` as its engine takes it up in this cycle. -/
def begun (s : State) (e : Eng) (j : Job) : Job :=
  { j with
    id := s.core.eng.nextJob + 1, entry := (s.core.eng.rings[engIdx e]).head, sset := (cmdHdr j.cmd).sset, iss := s.core.csr.scc }

/-- `s` after engine `e` took up job `j` with occupancy `occ`: the ring's head has moved and its next entry may issue
when the occupancy ends, the slot it sets has one issue more, its channel its bytes, its extent registers serve it,
and the format word is popped if the command pops one (01 R8, R10, R17, R28, 06 R151, 07 R171). -/
def issued (s : State) (e : Eng) (j : Job) (occ : Nat) (pop : Bool) : State :=
  let g := s.core.eng
  let r := g.rings[engIdx e]
  let n := (cmdHdr j.cmd).sset
  withEng s { g with
    nextJob := g.nextJob + 1
    jobs := g.jobs ++ [begun s e j]
    extJob := (extRegs j.cmd).foldl (fun v (q : Fin 20) => v.set q (g.nextJob + 1)) g.extJob
    rings := g.rings.set (engIdx e) { r with head := r.head + 1, idle := false, nextIss := s.core.csr.scc + occ }
    fq := if pop then g.fq.tail else g.fq
    slots := if 1 ≤ n.val ∧ n.val ≤ 11 then g.slots.set n { g.slots[n] with iss := (g.slots[n]).iss + 1 } else g.slots
    chans := match chanOf j.cmd with
      | some ch => g.chans.set ch { g.chans[ch] with issued := (g.chans[ch]).issued + j.npos }
      | none => g.chans }

/-- The checks that a command's issue makes in their order, each with the state of its failure (02 R48, R50, 01 R16 to
R22, R26, R28, 04 R111). -/
def issueChecks (s : State) (p : Prep) : List (Prop × State) :=
  let h := cmdHdr p.job.cmd
  let fault (code sub aux : Nat) (bad : Word) : State := raiseEFault s ⟨code, sub, p.eng, aux, 0, bad⟩
  let space := room s (recUse s p.job) p.job.held (chanOf p.job.cmd)
  [(p.bad = false ∧ h.sset.val < 12, fault 0x10 0 (headOf s p.eng) 0),
   (p.pop = true → fmtHead s ≠ none, if s.core.csr.schmode = 1 ∨ s.core.csr.schmode = 2 then
      freezeCore s ⟨2, 0, p.eng, 0, s.gtc, none, 0, 0, none⟩ else fault 0x12 0 (headOf s p.eng) 0),
   (p.bad2 = false, fault 0x10 0 (headOf s p.eng) 0),
   (slotFails s h.schk = true → s.core.csr.schmode = 2,
      checkMissed s p.eng h.schk (headOf s p.eng) 0 none (slotSetters s h.schk.val) none),
   (p.flt = none, match p.flt with
      | some f => fault f.code f.sub (f.aux.getD (headOf s p.eng)) f.bad
      | none => s),
   (portOk s p.job = true, fault 0x11 5 (headOf s p.eng) 0),
   (space ≠ .never, fault 0x11 3 (headOf s p.eng) 0),
   (space ≠ .freeze, freezeCore s ⟨5, 0, p.eng, 0, s.gtc, none, recUse s p.job, p.job.held, chanOf p.job.cmd⟩)]

/-- The checks that do not depend on the command's own operands pass: its slots, the port budget, and the capacity of
the core. -/
def Admitted (s : State) (j : Job) : Prop :=
  (cmdHdr j.cmd).sset.val < 12 ∧ (slotFails s (cmdHdr j.cmd).schk = true → s.core.csr.schmode = 2) ∧ portOk s j = true ∧
    room s (recUse s j) j.held (chanOf j.cmd) = .ok

end Sys2Proof.Claims

/-- A command at its issue cycle stops at the first check that fails, with that check's fault or freeze and none of
its effect; when none fails its engine takes it up, and its own effects at issue follow (02 R48, R50, 01 R16 to R22,
R26, R28, 04 R111). -/
def Obligations.CommandsIssueAfterTheirChecks : Prop :=
  ∀ (s : Machine.State) (p : Machine.Prep), let cs := issueChecks s p
    ((∀ x ∈ cs, x.1) → Machine.issue s p = .next (p.eff (issued s p.eng p.job p.occ p.pop) (begun s p.eng p.job))) ∧
    (∀ (k : Nat) (q : Prop) (t : Machine.State), cs[k]? = some (q, t) → ¬ q →
      (∀ (j : Nat) (x : Prop × Machine.State), j < k → cs[j]? = some x → x.1) → Machine.issue s p = .next t)

namespace Sys2Proof.Claims
open Machine

/-- The type classes of 20 R365: A every element type, F floating, I integer. -/
def tyA (t : Fin 16) : Prop := t ≠ 6 ∧ t ≠ 15
def tyF (t : Fin 16) : Prop := t.val < 6
def tyI (t : Fin 16) : Prop := 7 ≤ t.val ∧ t.val ≤ 14

/-- The vector commands that work on rows and masks of the window, each with what its operands must satisfy (20 R369
to R386). -/
def rowCommands (h : Hdr) (vd va vb : Fin 64) (m mk mi mj part op pred : Fin 8) (t t2 : Fin 16) (rm : Fin 4) (f f2 : Bool)
    (count : Fin 64) (off : Fin 32768) (val : Fin 16384) : List (Instr × Prop) :=
  [(.vmov h vd va m t f, f = true ∨ tyA t), (.vadd h vd va vb m t rm f, tyA t), (.vsub h vd va vb m t rm f, tyA t),
   (.vmul h vd va vb m t rm, tyA t), (.vfma h vd va vb m t rm, tyA t), (.vmin h vd va vb m t, tyA t),
   (.vmax h vd va vb m t, tyA t), (.vabs h vd va m t, tyA t), (.vneg h vd va m t, tyA t)] ++
  [(.vdiv h vd va vb m t rm, tyF t), (.vsqrt h vd va m t rm, tyF t), (.vrsq h vd va m t rm, tyF t),
   (.vrcp h vd va m t rm, tyF t), (.vexp2 h vd va m t rm, tyF t), (.vlog2 h vd va m t rm, tyF t),
   (.vcvt h vd va m t rm t2 part, tyA t ∧ tyA t2 ∧
      part.val < max (tySize t.val) (tySize t2.val) / min (tySize t.val) (tySize t2.val))] ++
  [(.vand h vd va vb m t, tyI t), (.vor h vd va vb m t, tyI t), (.vxor h vd va vb m t, tyI t),
   (.vshl h vd va vb m t count f, tyI t), (.vshr h vd va vb m t count f, tyI t), (.vshra h vd va vb m t count f, tyI t),
   (.vpopc h vd va m t, tyI t), (.vctz h vd va m t, tyI t), (.vclmul h vd va vb m t f, tyI t),
   (.vpxor h vd va vb m t f f2, tyI t), (.vpsum h vd va m t rm, tyA t)] ++
  [(.vred h vd va m t rm op, tyA t ∧ (op.val ≤ 2 ∨ (op.val ≤ 5 ∧ tyI t))),
   (.vcmp h mk va vb m t pred, tyA t ∧ mk ≠ 0 ∧ (pred.val ≤ 5 ∨ tyF t)), (.vsel h vd va vb m t, tyA t),
   (.vbcast h vd va m t f val, tyA t ∧ (f = true ∨ val.val % 128 < 128 / tySize t.val)), (.viota h vd m t f, tyI t),
   (.vperm h vd va vb m t, tyI t), (.vcompr h vd va m t f, tyA t), (.vld h vd m t off, tyA t),
   (.vmtest h mk va vb m t f, mk ≠ 0 ∧ (f = true ∨ tyI t)), (.mand h mk mi mj f, mk ≠ 0), (.mor h mk mi mj f, mk ≠ 0),
   (.mnot h mk mi, mk ≠ 0), (.mpop h vd mi m t, tyI t)]

/-- The NOPs and hints of the engines, each with its engine (02 R49, R50). -/
def engineNops (h : Hdr) (e : Eng) (k : Fin 16) : List (Eng × Instr × Instr) :=
  [(.copy, .cnop h, .cnop h), (.matrix, .mnop h, .mnop h), (.vector, .vnop h, .vnop h),
   (e, .engineHint e h k, .engineHint e (if 12 ≤ h.sset.val then { h with sset := 0 } else h) k)]

end Sys2Proof.Claims

/-- Every vector command issues with occupancy 1 when its operands are legal, and is illegal else, VST, the global
accesses and VWIN too; a global access
checks the capability of its g register over its active lanes and keeps its snapshot; VWIN moves the window; the
engines' NOPs and hints, and QLD, only take their place in their rings (20 R365 to R386, 19 R354, R359, R362, 02 R49,
R50, 07 R174, R175). -/
def Obligations.VectorCommandsIssue : Prop :=
  ∀ (s : Machine.State) (h : Hdr) (vd va vb : Fin 64) (m mk mi mj part op pred : Fin 8) (t t2 : Fin 16) (rm : Fin 4) (f f2 : Bool)
    (count : Fin 64) (off : Fin 32768) (val : Fin 16384) (e : Eng) (k wt : Fin 16) (wr : Fin 128) (ws : Fin 8) (g : Fin 4)
    (goff : Fin 4096) (mr : Fin 8) (qd : Fin 16) (qoff : Fin 65536) (o : Option Machine.ObjEnt),
    let plain (i : Instr) := Machine.job0 .vector i (Machine.snap0 s) 1
    let illegal := Machine.raiseEFault s ⟨0x10, 0, .vector, headOf s .vector, 0, 0⟩
    (∀ x ∈ rowCommands h vd va vb m mk mi mj part op pred t t2 rm f f2 count off val,
      (x.2 → Admitted s (plain x.1) → Machine.exec x.1 s = .next (issued s .vector (plain x.1) 1 false)) ∧
      (¬ x.2 → Machine.exec x.1 s = .next illegal)) ∧
    (∀ x ∈ engineNops h e k, let j := Machine.job0 x.1 x.2.2 (Machine.snap0 s) 0
      Admitted s j → Machine.exec x.2.1 s = .next (issued s x.1 j 1 false)) ∧
    (let j := Machine.job0 .copy (.qld h qd qoff) (Machine.snap0 s) 1
     Admitted s j → Machine.exec (.qld h qd qoff) s = .next (issued s .copy j 1 false)) ∧
    (let j := Machine.job0 .vector (.vwin h wt f wr ws) (Machine.snap0 s) 0
     wr.val ≤ (if f then 120 else 64) → Admitted s j →
       let u := issued s .vector j 1 false
       Machine.exec (.vwin h wt f wr ws) s = .next (withEng u { u.core.eng with
         vwst := BitVec.ofNat 64 (wt.val + (if f then 16 else 0) + wr.val * 2 ^ 8 + ws.val * 2 ^ 16) })) ∧
    ((if f then 120 else 64) < wr.val → Machine.exec (.vwin h wt f wr ws) s = .next illegal) ∧
    (¬ tyA t → Machine.exec (.vst h va m t off) s = .next illegal) ∧
    (let j := { plain (.vst h va m t off) with buf := bytesOf (Machine.maskBits s.core.eng m).toNat 16 }
     tyA t → Admitted s j → Machine.exec (.vst h va m t off) s = .next (issued s .vector j 1 false)) ∧
    (let ctl := s.core.eng.eff.gctl[g]
     let creg := ctl.toNat / 2 ^ 35 % 16
     let space := ctl.toNat / 2 ^ 43 % 16
     let cls := ctl.toNat / 2 ^ 47 % 8
     let cap := s.core.seq.c[Fin.ofNat 16 creg]
     let snap := { Machine.snap0 s with gctl := ctl, gbase := s.core.eng.eff.gbase[g], capS := cap }
     let check (i : Instr) (need : BitVec 8) :=
       Machine.gCheck s (Machine.job0 .vector i snap 1) cap creg m t.val goff need space = .ok o
     let job (i : Instr) := Machine.job0 .vector i { snap with objS := o } 1
     let seen (u : Machine.State) := match o with
       | some o => Machine.touchObj u o.oid (cap.bits.getLsbD 103)
       | none => u
     let legal := tyA t ∧ 2 ≤ space ∧ space ≤ 4 ∧ Machine.clsAdmits cls space = true
     (¬ legal → ∀ i ∈ [Instr.vldg h vd g m t goff mr, .vstg h va g m t goff], Machine.exec i s = .next illegal) ∧
     (legal →
       (check (.vldg h vd g m t goff mr) 1 → Admitted s (job (.vldg h vd g m t goff mr)) →
         Machine.exec (.vldg h vd g m t goff mr) s = .next (seen (issued s .vector (job (.vldg h vd g m t goff mr)) 1 false))) ∧
       (check (.vstg h va g m t goff) 2 → Admitted s (job (.vstg h va g m t goff)) →
         Machine.exec (.vstg h va g m t goff) s = .next (Machine.onJob (seen (issued s .vector (job (.vstg h va g m t goff)) 1 false))
           (s.core.eng.nextJob + 1)
           (fun j => { j with minDone := j.iss + Machine.clsLat cls (ctl.toNat / 2 ^ 50 % 64) + 1 })))))

namespace Sys2Proof.Claims
open Machine

/-- Tile `t` changed. -/
def withTile (s : State) (t : Fin 16) (f : Tile → Tile) : State :=
  withEng s { s.core.eng with tiles := s.core.eng.tiles.set t (f s.core.eng.tiles[t]) }

/-- The multiplies, each with the cycles before its rows and the read steps that it makes besides theirs: MMAZ reads
its bitmap in the cycle of its first row (15 R317, R328, R330, 16 R342). -/
def multiplies (h : Hdr) (tile : Fin 16) (spa : Fin 16384) (we : Fin 128) (lbl : Fin 256) (nrow : Fin 128) (f : Word) :
    List (Instr × Nat × Nat) :=
  [(.mma h tile spa we lbl nrow, 0, 0), (.mmaz h tile spa we lbl nrow, 0, 1), (.mmat h tile spa we lbl nrow, mmatT f, mmatT f)]

end Sys2Proof.Claims

/-- The matrix commands issue when their state checks pass. A multiply needs a legal triple of types, a weight entry
of its B type and rows within 128; it takes its label's slot, or a free one, or one that a spill frees, clears a slot
newly taken and gives the tile its accumulator type. ACCZ clears a tile and its slots, SLMAP and SLCLR move labels,
SLSPILL and SLFILL move a slot's rows to and from its record, BIND and the drains read rows, and WLOAD, WCONST and
WFREE change a weight entry (15 R315 to R331, 16 R334 to R350, 04 R96). The model's choices: what BIND fixes at its
issue (log entry 46), the triples of types (15), DSTAT.SSUB as a CSRR of DRAINQ's own cycle sees it (75). -/
def Obligations.MatrixCommandsIssue : Prop :=
  ∀ (s : Machine.State) (h : Hdr) (tile : Fin 16) (spa : Fin 16384) (we : Fin 128) (lbl : Fin 256) (nrow : Fin 128) (ty : Fin 16)
    (ord : Fin 4) (cb kb slot : Fin 8) (acc : Bool) (cstr : Fin 256) (f : Word) (a : Machine.Alloc) (o : Machine.ObjEnt)
    (sl : Fin 8),
    let tl := s.core.eng.tiles[tile]
    let sn := Machine.snap0 s
    let n := if nrow.val = 0 then 128 else nrow.val
    let scc := s.core.csr.scc
    let id := s.core.eng.nextJob + 1
    let job (i : Instr) (sn : Machine.Snap) (k : Nat) := Machine.job0 .matrix i sn k
    let go (j : Machine.Job) (occ : Nat) (pop : Bool) := issued s .matrix j occ pop
    let own (j : Machine.Job) := begun s .matrix j
    let fits (f : Word) := (tl.ttype = 15 ∨ tl.ttype.val = Machine.fwTC f) ∧ Machine.fwRow0 f + n ≤ 128
    let order := 16 * 2 ^ ord.val
    (Machine.fmtHead s = some f →
      (Machine.weightType (Machine.fwTB f) = true →
        let k := Machine.wloadSteps (Machine.fwTB f)
        let j := job (.wload h spa we) sn k
        Admitted s j → Machine.exec (.wload h spa we) s = .next (go j k true)) ∧
      (Machine.tripleOk f = true → s.core.eng.wtag[we] = some (Fin.ofNat 16 (Machine.fwTB f)) → fits f →
        Machine.allocate s tile lbl f = .ok a → ∀ x ∈ multiplies h tile spa we lbl nrow f,
          let j := job x.1 { sn with slot := a.slot } (x.2.2 + n)
          Admitted s j → Machine.exec x.1 s = .next (Machine.onJob
            (withTile (Machine.takeAlloc (go j (x.2.1 + n) true) (own j) tile lbl a) tile
              (fun t => { t with ttype := Fin.ofNat 16 (Machine.fwTC f) }))
            id (fun j => { j with minDone := j.iss + x.2.1 + Machine.mmaD f + n - 1 }))) ∧
      (fits f → (Machine.fwTC f = 0 ∨ Machine.fwTC f = 1 ∨ Machine.fwTC f = 9) → Machine.fwOT f ≠ 6 → Machine.fwOT f ≠ 15 →
        let j := job (.drain h tile spa nrow) sn n
        Admitted s j → Machine.exec (.drain h tile spa nrow) s = .next (go j n true)) ∧
      (fits f → (Machine.fwTC f = 0 ∨ Machine.fwTC f = 1) → n % 2 = 0 →
        let j := job (.drainq h tile spa nrow) sn n
        Admitted s j → Machine.exec (.drainq h tile spa nrow) s = .next (
          let u := go j n true
          if (Machine.glqSuper (Machine.fwS f)).2 then
            { u with core := { u.core with csr := { u.core.csr with dstat := u.core.csr.dstat ||| 1 } } } else u))) ∧
    (Machine.weightType ty.val = true → ty ≠ 6 → kb.val * Machine.weightK ty.val < order → cb.val * Machine.weightN ty.val < order →
      let j := job (.wconst h ty we ord cb kb) sn 0
      Admitted s j → Machine.exec (.wconst h ty we ord cb kb) s = .next (Machine.addPend (go j 1 false) (own j) false scc 0 0
        (.weight we (Machine.sylvester ty.val order kb.val cb.val) [] ty))) ∧
    (let j := job (.wfree h we) sn 0
     Admitted s j → Machine.exec (.wfree h we) s =
       .next (Machine.addPend (go j 1 false) (own j) false scc 0 0 (.weight we [] [] 15))) ∧
    (let j := job (.accz h tile) sn 0
     Admitted s j → Machine.exec (.accz h tile) s = .next (withTile
       (Machine.addPend (go j 1 false) (own j) false scc 0 0 (.zero [(0x20000 * tile.val, 0x20000)])) tile (fun _ => Machine.Tile.start))) ∧
    (let j := job (.slmap h tile slot lbl) sn 0
     Admitted s j →
       (tl.slots[slot] = some lbl → Machine.exec (.slmap h tile slot lbl) s =
         .next (Machine.takeAlloc (go j 1 false) (own j) tile lbl (.have slot))) ∧
       (tl.slots[slot] = none → Machine.slotOf tl lbl = none → Machine.isSpilled tl lbl = false →
         Machine.exec (.slmap h tile slot lbl) s = .next (Machine.takeAlloc (go j 1 false) (own j) tile lbl (.take slot)))) ∧
    (let j := job (.slclr h tile acc lbl) sn 0
     Admitted s j → Machine.exec (.slclr h tile acc lbl) s = .next (withTile (go j 1 false) tile (fun t =>
       if acc then { t with slots := Vector.replicate 8 none, use := [], spilled := 0 }
       else Machine.setSpilled (match Machine.slotOf t lbl with
         | some q => Machine.freeOne t q
         | none => t) lbl false))) ∧
    (let j := job (.slspill h tile lbl) sn 0
     Admitted s j → Machine.slotOf tl lbl = some sl → Machine.slotBusy s tile sl = false → Machine.spillRecord s tile lbl 2 = .ok o →
       Machine.exec (.slspill h tile lbl) s = .next (Machine.spillSlot (go j 1 false) (own j) tile sl lbl o)) ∧
    (let j := job (.slfill h tile lbl) { sn with slot := sl, objX := some o } 1
     Admitted s j → Machine.isSpilled tl lbl = true → Machine.freeSlot tl = some sl → Machine.spillRecord s tile lbl 1 = .ok o →
       Machine.exec (.slfill h tile lbl) s = .next (Machine.onJob
         (withTile (Machine.clearSlot (Machine.touchSpill (go j 1 false) (own j) o) (own j) tile sl) tile (fun t => Machine.setSpilled (Machine.mapSlot t sl lbl) lbl false))
         id (fun j => { j with minDone := j.iss + Machine.fillLat j.snap.mxspill + 255 }))) ∧
    (let labels := Machine.sortBy (fun (p : Fin 8 × Fin 256) => p.2.val)
       ((List.finRange 8).filterMap (fun i => (tl.slots[i]).map (fun l => (i, l))))
     let j := job (.bind h tile spa slot acc cstr nrow) { sn with labels := labels, ttype := tl.ttype } n
     cstr ≠ 0 → tl.ttype ≠ 15 → tl.slots[slot] = none → Admitted s j →
       Machine.exec (.bind h tile spa slot acc cstr nrow) s = .next (go j n false))

namespace Sys2Proof.Claims
open Machine

/-- The copies with their snapshot, their read steps, and what their descriptors and capabilities must satisfy (07
R169 to R187, 06 R153 to R160). -/
def copies (s : State) (h : Hdr) (ch : Fin 4) (qd qs qx : Fin 16) (bc : Bool) (k : Fin 65536) (e0 : Fin 4096) (kcap : Fin 512)
    (coff : Fin 524288) (z : Bool) (rm : Fin 4) (dcls : Fin 8) : List (Instr × Snap × Nat × Prop) :=
  let q := s.core.eng.qs
  let d := strm q[qd]
  let t := strm q[qs]
  let x := strm q[qx]
  let n := copySnap s qd qs qx
  let n0 := copySnap s qd qs 0
  let nf := copySnap s qd qd 0
  let link (d : Strm) := strm q[Fin.ofNat 16 d.lq]
  let job (i : Instr) (n : Snap) := job0 .copy i n 0
  let reads := checkStrm s t n.capS permR = none
  let writes := checkStrm s d n.capD permW = none
  let lists := checkStrm s x n.capX permW = none
  let elements (t : Strm) (c : Cap) (need : BitVec 8) := checkStrm s t c need false = none
  let rows (i : Instr) : Nat := let j := job i n; if rowCount x = 0 then 1 else rowCount x * rowR j + 2
  let steps (i : Instr) (len : Nat) : Nat := max 1 (ceilDiv len (copyW (job i n)))
  let linked (i : Instr) (n : Snap) : Nat := linkLag (job i n) + max 1 (ceilDiv (strmLen d) (copyW (job i n)))
  let tops (i : Instr) : Nat := steps i (strmLen t)
  let cpy : Instr := .cpy h ch qd qs bc
  let fill : Instr := .fill h ch qd bc coff
  let gather : Instr := .gather h ch qd qs qx bc
  let scatter : Instr := .scatter h ch qd qs qx bc
  let scatadd : Instr := .scatadd h ch qd qs qx bc
  let topkr : Instr := .topkr h ch qd qs qx bc false k
  let topkc : Instr := .topkc h ch qd qs qx bc k
  let topkcTab : Instr := .topkcTab h ch qd qs qx bc e0 kcap
  let compact : Instr := .compact h ch qd qs qx bc coff
  let expand : Instr := .expand h ch qd qs qx bc z
  let accrd : Instr := .accrd h ch qd qs bc rm
  let accwr : Instr := .accwr h ch qd qs bc rm z
  let dscan : Instr := .dscan h ch qd qs bc
  let dskip : Instr := .dskip h ch qd qs qx bc dcls coff
  let acc (i : Instr) : Nat := max 1 (ceilDiv (strmLen t / max 1 (tySize t.ty)) (max 1 (accE (job i n0))))
  [(cpy, n0, linked cpy n0,
     strmOk d false true = true ∧ strmOk t false true = true ∧ linkOk d (link d) qd.val = true ∧ linkOk t (link t) qs.val = true ∧
     strmLen d = strmLen t ∧ reads ∧ writes),
   (fill, nf, linked fill nf,
     strmOk d false true = true ∧ linkOk d (link d) qd.val = true ∧ writes)] ++
  [(gather, { n with objS := none }, rows gather, rowsOk t x d = true ∧ elements t n.capS permR ∧ writes),
   (scatter, { n with objD := none }, rows scatter, rowsOk d x t = true ∧ reads ∧ elements d n.capD permW),
   (scatadd, { n with objD := none }, rows scatadd,
     rowsOk d x t = true ∧ d.ty = t.ty ∧ addable d.ty = true ∧ d.cnt0 % max 1 (tySize d.ty) = 0 ∧ reads ∧
       elements d n.capD (permR ||| permW))] ++
  [(topkr, { n with limits := [] }, tops topkr, topOk topkr d t x = true ∧ reads ∧ writes ∧ lists),
   (topkc, { n with limits := [] }, tops topkc, topOk topkc d t x = true ∧ reads ∧ writes ∧ lists),
   (topkcTab, { n with limits := tableLimits s (job topkcTab n) e0.val (topkK topkcTab) }, tops topkcTab,
     topOk topkcTab d t x = true ∧ e0.val + t.cnt0 / max 1 (tySize t.ty) ≤ 4096 ∧ reads ∧ writes ∧ lists)] ++
  [(compact, n, steps compact (strmLen t), packOk (job compact n) = true ∧ reads ∧ writes),
   (expand, n, steps expand (strmLen d), packOk (job expand n) = true ∧ reads ∧ writes),
   (accrd, n0, acc accrd, accOk t d = true ∧ reads ∧ writes), (accwr, n0, acc accwr, accOk d t = true ∧ reads ∧ writes)] ++
  [(dscan, n0, max 1 (ceilDiv t.cnt0 2), digestOk s t n.capS = true ∧ strmOk d false false = true ∧ d.space = 0 ∧
     strmLen d = 32 * t.cnt0 ∧ checkDigest s t n.capS permQ = none),
   (dskip, n, (t.cnt0 - 1) * (n.objS.map skipR).getD 1 + 1, digestOk s t n.capS = true ∧ strmOk d false false = true ∧
     strmOk x false false = true ∧ x.space = 0 ∧ 8 + 4 * t.cnt0 ≤ strmLen x ∧ 2 ≤ dcls.val ∧
     (n.objS = none ∨ clsAdmits dcls.val (streamSpace n.objS) = true) ∧ predOk s n.objS coff.val = true ∧
     checkDigest s t n.capS (permQ ||| permR) = none ∧ writes)]

end Sys2Proof.Claims

/-- A copy issues in one cycle when its descriptors, their capabilities and a named barrier pass: it keeps a snapshot
of its descriptors, and its base objects enter the translation cache. PREFETCH fills the lines of its range, of a
DIGEST range those of the blocks that are resident, and with .res asks for the rest; EVICT writes its lines back, and
again when it completes, where with .inv it drops them, and does not complete while a channel holds a write-back; CHKARM
takes its place for the end of its cycle (07 R169 to R190, 06 R153 to R164, 04 R103, 08 R192). -/
def Obligations.CopyCommandsIssue : Prop :=
  ∀ (s : Machine.State) (h : Hdr) (ch : Fin 4) (qd qs qx : Fin 16) (bc : Bool) (k : Fin 65536) (e0 : Fin 4096) (kcap : Fin 512)
    (coff : Fin 524288) (z clr : Bool) (rm kc : Fin 4) (dcls : Fin 8),
    let d := Machine.strm s.core.eng.qs[qd]
    let t := Machine.strm s.core.eng.qs[qs]
    let n := Machine.copySnap s qs qs 0
    let go (j : Machine.Job) := issued s .copy j 1 false
    let own (j : Machine.Job) := begun s .copy j
    let one (i : Instr) := { Machine.job0 .copy i n 0 with npos := 0 }
    (∀ x ∈ copies s h ch qd qs qx bc k e0 kcap coff z rm dcls,
      let j := Machine.job0 .copy x.1 x.2.1 x.2.2.1
      x.2.2.2 → (bc = true → d.bval = true ∧ Machine.checkBar s j = none) → Admitted s j →
        Machine.exec x.1 s = .next (Machine.touchEnds (go j) (own j))) ∧
    (Machine.strmOk t true false = true → ((t.space = 3 ∨ t.space = 4) ∧ Machine.checkStrm s t n.capS 1 = none) ∨
        (t.space = 5 ∧ Machine.checkDigest s t n.capS 8 = none) →
      ∀ o, n.objS = some o →
        (let j := one (.evict h qs z)
         let u := Machine.touchRange (Machine.touchEnds (go j) (own j)) (own j) qs
         let mine (l : Machine.CLine) : Bool := (Machine.rangeLines t (Machine.objNow u o)).contains (l.home, l.gran) && !Machine.backHeld u.base l
         let v := (u.base.lines.filter mine).foldl Machine.lineBack u
         let lines := v.base.lines.map (fun l => if mine l then { l with dirty := false } else l)
         (Admitted s j → Machine.exec (.evict h qs z) s = .next (Machine.onJob { v with base := { v.base with lines := lines } }
           (s.core.eng.nextJob + 1)
           (fun j => { j with minDone := s.core.csr.scc + Machine.strmLat t + Machine.ceilDiv (Machine.strmLen t) 64 }))) ∧
         ∀ (u : Machine.State) (q : Machine.Job), q.cmd = j.cmd → q.snap = n →
           (let held := u.base.lines.any (fun l =>
              (Machine.rangeLines t (Machine.objNow u o)).contains (l.home, l.gran) && Machine.backHeld u.base l)
            Machine.evictHeld u q = held ∧ (held = false → ∀ l ∈ (Machine.completeJob u q).base.lines,
              (Machine.rangeLines t (Machine.objNow u o)).contains (l.home, l.gran) = true → z = false ∧ l.dirty = false))) ∧
        (let j := one (.prefetch h qs z)
         let u := Machine.touchRange (Machine.touchEnds (go j) (own j)) (own j) qs
         Admitted s j →
           let p := u.core.csr.pid
           let here (b : Nat) : Bool := (Machine.nonResident o (b * Machine.dcfgB o.dcfg)
             (min (Machine.dcfgB o.dcfg) (o.len - b * Machine.dcfgB o.dcfg))).isNone
           let v := if t.space = 5 then ((Machine.rangeBlocks t o).filter here).foldl (fun u b =>
               (Machine.digLines (Machine.serve u (Machine.digHome o b) 0 16 p .request none) o b u.core.id p false).1) u
             else (Machine.rangeLines t o).foldl (fun u l => (Machine.wayRead (Machine.serve u l.1 0 256 p .request none) l.1 1
               (Machine.chanAt l.1 (l.2 * 256)) (l.2 * 256) 256 u.core.id p).1) u
           Machine.exec (.prefetch h qs z) s = .next (if z then Machine.askResident v (own j) o else v))) ∧
    (let j := one (.chkarm h qs z clr kc)
     (z = true ∨ (Machine.strmOk t false false = true ∧ t.space ≤ 1 ∧ t.cnt1 = 1 ∧ t.cnt2 = 1 ∧
       t.cnt0 ≤ (if t.space = 0 then 0x400000 else 0x200000))) → Admitted s j →
       Machine.exec (.chkarm h qs z clr kc) s = .next (go j))

/-! ## Events of the engines -/

namespace Sys2Proof.Claims
open Machine

/-- The state that `exec` answers, or `s` itself if it answers none. -/
def after (i : Instr) (s : State) : State :=
  match exec i s with
  | .next t => t
  | _ => s

/-- The events that happen at a core of their own choice mean there what they mean at the current core (04 R110). -/
def SameElsewhere (s : State) (i : Nat → Instr) : Prop :=
  ∀ k, k ≠ s.core.id → (∃ c ∈ s.others, c.id = k) → exec (i k) s = .next (atCore s k (after (i k)))

/-- Job `id` changed. -/
def withJob (s : State) (id : Nat) (f : Job → Job) : State :=
  withEng s { s.core.eng with jobs := s.core.eng.jobs.map (fun j => if j.id = id then f j else j) }

/-- `s` with the engine fault `f`: the core freezes with cause 6, and in kernel mode EPEND is set; a fault that is
pending already stands, but for a later engine's fault of the same cycle (04 R99, R110). -/
def faulted (s : State) (f : EFault) : State :=
  let t := { s with core := { s.core with
    eng := { s.core.eng with efault := some f, freeze := some ⟨6, 0, f.eng, f.step, s.gtc, none, 0, 0, none⟩ },
    csr := { s.core.csr with epend := s.core.csr.epend || s.core.csr.mode } } }
  match s.core.eng.efault with
  | none => t
  | some old => if f.eng.code < old.eng.code ∧ s.core.eng.freeze.map (fun z => z.since) = some s.gtc then t else s

/-- `s` with the core frozen with a cause, if it is not frozen. -/
def frozen (s : State) (cause : Nat) (slot : Fin 16) (e : Eng) (step : Nat) (job : Option Nat) : State :=
  if s.core.eng.freeze = none then
    withEng s { s.core.eng with freeze := some ⟨cause, slot, e, step, s.gtc, job, 0, 0, none⟩ }
  else s

/-- The message to the core about report `r`, on VC3 from the home of its offset (09 R211). -/
def homeSays (s : State) (r : Report) : State :=
  match (findObj s r.oid).bind (fun o => (paOf o r.off).map (homeOf o)) with
  | some g => tellCore s g s.core.id s.core.csr.pid
  | none => s

/-- `s` with report `r` sent, and the core frozen with its cause (01 R25, 09 R211). -/
def told (s : State) (r : Report) : State :=
  let s := homeSays s r
  frozen (withEng s { s.core.eng with reports := s.core.eng.reports.map (fun q => if q = r then { r with sent := true } else q) })
    r.cause 0 r.eng r.step (if r.job = 0 then none else some r.job)

/-- `s` after job `j` has formed its next step, as far as its data is there; runs that need more than the 512 records
freeze the core, or are an unbounded wait when late data cannot free them (01 R25, R26, 07 R171). -/
def formed (s : State) (j : Job) : State :=
  match stepForm s j j.formed with
  | .stay t => t
  | .done t =>
    let t := withJob t j.id (fun k => { k with formed := j.formed + 1 })
    let excess := recsNow t - 512
    let step := stepCycle j j.formed
    if excess = 0 then t
    else if recsNow t - lateRecs t < excess then faulted t ⟨0x11, 3, j.eng, j.entry.toNat, step, 0⟩
    else frozen t 5 0 j.eng step (some j.id)

/-- `s` after a timed write `w` of `p`, with `rest` of it still to come and `n` port bytes used late. -/
def performed (s : State) (p : Pend) (w : PWrite) (len n : Nat) (rest : List Pend) : State :=
  let t := withJob (applyWrite s p.eng w) p.job (fun j => { j with perf := perfAdd j.perf p.pos len })
  withEng t { t.core.eng with pends := t.core.eng.pends.erase p ++ rest, lateUse := t.core.eng.lateUse + n }

end Sys2Proof.Claims

/-- A ring whose published entries are used up at the end of its last command's occupancy goes idle. A due read step
of an unfrozen core makes its channel check, which a miss turns into a freeze or a schedule fault, then its early-read
checks, its reads of the core's stores and, when no earlier step of its command still waits for data, what it forms of
them (01 R10, R18 to R26, R28, 04 R110, 07 R171). That CAUSE.STEP is the cycle offset of
the read step is the model's choice (log entry 29). -/
def Obligations.RingsGoIdleAndReadStepsRun : Prop :=
  ∀ (s : Machine.State) (e : Eng),
    (let r := s.core.eng.rings[Machine.engIdx e]
     r.en = true → r.idle = false → r.vis = r.head → r.nextIss ≤ s.core.csr.scc →
      Machine.exec (.ringIdle e) s = .next (withRing s e { r with idle := true })) ∧
    (∀ j : Machine.Job, s.core.eng.freeze = none → Machine.dueJob s = some j →
      let reads := Machine.nextReads s j
      let slot := (Machine.cmdHdr j.cmd).schk
      let missed := Machine.chanFails s j reads = true ∧ s.core.csr.schmode ≠ 2
      let u := Machine.checkEarly s j.eng (reads ++ Machine.matEarly j j.step)
      let step := Machine.stepCycle j j.step
      let v := withJob (Machine.stepRead u j j.step) j.id (fun k => { k with step := j.step + 1 })
      (missed → s.core.csr.schmode ≠ 1 → Machine.exec .engineReadStep s =
        .next (faulted s ⟨0x11, 1, j.eng, j.entry.toNat, step, BitVec.ofNat 64 slot.val⟩)) ∧
      (missed → s.core.csr.schmode = 1 → Machine.exec .engineReadStep s = .next (
        if Machine.unbounded s (Machine.chanEarlier s j) (some reads) then faulted s ⟨0x11, 3, j.eng, j.entry.toNat, step, 0⟩
        else frozen s 1 slot j.eng step (some j.id))) ∧
      (¬ missed → ∀ k, Machine.findJob v j.id = some k →
        Machine.exec .engineReadStep s = .next (if k.stop = none ∧ k.formed = j.step then formed v k else v)))

/-- The next timed write performs whole, or, late or frozen and wider than the ports left in the cycle, in part; the
next engine write reaches its home as one transaction, a write into a live object raising the barrier-clobber fault
once for a command; data that the world held back arrives, and a derived byte performs its stage offset later (07
R173). A freeze whose cause has ended ends at the unchanged SCC, and one that lasts past its limit becomes a schedule
fault; an engine fault traps the sequencer in tile mode; a stalled instruction is given up, a BARRW in its wait
leaving its arrival to the lease (01 R21 to R26, 04 R97 to R99, R110, 09 R215, 12 R280). The model's choices: that an
arrival marks every write that overlaps it (log entry 54), the clobber once for a command (55), the arrival that an
engine fault leaves to the lease (61). -/
def Obligations.EngineWritesLandAndFreezesEnd : Prop :=
  ∀ (s : Machine.State),
    (∀ p : Machine.Pend, Machine.nextPerform s (Machine.nextReads s) = some p →
      let late := Machine.standing s = false ∧ p.pcyc < s.core.csr.scc
      let w := Machine.pendSpad p
      let left := Machine.portLeft s
      (¬ late → Machine.exec .timedWritePerform s = .next (performed s p p.w p.len 0 [])) ∧
      (late → w ≤ left → Machine.exec .timedWritePerform s = .next (performed s p p.w p.len w [])) ∧
      (late → 0 < left → left < p.len → ∀ ws : List (Int × Byte), p.w = .bytes .spad ws → left < ws.length →
        Machine.exec .timedWritePerform s = .next (performed s p (.bytes .spad (ws.take left)) left left
          [{ p with pos := p.pos + left, len := p.len - left, w := .bytes .spad (ws.drop left) }])) ∧
      (late → left < w → ∀ ty rm hs, p.w = .accum .spad ty rm hs →
        let z := max 1 (Machine.tySize ty.val)
        let m := left / z
        0 < m → m * z < p.len → Machine.exec .timedWritePerform s = .next (performed s p (.accum .spad ty rm (hs.take m)) (m * z)
          (((hs.take m).map (fun h => h.1.length)).sum)
          [{ p with pos := p.pos + m * z, len := p.len - m * z, w := .accum .spad ty rm (hs.drop m) }]))) ∧
    (∀ t : Machine.Transit, Machine.nextTransit s = some t →
      let u := withEng s { s.core.eng with transit := s.core.eng.transit.erase t }
      let v := (Machine.landWrite u t).1
      let told := s.core.eng.efault ≠ none ∨ ∃ j, Machine.findJob s t.job = some j ∧ j.clob = true
      let there (x : Machine.State) := withJob x t.job (fun j => { j with perf := Machine.perfAdd j.perf t.pos t.len })
      ((Machine.landWrite u t).2 = none ∨ told → Machine.exec .homeTransaction s = .next (there v)) ∧
      (∀ off, (Machine.landWrite u t).2 = some off → ¬ told → Machine.exec .homeTransaction s = .next (there
        (withJob (faulted v ⟨0x16, 0, t.eng, t.entry.toNat, t.step, BitVec.ofNat 64 off⟩) t.job (fun j => { j with clob := true }))))) ∧
    (∀ (e : Eng) (entry : BitVec 16) (lo hi : Nat),
      let mine (id : Nat) : Prop := ∃ j, Machine.findJob s id = some j ∧ j.eng = e ∧ j.entry = entry
      let at0 (pos len : Nat) : Prop := pos ≤ hi ∧ lo < pos + max 1 len
      ∃ t, Machine.exec (.dataArrival s.core.id e entry lo hi) s = .next t ∧
        (∀ h, h ∈ t.holds ↔ h ∈ s.holds ∧ ¬ (h.core = s.core.id ∧ h.eng = e ∧ h.entry = entry ∧ h.lo ≤ hi ∧ lo ≤ h.hi)) ∧
        t.core.eng.pends.length = s.core.eng.pends.length ∧
        (∀ (k : Nat) (p : Machine.Pend), s.core.eng.pends[k]? = some p →
          let comes := mine p.job ∧ at0 p.pos p.len ∧ p.arrived = false ∧ p.need = false
          (comes → t.core.eng.pends[k]? = some { p with arrived := true, ready := s.gtc + p.lag }) ∧
          (¬ comes → t.core.eng.pends[k]? = some p)) ∧
        (∀ (k : Nat) (p : Machine.Transit), s.core.eng.transit[k]? = some p →
          let comes := p.eng = e ∧ p.entry = entry ∧ at0 p.pos p.len ∧ p.need = false
          (comes → t.core.eng.transit[k]? = some { p with arrived := true }) ∧ (¬ comes → t.core.eng.transit[k]? = some p)) ∧
        t = withEng { s with holds := t.holds } { s.core.eng with pends := t.core.eng.pends, transit := t.core.eng.transit }) ∧
    (∀ f : Machine.Freeze, s.core.eng.freeze = some f →
      (Machine.freezeEnds s f = true → Machine.exec .freezeResume s = .next (withEng s { s.core.eng with freeze := none })) ∧
      (Machine.freezeEnds s f = false → Machine.exec .freezeResume s = .next s) ∧
      (Machine.freezeEnds s f = false → f.cause ∈ [1, 2, 5] → f.since + 2 ^ 24 ≤ s.gtc →
        Machine.exec .freezeTimeout s = .next (faulted s ⟨0x11, 4, f.eng, Machine.freezeEntry s f, f.step, 0⟩))) ∧
    (∀ f : Machine.EFault, s.core.eng.efault = some f →
      (s.core.csr.mode = true → Machine.exec .engineFaultTrap s = .next s) ∧
      (s.core.csr.mode = false →
        let t := inHandler (Machine.giveUpWait s) s.core.seq.pc (Machine.causeWord f.code f.sub f.aux f.eng.code true f.step) f.bad
        Machine.exec .engineFaultTrap s = .next { t with core := { t.core with
          csr := { t.core.csr with engt := true, epend := false }, eng := { t.core.eng with efault := none } } })) ∧
    ((∀ l ∈ (Machine.giveUpWait s).base.live, s.core.id ∉ l.waiters) ∧ ∀ pa g d (l : Machine.Lease),
      s.core.wait = .barrw pa g d → s.core.lease = some l → (Machine.giveUpWait s).core.lease = some { l with resumeArr := some (pa, g) }) ∧
    (∀ (e : Eng) (entry : BitVec 16) (lo hi : Nat), SameElsewhere s (.dataArrival · e entry lo hi))

/-- A residency or translation fault of an access freezes its core with cause 3, and asks the host for an extent that
is not resident; a memory error freezes it with cause 4, no earlier than 4 cycles after it was found. What the base
has resolved it tells the core, and when that is all that froze it, the core goes on at the unchanged SCC; a cause the
base gives up stops the copy at its first undelivered byte and traps (01 R25, 06 R157 to R159, 08 R191, R192, 22
R394). -/
def Obligations.ReportsFreezeAndEnd : Prop :=
  ∀ (s : Machine.State) (e : Eng) (entry : BitVec 16) (o : Nat) (ch : Fin 4) (sub : Fin 4),
    (∀ r : Machine.Report, Machine.unsent s 3 (fun r => r.eng == e && r.entry == entry && r.pos == o) = some r →
      let t := told s r
      Machine.exec (.translationFaultReport s.core.id e entry o) s = .next (if r.sub = none then
        Machine.logEvent t 1 (r.oid.toNat * 2 ^ 40 + r.off) (Machine.dieOf t.core.id).val t.core.csr.pid.val else t)) ∧
    (∀ r : Machine.Report, Machine.unsent s 4 (fun r => r.eng == e && r.entry == entry && decide (r.found + 4 ≤ s.gtc)) = some r →
      Machine.exec (.memoryErrorReport s.core.id e entry) s = .next (told s r)) ∧
    (let left := s.core.eng.reports.filter (fun r => !Machine.reportOver s r)
     let u := (s.core.eng.reports.filter (Machine.reportOver s)).foldl homeSays s
     let t := withEng u { u.core.eng with reports := left }
     ((∃ r ∈ left, r.sent = true) → Machine.exec (.causeResolved s.core.id) s = .next t) ∧
     ((∀ r ∈ left, r.sent = false) → ∀ f, s.core.eng.freeze = some f → (f.cause = 3 ∨ f.cause = 4) →
       Machine.exec (.causeResolved s.core.id) s =
         .next (withEng t { t.core.eng with freeze := some { f with cause := 0 } }))) ∧
    (∀ (r : Machine.Report) (j : Machine.Job), Machine.givenUp s (fun c => c == some ch) = some r → Machine.findJob s r.job = some j →
      let at0 := Machine.firstUndelivered s j
      let off := BitVec.ofNat 64 (Machine.posOffset (Machine.peekJob s.core.eng j) at0)
      let t := withJob s j.id (fun j => { j with stop := some at0 })
      Machine.exec (.copyStop s.core.id ch sub) s = .next (faulted
        (withEng t { t.core.eng with
          chans := t.core.eng.chans.set ch { t.core.eng.chans[ch] with stopped := true, undel := off }
          reports := t.core.eng.reports.filter (fun q => q.job ≠ j.id) })
        ⟨0x05, sub.val, .copy, j.entry.toNat, r.step, off⟩)) ∧
    SameElsewhere s (.translationFaultReport · e entry o) ∧ SameElsewhere s (.memoryErrorReport · e entry) ∧
    SameElsewhere s .causeResolved ∧ SameElsewhere s (.copyStop · ch sub)

/-! ## The walker, preemption, and the homes' events -/

namespace Sys2Proof.Claims
open Machine

/-- The records of a queue go down by its first. -/
def dequeued (s : State) (q : Fin 16) (rest : List Queued) : State :=
  { s with base := { s.base with queues := s.base.queues.set q rest } }

/-- The core state in which iteration `x` of launch `l` starts (01 R32, 02 R60, 04 R88, R92, R407): x1 to x4 hold the
indexes, x5 the stage, x6 the core and x7 the lease; c0 holds the launch's capability and c1 the core's scratchpad. -/
def Started (s : State) (l : Launch) (x : Lease) (c : Core) : Prop :=
  c.lease = some x ∧ c.seq.pc = 0 ∧ c.csr.mode = false ∧ c.csr.pid = l.pid ∧ c.csr.rngkey = l.seed ∧ c.csr.rngctr = 0 ∧ c.csr.scc = 0 ∧
    c.csr.schmode = 0 ∧ c.csr.tvec = ((s.base.kcode[l.pid]).map (fun k => k.trap)).getD 0 ∧
    (∀ k : Fin 4, c.seq.x[k.val + 1] = (x.idx[k]).setWidth 64) ∧ c.seq.x[5] = BitVec.ofNat 64 x.stage.val ∧
    c.seq.x[6] = BitVec.ofNat 64 c.id ∧ c.seq.x[7] = x.id.setWidth 64 ∧
    (∀ k : Fin 64, k.val = 0 ∨ 8 ≤ k.val → c.seq.x[k] = 0) ∧
    (c.seq.c[0]).bits = l.capBits ∧ (c.seq.c[0]).tag = l.capTag ∧ c.seq.c[1] = spadCap ∧
    (∀ k : Fin 16, 2 ≤ k.val → c.seq.c[k] = Cap.null) ∧
    c.eng.jobs = [] ∧ c.eng.pends = [] ∧ c.eng.transit = [] ∧ c.eng.acc = [] ∧ (∀ k : Fin 3, (c.eng.rings[k]).en = false) ∧
    c.sb = [] ∧ c.tcache = [] ∧ c.wait = .none

/-- The state once the base has read the scratchpad image of a stage; id 0 names no image (02 R60, 22 R397). -/
def imageRead (s : State) (l : Launch) (g : StageRec) : State :=
  match (if g.image = 0 then none else findObj s g.image) with
  | some o => imageFetch s o l.pid
  | none => s

/-- A context with its place in the area, as it leaves the core. -/
def SavedOf (s : State) (l : Lease) (x : Ctx) : Prop :=
  x.pa = ctxPa s ∧ x.faulted = false ∧ x.lease = l ∧ x.pid = s.core.csr.pid ∧ x.scc = s.core.csr.scc

/-- A memory holds a 16-byte resumable head at `pa`: format word 1 and size word (04 R112). -/
def Resumable (s : State) (x : Ctx) : Prop := memNat s.base.mem x.pa 2 = 1 ∧ memNat s.base.mem (x.pa + 4) 4 = 0x764

/-- What the core takes from the area of a saved context (01 R36, 04 R109). -/
def Resumed (s : State) (x : Ctx) (c : Core) : Prop :=
  let m := s.base.mem
  c.lease = some x.lease ∧ c.csr.scc = memNat m (x.pa + 8) 8 ∧ c.seq.pc = memWord m (x.pa + 16) ∧ c.seq.x[0] = 0 ∧
    (∀ k : Fin 64, k ≠ 0 → c.seq.x[k] = memWord m (x.pa + 0x40 + 8 * k.val)) ∧ c.csr.epc = memWord m (x.pa + 0x450) ∧
    c.csr.tvec = memWord m (x.pa + 0x448) ∧ c.eng.vfcr = memWord m (x.pa + 0x1780) &&& 0x3F3F ∧
    c.eng.mxspill = memWord m (x.pa + 0x1848) &&& 0xFFF8FFFFFFFFC000 ∧
    c.l1 = [] ∧ c.sb = [] ∧ c.wait = .none

/-- Whether a step of a copy has made its source reads and their bytes still come, with no cause of the base that holds
them (01 R35, 06 R168). -/
def SourceReading (s : State) (j : Job) : Prop :=
  (chanOf j.cmd).isSome = true ∧ j.done = false ∧ j.stop = none ∧ j.formed < j.step ∧
    (∀ r ∈ s.core.eng.reports, r.job ≠ j.id)

/-- The sequencer stands at an instruction boundary, with no request of its own unanswered (12 R280). -/
def Boundary (s : State) : Prop := s.core.busy = 0 ∧ answering s.core.wait = false

/-- Whether the current core's context can be saved: its instruction is over, every request is answered, the store
buffer is empty, no spill is on its way, no copy reads its source, and the area has a place (01 R35, 04 R108, 10 R252,
12 R280, 15 R325). -/
def Savable (s : State) : Prop :=
  Boundary s ∧ s.core.posted = [] ∧ s.core.sb = [] ∧ (∀ t ∈ s.core.eng.transit, t.job ≠ 0) ∧
    (∀ j ∈ s.core.eng.jobs, ¬ SourceReading s j) ∧ ctxRoom s = true

end Sys2Proof.Claims

/-- The walker takes the first record of a queue, or of a replay: it rejects it with its reason, or the launch goes
live. The next iteration of a stage starts on the free core of its set with the lowest id, in lease-start state, its
scratchpad all zeros without an image, once the base can read its image; its id is none of a live lease (01 R29 to
R32, 02 R60, 04 R88, R92, R407, 22 R397). What makes a header or a stage bad besides version and stage count is the
model's choice (log entry 64). -/
def Obligations.LaunchesGoLiveAndLeasesStart : Prop :=
  ∀ (s : Machine.State) (q : Fin 16) (stage : Fin 8),
    (∀ (u : Machine.State) (x : Machine.Queued),
      ((s.base.replay = none ∧ ∃ rest, s.base.queues[q] = x :: rest ∧ u = dequeued s q rest) ∨
        (∃ r r', s.base.replay = some r ∧ Machine.replayLaunch r = some (r', x) ∧
          u = { s with base := { s.base with replay := some { r' with brought := r'.brought ++ [x.id] } } })) →
      let l := Machine.launchRec x
      (∀ w, Machine.rejection u x.data = some w → Machine.exec (.launchWalk q) s = .next (Machine.reportLaunch u l 1 w)) ∧
      (Machine.rejection u x.data = none → (∀ k ∈ s.base.launches, k.id ≠ l.id) → 0 < l.total →
        Machine.exec (.launchWalk q) s = .next { u with base := { u.base with launches := u.base.launches ++ [l] } })) ∧
    (∀ (l : Machine.Launch) (g : Machine.StageRec) (k : Nat), s.base.replay = none → s.base.capture.mode = 0 →
      s.base.launches.find? (fun k => k.id == l.id) = some l → l.stages[stage.val]? = some g → (∀ x ∈ l.rerun, x.stage ≠ stage) →
      g.next < l.total → Machine.pickCore s g = some k →
      let n := Machine.freshId (Machine.leaseIds s) s.nextLid
      let x : Machine.Lease := ⟨BitVec.ofNat 32 n, l.id, stage, Machine.idxOf l.loops g.next, g.code, l.abort, false, [],
        none, 0, [], [], 0⟩
      let l' := { l with live := l.live + 1, stages := l.stages.set stage.val { g with next := g.next + 1 } }
      let u := imageRead s l g
      (∀ v, Machine.imageAsk s l' x = (v, .busy) → Machine.exec (.leaseStart l.id stage) s = .next v) ∧
      ((Machine.imageAsk s l' x).2 ≠ .busy →
       ∃ t c, Machine.exec (.leaseStart l.id stage) s = .next t ∧ Machine.findCore t k = some c ∧ Started s l x c ∧
        (g.image = 0 → c.eng.spad = []) ∧ t.nextLid = n ∧ t.base.mem = u.base.mem ∧ t.base.objs = s.base.objs ∧ t.gtc = s.gtc ∧
        t.base.launches = s.base.launches.map (fun y => if y.id = l.id then l' else y) ∧
        (∀ n, n ≠ k → Machine.findCore t n = Machine.findCore u n))) ∧
    (∀ (used : List (BitVec 32)) (n : Nat), used.length < 2 ^ 32 →
      n < Machine.freshId used n ∧ BitVec.ofNat 32 (Machine.freshId used n) ∉ used)

/-- A preempted core with every request answered gives up the wait of its instruction, drains its buffers and writes
its context to an area of its own; the core is then free. Until it can, the base tries again at the next GTC cycle
(log entry 4), and from the first instruction boundary on the core executes nothing more. A saved context resumes on a
free core of its stage's set once the base grants its power class, which its request waits for in its turn; one whose
format word is wrong ends as FAULTED. The kernel's release of
a FAULTED context frees its pins (01 R35, R36, 04 R108, R112, 12 R280, 22 R393, R399). -/
def Obligations.ContextsLeaveAndReturn : Prop :=
  ∀ (s : Machine.State) (core : Nat) (x : Machine.Ctx),
    (s.core.lease = none → Machine.exec (.preemption s.core.id) s = .next s) ∧
    (∀ l : Machine.Lease, s.core.lease = some l →
      let d := if s.core.busy = 0 then Machine.drainAll s else s
      let u := Machine.drainCore (Machine.giveUpWait d)
      (¬ Savable d →
        ∃ v, (v = true ↔ d.core.saving = true ∨ Boundary d) ∧ Machine.exec (.preemption s.core.id) s =
          .next { d with core := { d.core with saving := v }, inputs := d.inputs ++ [(d.gtc + 1, .preemption s.core.id)] }) ∧
      (Savable d → Machine.exec (.preemption s.core.id) s = .next (Machine.saveContext u false) ∧
        (∀ m, u.core.lease = some m → ∃ t y, Machine.saveContext u false = t ∧ SavedOf u m y ∧ t.core.lease = none ∧
          t.core.id = u.core.id ∧ t.core.l1 = [] ∧ t.core.resvSeq = u.core.resvSeq + 1 ∧ t.base.ctxs = u.base.ctxs ++ [y] ∧
          t.nextCtx = u.nextCtx + 1 ∧ t.others = u.others ∧ t.base.launches = u.base.launches))) ∧
    (s.base.ctxs.find? (fun y => y.pa == x.pa && !y.faulted) = some x →
      let gone (t : Machine.State) := { t with base := { t.base with ctxs := t.base.ctxs.filter (fun y => y.pa ≠ x.pa) } }
      (¬ Resumable s x → Machine.exec (.contextResume core x.pa) s = .next (Machine.refuseContext s x)) ∧
      (∀ c, Resumed s x (Machine.resumeCore s x c)) ∧
      (Resumable s x → Machine.inCoreSet s x.lease core = true → Machine.coreFree s core = true →
        (Machine.leaveNow s core (Machine.ctxClass s x) = true → Machine.exec (.contextResume core x.pa) s =
          .next (gone (Machine.placeCore s core (Machine.resumeCore s x)))) ∧
        (Machine.leaveNow s core (Machine.ctxClass s x) = false → Machine.exec (.contextResume core x.pa) s =
          .next { Machine.queueLeave s core (Machine.ctxClass s x) with inputs := s.inputs ++ [(s.gtc + 1, .contextResume core x.pa)] }))) ∧
    (s.base.ctxs.find? (fun y => y.pa == x.pa && y.faulted) = some x →
      let t := { s with base := { s.base with ctxs := s.base.ctxs.filter (fun y => y.pa ≠ x.pa) } }
      (∀ l ∈ s.base.launches, l.id ≠ x.lease.launch) →
        Machine.exec (.contextRelease x.pa) s =
          .next (Machine.releasePins t (x.pins.map (fun p => { p with long := false })) x.lease.launch)) ∧
    (s.base.ctxs.find? (fun y => y.pa == x.pa && y.faulted) = some x →
      let t := { s with base := { s.base with ctxs := s.base.ctxs.filter (fun y => y.pa ≠ x.pa) } }
      (∃ l ∈ s.base.launches, l.id = x.lease.launch) →
        Machine.exec (.contextRelease x.pa) s = .next (Machine.releasePins t x.pins x.lease.launch)) ∧
    SameElsewhere s .preemption

namespace Sys2Proof.Claims
open Machine

/-- `s` with channel `v` of a vertical bus; a channel at full width without a sequence is not listed. -/
def withChan (s : State) (v : VChan) : State :=
  let rest := s.base.vbus.filter (fun w => ¬ (w.die = v.die ∧ w.chan = v.chan))
  { s with base := { s.base with vbus := if v.width = 0 ∧ v.vseq = none then rest else rest ++ [v] } }

/-- `s` with slice `g`'s sticky REJ set. -/
def rejected (s : State) (g : Nat) : State :=
  { s with base := { s.base with slstat := regSet s.base.slstat g (regGet s.base.slstat g 0 ||| 1) } }

/-- The kind of way `w` that an SLCFG value gives (09 R202). -/
def wayCode (v : Word) (w : Nat) : Nat := v.toNat / 4 ^ w % 4

/-- An SLCFG value that a slice refuses: a code of 3, more than four DIGEST ways, or a STAGE way in use taken away. -/
def BadWays (s : State) (g : Nat) (v : Word) : Prop :=
  (∃ w, w < 24 ∧ wayCode v w = 3) ∨ 4 < (List.range 24).countP (fun w => wayCode v w = 2) ∨
    (∃ w, w < 24 ∧ wayCode (regGet s.base.slcfg g 0x555500000000) w = 0 ∧ wayCode v w ≠ 0 ∧ wayInUse s g w = true)

/-- What a buffered store asks for before it drains: one that covers a GLOBAL word in part, which the L1 does not hold,
reads it of its home; another waits for power-gated cores that hold its words dirty (05 R129, 08 R191, 09 R219). -/
def wordRead (s : State) (o : ObjEnt) (e : SbEnt) : State × Fetch :=
  let a := e.off / 8 * 8
  let held := ∀ pa, paOf o a = some pa → ∃ w ∈ s.core.l1, w.pa = pa
  if o.space = 2 ∧ e.data.length < 8 ∧ ¬ held then dramRead s o a 8 s.core.id else wakeAsk s o e.off e.data.length

/-- The data array of power-gated core `c` begins to wake for the `n` bytes at `a`, unless it does for them already (09
R219). -/
def asleep (s : State) (c a n : Nat) : State :=
  if ∃ p ∈ s.base.wakes, p.1 = c ∧ p.2.1 ≤ a ∧ a + n ≤ p.2.1 + p.2.2.1 then s
  else { s with base := { s.base with wakes := s.base.wakes ++ [(c, a, n, s.gtc)] } }

end Sys2Proof.Claims

/-- A released BWAIT or BARRW completes; a posted BARR that was refused traps at the instruction boundary as
barrier-phase with AUX 0xFFFE; the oldest release reaches its core; a reservation is gone after 4,096 cycles; the
oldest store of the buffer drains, the word that it covers in part read first, and merged as it stands where it cannot
be corrected (the model's choice, log entry 60); a probe writes back a core's dirty words of COHERENT regions and takes
its copies, at once or, of a power-gated core, 128 cycles later, and a home access to words that such a core holds dirty
waits till then (09 R216 to R225, 10 R232, 12 R279, R290, R291). That an array wakes once for probes of the same bytes
is the model's choice (log entry 24). -/
def Obligations.HomesReachTheCores : Prop :=
  ∀ (s : Machine.State) (core block : Nat) (first last : Fin 16),
    (∀ (a : XReg) (b : CReg) (x : XReg) (ord : Ord),
      (∀ q, s.core.wait = .bwait q true → Machine.atPc s = some (.bwait b x ord) →
        Machine.exec .homeResponse s = .next (past 1 (waits (Machine.acquireHalf s ord) .none))) ∧
      (∀ q h, s.core.wait = .barrw q h true → Machine.atPc s = some (.barrw a b x ord) →
        Machine.exec .homeResponse s = .next (past 1 (put (waits (Machine.acquireHalf s ord) .none) a (BitVec.ofNat 64 h))))) ∧
    (∀ off mode, s.core.refusal = some (off, mode) → Machine.exec .postedBarrRefusal s =
      .next (trapped { s with core := { s.core with refusal := none } } 0x15 0 0xFFFE off s.core.seq.pc)) ∧
    (∀ c pa rest, s.base.releases = (c, pa) :: rest →
      ∃ t, Machine.exec .barrierRelease s = .next t ∧ t.base = { s.base with releases := rest } ∧
        (∀ n, n ≠ c → Machine.findCore t n = Machine.findCore s n) ∧
        (∀ k, Machine.findCore s c = some k →
          (k.wait = .bwait pa false → Machine.findCore t c = some { k with wait := .bwait pa true }) ∧
          (∀ g, k.wait = .barrw pa g false → Machine.findCore t c = some { k with wait := .barrw pa g true }) ∧
          (∀ p, p ≠ pa → k.wait = .bwait p false ∨ (∃ g, k.wait = .barrw p g false) → Machine.findCore t c = some k))) ∧
    (∃ rs, Machine.exec .reservationTimeout s = .next { s with base := { s.base with resv := rs } } ∧
      ∀ r, r ∈ rs ↔ r ∈ s.base.resv ∧ s.gtc < r.gtc + 4096) ∧
    (s.core.sb = [] → Machine.exec .storeBufferDrain s = .next s) ∧
    (∀ e rest o, s.core.sb = e :: rest → Machine.findObj s e.oid = some o →
      let f := wordRead s o e
      let t := { f.1 with core := { f.1.core with sb := rest } }
      (f.2 = .busy → Machine.exec .storeBufferDrain s = .next f.1) ∧
      (f.2 ≠ .busy → o.space ≠ 2 → Machine.exec .storeBufferDrain s =
        .next (Machine.homeStore t (some t.core.id) o e.off e.data (e.tag == some true) false)) ∧
      (f.2 ≠ .busy → o.space = 2 → e.tag = none → Machine.exec .storeBufferDrain s = .next (Machine.l1Store t o e.off e.data false)) ∧
      (∀ g, f.2 ≠ .busy → o.space = 2 → e.tag = some g → Machine.exec .storeBufferDrain s =
        .next (Machine.l1Store (Machine.l1Store t o e.off (e.data.take 8) g true) o (e.off + 8) (e.data.drop 8) g true))) ∧
    (∀ c, Machine.findCore s core = some c →
      let lo := 128 * block + 8 * first.val
      let hi := 128 * block + 8 * (last.val + 1)
      let hit (w : Machine.L1Word) : Bool := decide (w.pa < hi ∧ lo < w.pa + 8) && Machine.cohWord s w
      first.val ≤ last.val →
      ((c.gated = false ∨ ∀ w ∈ c.l1, hit w = true → w.dirty = false) → Machine.exec (.directoryProbe core block first last) s =
        .next (Machine.dirRefresh (Machine.dropWords (Machine.writeBack s core hit) core hit) block)) ∧
      (c.gated = true → (∃ w ∈ c.l1, hit w = true ∧ w.dirty = true) → Machine.exec (.directoryProbe core block first last) s =
        .next (Machine.dirRefresh (asleep (Machine.dropWords s core (fun w => !w.dirty && hit w)) core lo (hi - lo)) block))) ∧
    (let due := s.base.wakes.filter (fun p => decide (p.1 = core ∧ p.2.2.2 + 128 ≤ s.gtc))
     let u := { s with base := { s.base with wakes := s.base.wakes.filter (fun p => decide (¬ (p.1 = core ∧ p.2.2.2 + 128 ≤ s.gtc))) } }
     let woken (w : Machine.L1Word) := due.any (fun p => Machine.overlaps w p.2.1 p.2.2.1) && Machine.cohWord s w
     Machine.exec (.retentionWakeWriteback core) s = .next ((due.flatMap (fun p => Machine.blocksOf p.2.1 p.2.2.1)).foldl Machine.dirRefresh
       (Machine.dropWords (Machine.writeBack u core woken) core woken))) ∧
    (∀ (o : Machine.ObjEnt) (k n pa : Nat), o.space ≠ 1 → o.coh = true → 0 < n → k % 256 + n ≤ 256 → Machine.paOf o k = some pa →
      (∃ c ∈ s.core :: s.others, Machine.retains s pa n c = true) →
        (Machine.dramRead s o k n core).2 ≠ .ok ∧ (Machine.dramAsk s o k n core).2 ≠ .ok)

/-- A failing transfer is logged and begins a sequence, and the cores that await its granule are told; it is sent
again 24 cycles after each failure, retrains after the third, and then loses the half of its lanes with the failing
group, or, at half width, its channel; a pass sends what queues behind it and delivers the granule. A slice refuses a bad way configuration and an
excess of rates with its sticky REJ, and otherwise takes the value, a way configuration once the dirty lines of the
ways that change have drained; the other registers of the base take theirs (08 R192, R195, 09 R201 to R213, 22 R389).
-/
def Obligations.ChannelsAndRegistersOfTheBase : Prop :=
  ∀ (s : Machine.State) (die : Fin 8) (chan : Fin 16) (group : Fin 32) (pa : Nat),
    let v := Machine.vchanOf s.base die chan
    let g := pa / 256 * 256
    (v.width ≠ 3 → v.vseq = none → Machine.exec (.transferParityError die chan group pa) s = .next (Machine.reportGranule (withChan
      (Machine.logVbus s die chan 1 g group.val 0 v.width.val)
      { v with vseq := some ⟨g, group, 0, s.gtc, false, v.width ≠ 0⟩ }) g)) ∧
    (∀ q : Machine.VSeq, v.vseq = some q →
      let again (t : Machine.State) (a : Nat) := withChan t { v with vseq := some { q with attempt := a, since := s.gtc } }
      let log (a : Nat) := Machine.logVbus s die chan 1 q.pa group.val a v.width.val
      let ended (ok : Bool) := Machine.logVbus s die chan (if ok then 3 else 2) 0 q.group.val 0 v.width.val
      (v.width ≠ 3 → q.attempt = 5 → Machine.exec (.transferParityError die chan group pa) s = .next (again (log 0) 0)) ∧
      ((q.attempt < 3 ∧ q.since + 24 ≤ s.gtc) ∨ q.attempt = 5 →
        Machine.exec (.transferRetry die chan true group) s = .next (Machine.granuleArrives (Machine.sendQueued s v) q.pa)) ∧
      (v.queue = [] → Machine.sendQueued s v = withChan s { v with vseq := none, queue := [] }) ∧
      (q.attempt = 5 → Machine.exec (.transferRetry die chan false group) s = .next (again (log 0) 0)) ∧
      (q.attempt < 2 → q.since + 24 ≤ s.gtc →
        Machine.exec (.transferRetry die chan false group) s = .next (again (log (q.attempt + 1)) (q.attempt + 1))) ∧
      (q.attempt = 2 → q.since + 24 ≤ s.gtc → Machine.exec (.transferRetry die chan false group) s = .next (
        if v.width = 0 then again (log 3) (if q.retrained then 4 else 3)
        else Machine.failReports (withChan (Machine.logVbus (log 3) v.die v.chan 5 0 q.group.val 0 3)
          { v with width := 3, vseq := none, queue := [] }) v.die v.chan)) ∧
      (q.attempt < 3 → s.gtc < q.since + 24 → ∀ pass, Machine.exec (.transferRetry die chan pass group) s = .next s) ∧
      (∀ ok, q.attempt = 3 → Machine.exec (.channelRetrainDone die chan ok) s = .next (withChan (ended ok)
        { v with vseq := some { q with attempt := if ok then 5 else 4, since := s.gtc, retrained := true } })) ∧
      (q.attempt = 4 → q.since + 256 ≤ s.gtc →
        let w : Fin 4 := if q.group.val < 16 then 2 else 1
        Machine.exec (.halfWidthDone die chan) s = .next (withChan (Machine.logVbus s die chan 4 0 q.group.val 0 w.val)
          { v with width := w, vseq := some { q with attempt := 5, since := s.gtc, halved := true } }))) ∧
    (∀ (n : Nat) (p : Nat) (x : Word), n < 256 → p < 16 →
      let b := s.base
      let new := BitVec.ofNat 64 (x.toNat % 2 ^ 48)
      let old := Machine.regGet b.slcfg n 0x555500000000
      let moved (l : Machine.CLine) : Prop := l.home = n ∧ wayCode old l.way.val ≠ wayCode new l.way.val
      let drains : Prop := (∃ w, (n, w) ∈ b.slpend) ∨ ∃ l ∈ b.lines, l.dirty = true ∧ moved l
      let rate := Machine.bitsOf x.toNat 15 0
      let sum := ((List.range 16).map (fun k => if k = p then rate else Machine.bitsOf (Machine.pbktOf b n k).toNat 15 0)).sum
      (BadWays s n new → Machine.exec (.slcfgWrite n x) s = .next (rejected s n)) ∧
      (¬ BadWays s n new → drains → Machine.exec (.slcfgWrite n x) s = .next { s with base := { b with slpend := b.slpend ++ [(n, new)] } }) ∧
      (¬ BadWays s n new → ¬ drains → Machine.exec (.slcfgWrite n x) s = .next { s with base := { b with
        slcfg := Machine.regSet b.slcfg n new
        lines := b.lines.filter (fun l => !(l.home == n && wayCode old l.way.val != wayCode new l.way.val)) } }) ∧
      (∀ w, b.slpend = [(n, w)] → (∀ l ∈ b.lines, ¬ (l.dirty = true ∧ l.home = n ∧ wayCode old l.way.val ≠ wayCode w l.way.val)) →
        Machine.slDrain s = { s with base := { b with
          slpend := []
          slcfg := Machine.regSet b.slcfg n w
          lines := b.lines.filter (fun l => !(l.home == n && wayCode old l.way.val != wayCode w l.way.val)) } }) ∧
      (12288 < sum → Machine.exec (.pbktWrite n p x) s = .next (rejected s n)) ∧
      (sum ≤ 12288 → Machine.exec (.pbktWrite n p x) s = .next { s with base := { b with
        pbkt := Machine.regSet b.pbkt (n * 16 + p) (BitVec.ofNat 64 (Machine.bitsOf x.toNat 51 32 * 2 ^ 32 + rate))
        plvl := Machine.regSet b.plvl (n * 16 + p) (Machine.levelOf s n p, s.gtc) } }) ∧
      Machine.exec (.registerWrite (.slstat n) x) s = .next { s with base := { b with
        slstat := Machine.regSet b.slstat n (Machine.regGet b.slstat n 0 &&& (x ||| 2)) } } ∧
      Machine.exec (.registerWrite (.pway n p) x) s = .next { s with base := { b with
        pway := Machine.regSet b.pway (n * 16 + p) (BitVec.ofNat 64 (x.toNat % 2 ^ 24)) } } ∧
      Machine.exec (.registerWrite (.nwgt p) x) s = .next { s with base := { b with
        nwgt := b.nwgt.set (Fin.ofNat 16 p) (BitVec.ofNat 64 (max 1 (x.toNat % 256))) } } ∧
      Machine.exec (.registerWrite .hpid x) s = .next { s with base := { b with hpid := Fin.ofNat 16 x.toNat } })

/-! ## The host, commands, and the module -/

namespace Sys2Proof.Claims
open Machine

/-- `s` with the base's parts changed by `f`. -/
def withBase (s : State) (f : Base → Base) : State := { s with base := f s.base }

/-- The pieces that a read for partition `pid` takes, one per granule, with the state that each leaves; no bytes once
one waits (10 R250, 09 R205, R207, 08 R192). -/
def readPieces (s : State) (pid : Fin 16) (l : List (Nat × Nat × Nat)) (bs : Option (List Byte)) : State × Option (List Byte) :=
  match l with
  | [] => (s, bs)
  | g :: t => readPieces (readPa s pid g.1 g.2.2).1 pid t (match bs, (readPa s pid g.1 g.2.2).2 with
    | some a, some b => some (a ++ b)
    | _, _ => none)

/-- The state after bytes of one granule commit at a device address, as one write of their home; `atomic` for a
read-modify-write. The base keeps no copy of a line of host memory that is written (09 R215, 10 R250). -/
def committed (s : State) (pid : Fin 16) (pa : Nat) (bs : List Byte) (atomic : Bool) : State :=
  let t := homePutPa s pa bs false atomic pid
  if paKind pa = .host then
    withBase t (fun b => { b with lines := b.lines.filter (fun l => decide (l.gran * 256 + 256 ≤ pa ∨ pa + bs.length ≤ l.gran * 256)) })
  else t

/-- A write of bytes of one granule for partition `pid`: it reaches its home, takes back what others hold of the bytes,
and commits (09 R209, R217, 10 R251). -/
def written (s : State) (pid : Fin 16) (pa : Nat) (bs : List Byte) : State :=
  committed (reachAt s pid pa bs.length bs.length 0 false) pid pa bs false

/-- `s` with `i` to be tried again at the next GTC cycle (08 R192). -/
def later (s : State) (i : Instr) : State := { s with inputs := s.inputs ++ [(s.gtc + 1, i)] }

/-- `s` with the host's request `i` to be tried again at the next GTC cycle, and the host's requests behind it no
earlier (08 R192, 10 R250). -/
def waitingHost (s : State) (i : Instr) : State :=
  { s with inputs := (s.gtc + 1, i) :: s.inputs.map (fun p => if hostRequest p.2 then (max p.1 (s.gtc + 1), p.2) else p) }

/-- BAR0's registers: each with its offset, what it reads, and what a write of `v` is; none for one that ignores writes
(22 R389). -/
def bar0Map (b : Base) (v : Word) : List (Nat × Word × Option Instr) :=
  [(0x00, b.hcqbase, some (.hcqbaseWrite v)), (0x08, BitVec.ofNat 64 b.hcqtail.toNat, some (.hcqtailWrite v)),
   (0x10, BitVec.ofNat 64 b.hcqhead.toNat, none), (0x18, BitVec.ofNat 64 b.hpid.val, some (.registerWrite .hpid v)),
   (0x20, b.evtcount, none), (0x28, BitVec.ofNat 64 b.temp.toNat, none)]

/-- What a home atomic of the host writes to a word that holds `old`, for each of R283's operations by its number;
none for a failed compare-and-swap. -/
def atomics (old v e : Word) : List (Fin 11 × Option Word) :=
  [(0, some (old + v)), (1, some (old &&& v)), (2, some (old ||| v)), (3, some (old ^^^ v)),
   (4, some (if old.toInt ≤ v.toInt then old else v)), (5, some (if old.toInt ≤ v.toInt then v else old)),
   (6, some (if old.toNat ≤ v.toNat then old else v)), (7, some (if old.toNat ≤ v.toNat then v else old)), (8, some v),
   (9, if old = e then some v else none), (10, some (BitVec.ofNat 64 (addTy 0 0 old.toNat v.toNat)))]

end Sys2Proof.Claims

/-- The host's reads return committed bytes, and its writes and atomics commit at their homes with a capture record; a
write or atomic into a tagged block, a span table or a log is dropped and logged, and an address that no decoder maps
is no address of the module, which keeps its state; a request behind a failing transfer, or a write that takes words
of a power-gated core, is tried again, with those behind it. That a failed compare-and-swap takes the word from its
other holders all the same is the model's choice (log entry 71). The registers of BAR0 read and take what they hold,
and other offsets read 0 and ignore writes. The host's commands join their queue as HCQTAIL advances, at most 256
unexecuted, those that a failing transfer holds among them; kernel code and the side-band port post theirs (09 R223,
10 R250, 11 R260, R268, 08 R192, 22 R388 to R390, R400, R403). -/
def Obligations.HostRequestsActAtTheHomes : Prop :=
  ∀ (s : Machine.State) (pa len : Nat) (data : List Byte) (v e : Word),
    (let r := readPieces s s.base.hpid (Machine.granules pa len) (some [])
     (∀ bs, Machine.hdmMapped pa len = true → r.2 = some bs → Machine.exec (.hostRead pa len) s =
       .next (withBase r.1 (fun b => { b with hostData := bs }))) ∧
     (Machine.hdmMapped pa len = true → r.2 = none → Machine.exec (.hostRead pa len) s = .next (waitingHost r.1 (.hostRead pa len))) ∧
     (Machine.hdmMapped pa len = false → Machine.exec (.hostRead pa len) s = .next s) ∧
     (Machine.hdmMapped pa len = true → 0 < len → pa % 256 + len ≤ 256 → Machine.objAtPa s pa = none → pa / 4096 ∉ s.base.bias →
       s.base.ecc = [] → s.base.vbus = [] →
       ∃ t, Machine.exec (.hostRead pa len) s = .next t ∧ t.base.hostData = Machine.memReadN s.base.mem pa len)) ∧
    (0 < data.length → pa % 64 + data.length ≤ 64 →
      let n := data.length
      (Machine.hostDrops s pa n = true → Machine.exec (.hostWrite pa data) s = .next (Machine.logEvent s 3 pa 0 s.base.hpid.val)) ∧
      (∀ t, Machine.wakeAt s pa n = (t, .busy) → Machine.exec (.hostWrite pa data) s = .next (waitingHost t (.hostWrite pa data))) ∧
      (Machine.hostDrops s pa n = false → Machine.hdmMapped pa n = true → (Machine.wakeAt s pa n).2 ≠ .busy →
        Machine.exec (.hostWrite pa data) s = .next (Machine.captureWrite (written s s.base.hpid pa data) pa data)) ∧
      (Machine.hostDrops s pa n = false → Machine.hdmMapped pa n = false →
        Machine.exec (.hostWrite pa data) s = .next s)) ∧
    (let a := pa / 8 * 8
     let r := Machine.readPa s s.base.hpid a 8 true
     let got := r.2.getD []
     let t := withBase r.1 (fun b => { b with hostData := got })
     ∀ p ∈ atomics (BitVec.ofNat 64 (bytesNat got)) v e,
       (Machine.hostDrops s a 8 = true → Machine.exec (.hostAtomic p.1 pa v e) s =
         .next (Machine.logEvent s 3 a 0 s.base.hpid.val)) ∧
       (Machine.hostDrops s a 8 = false → Machine.hdmMapped a 8 = false →
         Machine.exec (.hostAtomic p.1 pa v e) s = .next s) ∧
       (Machine.hostDrops s a 8 = false → Machine.hdmMapped a 8 = true → r.2 = none →
         Machine.exec (.hostAtomic p.1 pa v e) s = .next (waitingHost r.1 (.hostAtomic p.1 pa v e))) ∧
       (Machine.hostDrops s a 8 = false → Machine.hdmMapped a 8 = true → r.2 ≠ none → Machine.exec (.hostAtomic p.1 pa v e) s = .next (
         match p.2 with
         | none => t
         | some w => Machine.captureWrite (committed t t.base.hpid a (bytesOf w.toNat 8) true) a (bytesOf w.toNat 8)))) ∧
    (let n := data.length
     let own := Machine.paRangeOk pa n = true ∧ Machine.paKind pa = .host
     (own → 0 < n → pa % 256 + n ≤ 256 → Machine.exec (.hostLineInvalidate pa data) s = .next (written s s.base.hpid pa data)) ∧
     (own → Machine.exec (.hostLineInvalidate pa data) s = .next (Machine.writeRange s s.base.hpid pa data)) ∧
     (¬ own → Machine.exec (.hostLineInvalidate pa data) s = .next s)) ∧
    (let b := s.base
     let new := BitVec.ofNat 9 v.toNat
     let posted := (new - b.hcqhead).toNat
     let running := b.cmdWaits.countP (fun w => w.c.src = .host) + (if ∃ r, b.replay = some r ∧ r.c.src = .host then 1 else 0) +
       s.inputs.countP (fun p => (Machine.heldCmd p.2).any (fun c => c.src == .host))
     let queued := b.cmdq.countP (fun c => c.src = .host)
     (256 < posted → Machine.exec (.hcqtailWrite v) s = .next s) ∧
     (posted ≤ 256 → queued + running ≤ posted → Machine.exec (.hcqtailWrite v) s = .next { s with base := { b with
       hcqtail := new
       cmdq := b.cmdq ++ List.replicate (posted - running - queued) ⟨.host, 0, Vector.replicate 8 0⟩ } }) ∧
     (posted ≤ 256 → posted < queued + running → ∃ q, Machine.exec (.hcqtailWrite v) s = .next { s with base := { b with
         hcqtail := new, cmdq := q } } ∧ q.Sublist b.cmdq ∧ q.countP (fun c => c.src = .host) = posted - running ∧
       q.filter (fun c => c.src ≠ .host) = b.cmdq.filter (fun c => c.src ≠ .host)) ∧
     (b.hcqhead = b.hcqtail → Machine.exec (.hcqbaseWrite v) s = .next { s with base := { b with hcqbase := v &&& ~~~0xFFF#64 } }) ∧
     (b.hcqhead ≠ b.hcqtail → Machine.exec (.hcqbaseWrite v) s = .next s) ∧
     (∀ r ∈ bar0Map b v, Machine.bar0Read b r.1 = r.2.1 ∧ Machine.bar0Write r.1 v = r.2.2) ∧
     (∀ off, (∀ r ∈ bar0Map b v, r.1 ≠ off) → Machine.bar0Read b off = 0 ∧ Machine.bar0Write off v = none) ∧
     (∀ p rest, b.kbell = p :: rest → Machine.exec .kernelDoorbell s = .next { s with base := { b with
       kbell := rest, cmdq := b.cmdq ++ [⟨.kernel, p, Vector.replicate 8 0⟩] } }) ∧
     (∀ w, Machine.exec (.sidebandMessage w) s = .next { s with base := { b with cmdq := b.cmdq ++ [⟨.sideband, 0, w⟩] } }) ∧
     (∀ log : Fin 17, Machine.exec (.sidebandLogRead log pa) s = .next { s with base := { b with
       sideData := Machine.memReadN b.mem (Machine.logPa log + pa) (min 8 (8192 - pa)) } }))

namespace Sys2Proof.Claims
open Machine

/-- The instruction answers its command from `t` with a status and a value (22 R390). -/
def Answers (i : Instr) (s : State) (c : CmdCtx) (t : State) (status value : Nat) : Prop :=
  exec i s = .next (respond t c status value)

/-- Object `oid` of the table changed. -/
def withEntry (s : State) (oid : BitVec 24) (f : ObjEnt → ObjEnt) : State :=
  withBase s (fun b => { b with objs := b.objs.map (fun o => if o.oid = oid then f o else o) })

/-- A core whose posted PGFETCHes of an extent are answered (10 R239, 12 R303). -/
def answered' (oid : BitVec 24) (x : Nat) (k : Core) : Core := { k with posted := k.posted.filter (fun p => decide (p ≠ (oid, x))) }

/-- An image that OBJSET refuses (22 R392, 09 R204). -/
def BadImage (s : State) (e : ObjEnt) : Prop :=
  (findObj s e.oid).isSome = true ∨ e.space.val = 0 ∨ 3 < e.space.val ∨ (∃ x ∈ e.exts, extentOk s e.space.val e.dielocal e.die x = false) ∨
    (e.exts.map (fun x => x.npg)).sum * 4096 < e.len

/-- The commands that need the main rail, with the context of each (22 R391). -/
def mainCommands (c : CmdCtx) (oid : BitVec 24) (pa pb n : Nat) (v w : Word) (q : BitVec 16) (ok : Bool)
    (ls : List (Nat × List Byte)) : List Instr :=
  [.objset c pa, .objextResolve c oid n v, .objextFail c oid n, .objinv c oid n, .capstore c pa v w, .spcreate c oid n,
   .biasToHost c pa, .biasToDevice c pa ls, .launchq c pa n, .qcfg c n q, .diefence c n, .diereset c n, .vbtrain c n pb ok,
   .lvcfg c n v w, .capcfgStop c pa n, .capcfgFull c pa n, .capcfgWrap c pa n, .replay c pa n]

end Sys2Proof.Claims

/-- A command answers its source with its status. Without the main rail a command that needs it answers NOPOWER, one
that waits for its end too; one that reads memory behind a failing transfer is tried again at the next GTC cycle.
OBJSET makes an entry, OBJRD writes one, OBJEXT makes an extent resident or reports it unresolvable, and OBJINV
revokes an object, at once or when its pins are gone, or answers TIMEOUT; CAPSTORE, SPCREATE, BIAS, LAUNCHQ and QCFG
act as 22 R391 says. A command whose address lies in no memory of 09 R204, and LAUNCHQ of a record that is not 64-byte
aligned in STAGE or GLOBAL, answer REFUSED, and so does BIAS to host of a page of host memory (the model's choice, log
entry 38) (10 R251, 11 R268, R269, 22 R390 to
R397). -/
def Obligations.TableCommandsActAndAnswer : Prop :=
  ∀ (s : Machine.State) (c : CmdCtx) (oid : BitVec 24) (pa pb n : Nat) (v w : Word) (q : BitVec 16) (ok : Bool)
    (ls : List (Nat × List Byte)),
    let entry := s.base.objs.find? (fun o => o.oid == oid)
    (s.base.rail = false → ∀ i ∈ mainCommands c oid pa pb n v w q ok ls, Answers i s c s 3 0) ∧
    (∀ x rest, s.base.rail = false → s.phase = .base → (∀ p ∈ s.inputs, s.gtc < p.1) → s.base.cmdWaits = x :: rest →
      Machine.step s = .next (Machine.respond (withBase s (fun b => { b with cmdWaits := rest })) x.c 3 0)) ∧
    (Machine.paRangeOk pa 128 = true → Answers (.objrd c oid pa) s c (Machine.basePut s c.pid pa (match entry with
      | some o => Machine.entryBytes o
      | none => bytesOf (oid.toNat * 2 ^ 40) 8 ++ List.replicate 120 0)) 0 0) ∧
    (Machine.paRangeOk pa 128 = false → Answers (.objrd c oid pa) s c s 1 0) ∧
    (s.base.rail = true →
      (Machine.paRangeOk pa 128 = false → ∀ i ∈ [Instr.objset c pa, .launchq c pa n], Answers i s c s 1 0) ∧
      (Machine.paRangeOk pa 16 = false → Answers (.capstore c pa v w) s c s 1 0) ∧
      (Machine.paRangeOk pa 1 = false → ∀ i ∈ [Instr.biasToHost c pa, .biasToDevice c pa ls], Answers i s c s 1 0) ∧
      (Machine.paRangeOk pa 128 = true →
        let r := Machine.readRange s c.pid pa 128
        let u := r.1
        let e := Machine.entryOf (r.2.getD [])
        (r.2 = none → Machine.exec (.objset c pa) s = .next (later u (.objset c pa))) ∧
        (r.2 ≠ none → BadImage u e → Answers (.objset c pa) s c u 1 0) ∧
        (r.2 ≠ none → ¬ BadImage u e → Answers (.objset c pa) s c (withBase u (fun b => { b with objs := b.objs ++ [e] })) 0 0)) ∧
      (let missing := Machine.missingExtent s oid n
       (missing = none → Answers (.objextResolve c oid n v) s c s 1 0 ∧ Answers (.objextFail c oid n) s c s 1 0) ∧
       (∀ o x, missing = some (o, x) →
         let x' : Machine.Extent := ⟨Machine.bitsOf v.toNat 55 12 * 4096, true, x.npg⟩
         (Machine.extentOk s o.space.val o.dielocal o.die x' = false → Answers (.objextResolve c oid n v) s c s 1 0) ∧
         (Machine.extentOk s o.space.val o.dielocal o.die x' = true → Answers (.objextResolve c oid n v) s c
           (Machine.onCores (withEntry s oid (fun o => { o with exts := o.exts.set n x' })) (answered' oid n)) 0 0) ∧
         Answers (.objextFail c oid n) s c (Machine.onCores
           (withBase s (fun b => { b with ctxs := b.ctxs.map (fun y => { y with reports := Machine.failReps s oid n y.reports }) }))
           (fun k => Machine.failExtent s oid n (answered' oid n k))) 0 0)) ∧
      (entry = none → Answers (.objinv c oid n) s c s 0 0 ∧ Answers (.spcreate c oid n) s c s 1 0) ∧
      (∀ o, entry = some o →
        let t := withEntry s oid (fun o => { o with state := 2 })
        let ncap := (o.len - 64) / 16
        let legal := o.space = 1 ∧ Machine.oneSlice o = true ∧ o.len = 64 + 16 * ncap ∧ 0 < ncap ∧ ncap ≤ 65535 ∧ 0 < n ∧ n ≤ 4096
        let bare := bytesOf 0 8 ++ bytesOf (n + 0xFFFF * 2 ^ 32) 8 ++ List.replicate (o.len - 16) 0
        (o.pins = 0 → Answers (.objinv c oid n) s c (Machine.dropEntry t o) 0 0) ∧
        (o.pins ≠ 0 → Machine.exec (.objinv c oid n) s =
          .next (withBase t (fun b => { b with cmdWaits := b.cmdWaits ++ [⟨c, some oid, 0, s.gtc + n⟩] }))) ∧
        (¬ legal → Answers (.spcreate c oid n) s c s 1 0) ∧
        (legal → Answers (.spcreate c oid n) s c
          (withEntry (Machine.homePutLong (withEntry s oid (fun o => { o with span := false })) o 0 bare c.pid) oid
            (fun o => { o with span := true })) 0 0)) ∧
      (Machine.paRangeOk pa 16 = true →
        let refused := pa % 16 ≠ 0 ∨ Machine.tagged s.base pa 16 = true ∨ ∃ p, Machine.objAtPa s pa = some p ∧ p.1.span = true
        let bs := bytesOf v.toNat 8 ++ bytesOf w.toNat 8
        (refused → Answers (.capstore c pa v w) s c s 1 0) ∧
        (¬ refused → Answers (.capstore c pa v w) s c (match Machine.objAtPa s pa with
          | some p => Machine.homeStore s none p.1 p.2 bs true false c.pid
          | none => Machine.homePutPa s pa bs true false c.pid) 0 0)) ∧
      (Machine.paRangeOk pa 1 = true →
        let p := pa / 4096
        let ids := (Machine.allCores s).map (fun c => c.id)
        let mine (w : Machine.L1Word) : Bool := w.pa / 4096 == p
        let words := ids.foldl (fun s k => Machine.dropWords (Machine.writeBack s k mine) k mine) s
        let home := (words.base.lines.filter (fun l => l.gran * 256 / 4096 == p)).foldl Machine.lineBack words
        let inPage := ls.filter (fun l => decide (l.1 / 4096 = p ∧ (l.1 + l.2.length - 1) / 4096 = p) && Machine.hostMapped l.1)
        let device := Machine.paRangeOk (p * 4096) 4096 = true ∧ Machine.paKind (p * 4096) ≠ .host
        (¬ device → Answers (.biasToHost c pa) s c s 1 0) ∧
        (device → p ∈ s.base.bias → Answers (.biasToHost c pa) s c s 0 0) ∧
        (device → p ∉ s.base.bias → Answers (.biasToHost c pa) s c (withBase home (fun b => { b with
          dir := b.dir.filter (fun d => decide (d.block * 128 / 4096 ≠ p))
          lines := b.lines.filter (fun l => decide (l.gran * 256 / 4096 ≠ p))
          bias := b.bias ++ [p] })) 0 0) ∧
        (p ∉ s.base.bias → Answers (.biasToDevice c pa ls) s c s 0 0) ∧
        (p ∈ s.base.bias → Answers (.biasToDevice c pa ls) s c (withBase
          (inPage.foldl (fun s l => Machine.writeRange s s.base.hpid l.1 l.2) s)
          (fun b => { b with bias := b.bias.filter (fun x => decide (x ≠ p)) })) 0 0)) ∧
      (Machine.paRangeOk pa 128 = true → ¬ (pa % 64 = 0 ∧ Machine.paKind pa ≠ .host) → Answers (.launchq c pa n) s c s 1 0) ∧
      (Machine.paRangeOk pa 128 = true → pa % 64 = 0 → Machine.paKind pa ≠ .host →
        let h := Machine.readRange s c.pid pa 128
        let hdr := h.2.getD []
        let size := Machine.recordSize hdr
        let r := Machine.readRange h.1 c.pid pa size
        let offered := Machine.offer r.1 c.pid (r.2.getD []) (Machine.tagAt r.1.base (pa + 16))
        let mine := (Machine.recordQueue hdr).map (fun k => k.val) = some n
        (h.2 = none → Machine.exec (.launchq c pa n) s = .next (later h.1 (.launchq c pa n))) ∧
        (h.2 ≠ none → ¬ mine → Answers (.launchq c pa n) s c h.1 1 0) ∧
        (h.2 ≠ none → mine → Machine.paRangeOk pa size = true → r.2 = none →
          Machine.exec (.launchq c pa n) s = .next (later r.1 (.launchq c pa n))) ∧
        (h.2 ≠ none → mine → Machine.paRangeOk pa size = true → r.2 ≠ none →
          (∀ t id, offered = .accepted t id → Answers (.launchq c pa n) s c t 0 id.toNat) ∧
          (offered = .full ∨ offered = .denied → Answers (.launchq c pa n) s c r.1 1 0)) ∧
        (h.2 ≠ none → mine → Machine.paRangeOk pa size = false →
          Answers (.launchq c pa n) s c h.1 1 0)) ∧
      (∀ k : Fin 16, Answers (.qcfg c k.val q) s c (withBase s (fun b => { b with qcfg := b.qcfg.set k q })) 0 0) ∧
      (16 ≤ n → Answers (.qcfg c n q) s c s 1 0)) ∧
    (∀ x : Machine.CmdWait, s.base.cmdWaits.find? (fun y => y.oid == some oid) = some x →
      (x.deadline ≤ s.gtc → Answers (.objinvTimeout oid) s x.c (withBase s (fun b => { b with cmdWaits := b.cmdWaits.erase x })) 2 0) ∧
      (s.gtc < x.deadline → Machine.exec (.objinvTimeout oid) s = .next s))

namespace Sys2Proof.Claims
open Machine

/-- The power word of a die that LVCFG refuses: below its largest cost, or above 2,400 W with the other seven (22
R399). -/
def BadPower (s : State) (d : Fin 8) (cap k0 k1 k2 : Nat) : Prop :=
  cap < k0 ∨ cap < k1 ∨ cap < k2 ∨
    2400 < cap + (((List.finRange 8).filter (fun e => e ≠ d)).map (fun e => (s.base.dies[e]).cap)).sum

/-- Byte `k` of a cost word. -/
def costOf (w : Word) (k : Nat) : Nat := w.toNat / 2 ^ (8 * k) % 256

/-- A quote (22 R402): the nonce, what is measured, and the signature over both. -/
def quoteOf (s : State) (nonce : List Byte) : List Byte :=
  let measured := bytesOf Config.romMeasure.toNat 64 ++ sha512 s.base.firmware ++
    (List.finRange 16).flatMap (kernelMeasure s)
  let q := nonce ++ (if ∀ b ∈ nonce, b = 0 then bytesOf Config.certificate.toNat 1152 else measured)
  q ++ deviceSign s.gtc q

/-- The image that a module reset runs: the stored one, when it verifies (22 R401). -/
def freshImage (s : State) : Option (List Byte) := s.base.image.filter (fun i => imageVerifies i)

/-- A module at 115 °C or above: every die that is not fenced is, with an event of kind 4, and one of kind 5 follows (22
R399; that it also does after a reset of a die or of the module is log entry 34). -/
def afterHeat (s : State) : State :=
  if 115 ≤ s.base.temp.toNat then
    logEvent (((List.finRange 8).filter (fun d => (s.base.dies[d]).fenced = false)).foldl
      (fun s d => logEvent (fenceDie s d) 4 0 d.val 0) s) 5 s.base.temp.toNat 0 0
  else s

/-- A core whose SCC stands (01 R12, R35, 22 R399). -/
def Stands (c : Core) : Prop := c.eng.freeze ≠ none ∨ c.throttled = true ∨ c.saving = true

/-- A freeze in which an MXSPILL written meanwhile takes effect: of the matrix engine, that of a fault, and those at a
command's issue (15 R324, R333, R334). -/
def SpillSeen (c : Core) : Prop :=
  ∃ f, c.eng.freeze = some f ∧ f.eng = .matrix ∧ (f.cause = 6 ∨ (f.job = none ∧ (f.cause = 1 ∨ f.cause = 2 ∨ f.cause = 5)))

/-- What core `c` is after a GTC cycle of `s` (01 R12, R13, 05 R137, R140, 07 R171, 15 R333): a core that stands keeps
its SCC; one that runs sees what was published and written, and checks the records of the runs that begin. -/
def Cycled (s : State) (c d : Core) : Prop :=
  let u := { s with core := c }
  let e := c.eng
  let seen := { e with
    offMark := none
    chkNow := Vector.replicate 4 false
    lateUse := 0
    freeze := e.freeze.filter (fun f => f.cause ≠ 0)
    rstatL := Vector.ofFn (fun k => rstatWord u k)
    slotL := Vector.ofFn (fun k => slotWord e k) }
  let next := { c with wait := alignWait u, busy := c.busy - 1 }
  (Stands c → SpillSeen c → d = { next with eng := { seen with eff := { e.eff with mxspill := e.mxspill } } }) ∧
  (Stands c → ¬ SpillSeen c → d = { next with eng := seen }) ∧
  (¬ Stands c → d = (lateRecords { u with core := { next with
    csr := { c.csr with scc := c.csr.scc + 1 }
    eng := { seen with
      rings := e.rings.map (fun r => { r with vis := r.tail })
      eff := effOf c.csr e } } }).core)

end Sys2Proof.Claims

/-- DIEFENCE and DIERESET fence a die with an event of kind 4, a reset answering when it is done; VBTRAIN and LVCFG
set a channel and a die's power; CAPCFG starts and stops a capture and REPLAY begins one's replay, in recorded order;
ATTEST writes a quote and FWLOAD keeps a verified image for the next module reset. Operands out of range are refused
(an address that lies in no memory of 09 R204: the model's choice, log entry 38; hash and signature are those of FIPS
180-4 and RFC 8017, keys and salt being free values, log entry 18); a signature of zeros verifies under no key, and each
encoding of a message with a salt of 64 bytes is one that its check takes. The fields of a timer record, the order of a
wrapped buffer and the count of lost starts are the model's reading (log entry 37); the failing sequence that a VBTRAIN
meets runs on (the model's choice, log entry 87) (08 R195, 09 R227, 22 R391, R396, R399, R401 to R404). -/
def Obligations.ModuleCommandsActAndAnswer : Prop :=
  ∀ (s : Machine.State) (c : CmdCtx) (pa pb n : Nat) (v w : Word) (ok : Bool),
    (s.base.rail = true →
      (8 ≤ n → ∀ i ∈ [Instr.diefence c n, .diereset c n, .vbtrain c n pb ok, .lvcfg c n v w], Answers i s c s 1 0) ∧
      (∀ d : Fin 8,
        let fenced := if (s.base.dies[d]).fenced then s else Machine.fenceDie s d
        let cost := costOf w
        let cap := v.toNat % 65536
        Answers (.diefence c d.val) s c (Machine.logEvent (Machine.fenceDie s d) 4 0 d.val c.pid.val) 0 0 ∧
        Machine.exec (.diereset c d.val) s = .next (withBase (Machine.logEvent fenced 4 0 d.val c.pid.val) (fun b => { b with
          dies := b.dies.set d { b.dies[d] with resetting := true }
          cmdWaits := b.cmdWaits ++ [⟨c, none, d, s.gtc + 2 ^ 21⟩] })) ∧
        (16 ≤ pb → Answers (.vbtrain c d.val pb ok) s c s 1 0) ∧
        (∀ k : Fin 16,
          let x := Machine.vchanOf s.base d k
          let wd := if ok then 0 else x.width
          Answers (.vbtrain c d.val k.val ok) s c
            (withChan (Machine.logVbus s x.die x.chan (if ok then 3 else 2) 0 0 0 wd.val) { x with width := wd }) 0 wd.val) ∧
        (BadPower s d cap (cost 0) (cost 1) (cost 2) → Answers (.lvcfg c d.val v w) s c s 1 0) ∧
        (¬ BadPower s d cap (cost 0) (cost 1) (cost 2) → Answers (.lvcfg c d.val v w) s c (withBase s (fun b => { b with
          dies := b.dies.set d { b.dies[d] with cap := cap, costs := #v[0, cost 0, cost 1, cost 2] } })) 0 0)) ∧
      Answers (.capcfgStop c pa n) s c (withBase s (fun b => { b with capture := { b.capture with mode := 0 } })) 0 0 ∧
      (Machine.paRangeOk pa n = false → ∀ i ∈ [Instr.capcfgFull c pa n, .capcfgWrap c pa n, .replay c pa n],
        Answers i s c s 1 0) ∧
      (Machine.paRangeOk pa n = true →
        let got := Machine.readRange s c.pid pa n
        let bs := got.2.getD []
        let recs := Machine.recordOrder (((List.range (n / 64)).map (fun k => (bs.drop (64 * k)).take 64)).filter
          (fun r => 1 ≤ Machine.capType r ∧ Machine.capType r ≤ 4))
        let times := recs.filter (fun r => Machine.capType r == 4)
        let rest := recs.filter (fun r => Machine.capType r != 4)
        (n % 64 ≠ 0 → ∀ i ∈ [Instr.capcfgFull c pa n, .capcfgWrap c pa n, .replay c pa n], Answers i s c s 1 0) ∧
        (n % 64 = 0 →
          Answers (.capcfgFull c pa n) s c (withBase s (fun b => { b with capture := ⟨1, pa, n, 0, 0⟩ })) 0 0 ∧
          Answers (.capcfgWrap c pa n) s c (withBase s (fun b => { b with capture := ⟨2, pa, n, 0, 0⟩ })) 0 0 ∧
          (got.2 = none → Machine.exec (.replay c pa n) s = .next (later got.1 (.replay c pa n))) ∧
          (got.2 ≠ none → Machine.exec (.replay c pa n) s = .next (withBase got.1 (fun b => { b with replay := some ⟨c, pa,
            rest, Machine.lostStarts rest, times.map (fun r => (BitVec.ofNat 32 (Machine.recNat r 16 8), Machine.recNat r 24 8,
              BitVec.ofNat 64 (Machine.recNat r 32 8))), []⟩ })))))) ∧
    (Machine.paRangeOk pa 64 = true → Machine.paRangeOk pb 1728 = true →
      let r := Machine.readRange s c.pid pa 64
      (∀ bs, r.2 = some bs → Answers (.attest c pa pb) s c (Machine.basePut r.1 c.pid pb (quoteOf r.1 bs)) 0 0) ∧
      (r.2 = none → Machine.exec (.attest c pa pb) s = .next (later r.1 (.attest c pa pb)))) ∧
    (Machine.paRangeOk pa 64 = false ∨ Machine.paRangeOk pb 1728 = false → Answers (.attest c pa pb) s c s 1 0) ∧
    (Machine.paRangeOk pa Config.imageSize = false → Answers (.fwload c pa) s c s 1 0) ∧
    (Machine.paRangeOk pa Config.imageSize = true →
      let r := Machine.readRange s c.pid pa Config.imageSize
      (∀ i, r.2 = some i → Machine.imageVerifies i = true →
        Answers (.fwload c pa) s c (withBase r.1 (fun b => { b with image := some i })) 0 0) ∧
      (∀ i, r.2 = some i → Machine.imageVerifies i = false → Answers (.fwload c pa) s c r.1 1 0) ∧
      (∀ m, r.2 = some (m ++ List.replicate 512 0) → Answers (.fwload c pa) s c r.1 1 0) ∧
      (r.2 = none → Machine.exec (.fwload c pa) s = .next (later r.1 (.fwload c pa)))) ∧
    (∀ m salt : List Byte, salt.length = 64 → Machine.pssMatches m (Machine.pssEncode m salt) = true) ∧
    (∀ (die : Fin 8) (x : Machine.CmdWait), s.base.cmdWaits.find? (fun y => y.oid.isNone && y.die == die) = some x →
      Machine.exec (.dieresetResponse die) s = .next (afterHeat (Machine.respond (withBase s (fun b => { b with
        cmdWaits := b.cmdWaits.erase x
        dies := b.dies.set die { b.dies[die] with fenced := false, resetting := false } })) x.c 0 0)))

/-- A new temperature below 115 changes nothing but the sensor and the hot state, which a reading of 105 or more
begins and one below 100 ends; on reaching 115, or at it with a die that is not fenced, every die is fenced (log entry
34). The throttle holds the class-0 cores with a lease: all of them when hot, one cycle in four from 95. A GTC cycle
advances GTC and, on the main rail, the SCC of every listed core unless that core stands, when published ring entries
and engine register writes become visible; MXSPILL is visible also in the matrix engine's freezes of a fault and of a
command's issue. Without the main rail, which MAIN_RAIL_DOWN only takes away, a GTC cycle moves GTC alone: cores and
SCC stand (the model's choice, log entry 2). A module reset gives the reset state with the verified image and its
kernel code installed (log entry 27) (01 R12 to R14, R38, 05 R137, R140, 07 R171, 09 R211, 10 R253, 15 R333, 22 R399
to R401). -/
def Obligations.CyclesThermalStepsAndResets : Prop :=
  ∀ (s : Machine.State) (temp : BitVec 8),
    (let hot := decide (105 ≤ temp.toNat) || (s.base.hot && decide (100 ≤ temp.toNat))
     let t := withBase s (fun b => { b with temp := temp, hot := hot })
     let cooled : Prop := 115 ≤ s.base.temp.toNat ∧ ∀ d : Fin 8, (s.base.dies[d]).fenced = true
     (temp.toNat < 115 ∨ cooled → Machine.exec (.thermalStep temp) s = .next t) ∧
     (¬ cooled → Machine.exec (.thermalStep temp) s = .next (afterHeat t))) ∧
    (let held (c : Machine.Core) : Machine.Core := { c with throttled := decide (c.lease ≠ none ∧ c.csr.pclass = 0 ∧
       (s.base.hot = true ∨ (95 ≤ s.base.temp.toNat ∧ s.gtc % 4 = 0))) }
     Machine.exec .powerThrottle s = .next { s with core := held s.core, others := s.others.map held }) ∧
    Machine.exec .mainRailDown s = .next (withBase s (fun b => { b with rail := false })) ∧
    Machine.exec .mainRailUp s = .next (withBase s (fun b => { b with rail := true })) ∧
    (s.base.rail = false → Machine.exec .gtcCycle s = .next { s with gtc := s.gtc + 1 }) ∧
    (s.base.rail = true → ((s.core :: s.others).map (fun c => c.id)).Nodup → ∃ t, Machine.exec .gtcCycle s = .next t ∧
      t.gtc = s.gtc + 1 ∧ (∀ c ∈ s.core :: s.others, ∃ d, Machine.findCore t c.id = some d ∧ Cycled s c d) ∧
      (s.base.slpend = [] → t.base = { s.base with ports := s.base.ports.map (Machine.cyclePort s.base.nwgt s.gtc) })) ∧
    (∃ t, Machine.exec .gtcCycle s = .next t ∧ t.gtc = s.gtc + 1) ∧
    (let r := Machine.State.reset
     let img := (freshImage s).getD s.base.firmware
     Machine.exec .moduleReset s = .next (afterHeat { r with
       inputs := s.inputs.map (fun p => (p.1 - s.gtc, p.2))
       nextLid := s.nextLid
       nextLaunch := s.nextLaunch
       nextCtx := s.nextCtx
       base := Machine.installKernels { r.base with
         mem := s.base.mem.filter (fun c => decide (2 ^ 48 ≤ c.1 ∧ c.1 < 2 ^ 49))
         temp := s.base.temp
         hot := decide (105 ≤ s.base.temp.toNat)
         rail := s.base.rail
         firmware := img
         kcode := match freshImage s with
           | some i => Machine.installed i
           | none => s.base.kcode } img }))

/-! ## Lanes -/

namespace Sys2Proof.Claims
open Machine

/-- Lane `i` of type `t` of a window row, as the accumulator bytes hold it (19 R353, R357). -/
def laneAt (s : State) (j : Job) (t : Nat) (v : Fin 64) (i : Nat) : Nat :=
  little (fun k => memRead s.core.eng.acc (rowOff j v + i * tySize t + k)) (tySize t)

/-- The value of a `w`-bit lane in two's complement. -/
def signedLane (w x : Nat) : Int := if x < 2 ^ (w - 1) then x else (x : Int) - 2 ^ w

/-- The value of a lane of an integer type (03 R64). -/
def laneVal (t x : Nat) : Int := if 7 ≤ t ∧ t ≤ 10 then signedLane (tyBits t) x else x

/-- The value nearest to `r` that a type holds. -/
def nearest (t : Nat) (r : Int) : Int :=
  if 7 ≤ t ∧ t ≤ 10 then max (-(2 ^ (tyBits t - 1))) (min (2 ^ (tyBits t - 1) - 1) r) else max 0 (min (2 ^ tyBits t - 1) r)

/-- The integer commands on lanes: each with its D and what a lane becomes of a lane of VA, of VB and of VD (20 R371,
R375). -/
def laneCommands (h : Hdr) (vd va vb : Fin 64) (m : Fin 8) (t : Fin 16) (rm : Fin 4) (n : Fin 64) (imf : Bool) :
    List (Instr × Nat × (Nat → Nat → Nat → Int)) :=
  let w := tyBits t.val
  let cnt (b : Nat) : Nat := min w (if imf then n.val else b)
  let x := laneVal t.val
  let sum (f : Nat → Nat → Int) (sat : Bool) (a b _ : Nat) : Int := if sat then nearest t.val (f a b) else f a b
  [(.vadd h vd va vb m t rm false, 2, sum (fun a b => x a + x b) false), (.vadd h vd va vb m t rm true, 2, sum (fun a b => x a + x b) true),
   (.vsub h vd va vb m t rm false, 2, sum (fun a b => x a - x b) false), (.vsub h vd va vb m t rm true, 2, sum (fun a b => x a - x b) true),
   (.vmul h vd va vb m t rm, 4, fun a b _ => a * b), (.vfma h vd va vb m t rm, 4, fun a b d => a * b + d),
   (.vmin h vd va vb m t, 2, fun a b _ => min (x a) (x b)), (.vmax h vd va vb m t, 2, fun a b _ => max (x a) (x b)),
   (.vabs h vd va m t, 2, fun a _ _ => (x a).natAbs), (.vneg h vd va m t, 2, fun a _ _ => -(a : Int)),
   (.vshl h vd va vb m t n imf, 2, fun a b _ => a * 2 ^ cnt b), (.vshr h vd va vb m t n imf, 2, fun a b _ => a / 2 ^ cnt b),
   (.vshra h vd va vb m t n imf, 2, fun a b _ => signedLane w a / 2 ^ cnt b)]

end Sys2Proof.Claims

/-- An integer command on lanes writes, D cycles after its issue, each active lane of its row with the exact result
modulo 2^w, or with the nearest value of the type where it saturates; a shift by the lane's width or more gives 0, or
the sign; lanes that the mask does not select are not written (19 R357, R361, 20 R371, R375). -/
def Obligations.IntegerLanesCompute : Prop :=
  ∀ (s : Machine.State) (j : Machine.Job) (h : Hdr) (vd va vb : Fin 64) (m : Fin 8) (t : Fin 16) (rm : Fin 4) (n : Fin 64) (imf : Bool),
    tyI t → ∀ p ∈ laneCommands h vd va vb m t rm n imf,
      let k := { j with cmd := p.1 }
      let at0 (v : Fin 64) := laneAt s j t.val v
      let v := { k with eng := .vector }
      ∃ vs, Machine.stepForm s v 0 = .done (Machine.addLanes s v false (j.iss + p.2.1) 0 1 vd t.val vs) ∧
        ∀ q : Nat × Nat, q ∈ vs ↔ q.1 < 128 / Machine.tySize t.val ∧ (m = 0 ∨ (s.core.eng.masks[m]).getLsbD q.1 = true) ∧
          (q.2 : Int) = p.2.2 (at0 va q.1) (at0 vb q.1) (at0 vd q.1) % 2 ^ Machine.tyBits t.val

/-! ## What every step keeps -/

namespace Sys2Proof.Claims
open Machine

/-- Every memory of the machine is in its canonical form: addresses rise strictly, and no byte is listed that an
unlisted address reads as. -/
def Canonical (s : State) : Prop :=
  Memory.wf s.base.mem = true ∧ ∀ c, (c = s.core ∨ c ∈ s.others) →
    Memory.wf c.eng.spad = true ∧ Memory.wf c.eng.acc = true ∧ Memory.wf c.eng.wpl = true ∧ Memory.wf c.eng.side = true

end Sys2Proof.Claims

/-- Every step keeps every memory in its canonical form (DESIGN CHOICE, log entry 1: the form is the model's). -/
def Obligations.StepsKeepTheMemoriesCanonical : Prop :=
  ∀ s t : Machine.State, Canonical s → Machine.step s = .next t → Canonical t

/-- After reset GTC and every SCC are 0, no lease runs, every memory is canonical and lists nothing, the firmware's
objects alone are in the table, slices, channels, queues and dies are as the spec gives them (a die's cap 300 W, its
costs 3, 6 and 9), and no command, launch, wake or capture is under way (01 R12, R32, 04 R92, 09 R202 to R213, R219,
R227, 22 R389, R390, R396, R399; the values of log entries 1, 2, 3, 9, 27, 28 and 34 are the model's). -/
def Obligations.ResetStateIsAsTheSpecGivesIt : Prop :=
  let s := Machine.State.reset
  Canonical s ∧ s.gtc = 0 ∧ s.core.csr.scc = 0 ∧ s.core.lease = none ∧ s.others = [] ∧ s.core.csr.mode = false ∧
    s.core.csr.extdist = 0x010 ∧ s.core.eng.jobs = [] ∧ (∀ k : Fin 3, (s.core.eng.rings[k]).en = false) ∧
    (∀ a, Machine.memRead s.base.mem a = 0) ∧ s.base.live = [] ∧ s.base.lines = [] ∧ s.base.dir = [] ∧ s.base.resv = [] ∧
    (∀ g, Machine.regGet s.base.slcfg g 0x555500000000 = 0x555500000000) ∧ (∀ k : Fin 16, s.base.nwgt[k] = 1) ∧ s.base.vbus = [] ∧
    s.base.launches = [] ∧ s.base.ctxs = [] ∧ s.base.hcqhead = s.base.hcqtail ∧ s.base.capture.mode = 0 ∧ s.base.replay = none ∧
    s.base.bias = [] ∧ s.base.objs = Machine.fwObjs ∧ s.base.cmdq = [] ∧ s.base.cmdWaits = [] ∧ s.base.kbell = [] ∧
    (∀ k : Fin 16, s.base.queues[k] = [] ∧ s.base.qcfg[k] = 1 ∧ s.base.kcode[k] = none) ∧ s.base.stageqs = [] ∧
    s.base.mem = [] ∧ s.base.tags = [] ∧ s.base.slpend = [] ∧ s.base.releases = [] ∧ s.base.wakes = [] ∧ s.base.fetched = [] ∧
    s.core.eng.spad = [] ∧ s.core.eng.acc = [] ∧ s.core.eng.wpl = [] ∧ s.core.eng.side = [] ∧ s.core.l1 = [] ∧ s.core.sb = [] ∧
    (∀ d : Fin 8, (s.base.dies[d]).fenced = false ∧ (s.base.dies[d]).resetting = false ∧ (s.base.dies[d]).cap = 300 ∧
      s.base.dies[d].costs = #v[0, 3, 6, 9] ∧ (s.base.dies[d]).waiting = [])

end
end

