-- ==== Sys2Proof/Laws/Decode.lean ====
section
/-! SUPPORT. Laws/Decode.lean: the fields of a word come back from the word they were packed into. -/

namespace Sys2Proof

/-- A sequencer word gives back the fields that it was packed from. -/
theorem SeqFields.unpack_pack (f : SeqFields) : SeqFields.unpack f.pack = f := by
  obtain ⟨maj, a, b, c, fn, imm⟩ := f
  have h1 := maj.isLt
  have h2 := a.isLt
  have h3 := b.isLt
  have h4 := c.isLt
  have h5 := fn.isLt
  have h6 := imm.isLt
  have hn : (SeqFields.pack ⟨maj, a, b, c, fn, imm⟩).toNat =
      maj.val * 2 ^ 58 + a.val * 2 ^ 52 + b.val * 2 ^ 46 + c.val * 2 ^ 40 + fn.val * 2 ^ 32 + imm.toNat := by
    simp only [SeqFields.pack, word, BitVec.toNat_ofNat]
    exact Nat.mod_eq_of_lt (by omega)
  have himm : BitVec.ofNat 32 (maj.val * 2 ^ 58 + a.val * 2 ^ 52 + b.val * 2 ^ 46 + c.val * 2 ^ 40 + fn.val * 2 ^ 32 + imm.toNat) = imm := by
    apply BitVec.eq_of_toNat_eq
    simp only [BitVec.toNat_ofNat]
    omega
  simp only [SeqFields.unpack, hn, himm, SeqFields.mk.injEq, Fin.ext_iff, Fin.val_ofNat, and_true]
  refine ⟨?_, ?_, ?_, ?_, ?_⟩ <;> omega

/-- A command word gives back the fields that it was packed from. -/
theorem CmdFields.unpack_pack (f : CmdFields) : CmdFields.unpack f.pack = f := by
  obtain ⟨wk, wv, ss, sc, eop, opf⟩ := f
  have h1 := wk.isLt
  have h2 := wv.isLt
  have h3 := ss.isLt
  have h4 := sc.isLt
  have h5 := eop.isLt
  have h6 := opf.isLt
  have hn : (CmdFields.pack ⟨wk, wv, ss, sc, eop, opf⟩).toNat =
      wk.val * 2 ^ 62 + wv.val * 2 ^ 56 + ss.val * 2 ^ 52 + sc.val * 2 ^ 48 + eop.val * 2 ^ 40 + opf.val := by
    simp only [CmdFields.pack, word, BitVec.toNat_ofNat]
    exact Nat.mod_eq_of_lt (by omega)
  simp only [CmdFields.unpack, hn, CmdFields.mk.injEq, Fin.ext_iff, Fin.val_ofNat]
  refine ⟨?_, ?_, ?_, ?_, ?_, ?_⟩ <;> omega

/-- The copy operand field gives back what it was packed from. -/
theorem CopyOpf.unpack_pack (f : CopyOpf) : CopyOpf.unpack (opfOf f.pack).val = f := by
  obtain ⟨ch, qd, qs, qx, bc, md, imm⟩ := f
  have h1 := ch.isLt
  have h2 := qd.isLt
  have h3 := qs.isLt
  have h4 := qx.isLt
  have h5 := bc.isLt
  have h6 := md.isLt
  have h7 := imm.isLt
  have hn : (opfOf (CopyOpf.pack ⟨ch, qd, qs, qx, bc, md, imm⟩)).val =
      ch.val * 2 ^ 38 + qd.val * 2 ^ 34 + qs.val * 2 ^ 30 + qx.val * 2 ^ 26 + bc.val * 2 ^ 25 + md.val * 2 ^ 21 + imm.val := by
    simp only [opfOf, CopyOpf.pack, Fin.val_ofNat]
    exact Nat.mod_eq_of_lt (by omega)
  simp only [CopyOpf.unpack, hn, CopyOpf.mk.injEq, Fin.ext_iff, Fin.val_ofNat]
  refine ⟨?_, ?_, ?_, ?_, ?_, ?_, ?_⟩ <;> omega

/-- The matrix operand field gives back what it was packed from. -/
theorem MatOpf.unpack_pack (f : MatOpf) : MatOpf.unpack (opfOf f.pack).val = f := by
  obtain ⟨tile, spa, we, lbl, nrow⟩ := f
  have h1 := tile.isLt
  have h2 := spa.isLt
  have h3 := we.isLt
  have h4 := lbl.isLt
  have h5 := nrow.isLt
  have hn : (opfOf (MatOpf.pack ⟨tile, spa, we, lbl, nrow⟩)).val =
      tile.val * 2 ^ 36 + spa.val * 2 ^ 22 + we.val * 2 ^ 15 + lbl.val * 2 ^ 7 + nrow.val := by
    simp only [opfOf, MatOpf.pack, Fin.val_ofNat]
    exact Nat.mod_eq_of_lt (by omega)
  simp only [MatOpf.unpack, hn, MatOpf.mk.injEq, Fin.ext_iff, Fin.val_ofNat]
  refine ⟨?_, ?_, ?_, ?_, ?_⟩ <;> omega

/-- The vector operand field gives back what it was packed from. -/
theorem VecOpf.unpack_pack (f : VecOpf) : VecOpf.unpack (opfOf f.pack).val = f := by
  obtain ⟨vd, va, vb, m, t, imm⟩ := f
  have h1 := vd.isLt
  have h2 := va.isLt
  have h3 := vb.isLt
  have h4 := m.isLt
  have h5 := t.isLt
  have h6 := imm.isLt
  have hn : (opfOf (VecOpf.pack ⟨vd, va, vb, m, t, imm⟩)).val =
      vd.val * 2 ^ 34 + va.val * 2 ^ 28 + vb.val * 2 ^ 22 + m.val * 2 ^ 19 + t.val * 2 ^ 15 + imm.val := by
    simp only [opfOf, VecOpf.pack, Fin.val_ofNat]
    exact Nat.mod_eq_of_lt (by omega)
  simp only [VecOpf.unpack, hn, VecOpf.mk.injEq, Fin.ext_iff, Fin.val_ofNat]
  refine ⟨?_, ?_, ?_, ?_, ?_, ?_⟩ <;> omega

/-- The number of a capability register survives its 6-bit field. -/
@[simp] theorem creg_wide (r : CReg) : creg (wide r) = some r := by
  simp [creg, wide, r.isLt]

/-- An engine's code names the engine. -/
@[simp] theorem Eng.ofCode_code (e : Eng) : Eng.ofCode (Fin.ofNat 4 e.code) = some e := by
  cases e <;> rfl

/-- A space's code names the space. -/
@[simp] theorem Space.ofCode_code (sp : Space) : Space.ofCode sp.code = some sp := by
  cases sp <;> rfl

/-- An ordering immediate comes back from IMM. -/
theorem Ord.ofImm_toNat (o : Ord) : Ord.ofImm o.toNat = o := by
  obtain ⟨a, h, d, g, t, p⟩ := o
  revert a
  cases h <;> cases d <;> cases g <;> cases t <;> cases p <;> decide

end Sys2Proof
end

