-- ==== Sys2Proof/Laws/Memory.lean ====
section
/-! SUPPORT. Laws/Memory.lean: every memory operation keeps the canonical form, a read after a write, and what a memory operation
leaves alone (DESIGN CHOICE, log entry 1). -/

namespace Sys2Proof.Machine

/-! ## The canonical form -/

/-- The form as a property of all cells: addresses rise strictly and no listed byte is 0. -/
theorem Memory.wf_iff (m : Mem) : Memory.wf m = true ↔ m.Pairwise (fun c d => c.1 < d.1) ∧ ∀ c ∈ m, c.2 ≠ 0 := by
  induction m with
  | nil => simp [Memory.wf]
  | cons c t ih =>
    obtain ⟨a, v⟩ := c
    cases t with
    | nil => simp [Memory.wf]
    | cons d u =>
      obtain ⟨b, w⟩ := d
      simp only [Memory.wf, Bool.and_eq_true, bne_iff_ne, decide_eq_true_eq, ih]
      constructor
      · rintro ⟨⟨hv, hab⟩, hp, hn⟩
        refine ⟨List.pairwise_cons.2 ⟨?_, hp⟩, ?_⟩
        · intro c hc
          rcases List.mem_cons.1 hc with rfl | hc
          · exact hab
          · exact lt_trans hab ((List.pairwise_cons.1 hp).1 c hc)
        · intro c hc
          rcases List.mem_cons.1 hc with rfl | hc
          · exact hv
          · exact hn c hc
      · rintro ⟨hp, hn⟩
        have hp' := List.pairwise_cons.1 hp
        exact ⟨⟨hn (a, v) (by simp), hp'.1 (b, w) (by simp)⟩, hp'.2, fun c hc => hn c (by simp [hc])⟩

/-- The tail of a canonical list is canonical, and its addresses are above the first. -/
theorem Memory.wf_cons (a : Nat) (v : Byte) (t : Mem) :
    Memory.wf ((a, v) :: t) = true ↔ v ≠ 0 ∧ (∀ c ∈ t, a < c.1) ∧ Memory.wf t = true := by
  simp only [Memory.wf_iff, List.pairwise_cons, List.mem_cons, forall_eq_or_imp]
  tauto

/-- The empty memory is canonical. -/
@[simp] theorem Memory.wf_nil : Memory.wf [] = true := rfl

/-- A part of a canonical memory is canonical. -/
theorem Memory.wf_filter (m : Mem) (p : Host.Cell → Bool) (h : Memory.wf m = true) : Memory.wf (m.filter p) = true := by
  rw [Memory.wf_iff] at h ⊢
  exact ⟨h.1.filter p, fun c hc => h.2 c (List.mem_of_mem_filter hc)⟩

/-- The cells that a write can leave. -/
theorem mem_memWrite (m : Mem) (a : Nat) (v : Byte) (c : Host.Cell) (h : c ∈ memWrite m a v) : c ∈ m ∨ (c = (a, v) ∧ v ≠ 0) := by
  induction m with
  | nil =>
    by_cases hv : v = 0
    · simp [memWrite, hv] at h
    · simp only [memWrite, hv, if_false, List.mem_singleton] at h
      exact .inr ⟨h, hv⟩
  | cons d t ih =>
    obtain ⟨k, w⟩ := d
    simp only [memWrite] at h
    split at h
    · split at h
      · exact .inl h
      · rename_i hv
        rcases List.mem_cons.1 h with rfl | h
        · exact .inr ⟨rfl, hv⟩
        · exact .inl h
    · split at h
      · split at h
        · exact .inl (List.mem_cons_of_mem _ h)
        · rename_i ha hv
          subst ha
          rcases List.mem_cons.1 h with rfl | h
          · exact .inr ⟨rfl, hv⟩
          · exact .inl (List.mem_cons_of_mem _ h)
      · rcases List.mem_cons.1 h with rfl | h
        · exact .inl (by simp)
        · rcases ih h with h | h
          · exact .inl (List.mem_cons_of_mem _ h)
          · exact .inr h

/-- A write keeps the canonical form. -/
theorem Memory.wf_memWrite (m : Mem) (a : Nat) (v : Byte) (h : Memory.wf m = true) : Memory.wf (memWrite m a v) = true := by
  induction m with
  | nil =>
    unfold memWrite
    split
    · rfl
    · rename_i hv
      exact (Memory.wf_cons a v []).2 ⟨hv, by simp, rfl⟩
  | cons d t ih =>
    obtain ⟨k, w⟩ := d
    obtain ⟨hw, hk, ht⟩ := (Memory.wf_cons k w t).1 h
    simp only [memWrite]
    split
    · rename_i hak
      split
      · exact h
      · rename_i hv
        refine (Memory.wf_cons a v _).2 ⟨hv, ?_, h⟩
        intro c hc
        rcases List.mem_cons.1 hc with rfl | hc
        · exact hak
        · exact lt_trans hak (hk c hc)
    · split
      · split
        · exact ht
        · rename_i hv
          exact (Memory.wf_cons k v t).2 ⟨hv, hk, ht⟩
      · rename_i h1 h2
        refine (Memory.wf_cons k w _).2 ⟨hw, ?_, ih ht⟩
        intro c hc
        rcases mem_memWrite t a v c hc with hc | ⟨rfl, -⟩
        · exact hk c hc
        · exact lt_of_le_of_ne (not_lt.1 h1) (fun e => h2 e.symm)

/-- Writing a list of bytes keeps the canonical form. -/
theorem Memory.wf_memWriteL (m : Mem) (a : Nat) (bs : List Byte) (h : Memory.wf m = true) : Memory.wf (memWriteL m a bs) = true := by
  induction bs generalizing m a with
  | nil => exact h
  | cons b bs ih => exact ih _ _ (Memory.wf_memWrite m a b h)

/-- Writing listed bytes keeps the canonical form. -/
theorem Memory.wf_memWrites (m : Mem) (ps : List (Nat × Byte)) (h : Memory.wf m = true) : Memory.wf (memWrites m ps) = true := by
  induction ps generalizing m with
  | nil => exact h
  | cons p ps ih => exact ih _ (Memory.wf_memWrite m p.1 p.2 h)

/-- Clearing a range keeps the canonical form. -/
theorem Memory.wf_memClear (m : Mem) (a n : Nat) (h : Memory.wf m = true) : Memory.wf (memClear m a n) = true :=
  Memory.wf_filter m _ h

/-- Writing a number keeps the canonical form. -/
theorem Memory.wf_memPut (m : Mem) (a n v : Nat) (h : Memory.wf m = true) : Memory.wf (memPut m a n v) = true :=
  Memory.wf_memWriteL m a _ h

/-- A moved part of a canonical memory is canonical. -/
theorem Memory.wf_memMove (m : Mem) (a n b : Nat) (h : Memory.wf m = true) : Memory.wf (memMove m a n b) = true := by
  rw [Memory.wf_iff] at h ⊢
  constructor
  · rw [memMove, List.pairwise_map]
    refine (h.1.filter _).imp_of_mem ?_
    intro c d hc hd hcd
    have h1 := (List.mem_filter.1 hc).2
    have h2 := (List.mem_filter.1 hd).2
    simp only [Bool.and_eq_true, decide_eq_true_eq] at h1 h2
    show c.1 - a + b < d.1 - a + b
    omega
  · intro c hc
    obtain ⟨d, hd, rfl⟩ := List.mem_map.1 hc
    exact h.2 d (List.mem_of_mem_filter hd)

/-- The memories of the reset state are canonical. -/
theorem Memory.wf_reset : Memory.wf State.reset.base.mem = true := rfl

/-! ## Reads -/

/-- Below every listed address a memory reads 0. -/
theorem memRead_below (m : Mem) (a : Nat) (h : ∀ c ∈ m, a < c.1) : memRead m a = 0 := by
  cases m with
  | nil => rfl
  | cons c t =>
    have hc := h c (by simp)
    simp [memRead, hc, (ne_of_lt hc).symm]

/-- A byte read after a write is the byte written, there, and the old byte elsewhere. -/
theorem memRead_memWrite (m : Mem) (a b : Nat) (v : Byte) (h : Memory.wf m = true) :
    memRead (memWrite m a v) b = if b = a then v else memRead m b := by
  induction m with
  | nil =>
    by_cases hv : v = 0
    · simp [memWrite, hv, memRead]
    · simp only [memWrite, hv, if_false, memRead]
      split_ifs <;> simp_all
  | cons d t ih =>
    obtain ⟨k, w⟩ := d
    obtain ⟨hw, hk, ht⟩ := (Memory.wf_cons k w t).1 h
    have ih := ih ht
    simp only [memWrite]
    rcases lt_trichotomy a k with hak | rfl | hak
    · rw [if_pos hak]
      by_cases hv : v = 0
      · rw [if_pos hv]
        split_ifs with hb
        · subst hb
          rw [hv]
          simp [memRead, hak, (ne_of_lt hak).symm]
        · rfl
      · rw [if_neg hv]
        by_cases hb : b = a
        · simp [memRead, hb]
        · have hb' : a ≠ b := fun e => hb e.symm
          simp only [memRead, hb', hb, if_false]
          split_ifs <;> first | rfl | omega
    · rw [if_neg (lt_irrefl a), if_pos rfl]
      by_cases hv : v = 0
      · rw [if_pos hv]
        by_cases hb : b = a
        · subst hb
          rw [if_pos rfl, hv]
          exact memRead_below t b hk
        · rw [if_neg hb]
          have hb' : a ≠ b := fun e => hb e.symm
          simp only [memRead, hb', if_false]
          split_ifs with h2
          · exact memRead_below t b (fun c hc => lt_trans h2 (hk c hc))
          · rfl
      · rw [if_neg hv]
        by_cases hb : b = a
        · simp [memRead, hb]
        · have hb' : a ≠ b := fun e => hb e.symm
          simp [memRead, hb', hb]
    · rw [if_neg (by omega), if_neg (by omega)]
      simp only [memRead]
      by_cases hb : b = a
      · subst hb
        rw [if_neg (by omega), if_neg (by omega), ih, if_pos rfl, if_pos rfl]
      · rw [if_neg hb] at ih ⊢
        rw [ih]

/-- Bytes read after a list of bytes was written. -/
theorem memRead_memWriteL (m : Mem) (a b : Nat) (bs : List Byte) (h : Memory.wf m = true) :
    memRead (memWriteL m a bs) b = if a ≤ b ∧ b < a + bs.length then bs.getD (b - a) 0 else memRead m b := by
  induction bs generalizing m a with
  | nil => simp [memWriteL]
  | cons c bs ih =>
    rw [memWriteL, ih _ _ (Memory.wf_memWrite m a c h), memRead_memWrite m a b c h]
    simp only [List.length_cons]
    by_cases hb : b = a
    · subst hb
      rw [if_neg (by omega), if_pos rfl, if_pos (by omega)]
      simp
    · by_cases hr : a + 1 ≤ b ∧ b < a + 1 + bs.length
      · rw [if_pos hr, if_pos (by omega)]
        have : b - a = b - (a + 1) + 1 := by omega
        rw [this]
        simp
      · rw [if_neg hr, if_neg hb, if_neg (by omega)]

/-- A write of bytes leaves every byte outside them alone. -/
theorem memRead_memWriteL_outside (m : Mem) (a b : Nat) (bs : List Byte) (h : Memory.wf m = true) (hb : b < a ∨ a + bs.length ≤ b) :
    memRead (memWriteL m a bs) b = memRead m b := by
  rw [memRead_memWriteL m a b bs h, if_neg (by omega)]

/-- Equal reads make equal canonical memories. -/
theorem Memory.ext (m n : Mem) (hm : Memory.wf m = true) (hn : Memory.wf n = true) (h : ∀ a, memRead m a = memRead n a) : m = n := by
  induction m generalizing n with
  | nil =>
    cases n with
    | nil => rfl
    | cons d u =>
      obtain ⟨b, w⟩ := d
      have := h b
      simp only [memRead, if_true] at this
      exact absurd this.symm ((Memory.wf_cons b w u).1 hn).1
  | cons c t ih =>
    obtain ⟨a, v⟩ := c
    obtain ⟨hv, ha, ht⟩ := (Memory.wf_cons a v t).1 hm
    cases n with
    | nil =>
      have := h a
      simp only [memRead, if_true] at this
      exact absurd this hv
    | cons d u =>
      obtain ⟨b, w⟩ := d
      obtain ⟨hw, hb, hu⟩ := (Memory.wf_cons b w u).1 hn
      have h1 := h a
      have h2 := h b
      simp only [memRead, if_true] at h1 h2
      rcases lt_trichotomy a b with hab | rfl | hab
      · rw [if_neg (by omega), if_pos hab] at h1
        exact absurd h1 hv
      · rw [if_pos rfl] at h1
        subst h1
        congr 1
        refine ih u ht hu (fun x => ?_)
        by_cases hx : a = x
        · subst hx
          rw [memRead_below t a ha, memRead_below u a hb]
        · have h3 := h x
          simp only [memRead, hx, if_false] at h3
          split_ifs at h3 with h4
          · rw [memRead_below t x (fun c hc => lt_trans h4 (ha c hc)), memRead_below u x (fun c hc => lt_trans h4 (hb c hc))]
          · exact h3
      · rw [if_neg (by omega), if_pos hab] at h2
        exact absurd h2.symm hw

end Sys2Proof.Machine
end

