-- ==== Sys2Proof/Laws/State.lean ====
section
/-! SUPPORT. Laws/State.lean: what the named updates of a state change, field by field. -/

namespace Sys2Proof.Machine

/-! ## setPc -/

@[simp] theorem setPc_core_id (s : State) (v : Word) : (setPc s v).core.id = s.core.id := rfl
@[simp] theorem setPc_core_csr (s : State) (v : Word) : (setPc s v).core.csr = s.core.csr := rfl
@[simp] theorem setPc_core_eng (s : State) (v : Word) : (setPc s v).core.eng = s.core.eng := rfl
@[simp] theorem setPc_core_l1 (s : State) (v : Word) : (setPc s v).core.l1 = s.core.l1 := rfl
@[simp] theorem setPc_core_sb (s : State) (v : Word) : (setPc s v).core.sb = s.core.sb := rfl
@[simp] theorem setPc_core_tcache (s : State) (v : Word) : (setPc s v).core.tcache = s.core.tcache := rfl
@[simp] theorem setPc_core_resvSeq (s : State) (v : Word) : (setPc s v).core.resvSeq = s.core.resvSeq := rfl
@[simp] theorem setPc_core_wait (s : State) (v : Word) : (setPc s v).core.wait = s.core.wait := rfl
@[simp] theorem setPc_core_busy (s : State) (v : Word) : (setPc s v).core.busy = s.core.busy := rfl
@[simp] theorem setPc_core_saving (s : State) (v : Word) : (setPc s v).core.saving = s.core.saving := rfl
@[simp] theorem setPc_core_refusal (s : State) (v : Word) : (setPc s v).core.refusal = s.core.refusal := rfl
@[simp] theorem setPc_core_posted (s : State) (v : Word) : (setPc s v).core.posted = s.core.posted := rfl
@[simp] theorem setPc_core_power (s : State) (v : Word) : (setPc s v).core.power = s.core.power := rfl
@[simp] theorem setPc_core_gated (s : State) (v : Word) : (setPc s v).core.gated = s.core.gated := rfl
@[simp] theorem setPc_core_throttled (s : State) (v : Word) : (setPc s v).core.throttled = s.core.throttled := rfl
@[simp] theorem setPc_core_lease (s : State) (v : Word) : (setPc s v).core.lease = s.core.lease := rfl
@[simp] theorem setPc_core_seq_x (s : State) (v : Word) : (setPc s v).core.seq.x = s.core.seq.x := rfl
@[simp] theorem setPc_core_seq_c (s : State) (v : Word) : (setPc s v).core.seq.c = s.core.seq.c := rfl
@[simp] theorem setPc_core_seq_pc (s : State) (v : Word) : (setPc s v).core.seq.pc = v := rfl
@[simp] theorem setPc_others (s : State) (v : Word) : (setPc s v).others = s.others := rfl
@[simp] theorem setPc_rot (s : State) (v : Word) : (setPc s v).rot = s.rot := rfl
@[simp] theorem setPc_phase (s : State) (v : Word) : (setPc s v).phase = s.phase := rfl
@[simp] theorem setPc_gtc (s : State) (v : Word) : (setPc s v).gtc = s.gtc := rfl
@[simp] theorem setPc_base (s : State) (v : Word) : (setPc s v).base = s.base := rfl
@[simp] theorem setPc_inputs (s : State) (v : Word) : (setPc s v).inputs = s.inputs := rfl
@[simp] theorem setPc_holds (s : State) (v : Word) : (setPc s v).holds = s.holds := rfl
@[simp] theorem setPc_nextLid (s : State) (v : Word) : (setPc s v).nextLid = s.nextLid := rfl
@[simp] theorem setPc_nextLaunch (s : State) (v : Word) : (setPc s v).nextLaunch = s.nextLaunch := rfl
@[simp] theorem setPc_nextCtx (s : State) (v : Word) : (setPc s v).nextCtx = s.nextCtx := rfl

/-! ## retire -/

@[simp] theorem retire_core_id (s : State) (n : Nat) : (retire n s).core.id = s.core.id := rfl
@[simp] theorem retire_core_csr (s : State) (n : Nat) : (retire n s).core.csr = s.core.csr := rfl
@[simp] theorem retire_core_eng (s : State) (n : Nat) : (retire n s).core.eng = s.core.eng := rfl
@[simp] theorem retire_core_l1 (s : State) (n : Nat) : (retire n s).core.l1 = s.core.l1 := rfl
@[simp] theorem retire_core_sb (s : State) (n : Nat) : (retire n s).core.sb = s.core.sb := rfl
@[simp] theorem retire_core_tcache (s : State) (n : Nat) : (retire n s).core.tcache = s.core.tcache := rfl
@[simp] theorem retire_core_resvSeq (s : State) (n : Nat) : (retire n s).core.resvSeq = s.core.resvSeq := rfl
@[simp] theorem retire_core_wait (s : State) (n : Nat) : (retire n s).core.wait = s.core.wait := rfl
@[simp] theorem retire_core_busy (s : State) (n : Nat) : (retire n s).core.busy = n := rfl
@[simp] theorem retire_core_saving (s : State) (n : Nat) : (retire n s).core.saving = s.core.saving := rfl
@[simp] theorem retire_core_refusal (s : State) (n : Nat) : (retire n s).core.refusal = s.core.refusal := rfl
@[simp] theorem retire_core_posted (s : State) (n : Nat) : (retire n s).core.posted = s.core.posted := rfl
@[simp] theorem retire_core_power (s : State) (n : Nat) : (retire n s).core.power = s.core.power := rfl
@[simp] theorem retire_core_gated (s : State) (n : Nat) : (retire n s).core.gated = s.core.gated := rfl
@[simp] theorem retire_core_throttled (s : State) (n : Nat) : (retire n s).core.throttled = s.core.throttled := rfl
@[simp] theorem retire_core_lease (s : State) (n : Nat) : (retire n s).core.lease = s.core.lease := rfl
@[simp] theorem retire_core_seq_x (s : State) (n : Nat) : (retire n s).core.seq.x = s.core.seq.x := rfl
@[simp] theorem retire_core_seq_c (s : State) (n : Nat) : (retire n s).core.seq.c = s.core.seq.c := rfl
@[simp] theorem retire_core_seq_pc (s : State) (n : Nat) : (retire n s).core.seq.pc = s.core.seq.pc + 8 := rfl
@[simp] theorem retire_others (s : State) (n : Nat) : (retire n s).others = s.others := rfl
@[simp] theorem retire_rot (s : State) (n : Nat) : (retire n s).rot = s.rot := rfl
@[simp] theorem retire_phase (s : State) (n : Nat) : (retire n s).phase = s.phase := rfl
@[simp] theorem retire_gtc (s : State) (n : Nat) : (retire n s).gtc = s.gtc := rfl
@[simp] theorem retire_base (s : State) (n : Nat) : (retire n s).base = s.base := rfl
@[simp] theorem retire_inputs (s : State) (n : Nat) : (retire n s).inputs = s.inputs := rfl
@[simp] theorem retire_holds (s : State) (n : Nat) : (retire n s).holds = s.holds := rfl
@[simp] theorem retire_nextLid (s : State) (n : Nat) : (retire n s).nextLid = s.nextLid := rfl
@[simp] theorem retire_nextLaunch (s : State) (n : Nat) : (retire n s).nextLaunch = s.nextLaunch := rfl
@[simp] theorem retire_nextCtx (s : State) (n : Nat) : (retire n s).nextCtx = s.nextCtx := rfl

/-! ## jumpTo -/

@[simp] theorem jumpTo_core_id (s : State) (n : Nat) (t : Word) : (jumpTo n t s).core.id = s.core.id := rfl
@[simp] theorem jumpTo_core_csr (s : State) (n : Nat) (t : Word) : (jumpTo n t s).core.csr = s.core.csr := rfl
@[simp] theorem jumpTo_core_eng (s : State) (n : Nat) (t : Word) : (jumpTo n t s).core.eng = s.core.eng := rfl
@[simp] theorem jumpTo_core_l1 (s : State) (n : Nat) (t : Word) : (jumpTo n t s).core.l1 = s.core.l1 := rfl
@[simp] theorem jumpTo_core_sb (s : State) (n : Nat) (t : Word) : (jumpTo n t s).core.sb = s.core.sb := rfl
@[simp] theorem jumpTo_core_tcache (s : State) (n : Nat) (t : Word) : (jumpTo n t s).core.tcache = s.core.tcache := rfl
@[simp] theorem jumpTo_core_resvSeq (s : State) (n : Nat) (t : Word) : (jumpTo n t s).core.resvSeq = s.core.resvSeq := rfl
@[simp] theorem jumpTo_core_wait (s : State) (n : Nat) (t : Word) : (jumpTo n t s).core.wait = s.core.wait := rfl
@[simp] theorem jumpTo_core_busy (s : State) (n : Nat) (t : Word) : (jumpTo n t s).core.busy = n := rfl
@[simp] theorem jumpTo_core_saving (s : State) (n : Nat) (t : Word) : (jumpTo n t s).core.saving = s.core.saving := rfl
@[simp] theorem jumpTo_core_refusal (s : State) (n : Nat) (t : Word) : (jumpTo n t s).core.refusal = s.core.refusal := rfl
@[simp] theorem jumpTo_core_posted (s : State) (n : Nat) (t : Word) : (jumpTo n t s).core.posted = s.core.posted := rfl
@[simp] theorem jumpTo_core_power (s : State) (n : Nat) (t : Word) : (jumpTo n t s).core.power = s.core.power := rfl
@[simp] theorem jumpTo_core_gated (s : State) (n : Nat) (t : Word) : (jumpTo n t s).core.gated = s.core.gated := rfl
@[simp] theorem jumpTo_core_throttled (s : State) (n : Nat) (t : Word) : (jumpTo n t s).core.throttled = s.core.throttled := rfl
@[simp] theorem jumpTo_core_lease (s : State) (n : Nat) (t : Word) : (jumpTo n t s).core.lease = s.core.lease := rfl
@[simp] theorem jumpTo_core_seq_x (s : State) (n : Nat) (t : Word) : (jumpTo n t s).core.seq.x = s.core.seq.x := rfl
@[simp] theorem jumpTo_core_seq_c (s : State) (n : Nat) (t : Word) : (jumpTo n t s).core.seq.c = s.core.seq.c := rfl
@[simp] theorem jumpTo_core_seq_pc (s : State) (n : Nat) (t : Word) : (jumpTo n t s).core.seq.pc = t := rfl
@[simp] theorem jumpTo_others (s : State) (n : Nat) (t : Word) : (jumpTo n t s).others = s.others := rfl
@[simp] theorem jumpTo_rot (s : State) (n : Nat) (t : Word) : (jumpTo n t s).rot = s.rot := rfl
@[simp] theorem jumpTo_phase (s : State) (n : Nat) (t : Word) : (jumpTo n t s).phase = s.phase := rfl
@[simp] theorem jumpTo_gtc (s : State) (n : Nat) (t : Word) : (jumpTo n t s).gtc = s.gtc := rfl
@[simp] theorem jumpTo_base (s : State) (n : Nat) (t : Word) : (jumpTo n t s).base = s.base := rfl
@[simp] theorem jumpTo_inputs (s : State) (n : Nat) (t : Word) : (jumpTo n t s).inputs = s.inputs := rfl
@[simp] theorem jumpTo_holds (s : State) (n : Nat) (t : Word) : (jumpTo n t s).holds = s.holds := rfl
@[simp] theorem jumpTo_nextLid (s : State) (n : Nat) (t : Word) : (jumpTo n t s).nextLid = s.nextLid := rfl
@[simp] theorem jumpTo_nextLaunch (s : State) (n : Nat) (t : Word) : (jumpTo n t s).nextLaunch = s.nextLaunch := rfl
@[simp] theorem jumpTo_nextCtx (s : State) (n : Nat) (t : Word) : (jumpTo n t s).nextCtx = s.nextCtx := rfl

/-! ## onEng -/

@[simp] theorem onEng_core_id (s : State) (f : Engines → Engines) : (onEng s f).core.id = s.core.id := rfl
@[simp] theorem onEng_core_seq (s : State) (f : Engines → Engines) : (onEng s f).core.seq = s.core.seq := rfl
@[simp] theorem onEng_core_csr (s : State) (f : Engines → Engines) : (onEng s f).core.csr = s.core.csr := rfl
@[simp] theorem onEng_core_eng (s : State) (f : Engines → Engines) : (onEng s f).core.eng = f s.core.eng := rfl
@[simp] theorem onEng_core_l1 (s : State) (f : Engines → Engines) : (onEng s f).core.l1 = s.core.l1 := rfl
@[simp] theorem onEng_core_sb (s : State) (f : Engines → Engines) : (onEng s f).core.sb = s.core.sb := rfl
@[simp] theorem onEng_core_tcache (s : State) (f : Engines → Engines) : (onEng s f).core.tcache = s.core.tcache := rfl
@[simp] theorem onEng_core_resvSeq (s : State) (f : Engines → Engines) : (onEng s f).core.resvSeq = s.core.resvSeq := rfl
@[simp] theorem onEng_core_wait (s : State) (f : Engines → Engines) : (onEng s f).core.wait = s.core.wait := rfl
@[simp] theorem onEng_core_busy (s : State) (f : Engines → Engines) : (onEng s f).core.busy = s.core.busy := rfl
@[simp] theorem onEng_core_saving (s : State) (f : Engines → Engines) : (onEng s f).core.saving = s.core.saving := rfl
@[simp] theorem onEng_core_refusal (s : State) (f : Engines → Engines) : (onEng s f).core.refusal = s.core.refusal := rfl
@[simp] theorem onEng_core_posted (s : State) (f : Engines → Engines) : (onEng s f).core.posted = s.core.posted := rfl
@[simp] theorem onEng_core_power (s : State) (f : Engines → Engines) : (onEng s f).core.power = s.core.power := rfl
@[simp] theorem onEng_core_gated (s : State) (f : Engines → Engines) : (onEng s f).core.gated = s.core.gated := rfl
@[simp] theorem onEng_core_throttled (s : State) (f : Engines → Engines) : (onEng s f).core.throttled = s.core.throttled := rfl
@[simp] theorem onEng_core_lease (s : State) (f : Engines → Engines) : (onEng s f).core.lease = s.core.lease := rfl
@[simp] theorem onEng_others (s : State) (f : Engines → Engines) : (onEng s f).others = s.others := rfl
@[simp] theorem onEng_rot (s : State) (f : Engines → Engines) : (onEng s f).rot = s.rot := rfl
@[simp] theorem onEng_phase (s : State) (f : Engines → Engines) : (onEng s f).phase = s.phase := rfl
@[simp] theorem onEng_gtc (s : State) (f : Engines → Engines) : (onEng s f).gtc = s.gtc := rfl
@[simp] theorem onEng_base (s : State) (f : Engines → Engines) : (onEng s f).base = s.base := rfl
@[simp] theorem onEng_inputs (s : State) (f : Engines → Engines) : (onEng s f).inputs = s.inputs := rfl
@[simp] theorem onEng_holds (s : State) (f : Engines → Engines) : (onEng s f).holds = s.holds := rfl
@[simp] theorem onEng_nextLid (s : State) (f : Engines → Engines) : (onEng s f).nextLid = s.nextLid := rfl
@[simp] theorem onEng_nextLaunch (s : State) (f : Engines → Engines) : (onEng s f).nextLaunch = s.nextLaunch := rfl
@[simp] theorem onEng_nextCtx (s : State) (f : Engines → Engines) : (onEng s f).nextCtx = s.nextCtx := rfl

/-! ## onCsr -/

@[simp] theorem onCsr_core_id (s : State) (f : Csr → Csr) : (onCsr s f).core.id = s.core.id := rfl
@[simp] theorem onCsr_core_seq (s : State) (f : Csr → Csr) : (onCsr s f).core.seq = s.core.seq := rfl
@[simp] theorem onCsr_core_csr (s : State) (f : Csr → Csr) : (onCsr s f).core.csr = f s.core.csr := rfl
@[simp] theorem onCsr_core_eng (s : State) (f : Csr → Csr) : (onCsr s f).core.eng = s.core.eng := rfl
@[simp] theorem onCsr_core_l1 (s : State) (f : Csr → Csr) : (onCsr s f).core.l1 = s.core.l1 := rfl
@[simp] theorem onCsr_core_sb (s : State) (f : Csr → Csr) : (onCsr s f).core.sb = s.core.sb := rfl
@[simp] theorem onCsr_core_tcache (s : State) (f : Csr → Csr) : (onCsr s f).core.tcache = s.core.tcache := rfl
@[simp] theorem onCsr_core_resvSeq (s : State) (f : Csr → Csr) : (onCsr s f).core.resvSeq = s.core.resvSeq := rfl
@[simp] theorem onCsr_core_wait (s : State) (f : Csr → Csr) : (onCsr s f).core.wait = s.core.wait := rfl
@[simp] theorem onCsr_core_busy (s : State) (f : Csr → Csr) : (onCsr s f).core.busy = s.core.busy := rfl
@[simp] theorem onCsr_core_saving (s : State) (f : Csr → Csr) : (onCsr s f).core.saving = s.core.saving := rfl
@[simp] theorem onCsr_core_refusal (s : State) (f : Csr → Csr) : (onCsr s f).core.refusal = s.core.refusal := rfl
@[simp] theorem onCsr_core_posted (s : State) (f : Csr → Csr) : (onCsr s f).core.posted = s.core.posted := rfl
@[simp] theorem onCsr_core_power (s : State) (f : Csr → Csr) : (onCsr s f).core.power = s.core.power := rfl
@[simp] theorem onCsr_core_gated (s : State) (f : Csr → Csr) : (onCsr s f).core.gated = s.core.gated := rfl
@[simp] theorem onCsr_core_throttled (s : State) (f : Csr → Csr) : (onCsr s f).core.throttled = s.core.throttled := rfl
@[simp] theorem onCsr_core_lease (s : State) (f : Csr → Csr) : (onCsr s f).core.lease = s.core.lease := rfl
@[simp] theorem onCsr_others (s : State) (f : Csr → Csr) : (onCsr s f).others = s.others := rfl
@[simp] theorem onCsr_rot (s : State) (f : Csr → Csr) : (onCsr s f).rot = s.rot := rfl
@[simp] theorem onCsr_phase (s : State) (f : Csr → Csr) : (onCsr s f).phase = s.phase := rfl
@[simp] theorem onCsr_gtc (s : State) (f : Csr → Csr) : (onCsr s f).gtc = s.gtc := rfl
@[simp] theorem onCsr_base (s : State) (f : Csr → Csr) : (onCsr s f).base = s.base := rfl
@[simp] theorem onCsr_inputs (s : State) (f : Csr → Csr) : (onCsr s f).inputs = s.inputs := rfl
@[simp] theorem onCsr_holds (s : State) (f : Csr → Csr) : (onCsr s f).holds = s.holds := rfl
@[simp] theorem onCsr_nextLid (s : State) (f : Csr → Csr) : (onCsr s f).nextLid = s.nextLid := rfl
@[simp] theorem onCsr_nextLaunch (s : State) (f : Csr → Csr) : (onCsr s f).nextLaunch = s.nextLaunch := rfl
@[simp] theorem onCsr_nextCtx (s : State) (f : Csr → Csr) : (onCsr s f).nextCtx = s.nextCtx := rfl

/-! ## onBase -/

@[simp] theorem onBase_core (s : State) (f : Base → Base) : (onBase s f).core = s.core := rfl
@[simp] theorem onBase_others (s : State) (f : Base → Base) : (onBase s f).others = s.others := rfl
@[simp] theorem onBase_rot (s : State) (f : Base → Base) : (onBase s f).rot = s.rot := rfl
@[simp] theorem onBase_phase (s : State) (f : Base → Base) : (onBase s f).phase = s.phase := rfl
@[simp] theorem onBase_gtc (s : State) (f : Base → Base) : (onBase s f).gtc = s.gtc := rfl
@[simp] theorem onBase_base (s : State) (f : Base → Base) : (onBase s f).base = f s.base := rfl
@[simp] theorem onBase_inputs (s : State) (f : Base → Base) : (onBase s f).inputs = s.inputs := rfl
@[simp] theorem onBase_holds (s : State) (f : Base → Base) : (onBase s f).holds = s.holds := rfl
@[simp] theorem onBase_nextLid (s : State) (f : Base → Base) : (onBase s f).nextLid = s.nextLid := rfl
@[simp] theorem onBase_nextLaunch (s : State) (f : Base → Base) : (onBase s f).nextLaunch = s.nextLaunch := rfl
@[simp] theorem onBase_nextCtx (s : State) (f : Base → Base) : (onBase s f).nextCtx = s.nextCtx := rfl

/-! ## setWait -/

@[simp] theorem setWait_core_id (s : State) (w : Wait) : (setWait s w).core.id = s.core.id := rfl
@[simp] theorem setWait_core_seq (s : State) (w : Wait) : (setWait s w).core.seq = s.core.seq := rfl
@[simp] theorem setWait_core_csr (s : State) (w : Wait) : (setWait s w).core.csr = s.core.csr := rfl
@[simp] theorem setWait_core_eng (s : State) (w : Wait) : (setWait s w).core.eng = s.core.eng := rfl
@[simp] theorem setWait_core_l1 (s : State) (w : Wait) : (setWait s w).core.l1 = s.core.l1 := rfl
@[simp] theorem setWait_core_sb (s : State) (w : Wait) : (setWait s w).core.sb = s.core.sb := rfl
@[simp] theorem setWait_core_tcache (s : State) (w : Wait) : (setWait s w).core.tcache = s.core.tcache := rfl
@[simp] theorem setWait_core_resvSeq (s : State) (w : Wait) : (setWait s w).core.resvSeq = s.core.resvSeq := rfl
@[simp] theorem setWait_core_wait (s : State) (w : Wait) : (setWait s w).core.wait = w := rfl
@[simp] theorem setWait_core_busy (s : State) (w : Wait) : (setWait s w).core.busy = s.core.busy := rfl
@[simp] theorem setWait_core_saving (s : State) (w : Wait) : (setWait s w).core.saving = s.core.saving := rfl
@[simp] theorem setWait_core_refusal (s : State) (w : Wait) : (setWait s w).core.refusal = s.core.refusal := rfl
@[simp] theorem setWait_core_posted (s : State) (w : Wait) : (setWait s w).core.posted = s.core.posted := rfl
@[simp] theorem setWait_core_power (s : State) (w : Wait) : (setWait s w).core.power = s.core.power := rfl
@[simp] theorem setWait_core_gated (s : State) (w : Wait) : (setWait s w).core.gated = s.core.gated := rfl
@[simp] theorem setWait_core_throttled (s : State) (w : Wait) : (setWait s w).core.throttled = s.core.throttled := rfl
@[simp] theorem setWait_core_lease (s : State) (w : Wait) : (setWait s w).core.lease = s.core.lease := rfl
@[simp] theorem setWait_others (s : State) (w : Wait) : (setWait s w).others = s.others := rfl
@[simp] theorem setWait_rot (s : State) (w : Wait) : (setWait s w).rot = s.rot := rfl
@[simp] theorem setWait_phase (s : State) (w : Wait) : (setWait s w).phase = s.phase := rfl
@[simp] theorem setWait_gtc (s : State) (w : Wait) : (setWait s w).gtc = s.gtc := rfl
@[simp] theorem setWait_base (s : State) (w : Wait) : (setWait s w).base = s.base := rfl
@[simp] theorem setWait_inputs (s : State) (w : Wait) : (setWait s w).inputs = s.inputs := rfl
@[simp] theorem setWait_holds (s : State) (w : Wait) : (setWait s w).holds = s.holds := rfl
@[simp] theorem setWait_nextLid (s : State) (w : Wait) : (setWait s w).nextLid = s.nextLid := rfl
@[simp] theorem setWait_nextLaunch (s : State) (w : Wait) : (setWait s w).nextLaunch = s.nextLaunch := rfl
@[simp] theorem setWait_nextCtx (s : State) (w : Wait) : (setWait s w).nextCtx = s.nextCtx := rfl

/-! ## wrC -/

@[simp] theorem wrC_core_id (s : State) (r : CReg) (v : Cap) : (wrC s r v).core.id = s.core.id := rfl
@[simp] theorem wrC_core_csr (s : State) (r : CReg) (v : Cap) : (wrC s r v).core.csr = s.core.csr := rfl
@[simp] theorem wrC_core_eng (s : State) (r : CReg) (v : Cap) : (wrC s r v).core.eng = s.core.eng := rfl
@[simp] theorem wrC_core_l1 (s : State) (r : CReg) (v : Cap) : (wrC s r v).core.l1 = s.core.l1 := rfl
@[simp] theorem wrC_core_sb (s : State) (r : CReg) (v : Cap) : (wrC s r v).core.sb = s.core.sb := rfl
@[simp] theorem wrC_core_tcache (s : State) (r : CReg) (v : Cap) : (wrC s r v).core.tcache = s.core.tcache := rfl
@[simp] theorem wrC_core_resvSeq (s : State) (r : CReg) (v : Cap) : (wrC s r v).core.resvSeq = s.core.resvSeq := rfl
@[simp] theorem wrC_core_wait (s : State) (r : CReg) (v : Cap) : (wrC s r v).core.wait = s.core.wait := rfl
@[simp] theorem wrC_core_busy (s : State) (r : CReg) (v : Cap) : (wrC s r v).core.busy = s.core.busy := rfl
@[simp] theorem wrC_core_saving (s : State) (r : CReg) (v : Cap) : (wrC s r v).core.saving = s.core.saving := rfl
@[simp] theorem wrC_core_refusal (s : State) (r : CReg) (v : Cap) : (wrC s r v).core.refusal = s.core.refusal := rfl
@[simp] theorem wrC_core_posted (s : State) (r : CReg) (v : Cap) : (wrC s r v).core.posted = s.core.posted := rfl
@[simp] theorem wrC_core_power (s : State) (r : CReg) (v : Cap) : (wrC s r v).core.power = s.core.power := rfl
@[simp] theorem wrC_core_gated (s : State) (r : CReg) (v : Cap) : (wrC s r v).core.gated = s.core.gated := rfl
@[simp] theorem wrC_core_throttled (s : State) (r : CReg) (v : Cap) : (wrC s r v).core.throttled = s.core.throttled := rfl
@[simp] theorem wrC_core_lease (s : State) (r : CReg) (v : Cap) : (wrC s r v).core.lease = s.core.lease := rfl
@[simp] theorem wrC_core_seq_x (s : State) (r : CReg) (v : Cap) : (wrC s r v).core.seq.x = s.core.seq.x := rfl
@[simp] theorem wrC_core_seq_c (s : State) (r : CReg) (v : Cap) : (wrC s r v).core.seq.c = s.core.seq.c.set r v := rfl
@[simp] theorem wrC_core_seq_pc (s : State) (r : CReg) (v : Cap) : (wrC s r v).core.seq.pc = s.core.seq.pc := rfl
@[simp] theorem wrC_others (s : State) (r : CReg) (v : Cap) : (wrC s r v).others = s.others := rfl
@[simp] theorem wrC_rot (s : State) (r : CReg) (v : Cap) : (wrC s r v).rot = s.rot := rfl
@[simp] theorem wrC_phase (s : State) (r : CReg) (v : Cap) : (wrC s r v).phase = s.phase := rfl
@[simp] theorem wrC_gtc (s : State) (r : CReg) (v : Cap) : (wrC s r v).gtc = s.gtc := rfl
@[simp] theorem wrC_base (s : State) (r : CReg) (v : Cap) : (wrC s r v).base = s.base := rfl
@[simp] theorem wrC_inputs (s : State) (r : CReg) (v : Cap) : (wrC s r v).inputs = s.inputs := rfl
@[simp] theorem wrC_holds (s : State) (r : CReg) (v : Cap) : (wrC s r v).holds = s.holds := rfl
@[simp] theorem wrC_nextLid (s : State) (r : CReg) (v : Cap) : (wrC s r v).nextLid = s.nextLid := rfl
@[simp] theorem wrC_nextLaunch (s : State) (r : CReg) (v : Cap) : (wrC s r v).nextLaunch = s.nextLaunch := rfl
@[simp] theorem wrC_nextCtx (s : State) (r : CReg) (v : Cap) : (wrC s r v).nextCtx = s.nextCtx := rfl

/-! ## wrX: a write of x0 is discarded (02 R41) -/

/-- A write of x0 changes nothing. -/
@[simp] theorem wrX_zero (s : State) (v : Word) : wrX s 0 v = s := rfl

/-- Reading back a written register. -/
theorem rdX_wrX_same (s : State) (r : XReg) (v : Word) (h : r ≠ 0) : rdX (wrX s r v) r = v := by
  simp [rdX, wrX, getX, setX, h]

/-- x0 reads 0. -/
@[simp] theorem rdX_zero (s : State) : rdX s 0 = 0 := rfl

/-- A write leaves every other register alone. -/
theorem rdX_wrX_other (s : State) (r q : XReg) (v : Word) (h : q ≠ r) : rdX (wrX s r v) q = rdX s q := by
  have hv : r.val ≠ q.val := fun e => h (Fin.ext e.symm)
  by_cases hr : r = 0
  · simp [wrX, setX, hr]
  · by_cases hq : q = 0
    · simp [rdX, getX, hq]
    · simp [rdX, wrX, getX, setX, hr, hq, hv]

@[simp] theorem wrX_core_id (s : State) (r : XReg) (v : Word) : (wrX s r v).core.id = s.core.id := by
  unfold wrX setX; split <;> rfl
@[simp] theorem wrX_core_csr (s : State) (r : XReg) (v : Word) : (wrX s r v).core.csr = s.core.csr := by
  unfold wrX setX; split <;> rfl
@[simp] theorem wrX_core_eng (s : State) (r : XReg) (v : Word) : (wrX s r v).core.eng = s.core.eng := by
  unfold wrX setX; split <;> rfl
@[simp] theorem wrX_core_l1 (s : State) (r : XReg) (v : Word) : (wrX s r v).core.l1 = s.core.l1 := by
  unfold wrX setX; split <;> rfl
@[simp] theorem wrX_core_sb (s : State) (r : XReg) (v : Word) : (wrX s r v).core.sb = s.core.sb := by
  unfold wrX setX; split <;> rfl
@[simp] theorem wrX_core_tcache (s : State) (r : XReg) (v : Word) : (wrX s r v).core.tcache = s.core.tcache := by
  unfold wrX setX; split <;> rfl
@[simp] theorem wrX_core_resvSeq (s : State) (r : XReg) (v : Word) : (wrX s r v).core.resvSeq = s.core.resvSeq := by
  unfold wrX setX; split <;> rfl
@[simp] theorem wrX_core_wait (s : State) (r : XReg) (v : Word) : (wrX s r v).core.wait = s.core.wait := by
  unfold wrX setX; split <;> rfl
@[simp] theorem wrX_core_busy (s : State) (r : XReg) (v : Word) : (wrX s r v).core.busy = s.core.busy := by
  unfold wrX setX; split <;> rfl
@[simp] theorem wrX_core_saving (s : State) (r : XReg) (v : Word) : (wrX s r v).core.saving = s.core.saving := by
  unfold wrX setX; split <;> rfl
@[simp] theorem wrX_core_refusal (s : State) (r : XReg) (v : Word) : (wrX s r v).core.refusal = s.core.refusal := by
  unfold wrX setX; split <;> rfl
@[simp] theorem wrX_core_posted (s : State) (r : XReg) (v : Word) : (wrX s r v).core.posted = s.core.posted := by
  unfold wrX setX; split <;> rfl
@[simp] theorem wrX_core_power (s : State) (r : XReg) (v : Word) : (wrX s r v).core.power = s.core.power := by
  unfold wrX setX; split <;> rfl
@[simp] theorem wrX_core_gated (s : State) (r : XReg) (v : Word) : (wrX s r v).core.gated = s.core.gated := by
  unfold wrX setX; split <;> rfl
@[simp] theorem wrX_core_throttled (s : State) (r : XReg) (v : Word) : (wrX s r v).core.throttled = s.core.throttled := by
  unfold wrX setX; split <;> rfl
@[simp] theorem wrX_core_lease (s : State) (r : XReg) (v : Word) : (wrX s r v).core.lease = s.core.lease := by
  unfold wrX setX; split <;> rfl
@[simp] theorem wrX_core_seq_c (s : State) (r : XReg) (v : Word) : (wrX s r v).core.seq.c = s.core.seq.c := by
  unfold wrX setX; split <;> rfl
@[simp] theorem wrX_core_seq_pc (s : State) (r : XReg) (v : Word) : (wrX s r v).core.seq.pc = s.core.seq.pc := by
  unfold wrX setX; split <;> rfl
@[simp] theorem wrX_others (s : State) (r : XReg) (v : Word) : (wrX s r v).others = s.others := by
  unfold wrX setX; split <;> rfl
@[simp] theorem wrX_rot (s : State) (r : XReg) (v : Word) : (wrX s r v).rot = s.rot := by
  unfold wrX setX; split <;> rfl
@[simp] theorem wrX_phase (s : State) (r : XReg) (v : Word) : (wrX s r v).phase = s.phase := by
  unfold wrX setX; split <;> rfl
@[simp] theorem wrX_gtc (s : State) (r : XReg) (v : Word) : (wrX s r v).gtc = s.gtc := by
  unfold wrX setX; split <;> rfl
@[simp] theorem wrX_base (s : State) (r : XReg) (v : Word) : (wrX s r v).base = s.base := by
  unfold wrX setX; split <;> rfl
@[simp] theorem wrX_inputs (s : State) (r : XReg) (v : Word) : (wrX s r v).inputs = s.inputs := by
  unfold wrX setX; split <;> rfl
@[simp] theorem wrX_holds (s : State) (r : XReg) (v : Word) : (wrX s r v).holds = s.holds := by
  unfold wrX setX; split <;> rfl
@[simp] theorem wrX_nextLid (s : State) (r : XReg) (v : Word) : (wrX s r v).nextLid = s.nextLid := by
  unfold wrX setX; split <;> rfl
@[simp] theorem wrX_nextLaunch (s : State) (r : XReg) (v : Word) : (wrX s r v).nextLaunch = s.nextLaunch := by
  unfold wrX setX; split <;> rfl
@[simp] theorem wrX_nextCtx (s : State) (r : XReg) (v : Word) : (wrX s r v).nextCtx = s.nextCtx := by
  unfold wrX setX; split <;> rfl

/-- The registers after a write. -/
theorem wrX_core_seq_x (s : State) (r : XReg) (v : Word) :
    (wrX s r v).core.seq.x = if r = 0 then s.core.seq.x else s.core.seq.x.set r v := by
  unfold wrX setX; split <;> rfl

/-! ## Capability registers -/

/-- Reading back a written capability register. -/
@[simp] theorem rdC_wrC_same (s : State) (r : CReg) (v : Cap) : rdC (wrC s r v) r = v := by
  simp [rdC, wrC, getC, setC]

/-- A write leaves every other capability register alone. -/
theorem rdC_wrC_other (s : State) (r q : CReg) (v : Cap) (h : q ≠ r) : rdC (wrC s r v) q = rdC s q := by
  have hv : r.val ≠ q.val := fun e => h (Fin.ext e.symm)
  simp [rdC, wrC, getC, setC, hv]

end Sys2Proof.Machine
end

