-- ==== Sys2Proof/Laws/Home.lean ====
section
/-! SUPPORT. Laws/Home.lean: what a write at a home changes, and that the writers of the base's memory and of a core's stores keep the
canonical form (spec 09 R215, 11 R257 to R265, DESIGN CHOICE, log entry 1). -/

namespace Sys2Proof.Machine

/-! ## The base's memory -/

/-- A fold of steps that keep a property keeps it. -/
theorem foldl_keeps {α β : Type} (P : α → Prop) (f : α → β → α) (hf : ∀ a b, P a → P (f a b)) (l : List β) (a : α) (h : P a) :
    P (l.foldl f a) := by
  induction l generalizing a with
  | nil => exact h
  | cons b t ih => exact ih _ (hf a b h)

/-- A digest write keeps the canonical form. -/
theorem Memory.wf_digWrite (m : Mem) (o : ObjEnt) (j : Nat) (d : Digest) (h : Memory.wf m = true) :
    Memory.wf (digWrite m o j d) = true :=
  Memory.wf_memWrite _ _ _ (Memory.wf_memPut _ _ _ _ (Memory.wf_memPut _ _ _ _ h))

/-- Keeping the digests of written bytes keeps the canonical form. -/
theorem Memory.wf_digAfterWrite (o : ObjEnt) (atomic : Bool) (old new : Mem) (off n : Nat) (h : Memory.wf new = true) :
    Memory.wf (digAfterWrite o atomic old new off n) = true := by
  unfold digAfterWrite
  split
  · exact h
  · exact foldl_keeps (fun m => Memory.wf m = true) _ (fun m _ hm => Memory.wf_digWrite m o _ _ hm) _ _ h

/-- Initialising digests keeps the canonical form. -/
theorem Memory.wf_digInit (m : Mem) (o : ObjEnt) (h : Memory.wf m = true) : Memory.wf (digInit m o) = true :=
  foldl_keeps (fun m => Memory.wf m = true) _ (fun m _ hm => Memory.wf_digWrite m o _ _ hm) _ _ h

/-- A new epoch of a capacity table keeps the canonical form. -/
theorem Memory.wf_capEpoch (m : Mem) (pa g : Nat) (h : Memory.wf m = true) : Memory.wf (capEpoch m pa g) = true :=
  foldl_keeps (fun m => Memory.wf m = true) _ (fun m _ hm => Memory.wf_memPut m _ _ _ hm) _ _ h

/-- What a commit leaves keeps the canonical form. -/
theorem Memory.wf_commitMem (o : ObjEnt) (atomic : Bool) (old : Mem) (pa off : Nat) (bs : List Byte) (h : Memory.wf old = true) :
    Memory.wf (commitMem o atomic old pa off bs) = true := by
  have h1 : Memory.wf (digAfterWrite o atomic old (memWriteL old pa bs) off bs.length) = true :=
    Memory.wf_digAfterWrite _ _ _ _ _ _ (Memory.wf_memWriteL _ _ _ h)
  unfold commitMem
  dsimp only
  split
  · exact Memory.wf_capEpoch _ _ _ h1
  · exact h1

/-- A log entry keeps the base's memory canonical. -/
theorem Memory.wf_logAppend (s : State) (pa w0 w1 w2 w3 : Nat) (h : Memory.wf s.base.mem = true) :
    Memory.wf (logAppend s pa w0 w1 w2 w3).base.mem = true := by
  unfold logAppend Base.wrote
  dsimp only
  repeat' apply Memory.wf_memPut
  exact h

/-- An event keeps the base's memory canonical. -/
theorem Memory.wf_logEvent (s : State) (kind addr die pid : Nat) (h : Memory.wf s.base.mem = true) :
    Memory.wf (logEvent s kind addr die pid).base.mem = true := by
  unfold logEvent
  dsimp only
  exact Memory.wf_logAppend _ _ _ _ _ _ h

@[simp] theorem logEvent_core (s : State) (kind addr die pid : Nat) : (logEvent s kind addr die pid).core = s.core := by
  simp only [logEvent, logAppend]

@[simp] theorem logEvent_others (s : State) (kind addr die pid : Nat) : (logEvent s kind addr die pid).others = s.others := by
  simp only [logEvent, logAppend]

/-! ## The way to the backing memory -/

/-- `t` is `s` but for the base's memory with its tags and reservations, and for its ways, array errors, bucket levels,
ports, channels, granule readings and wakes; and its memory is canonical if that of `s` is. -/
def Kept (s t : State) : Prop :=
  (∃ m ts rs ls es lv ps vb fs ws, t = { s with base := { s.base with
      mem := m, tags := ts, resv := rs, lines := ls, ecc := es, plvl := lv, ports := ps, vbus := vb, fetched := fs, wakes := ws } }) ∧
    (Memory.wf s.base.mem = true → Memory.wf t.base.mem = true)

theorem Kept.refl (s : State) : Kept s s := ⟨⟨_, _, _, _, _, _, _, _, _, _, rfl⟩, id⟩

theorem Kept.trans {s t u : State} (h : Kept s t) (g : Kept t u) : Kept s u := by
  obtain ⟨⟨m, ts, rs, ls, es, lv, ps, vb, fs, ws, rfl⟩, hw⟩ := h
  obtain ⟨⟨m', ts', rs', ls', es', lv', ps', vb', fs', ws', rfl⟩, gw⟩ := g
  exact ⟨⟨m', ts', rs', ls', es', lv', ps', vb', fs', ws', rfl⟩, fun h => gw (hw h)⟩

/-- A fold of steps that keep it keeps it. -/
theorem Kept.foldl {β : Type} (f : State → β → State) (hf : ∀ s b, Kept s (f s b)) (l : List β) (s : State) : Kept s (l.foldl f s) :=
  foldl_keeps (Kept s) f (fun t b h => h.trans (hf t b)) l s (Kept.refl s)

theorem Kept.core {s t : State} (h : Kept s t) : t.core = s.core := by
  obtain ⟨⟨m, ts, rs, ls, es, lv, ps, vb, fs, ws, rfl⟩, -⟩ := h
  rfl

theorem Kept.others {s t : State} (h : Kept s t) : t.others = s.others := by
  obtain ⟨⟨m, ts, rs, ls, es, lv, ps, vb, fs, ws, rfl⟩, -⟩ := h
  rfl

/-- A packet at a port. -/
theorem Kept.post (s : State) (port : Nat) (k : PacketKind) (pid : Fin 16) (n : Nat) (i : Fin 6) : Kept s (post s port k pid n i) :=
  ⟨⟨_, _, _, _, _, _, _, _, _, _, rfl⟩, id⟩

/-- A slice serves a request: bucket levels and ports (09 R209, R211). -/
theorem Kept.serve (s : State) (g up down : Nat) (p : Fin 16) (k : PacketKind) (src : Option Nat) : Kept s (serve s g up down p k src) := by
  have draw : ∀ (s : State) (n : Nat), Kept s (drawBucket s g n p) := by
    intro s n
    unfold drawBucket
    dsimp only
    split
    · exact ⟨⟨_, _, _, _, _, _, _, _, _, _, rfl⟩, id⟩
    · exact .refl s
  unfold Machine.serve
  cases src with
  | none => exact (Kept.post _ _ _ _ _ _).trans (draw _ _)
  | some c => exact ((Kept.post _ _ _ _ _ _).trans (Kept.post _ _ _ _ _ _)).trans (draw _ _)

/-- A line goes back to its backing memory. -/
theorem Kept.lineBack (s : State) (l : CLine) : Kept s (lineBack s l) := by
  unfold Machine.lineBack
  split
  · exact (Kept.serve _ _ _ _ _ _ _).trans ⟨⟨_, _, _, _, _, _, _, _, _, _, rfl⟩, id⟩
  · exact .refl s

/-- A granule goes through the ways of a home (09 R208). -/
theorem Kept.useLine (s : State) (home gran kind : Nat) (pid : Fin 16) (dirty : Bool) : Kept s (useLine s home gran kind pid dirty) := by
  unfold Machine.useLine
  dsimp only
  split
  · exact ⟨⟨_, _, _, _, _, _, _, _, _, _, rfl⟩, id⟩
  · split
    · exact ⟨⟨_, _, _, _, _, _, _, _, _, _, rfl⟩, id⟩
    · split
      · exact (Kept.lineBack _ _).trans ⟨⟨_, _, _, _, _, _, _, _, _, _, rfl⟩, id⟩
      · exact .refl s

/-- An entry of a log. -/
theorem Kept.logAppend (s : State) (pa w0 w1 w2 w3 : Nat) : Kept s (logAppend s pa w0 w1 w2 w3) := by
  refine ⟨?_, Memory.wf_logAppend s pa w0 w1 w2 w3⟩
  unfold Machine.logAppend Base.wrote
  dsimp only
  exact ⟨_, _, _, _, _, _, _, _, _, _, rfl⟩

/-- The entries of one reading. -/
theorem Kept.logErrors (s : State) (d : Fin 8) (ch : Fin 16) (es : List EccErr) (core : Nat) : Kept s (logErrors s d ch es core) :=
  .foldl _ (fun _ _ => .logAppend _ _ _ _ _ _) es s

/-- A transfer that queues on a failing channel (08 R192). -/
theorem Kept.queueOn (s : State) (v : VChan) (r : VReq) : Kept s (queueOn s v r) := by
  unfold Machine.queueOn
  split
  · exact .refl s
  · exact ⟨⟨_, _, _, _, _, _, _, _, _, _, rfl⟩, id⟩

/-- What the channel says to an access (08 R192). -/
theorem Kept.wayAsk (s : State) (home kind : Nat) (chan : Option (Fin 8 × Fin 16)) (gran core : Nat) (pid : Fin 16) :
    Kept s (wayAsk s home kind chan gran core pid).1 := by
  unfold Machine.wayAsk
  split
  · exact .refl s
  · split
    · exact .refl s
    · dsimp only
      split
      · exact .refl s
      · split
        · exact .queueOn _ _ _
        · exact .refl s

/-- The controller reads a granule (08 R191). -/
theorem Kept.arrayRead (s : State) (d : Fin 8) (ch : Fin 16) (home gran core : Nat) : Kept s (arrayRead s d ch home gran core) := by
  unfold Machine.arrayRead
  dsimp only
  split
  · exact .refl s
  · exact Kept.trans (⟨⟨_, _, _, _, _, _, _, _, _, _, rfl⟩, id⟩ : Kept s (servesUntil s home gran s.gtc)) (.logErrors _ _ _ _ _)

/-- A read of backing memory (08 R191, R192). -/
theorem Kept.wayRead (s : State) (home kind : Nat) (chan : Option (Fin 8 × Fin 16)) (pa n core : Nat) (pid : Fin 16) :
    Kept s (wayRead s home kind chan pa n core pid).1 := by
  have h := Kept.wayAsk s home kind chan (pa / 256) core pid
  unfold Machine.wayRead
  dsimp only
  split
  · rename_i u hu
    rw [hu] at h
    dsimp only at h
    split
    · exact h.trans (.useLine _ _ _ _ _ _)
    · split
      · exact h.trans (.arrayRead _ _ _ _ _ _)
      · exact (h.trans (.arrayRead _ _ _ _ _ _)).trans (.useLine _ _ _ _ _ _)
  · exact h

/-- A write of backing memory. -/
theorem Kept.wayWrite (s : State) (home kind : Nat) (chan : Option (Fin 8 × Fin 16)) (pa n core : Nat) (pid : Fin 16) :
    Kept s (wayWrite s home kind chan pa n core pid) := by
  have ecc : ∀ u : State, Kept u (onBase u (fun b => eccWritten b pa n)) := fun u => ⟨⟨_, _, _, _, _, _, _, _, _, _, rfl⟩, id⟩
  have first : ∀ (c : Prop) [Decidable c], Kept s (onBase (if c then s else (Machine.wayRead s home kind chan pa n core pid).1)
      (fun b => eccWritten b pa n)) := by
    intro c _
    split
    · exact ecc s
    · exact (Kept.wayRead _ _ _ _ _ _ _ _).trans (ecc _)
  have last : ∀ (u : State) (c : Prop) [Decidable c] (q : VChan → Prop) [DecidablePred q] (r : VReq) (v : Option VChan), Kept s u →
      Kept s (if c then Machine.useLine u home (pa / 256) kind pid true else match v with
        | some v => if q v then Machine.queueOn u v r else u
        | none => u) := by
    intro u c _ q _ r v h
    split
    · exact h.trans (.useLine _ _ _ _ _ _)
    · split
      · split
        · exact h.trans (.queueOn _ _ _)
        · exact h
      · exact h
  exact last _ _ (fun v => (v.width != 3 && v.vseq.isSome) = true) _ _ (first _)

/-- An answer about each granule, each of which keeps it. -/
theorem Kept.eachGranule (s : State) (o : ObjEnt) (off n : Nat) (f : State → Nat → Nat → State × Fetch)
    (hf : ∀ s pa n, Kept s (f s pa n).1) : Kept s (eachGranule s o off n f).1 := by
  unfold Machine.eachGranule
  refine foldl_keeps (fun (a : State × Fetch) => Kept s a.1) _ (fun a g h => ?_) _ _ (Kept.refl s)
  dsimp only
  split
  · exact h
  · exact h.trans (hf _ _ _)

/-- A retained array begins to wake (09 R219). -/
theorem Kept.wake (s : State) (id pa n : Nat) : Kept s (wake s id pa n) := by
  unfold Machine.wake
  split
  · exact .refl s
  · exact ⟨⟨_, _, _, _, _, _, _, _, _, _, rfl⟩, fun h => h⟩

/-- The home waits for the dirty words of power-gated cores (09 R219). -/
theorem Kept.wakeAsk (s : State) (o : ObjEnt) (off n : Nat) : Kept s (wakeAsk s o off n).1 := by
  unfold Machine.wakeAsk
  split
  · refine .eachGranule _ _ _ _ _ (fun s pa n => ?_)
    split
    · exact .refl s
    · exact .foldl _ (fun s c => .wake _ _ _ _) _ s
  · exact .refl s

/-- Reads and writes of an object's backing memory. -/
theorem Kept.dramRead (s : State) (o : ObjEnt) (off n core : Nat) (pid : Fin 16) : Kept s (dramRead s o off n core pid).1 := by
  unfold Machine.dramRead
  split
  · exact .refl s
  · exact (Kept.wakeAsk s o off n).trans (.eachGranule _ _ _ _ _ (fun s pa n => .wayRead _ _ _ _ _ _ _ _))

theorem Kept.dramAsk (s : State) (o : ObjEnt) (off n core : Nat) (pid : Fin 16) : Kept s (dramAsk s o off n core pid).1 := by
  unfold Machine.dramAsk
  split
  · exact .refl s
  · exact (Kept.wakeAsk s o off n).trans (.eachGranule _ _ _ _ _ (fun s pa n => .wayAsk _ _ _ _ _ _ _))

theorem Kept.dramWrite (s : State) (o : ObjEnt) (off n core : Nat) (pid : Fin 16) : Kept s (dramWrite s o off n core pid) := by
  unfold Machine.dramWrite
  split
  · exact .refl s
  · refine .foldl _ (fun s g => ?_) _ s
    split
    · exact .refl s
    · exact .wayWrite _ _ _ _ _ _ _ _

/-- A lost line of a digest store (11 R267). -/
theorem Kept.digLose (s : State) (o : ObjEnt) (home gran : Nat) (pid : Fin 16) : Kept s (digLose s o home gran pid) := by
  unfold Machine.digLose
  refine Kept.trans (⟨⟨_, _, _, _, _, _, _, _, _, _, rfl⟩, fun h => ?_⟩ : Kept s _) (.wayWrite _ _ _ _ _ _ _ _)
  exact foldl_keeps (fun m => Memory.wf m = true) _ (fun m _ hm => Memory.wf_digWrite m o _ _ hm) _ _ h

/-- One line of a digest store (11 R256, R267). -/
theorem Kept.digLine (s : State) (o : ObjEnt) (home pa core : Nat) (pid : Fin 16) : Kept s (digLine s o home pa core pid).1 := by
  have h := Kept.wayRead s home 2 (dramChan none pa) (pa / 256 * 256) 256 core pid
  unfold Machine.digLine
  dsimp only
  split
  · exact h.trans (.digLose _ _ _ _ _)
  · exact h

/-- The lines of a digest. -/
theorem Kept.digLines (s : State) (o : ObjEnt) (j core : Nat) (pid : Fin 16) (w : Bool) : Kept s (digLines s o j core pid w).1 := by
  unfold Machine.digLines
  refine foldl_keeps (fun (a : State × Fetch) => Kept s a.1) _ (fun a p h => ?_) _ _ (Kept.refl s)
  have g := h.trans (Kept.digLine a.1 o (digHome o j) p.1 core pid)
  dsimp only
  split
  · exact g.trans (.wayWrite _ _ _ _ _ _ _ _)
  · exact g

/-! ## Commits -/

/-- A commit: other bytes of the base's memory, other tags and reservations. -/
theorem Kept.commit (s : State) (m : Mem) (ts : List Nat) (rs : List Resv) (h : Memory.wf s.base.mem = true → Memory.wf m = true) :
    Kept s { s with base := { s.base with mem := m, tags := ts, resv := rs } } :=
  ⟨⟨_, _, _, _, _, _, _, _, _, _, rfl⟩, h⟩

/-- A write inside one extent. -/
theorem homePutAt_changes (s : State) (o : ObjEnt) (tag atomic : Bool) (pid : Fin 16) (off : Nat) (bs : List Byte) :
    Kept s (homePutAt s o tag atomic pid off bs) := by
  unfold homePutAt
  split
  · exact .refl s
  · have h := (Kept.dramWrite s o off bs.length 0x3FF pid).trans
      (Kept.foldl _ (fun s j => Kept.digLines s o j 0x3FF pid true) (digBlocksOf o off bs.length) _)
    exact h.trans (.commit _ _ _ _ (Memory.wf_commitMem _ _ _ _ _ _))

/-- A write at a home. -/
theorem homePut_changes (s : State) (o : ObjEnt) (off : Nat) (bs : List Byte) (tag atomic : Bool) (pid : Fin 16) :
    Kept s (homePut s o off bs tag atomic pid) :=
  foldl_keeps (Kept s) _ (fun t p h => h.trans (homePutAt_changes t o tag atomic pid p.1 p.2)) _ s (.refl s)

/-- A write at an address that no object covers passes the ways. -/
theorem Kept.paWrite (s : State) (pa n : Nat) (pid : Fin 16) : Kept s (paWrite s pa n pid) := by
  unfold Machine.paWrite
  split
  · exact .refl s
  · exact .refl s
  · exact .foldl _ (fun s g => .wayWrite _ _ _ _ _ _ _ _) _ s

/-- The same for a write at a device address. -/
theorem homePutPa_changes (s : State) (pa : Nat) (bs : List Byte) (tag atomic : Bool) (pid : Fin 16) :
    Kept s (homePutPa s pa bs tag atomic pid) := by
  unfold homePutPa
  split
  · exact homePut_changes _ _ _ _ _ _ _
  · have h := Kept.paWrite s pa bs.length pid
    exact h.trans (.commit _ _ _ _ (Memory.wf_memWriteL _ _ _))

@[simp] theorem homePut_core (s : State) (o : ObjEnt) (off : Nat) (bs : List Byte) (t a : Bool) (p : Fin 16) :
    (homePut s o off bs t a p).core = s.core :=
  (homePut_changes _ _ _ _ _ _ _).core

@[simp] theorem homePut_others (s : State) (o : ObjEnt) (off : Nat) (bs : List Byte) (t a : Bool) (p : Fin 16) :
    (homePut s o off bs t a p).others = s.others :=
  (homePut_changes _ _ _ _ _ _ _).others

@[simp] theorem homePutPa_core (s : State) (pa : Nat) (bs : List Byte) (t a : Bool) (p : Fin 16) :
    (homePutPa s pa bs t a p).core = s.core :=
  (homePutPa_changes _ _ _ _ _ _).core

@[simp] theorem homePutPa_others (s : State) (pa : Nat) (bs : List Byte) (t a : Bool) (p : Fin 16) :
    (homePutPa s pa bs t a p).others = s.others :=
  (homePutPa_changes _ _ _ _ _ _).others

/-- A write at a home keeps the base's memory canonical. -/
theorem Memory.wf_homePut (s : State) (o : ObjEnt) (off : Nat) (bs : List Byte) (tag atomic : Bool) (p : Fin 16)
    (h : Memory.wf s.base.mem = true) : Memory.wf (homePut s o off bs tag atomic p).base.mem = true :=
  (homePut_changes _ _ _ _ _ _ _).2 h

/-- A write at a device address keeps the base's memory canonical. -/
theorem Memory.wf_homePutPa (s : State) (pa : Nat) (bs : List Byte) (tag atomic : Bool) (p : Fin 16) (h : Memory.wf s.base.mem = true) :
    Memory.wf (homePutPa s pa bs tag atomic p).base.mem = true :=
  (homePutPa_changes _ _ _ _ _ _).2 h

/-- A capture record keeps the base's memory canonical. -/
theorem Memory.wf_captureRec (s : State) (ty : Nat) (content : List Byte) (h : Memory.wf s.base.mem = true) :
    Memory.wf (captureRec s ty content).base.mem = true := by
  unfold captureRec
  dsimp only
  split
  · exact h
  · split
    · exact Memory.wf_logEvent _ _ _ _ _ h
    · have key : ∀ (c : Prop) [Decidable c] (pa : Nat) (bs : List Byte),
          Memory.wf (if c then s else homePutPa s pa bs false false).base.mem = true := by
        intro c _ pa bs
        split
        · exact h
        · exact Memory.wf_homePutPa _ _ _ _ _ _ h
      exact key _ _ _

/-! ## A core's stores -/

/-- Every store of a core's engines is canonical. -/
def Engines.storesWf (e : Engines) : Prop := ∀ st, Memory.wf (storeMem e st) = true

/-- Replacing a store by a canonical one keeps the stores canonical. -/
theorem storesWf_setStore (e : Engines) (st : Store) (m : Mem) (h : e.storesWf) (hm : Memory.wf m = true) : (setStore e st m).storesWf := by
  intro st'
  have h1 := h st'
  cases st <;> cases st' <;> first | exact hm | exact h1

/-- An engine of the reset state holds empty stores. -/
theorem storesWf_start : Engines.start.storesWf := by
  intro st
  cases st <;> rfl

/-- A store of the sequencer to the scratchpad keeps it canonical. -/
theorem Memory.wf_spadStore (s : State) (off : Nat) (bs : List Byte) (h : Memory.wf s.core.eng.spad = true) :
    Memory.wf (spadStore s off bs).core.eng.spad = true :=
  Memory.wf_memWriteL _ _ _ h

/-- What an out-of-range access records leaves the stores alone. -/
theorem storeMem_offend (s : State) (e : Eng) (wr : Bool) (off : Int) (st : Store) :
    storeMem (offend s e wr off).core.eng st = storeMem s.core.eng st := by
  unfold offend
  dsimp only
  split <;> split <;> cases st <;> rfl

theorem storeMem_offendWrites (s : State) (e : Eng) (st : Store) (as : List Int) (st' : Store) :
    storeMem (offendWrites s e st as).core.eng st' = storeMem s.core.eng st' := by
  unfold offendWrites
  split
  · rfl
  · exact storeMem_offend _ _ _ _ _

/-- Bytes put into a store keep it canonical. -/
theorem Memory.wf_storePut (st : Store) (m : Mem) (ws : List (Int × Byte)) (h : Memory.wf m = true) :
    Memory.wf (storePut st m ws) = true :=
  Memory.wf_memWrites _ _ h

/-- A timed write keeps a core's stores canonical. -/
theorem storesWf_applyWrite (s : State) (e : Eng) (w : PWrite) (h : s.core.eng.storesWf) : (applyWrite s e w).core.eng.storesWf := by
  have hs : ∀ st as, (offendWrites s e st as).core.eng.storesWf := by
    intro st as st'
    rw [storeMem_offendWrites]
    exact h st'
  cases w with
  | bytes st ws => exact storesWf_setStore _ _ _ (hs _ _) (Memory.wf_storePut _ _ _ (hs _ _ _))
  | zero rs =>
    intro st
    cases st
    · exact h .spad
    · exact foldl_keeps (fun m => Memory.wf m = true) _ (fun m r hm => Memory.wf_memClear m r.1 r.2 hm) rs _ (h .acc)
    · exact h .wpl
    · exact h .side
  | accum st ty rm xs =>
    exact storesWf_setStore _ _ _ (hs _ _) (foldl_keeps (fun m => Memory.wf m = true) _
      (fun m x hm => Memory.wf_storePut _ _ _ hm) _ _ (hs _ _ st))
  | mask k v => exact fun st => by cases st <;> first | exact h .spad | exact h .acc | exact h .wpl | exact h .side
  | maskPart ws => exact fun st => by cases st <;> first | exact h .spad | exact h .acc | exact h .wpl | exact h .side
  | weight we data side tag =>
    intro st
    cases st
    · exact h .spad
    · exact h .acc
    · exact Memory.wf_memWriteL _ _ _ (Memory.wf_memClear _ _ _ (h .wpl))
    · exact Memory.wf_memWriteL _ _ _ (Memory.wf_memClear _ _ _ (h .side))

end Sys2Proof.Machine
end

