-- ==== Sys2Proof/Laws/Ops.lean ====
section
/-! SUPPORT. Laws/Ops.lean: what each operation that the meanings share can do, said once. -/

namespace Sys2Proof.Machine

/-! ## Traps (04 R97 to R100) -/

/-- In tile mode a trap enters the handler and ends nothing. -/
theorem takeTrapAt_tile (s : State) (t : Trap) (epc : Word) (eng : Nat) (h : s.core.csr.mode = false) :
    takeTrapAt s t epc eng = enterTrap s epc (causeWord t.code t.sub t.aux eng false 0) t.bad := by
  simp [takeTrapAt, h]

/-- In kernel mode a trap ends the lease as FAULTED, with the trap's registers saved, as soon as nothing sent is
unanswered. -/
theorem takeTrapAt_kernel (s : State) (t : Trap) (epc : Word) (eng : Nat) (h : s.core.csr.mode = true) :
    takeTrapAt s t epc eng = faultLease (enterTrap s epc (causeWord t.code t.sub t.aux eng false 0) t.bad) := by
  simp [takeTrapAt, h]

@[simp] theorem enterTrap_epc (s : State) (e c b : Word) : (enterTrap s e c b).core.csr.epc = e := rfl
@[simp] theorem enterTrap_cause (s : State) (e c b : Word) : (enterTrap s e c b).core.csr.cause = c := rfl
@[simp] theorem enterTrap_badaddr (s : State) (e c b : Word) : (enterTrap s e c b).core.csr.badaddr = b := rfl
@[simp] theorem enterTrap_mode (s : State) (e c b : Word) : (enterTrap s e c b).core.csr.mode = true := rfl
@[simp] theorem enterTrap_pmode (s : State) (e c b : Word) : (enterTrap s e c b).core.csr.pmode = s.core.csr.mode := rfl
@[simp] theorem enterTrap_pc (s : State) (e c b : Word) : (enterTrap s e c b).core.seq.pc = tvecPc s.core.csr := rfl
@[simp] theorem enterTrap_x (s : State) (e c b : Word) : (enterTrap s e c b).core.seq.x = s.core.seq.x := rfl
@[simp] theorem enterTrap_c (s : State) (e c b : Word) : (enterTrap s e c b).core.seq.c = s.core.seq.c := rfl
@[simp] theorem enterTrap_eng (s : State) (e c b : Word) : (enterTrap s e c b).core.eng = s.core.eng := rfl
@[simp] theorem enterTrap_base (s : State) (e c b : Word) : (enterTrap s e c b).base = s.base := rfl
@[simp] theorem enterTrap_others (s : State) (e c b : Word) : (enterTrap s e c b).others = s.others := rfl

/-- A kernel-only instruction runs in kernel mode. -/
@[simp] theorem kernelOnly_kernel (s : State) (f : State → Out) (h : s.core.csr.mode = true) : kernelOnly s f = f s := by
  simp [kernelOnly, h]

/-- A kernel-only instruction traps in tile mode. -/
@[simp] theorem kernelOnly_tile (s : State) (f : State → Out) (h : s.core.csr.mode = false) :
    kernelOnly s f = .next (takeTrap s trapKernelOnly) := by
  simp [kernelOnly, h]

/-- An engine fault is recorded when none is, and freezes the core. -/
theorem raiseEFault_first (s : State) (f : EFault) (h : s.core.eng.efault = none) :
    raiseEFault s f = { s with core := { s.core with
      eng := { s.core.eng with efault := some f, freeze := some ⟨6, 0, f.eng, f.step, s.gtc, none, 0, 0, none⟩ },
      csr := { s.core.csr with epend := s.core.csr.epend || s.core.csr.mode } } } := by
  simp [raiseEFault, h]

/-- An engine fault against which a recorded one stands changes nothing (04 R99). -/
theorem raiseEFault_later (s : State) (f g : EFault) (h : s.core.eng.efault = some g) (hs : standsAgainst s g f = true) :
    raiseEFault s f = s := by
  simp [raiseEFault, h, hs]

/-- Nothing left to drain, nothing unanswered and a place for the context: the lease ends at once (04 R108). -/
theorem faultLease_ends (s : State) (h : s.core.sb = []) (hp : s.core.posted = []) (hr : ctxRoom s = true) :
    faultLease s = endFaulted s := by
  simp [faultLease, drainAll, h, hp, hr]

/-! ## The capability check (04 R102) -/

/-- What a passed check says. -/
theorem checkCap_ok (s : State) (b : CReg) (off : Int) (size align : Nat) (need : BitVec 8) (space : Option (Fin 8)) (o : ObjEnt)
    (h : checkCap s b off size align need space = .ok o) :
    (rdC s b).tag = true ∧ capPerm (rdC s b) &&& need = need ∧ (capLo (rdC s b) : Int) ≤ off ∧
      off + size ≤ capLo (rdC s b) + capLen (rdC s b) ∧ (1 < align → off % align = 0) ∧
      findObj s (capOid (rdC s b)) = some o ∧ (o.kernel = true → s.core.csr.mode = true) ∧ (∀ k, space = some k → k = o.space) := by
  simp only [checkCap] at h
  split at h
  · exact absurd h (by simp)
  · rename_i h1
    split at h
    · exact absurd h (by simp)
    · rename_i h2
      split at h
      · exact absurd h (by simp)
      · rename_i h3
        split at h
        · exact absurd h (by simp)
        · rename_i h4
          cases hf : findObj s (capOid (rdC s b)) with
          | none => rw [hf] at h; exact absurd h (by simp)
          | some e =>
            rw [hf] at h
            simp only at h
            split at h
            · exact absurd h (by simp)
            · rename_i h5
              split at h
              · exact absurd h (by simp)
              · rename_i h6
                split at h
                · exact absurd h (by simp)
                · injection h with h
                  subst h
                  refine ⟨by simpa using h1, ?_, ?_, ?_, ?_, rfl, ?_, ?_⟩
                  · by_contra hc
                    exact h2 (.inl hc)
                  · by_contra hc
                    exact h3 (.inl (by omega))
                  · by_contra hc
                    exact h3 (.inr (by omega))
                  · intro ha
                    by_contra hc
                    exact h4 ⟨ha, hc⟩
                  · intro hk
                    by_contra hc
                    simp [hk, hc] at h5
                  · intro k hk
                    subst hk
                    simpa using h6

/-- A failed check traps, before any effect. -/
@[simp] theorem withCap_error (s : State) (b : CReg) (t : Trap) (k : State → ObjEnt → Out) :
    withCap s b (.error t) k = .next (takeTrap s t) := rfl

/-- A passed check leaves the object in the translation cache and goes on. -/
@[simp] theorem withCap_ok (s : State) (b : CReg) (o : ObjEnt) (k : State → ObjEnt → Out) :
    withCap s b (.ok o) k = k (touchCap s b) o := rfl

/-- A checked access answers a next state when what follows it does. -/
theorem withCap_next (s : State) (b : CReg) (r : Except Trap ObjEnt) (k : State → ObjEnt → Out) (h : ∀ u o, ∃ t, k u o = .next t) :
    ∃ t, withCap s b r k = .next t := by
  cases r with
  | error e => exact ⟨_, rfl⟩
  | ok o => exact h _ o

/-- An access that may wait or trap answers a next state when what follows it does. -/
theorem finish_next {α : Type} (r : Res α) (k : State → α → Out) (h : ∀ u v, ∃ t, k u v = .next t) : ∃ t, finish r k = .next t := by
  cases r with
  | ok s v => exact h s v
  | stall s => exact ⟨_, rfl⟩
  | trap s t => exact ⟨_, rfl⟩

/-! ## Issue (02 R48) -/

/-- An issue always answers a next state: a fault or a freeze of its checks, or the job begun. -/
theorem issue_next (s : State) (p : Prep) : ∃ t, issue s p = .next t := by
  simp only [issue]
  repeat' split
  all_goals exact ⟨_, rfl⟩

/-! ## The array and the channels (08 R191, R192) -/

/-- Both fetches pass exactly when each does. -/
theorem Fetch.and_ok (a b : Fetch) : a.and b = .ok ↔ a = .ok ∧ b = .ok := by
  cases a <;> cases b <;> simp [Fetch.and]

/-- A channel that carries an access changes nothing of the machine before it. -/
theorem wayAsk_ok (s : State) (home kind : Nat) (chan : Option (Fin 8 × Fin 16)) (gran core : Nat) (pid : Fin 16)
    (h : (wayAsk s home kind chan gran core pid).2 = .ok) : (wayAsk s home kind chan gran core pid).1 = s := by
  unfold wayAsk at h ⊢
  split
  · rfl
  · rename_i hl
    rw [if_neg hl] at h
    cases chan with
    | none => rfl
    | some c =>
      dsimp only at h ⊢
      split
      · rfl
      · rename_i hw
        rw [if_neg hw] at h
        split
        · rename_i hv
          rw [if_pos hv] at h
          cases h
        · rfl

/-! ## RSA (22 R401) -/

/-- A power of 0 with an odd exponent is 0. -/
theorem powMod_zero (n bits e : Nat) (he : e % 2 = 1) : powMod n (bits + 1) 0 e = 0 := by
  simp [powMod, Nat.testBit_zero, he]

end Sys2Proof.Machine
end

