-- ==== Sys2Proof/Tests/Slice0.lean ====
section
/-! SUPPORT. Tests/Slice0.lean: the writer's own tests: ill-formed terms that the check refuses, words of the spec's worked examples,
single instructions with the spec's example values, and for every statement with hypotheses a state and operands that meet them. -/

namespace Sys2Proof.Tests
open Sys2Proof.Machine Sys2Proof.Claims

set_option Elab.async false

/-! ## Ill-formed terms (one for each check of WellFormed.lean) -/

/-- A command header without waits and slots. -/
def h0 : Hdr := ⟨0, 0, 0, 0⟩

/-- An 8-byte LD has no sign extension (02 R44). -/
theorem test_wf_ld_sign : (Instr.ld .global true 3 9 3 4 8).wf = false := by decide

/-- SLOTRD of slot 0 is not an operand (02 R43). -/
theorem test_wf_slot_zero : (Instr.slotrd 1 0).wf = false := by decide

/-- DQ names an even register (02 R43). -/
theorem test_wf_dq_pair : (Instr.dq 13 3 0).wf = false := by decide

/-- Wait kind 01 is kept for ALIGN (02 R48). -/
theorem test_wf_wait_kind : (Instr.mnop ⟨1, 0, 0, 0⟩).wf = false := by decide

/-! ## Words of the spec (05 R114, 12 R282, 07 R172, 16 R335, 20 R367 and the examples at the rules of the instructions) -/

theorem test_word_addi : decodeSeq 0x08A0000000000200 = some (.addi 10 0 0x200) := by decide
theorem test_word_add : decodeSeq 0x0490CC0000000000 = some (.add 9 3 12) := by decide
theorem test_word_ld : decodeSeq 0x1490C41500000008 = some (.ld .global true 1 9 3 4 8) := by decide
theorem test_word_bne : decodeSeq 0x0C05560100000002 = some (.bne 21 22 2) := by decide
theorem test_word_csrw : decodeSeq 0x0005800500000008 = some (.csrw 8 22) := by decide
theorem test_word_rtail : decodeSeq 0x2002C00000010000 = some (.rtail .matrix 11) := by decide
theorem test_word_aadd : decodeSeq 0x28A10B0000000008 = some (.aadd 10 4 11 8) := by decide
theorem test_word_sc : decodeSeq 0x28D10E0C00000000 = some (.sc 13 4 14 0) := by decide
theorem test_word_fence : decodeSeq 0x2C0000000000030C = some (.fence ⟨3, false, true, true, false, false⟩) := by decide
theorem test_word_barrw : decodeSeq 0x2CA1C00400000304 = some (.barrw 10 7 0 ⟨3, false, false, true, false, false⟩) := by decide
theorem test_word_dq : decodeSeq 0x30C0C00100000000 = some (.dq 12 3 0) := by decide
theorem test_word_drebuild : decodeSeq 0x3000DB0200000000 = some (.drebuild 3 27) := by decide
theorem test_word_spret : decodeSeq 0x34C2400400000102 = some (.spret 12 9 2 true) := by decide

theorem test_word_align : decodeCmd .copy 0x4100000000000000 = some (.align .copy 1) := by decide
theorem test_word_qld : decodeCmd .copy 0x0000010C00000008 = some (.qld h0 3 8) := by decide
theorem test_word_cpy : decodeCmd .copy 0x0250024C80000000 = some (.cpy ⟨0, 2, 5, 0⟩ 1 3 2 false) := by decide
theorem test_word_gather : decodeCmd .copy 0x0030049158000000 = some (.gather ⟨0, 0, 3, 0⟩ 2 4 5 6 false) := by decide
theorem test_word_topkc_tab : decodeCmd .copy 0x0000082268210040 = some (.topkcTab h0 0 8 9 10 false 64 16) := by decide

theorem test_word_mma : decodeCmd .matrix 0x034C0420100281C0 = some (.mma ⟨0, 3, 4, 12⟩ 2 0x40 5 3 64) := by decide
theorem test_word_wload : decodeCmd .matrix 0x0000010400028000 = some (.wload h0 0x1000 5) := by decide
theorem test_word_wconst : decodeCmd .matrix 0x0000021000048080 = some (.wconst h0 1 9 1 0 0) := by decide
theorem test_word_slmap : decodeCmd .matrix 0x0000082000018380 = some (.slmap h0 2 3 7) := by decide
theorem test_word_slclr_all : decodeCmd .matrix 0x0000093000200000 = some (.slclr h0 3 true 0) := by decide
theorem test_word_slfill : decodeCmd .matrix 0x00600B2000000380 = some (.slfill ⟨0, 0, 6, 0⟩ 2 7) := by decide
theorem test_word_bind : decodeCmd .matrix 0x00000C4040010401 = some (.bind h0 4 0x100 2 false 8 1) := by decide
theorem test_word_drain : decodeCmd .matrix 0x00500D2020000010 = some (.drain ⟨0, 0, 5, 0⟩ 2 0x80 16) := by decide
theorem test_word_mnop : decodeCmd .matrix 0x8300000000000000 = some (.mnop ⟨2, 3, 0, 0⟩) := by decide

theorem test_word_vsqrt : decodeCmd .vector 0x00000C0420000000 = some (.vsqrt h0 1 2 0 0 0) := by decide
theorem test_word_vadd_sat : decodeCmd .vector 0x0000030420C40004 = some (.vadd h0 1 2 3 0 8 0 true) := by decide
theorem test_word_vcvt : decodeCmd .vector 0x0000110810010044 = some (.vcvt h0 2 1 0 2 0 1 1) := by decide

/-- A published word of major opcode 0x0E is no instruction (02 R42). -/
theorem test_word_undefined : decodeSeq 0x3800000000000000 = none := by decide

/-- Words of the SYS group, from the fields of 02 R39 to R46. -/
def wordsSys : List (Word × Instr) :=
  [(0x0000000000000000, .nop),
   (0xffffffffffffffff, .hint 7),
   (0x0000000100000000, .halt),
   (0x0000000200001234, .trap 0x1234),
   (0x0000000300000000, .eret),
   (0x021000040000001a, .csrr 33 0x01A),
   (0x0005800500000009, .csrw 9 22),
   (0x0005800600000009, .csrset 9 22),
   (0x0005800700000009, .csrclr 9 22),
   (0x03f0000800000000, .gtime 63),
   (0x0050000900000000, .rngnext 5)]

theorem test_words_sys : wordsSys.all (fun (p : Word × Instr) => decodeSeq p.1 == some p.2) = true := by decide +kernel

/-- Words of the ALU group, from the fields of 02 R39 to R46. -/
def wordsAlu : List (Word × Instr) :=
  [(0x06148c0000000000, .add 33 18 12),
   (0x06148c0100000000, .sub 33 18 12),
   (0x06148c0200000000, .and 33 18 12),
   (0x06148c0300000000, .or 33 18 12),
   (0x06148c0400000000, .xor 33 18 12),
   (0x06148c0500000000, .sll 33 18 12),
   (0x06148c0600000000, .srl 33 18 12),
   (0x06148c0700000000, .sra 33 18 12),
   (0x06148c0800000000, .mul 33 18 12),
   (0x06148c0900000000, .mulh 33 18 12),
   (0x06148c0a00000000, .div 33 18 12),
   (0x06148c0b00000000, .divn 33 18 12)] ++
  [(0x06148c0c00000000, .rem 33 18 12),
   (0x06148c0d00000000, .remn 33 18 12),
   (0x06148c0e00000000, .min 33 18 12),
   (0x06148c0f00000000, .max 33 18 12),
   (0x06148c1000000000, .minn 33 18 12),
   (0x06148c1100000000, .maxn 33 18 12),
   (0x06148c1200000000, .slt 33 18 12),
   (0x06148c1300000000, .sltn 33 18 12),
   (0x0614801400000000, .clz 33 18),
   (0x0614801500000000, .ctz 33 18),
   (0x0614801600000000, .popc 33 18),
   (0x06148c1700000000, .clmul 33 18 12)] ++
  [(0x06148c1800000000, .clmulh 33 18 12)]

theorem test_words_alu : wordsAlu.all (fun (p : Word × Instr) => decodeSeq p.1 == some p.2) = true := by decide +kernel

/-- Words of the ALUI group, from the fields of 02 R39 to R46. -/
def wordsAlui : List (Word × Instr) :=
  [(0x08988000fffffffe, .addi 9 34 0xFFFFFFFE),
   (0x08988001fffffffe, .andi 9 34 0xFFFFFFFE),
   (0x08988002fffffffe, .ori 9 34 0xFFFFFFFE),
   (0x08988003fffffffe, .xori 9 34 0xFFFFFFFE),
   (0x089880040000002d, .slli 9 34 45),
   (0x089880050000002d, .srli 9 34 45),
   (0x089880060000002d, .srai 9 34 45),
   (0x08988007fffffffe, .slti 9 34 0xFFFFFFFE),
   (0x08988008fffffffe, .sltni 9 34 0xFFFFFFFE),
   (0x0898800980000001, .movhi 9 34 0x80000001)]

theorem test_words_alui : wordsAlui.all (fun (p : Word × Instr) => decodeSeq p.1 == some p.2) = true := by decide +kernel

/-- Words of the BR and JMP group, from the fields of 02 R39 to R46. -/
def wordsBranch : List (Word × Instr) :=
  [(0x0c056a00fffffffd, .beq 21 42 0xFFFFFFFD),
   (0x0c056a01fffffffd, .bne 21 42 0xFFFFFFFD),
   (0x0c056a02fffffffd, .blt 21 42 0xFFFFFFFD),
   (0x0c056a03fffffffd, .bge 21 42 0xFFFFFFFD),
   (0x0c056a04fffffffd, .bltn 21 42 0xFFFFFFFD),
   (0x0c056a05fffffffd, .bgen 21 42 0xFFFFFFFD),
   (0x1010000000000004, .jal 1 4),
   (0x101a0001fffffff8, .jalr 1 40 0xFFFFFFF8)]

theorem test_words_branch : wordsBranch.all (fun (p : Word × Instr) => decodeSeq p.1 == some p.2) = true := by decide +kernel

/-- Words of the LD and ST group, from the fields of 02 R39 to R46. -/
def wordsLoadStore : List (Word × Instr) :=
  [(0x1490e80500000008, .ld .spad true 1 9 3 40 8),
   (0x1890e80300000008, .st .spad 3 9 3 40 8),
   (0x1490e80d00000008, .ld .stage true 1 9 3 40 8),
   (0x1890e80b00000008, .st .stage 3 9 3 40 8),
   (0x1490e81500000008, .ld .global true 1 9 3 40 8),
   (0x1890e81300000008, .st .global 3 9 3 40 8),
   (0x1490e81d00000008, .ld .host true 1 9 3 40 8),
   (0x1890e81b00000008, .st .host 3 9 3 40 8)]

theorem test_words_loadStore : wordsLoadStore.all (fun (p : Word × Instr) => decodeSeq p.1 == some p.2) = true := by decide +kernel

/-- Words of the CAP group, from the fields of 02 R39 to R46. -/
def wordsCap : List (Word × Instr) :=
  [(0x1c31680000000000, .cderive 3 5 40),
   (0x1c31400100000081, .crestrict 3 5 0x81),
   (0x1c31680200000000, .csetoff 3 5 40),
   (0x1c314003ffffffff, .cincoff 3 5 0xFFFFFFFF),
   (0x1e81400400000000, .cgetbase 40 5),
   (0x1e81400500000000, .cgetlen 40 5),
   (0x1e81400600000000, .cgetoff 40 5),
   (0x1c31680700000010, .cldc 3 5 40 16),
   (0x1c31680800000010, .cstc 3 5 40 16)]

theorem test_words_cap : wordsCap.all (fun (p : Word × Instr) => decodeSeq p.1 == some p.2) = true := by decide +kernel

/-- Words of the ENG group, from the fields of 02 R39 to R46. -/
def wordsEng : List (Word × Instr) :=
  [(0x2002400000010000, .rtail .matrix 9),
   (0x2090000100020000, .rstat 9 .vector),
   (0x2000000200000221, .salign 33 2),
   (0x2002400300000000, .fpush 9),
   (0x209000040000000b, .slotrd 9 11),
   (0x209000050000000c, .ecsrr 9 .copy 0xC),
   (0x2002400600020003, .ecsrw .vector 3 9)]

theorem test_words_eng : wordsEng.all (fun (p : Word × Instr) => decodeSeq p.1 == some p.2) = true := by decide +kernel

/-- Words of the TILE group, from the fields of 02 R39 to R46. -/
def wordsTile : List (Word × Instr) :=
  [(0x2400000000000000, .tretire),
   (0x2402400100000000, .stgput 9),
   (0x2402400200000000, .stgget 9),
   (0x2402400300200001, .dispatch 9 0x200001),
   (0x2491400400000000, .launch 9 5)]

theorem test_words_tile : wordsTile.all (fun (p : Word × Instr) => decodeSeq p.1 == some p.2) = true := by decide +kernel

/-- Words of the ATOM group, from the fields of 02 R39 to R46. -/
def wordsAtom : List (Word × Instr) :=
  [(0x28a12b00fffffff8, .aadd 10 4 43 0xFFFFFFF8),
   (0x28a12b01fffffff8, .aand 10 4 43 0xFFFFFFF8),
   (0x28a12b02fffffff8, .aor 10 4 43 0xFFFFFFF8),
   (0x28a12b03fffffff8, .axor 10 4 43 0xFFFFFFF8),
   (0x28a12b04fffffff8, .amin 10 4 43 0xFFFFFFF8),
   (0x28a12b05fffffff8, .amax 10 4 43 0xFFFFFFF8),
   (0x28a12b06fffffff8, .aminn 10 4 43 0xFFFFFFF8),
   (0x28a12b07fffffff8, .amaxn 10 4 43 0xFFFFFFF8),
   (0x28a12b08fffffff8, .aswp 10 4 43 0xFFFFFFF8),
   (0x28a12b09fffffff8, .acas 10 4 43 0xFFFFFFF8),
   (0x28a12b0afffffff8, .fadd 10 4 43 0xFFFFFFF8),
   (0x28a1000b00000008, .lr 10 4 8)] ++
  [(0x28d10e0c00000008, .sc 13 4 14 8)]

theorem test_words_atom : wordsAtom.all (fun (p : Word × Instr) => decodeSeq p.1 == some p.2) = true := by decide +kernel

/-- Words of the SYNC group, from the fields of 02 R39 to R46. -/
def wordsSync : List (Word × Instr) :=
  [(0x2c00000000000316, .fence ⟨3, true, false, true, true, false⟩),
   (0x2c01400102a80001, .binit 5 0x80001 0x2A),
   (0x2c91680200000000, .barr 9 5 40),
   (0x2c01680300000316, .bwait 5 40 ⟨3, true, false, true, true, false⟩),
   (0x2c91680400000316, .barrw 9 5 40 ⟨3, true, false, true, true, false⟩),
   (0x2c01680500000000, .bxfer 5 40),
   (0x2c01400600000000, .bfree 5),
   (0x2c01400700000000, .soinit 5),
   (0x2c01400800000316, .acq 5 ⟨3, true, false, true, true, false⟩),
   (0x2c01400900000316, .rel 5 ⟨3, true, false, true, true, false⟩),
   (0x2c01460a00000000, .rbind 5 6),
   (0x2c01400b00000001, .rmode 5 true)]

theorem test_words_sync : wordsSync.all (fun (p : Word × Instr) => decodeSeq p.1 == some p.2) = true := by decide +kernel

/-- Words of the DIG and PAGE group, from the fields of 02 R39 to R46. -/
def wordsDigPage : List (Word × Instr) :=
  [(0x3000e80000000000, .dcfg 3 40),
   (0x30c0c00100000040, .dq 12 3 64),
   (0x3000e80200000000, .drebuild 3 40),
   (0x3490c40000000007, .pgmap 9 3 4 7),
   (0x3490e80100000000, .pgunmap 9 3 40),
   (0x3490c00200000040, .pgfetch 9 3 64),
   (0x3400e80300000007, .sptag 3 40 7),
   (0x3490c00400000107, .spret 9 3 7 true),
   (0x3490e80500000000, .sptrunc 9 3 40),
   (0x3490e80600000000, .spposGet 9 3 40),
   (0x3490e80600000001, .spposSet 9 3 40)]

theorem test_words_digPage : wordsDigPage.all (fun (p : Word × Instr) => decodeSeq p.1 == some p.2) = true := by decide +kernel

/-- Words of the copy engine, from the fields of 02 R47, R51 and 07 R170. -/
def wordsCopy : List (Word × Instr) :=
  [(0x4500000000000000, .align .copy 5),
   (0xa1a5f30000003039, .engineHint .copy ⟨2, 33, 10, 5⟩ 3),
   (0xa1a5000000000000, .cnop ⟨2, 33, 10, 5⟩),
   (0xa1a5012400000abc, .qld ⟨2, 33, 10, 5⟩ 9 0xABC),
   (0xa1a502a582000000, .cpy ⟨2, 33, 10, 5⟩ 2 9 6 true),
   (0xa1a503a402012345, .fill ⟨2, 33, 10, 5⟩ 2 9 true 0x12345),
   (0xa1a504a5b2000000, .gather ⟨2, 33, 10, 5⟩ 2 9 6 12 true),
   (0xa1a505a5b2000000, .scatter ⟨2, 33, 10, 5⟩ 2 9 6 12 true),
   (0xa1a506a5b2000000, .scatadd ⟨2, 33, 10, 5⟩ 2 9 6 12 true),
   (0xa1a507a5b2008001, .topkr ⟨2, 33, 10, 5⟩ 2 9 6 12 true false 0x8001),
   (0xa1a508a5b2008001, .topkc ⟨2, 33, 10, 5⟩ 2 9 6 12 true 0x8001),
   (0xa1a508a5b2301803, .topkcTab ⟨2, 33, 10, 5⟩ 2 9 6 12 true 0x803 0x101)] ++
  [(0xa1a509a5b2012345, .compact ⟨2, 33, 10, 5⟩ 2 9 6 12 true 0x12345),
   (0xa1a50aa5b2200000, .expand ⟨2, 33, 10, 5⟩ 2 9 6 12 true true),
   (0xa1a50ba582400000, .accrd ⟨2, 33, 10, 5⟩ 2 9 6 true 2),
   (0xa1a50ca582e00000, .accwr ⟨2, 33, 10, 5⟩ 2 9 6 true 3 true),
   (0xa1a50da582000000, .dscan ⟨2, 33, 10, 5⟩ 2 9 6 true),
   (0xa1a50ea5b2a12345, .dskip ⟨2, 33, 10, 5⟩ 2 9 6 12 true 5 0x12345),
   (0xa1a50f0180200000, .prefetch ⟨2, 33, 10, 5⟩ 6 true),
   (0xa1a5100180200000, .evict ⟨2, 33, 10, 5⟩ 6 true),
   (0xa1a5110180400003, .chkarm ⟨2, 33, 10, 5⟩ 6 false true 3)]

theorem test_words_copy : wordsCopy.all (fun (p : Word × Instr) => decodeCmd .copy p.1 == some p.2) = true := by decide +kernel

/-- Words of the matrix engine, from the fields of 02 R47, R52 and 16. -/
def wordsMatrix : List (Word × Instr) :=
  [(0xa1a5000000000000, .mnop ⟨2, 33, 10, 5⟩),
   (0xa1a5010800608000, .wload ⟨2, 33, 10, 5⟩ 0x2001 0x41),
   (0xa1a502100004d700, .wconst ⟨2, 33, 10, 5⟩ 1 9 2 3 5),
   (0xa1a5030000048000, .wfree ⟨2, 33, 10, 5⟩ 9),
   (0xa1a504280060c1c1, .mma ⟨2, 33, 10, 5⟩ 2 0x2001 0x41 0x83 65),
   (0xa1a505280060c1c1, .mmat ⟨2, 33, 10, 5⟩ 2 0x2001 0x41 0x83 65),
   (0xa1a506280060c1c1, .mmaz ⟨2, 33, 10, 5⟩ 2 0x2001 0x41 0x83 65),
   (0xa1a5072000000000, .accz ⟨2, 33, 10, 5⟩ 2),
   (0xa1a508200001c180, .slmap ⟨2, 33, 10, 5⟩ 2 3 0x83),
   (0xa1a5092000004180, .slclr ⟨2, 33, 10, 5⟩ 2 false 0x83),
   (0xa1a5092000200000, .slclr ⟨2, 33, 10, 5⟩ 2 true 0),
   (0xa1a50a2000004180, .slspill ⟨2, 33, 10, 5⟩ 2 0x83)] ++
  [(0xa1a50b2000004180, .slfill ⟨2, 33, 10, 5⟩ 2 0x83),
   (0xa1a50c280046c1c1, .bind ⟨2, 33, 10, 5⟩ 2 0x2001 5 true 0x83 65),
   (0xa1a50d2800400041, .drain ⟨2, 33, 10, 5⟩ 2 0x2001 65),
   (0xa1a50e2800400041, .drainq ⟨2, 33, 10, 5⟩ 2 0x2001 65)]

theorem test_words_matrix : wordsMatrix.all (fun (p : Word × Instr) => decodeCmd .matrix p.1 == some p.2) = true := by decide +kernel

/-- Words of the vector engine, from the fields of 02 R47, R53 and 20 R366. -/
def wordsVector : List (Word × Instr) :=
  [(0xa1a5000000000000, .vnop ⟨2, 33, 10, 5⟩),
   (0xa1a5010000005839, .vwin ⟨2, 33, 10, 5⟩ 9 true 0x41 5),
   (0xa1a5028520288001, .vmov ⟨2, 33, 10, 5⟩ 33 18 5 1 true),
   (0xa1a50385232c0004, .vadd ⟨2, 33, 10, 5⟩ 33 18 12 5 8 0 true),
   (0xa1a50485232c0004, .vsub ⟨2, 33, 10, 5⟩ 33 18 12 5 8 0 true),
   (0xa1a5058523288002, .vmul ⟨2, 33, 10, 5⟩ 33 18 12 5 1 2),
   (0xa1a5068523288002, .vfma ⟨2, 33, 10, 5⟩ 33 18 12 5 1 2),
   (0xa1a5078523288000, .vmin ⟨2, 33, 10, 5⟩ 33 18 12 5 1),
   (0xa1a5088523288000, .vmax ⟨2, 33, 10, 5⟩ 33 18 12 5 1),
   (0xa1a5098520288000, .vabs ⟨2, 33, 10, 5⟩ 33 18 5 1),
   (0xa1a50a8520288000, .vneg ⟨2, 33, 10, 5⟩ 33 18 5 1),
   (0xa1a50b8523288002, .vdiv ⟨2, 33, 10, 5⟩ 33 18 12 5 1 2)] ++
  [(0xa1a50c8520288002, .vsqrt ⟨2, 33, 10, 5⟩ 33 18 5 1 2),
   (0xa1a50d8520288002, .vrsq ⟨2, 33, 10, 5⟩ 33 18 5 1 2),
   (0xa1a50e8520288002, .vrcp ⟨2, 33, 10, 5⟩ 33 18 5 1 2),
   (0xa1a50f8520288002, .vexp2 ⟨2, 33, 10, 5⟩ 33 18 5 1 2),
   (0xa1a5108520288002, .vlog2 ⟨2, 33, 10, 5⟩ 33 18 5 1 2),
   (0xa1a5118520290187, .vcvt ⟨2, 33, 10, 5⟩ 33 18 5 2 3 1 6),
   (0xa1a51285232e8000, .vand ⟨2, 33, 10, 5⟩ 33 18 12 5 13),
   (0xa1a51385232e8000, .vor ⟨2, 33, 10, 5⟩ 33 18 12 5 13),
   (0xa1a51485232e8000, .vxor ⟨2, 33, 10, 5⟩ 33 18 12 5 13),
   (0xa1a51585232e8061, .vshl ⟨2, 33, 10, 5⟩ 33 18 12 5 13 33 true),
   (0xa1a51685232e8061, .vshr ⟨2, 33, 10, 5⟩ 33 18 12 5 13 33 true),
   (0xa1a51785232e8061, .vshra ⟨2, 33, 10, 5⟩ 33 18 12 5 13 33 true)] ++
  [(0xa1a51885202e8000, .vpopc ⟨2, 33, 10, 5⟩ 33 18 5 13),
   (0xa1a51985202e8000, .vctz ⟨2, 33, 10, 5⟩ 33 18 5 13),
   (0xa1a51a85232f0001, .vclmul ⟨2, 33, 10, 5⟩ 33 18 12 5 14 true),
   (0xa1a51b85232f0002, .vpxor ⟨2, 33, 10, 5⟩ 33 18 12 5 14 false true),
   (0xa1a51c8520288003, .vpsum ⟨2, 33, 10, 5⟩ 33 18 5 1 3),
   (0xa1a51d8520288015, .vred ⟨2, 33, 10, 5⟩ 33 18 5 1 1 5),
   (0xa1a51e1923288004, .vcmp ⟨2, 33, 10, 5⟩ 6 18 12 5 1 4),
   (0xa1a51f8523288000, .vsel ⟨2, 33, 10, 5⟩ 33 18 12 5 1),
   (0xa1a520852028e001, .vbcast ⟨2, 33, 10, 5⟩ 33 18 5 1 true 0x2001),
   (0xa1a52184002e8001, .viota ⟨2, 33, 10, 5⟩ 33 5 13 true),
   (0xa1a52285232e8000, .vperm ⟨2, 33, 10, 5⟩ 33 18 12 5 13),
   (0xa1a5238520288001, .vcompr ⟨2, 33, 10, 5⟩ 33 18 5 1 true)] ++
  [(0xa1a524840028d001, .vld ⟨2, 33, 10, 5⟩ 33 5 1 0x5001),
   (0xa1a5258400e8e801, .vldg ⟨2, 33, 10, 5⟩ 33 3 5 1 0x801 6),
   (0xa1a526012028d001, .vst ⟨2, 33, 10, 5⟩ 18 5 1 0x5001),
   (0xa1a5270120e88801, .vstg ⟨2, 33, 10, 5⟩ 18 3 5 1 0x801),
   (0xa1a52819232e8001, .vmtest ⟨2, 33, 10, 5⟩ 6 18 12 5 13 true),
   (0xa1a5291831400001, .mand ⟨2, 33, 10, 5⟩ 6 3 5 true),
   (0xa1a52a1831400001, .mor ⟨2, 33, 10, 5⟩ 6 3 5 true),
   (0xa1a52b1830000000, .mnot ⟨2, 33, 10, 5⟩ 6 3),
   (0xa1a52c84302e8000, .mpop ⟨2, 33, 10, 5⟩ 33 3 5 13)]

theorem test_words_vector : wordsVector.all (fun (p : Word × Instr) => decodeCmd .vector p.1 == some p.2) = true := by decide +kernel

/-! ## A small machine for the tests -/

/-- An object with one extent of two pages. -/
def obj (oid : Nat) (space : Fin 8) (pa : Nat) : ObjEnt :=
  ⟨BitVec.ofNat 24 oid, space, false, false, false, 0, false, false, 1, 0, false, 0x2000, 0, 0, 0, 0, [⟨pa, true, 2⟩], .plain⟩

/-- Objects 1 STAGE, 2 GLOBAL (its second page not resident), 3 HOST, 4 a span table, 5 GLOBAL with digests, 6 code, 7
kernel code, 8 REVOKING, 9 COHERENT, the base configuration object and the kernel command object. -/
def oStage : ObjEnt := obj 1 1 (stagePa 3 0)
def oGlobal : ObjEnt := { obj 2 2 0x10000 with exts := [⟨0x10000, true, 1⟩, ⟨0x80000, false, 1⟩] }
def oHost : ObjEnt := obj 3 3 (2 ^ 48 + 0x4000)
def oSpan : ObjEnt := { obj 4 1 (stagePa 3 0x10000) with span := true }
def oDig : ObjEnt := { obj 5 2 0x20000 with dcfg := 0x0002000000000001 }
def oCode : ObjEnt := obj 6 2 0x30000
def oKernel : ObjEnt := obj 7 2 0x40000
def oRevoking : ObjEnt := { obj 8 2 0x50000 with state := 2 }
def oCoh : ObjEnt := { obj 9 2 0x60000 with coh := true }
def oConfig : ObjEnt := fwObj oidBaseConfig true false 0x100080 (fwPa 34) 0 .baseConfig
def oCmd : ObjEnt := fwObj oidKernelCmd true false 4096 (fwPa 34) 1 .kernelCmd

/-- A capability of every permission but P for object `oid` over its first `len` bytes from `lo`. -/
def cap (oid perm lo len cur : Nat) : Cap := ⟨capBits (BitVec.ofNat 24 oid) (BitVec.ofNat 8 perm) lo len, true, BitVec.ofNat 64 cur⟩

/-- c0 and c11 GLOBAL (resident, not resident), c1 scratchpad, c2, c12, c13 STAGE, c3 HOST, c4 span table, c5 digests,
c6, c7 the base's objects, c8 untagged, c9 REVOKING, c10 an absent object, c14 COHERENT, c15 a read capability of 32
bytes. -/
def caps : Vector Cap 16 :=
  #v[cap 2 0x7F 0 0x2000 0, spadCap, cap 1 0x7F 0 0x2000 0, cap 3 0x7F 0 0x2000 0, cap 4 0x7F 0 0x2000 0, cap 5 0x7F 0 0x2000 0,
     cap oidBaseConfig 0x7F 0 0x100080 0, cap oidKernelCmd 0x7F 0 4096 0x40, Cap.null, cap 8 0x7F 0 0x2000 0, cap 0x99 0x7F 0 0x2000 0,
     cap 2 0x7F 0 0x2000 0x1000, cap 1 0x7F 0 0x2000 0x20, cap 1 0x7F 0 0x2000 0x40, cap 9 0x7F 0 0x2000 0, cap 2 1 0x10 0x20 0x18]

/-- A lease of launch 1 that runs object 6. -/
def lease : Lease := ⟨1, 1, 0, #v[0, 0, 0, 0], 6, false, false, [], none, 0, [], [], 0⟩

/-- A launch of one stage. -/
def launch1 : Launch :=
  ⟨1, 0, false, 7, 0, false, #v[4, 1, 1, 1], 4, [⟨BitVec.ofNat 320 3, 6, 0xFFFFFF, 1⟩], [], 1, 0, 0, 0, false, [], 2, 0, 0, []⟩

/-- The small machine: a sync object at `stagePa 3 0x20` and a barrier (expect 2, pend 2, kind 1) at `stagePa 3 0x40`.
-/
def st : State :=
  { State.reset with
    phase := .seq
    core := { Core.free 0 with
      seq := ⟨(Vector.replicate 64 0).set 5 7, caps, 0⟩
      lease := some lease }
    base := { Base.start with
      objs := [oStage, oGlobal, oHost, oSpan, oDig, oCode, oKernel, oRevoking, oCoh, oConfig, oCmd]
      mem := memWriteL (memWriteL [] 0x30000 [5, 0, 0x12, 0x34, 0, 0, 0, 0x38]) (stagePa 3 0x40) (natBytes 16 (2 * 2 ^ 4 + 2 * 2 ^ 24 + 2 ^ 120))
      live := [⟨stagePa 3 0x20, false, 0, 0, false, []⟩, ⟨stagePa 3 0x40, true, 0, 0, true, []⟩]
      kcode := (Vector.replicate 16 none).set 0 (some ⟨7, 0⟩)
      launches := [launch1] } }

/-- Its variants: in kernel mode, with other registers, engines, base. -/
def inKernel (s : State) : State := { s with core := { s.core with csr := { s.core.csr with mode := true } } }
def withX (s : State) (k : Fin 64) (v : Word) : State :=
  { s with core := { s.core with seq := { s.core.seq with x := s.core.seq.x.set k v } } }
def atPc (s : State) (p : Word) : State := { s with core := { s.core with seq := { s.core.seq with pc := p } } }
def withEngines (s : State) (f : Engines → Engines) : State := { s with core := { s.core with eng := f s.core.eng } }
def withBase (s : State) (f : Base → Base) : State := { s with base := f s.base }
def withWait (s : State) (w : Wait) : State := { s with core := { s.core with wait := w } }

/-- What `f` sees of the next state that `i` makes of `s`. -/
def seen {α : Type} (f : State → α) (i : Instr) (s : State) : Option α :=
  match exec i s with
  | .next t => some (f t)
  | _ => none

/-- What register `k` holds after `i`. -/
def xAfter (k : Fin 64) (i : Instr) (s : State) : Option Word := seen (fun t => t.core.seq.x[k]) i s

/-! ## Single instructions, with values of the spec or by hand from its rules -/

theorem test_addi : xAfter 10 (.addi 10 0 0x200) st = some 0x200 := by decide +kernel
theorem test_add_wraps : xAfter 9 (.add 9 5 6) (withX st 6 0xFFFFFFFFFFFFFFFF) = some 6 := by decide +kernel
theorem test_x0_discards : xAfter 0 (.addi 0 5 1) st = some 0 := by decide +kernel
/-- −7 / 2 is −3 and the remainder −1 (05 R122, R123). -/
theorem test_div_truncates : xAfter 9 (.div 9 6 7) (withX (withX st 6 0xFFFFFFFFFFFFFFF9) 7 2) = some 0xFFFFFFFFFFFFFFFD := by decide +kernel
theorem test_rem_sign : xAfter 9 (.rem 9 6 7) (withX (withX st 6 0xFFFFFFFFFFFFFFF9) 7 2) = some 0xFFFFFFFFFFFFFFFF := by decide +kernel
theorem test_divn_by_zero : xAfter 9 (.divn 9 5 0) st = some 0xFFFFFFFFFFFFFFFF := by decide +kernel
theorem test_div_overflow :
    xAfter 9 (.div 9 6 7) (withX (withX st 6 0x8000000000000000) 7 0xFFFFFFFFFFFFFFFF) = some 0x8000000000000000 := by decide +kernel
/-- The product with all ones is the prefix XOR (05 R122). -/
theorem test_clmul_prefix : xAfter 9 (.clmul 9 6 7) (withX (withX st 6 5) 7 0xFFFFFFFFFFFFFFFF) = some 3 := by decide +kernel
theorem test_movhi : xAfter 12 (.movhi 12 5 1) st = some 0x100000007 := by decide +kernel
theorem test_jal_back : seen (fun t => (t.core.seq.pc, t.core.seq.x[1])) (.jal 1 0xFFFFFFFE) (atPc st 0x20) = some (0x10, 0x28) := by
  decide +kernel
theorem test_bltn_unsigned : seen (fun t => t.core.seq.pc) (.bltn 5 6 2) (withX st 6 0xFFFFFFFFFFFFFFFF) = some 16 := by decide +kernel
/-- TRAP 0x42 gives CAUSE 0x4200_0004 (05 R117). -/
theorem test_trap_cause : seen (fun t => (t.core.csr.cause, t.core.csr.epc, t.core.csr.mode)) (.trap 0x42) (atPc st 0x10) =
    some (0x42000004, 0x18, true) := by decide +kernel
theorem test_halt_tile_traps : seen (fun t => t.core.csr.cause) .halt st = some 0x20001 := by decide +kernel
theorem test_eret_mode : seen (fun t => (t.core.csr.mode, t.core.seq.pc)) .eret
    { inKernel st with core := { (inKernel st).core with csr := { (inKernel st).core.csr with epc := 0x18 } } } = some (false, 0x18) := by
  decide +kernel
/-- A GLOBAL load reads the home's bytes, little-endian (05 R128); object 6 stands at 0x30000. -/
theorem test_load_global : xAfter 9 (.ld .global false 1 9 0 0 2)
    { st with core := { st.core with seq := { st.core.seq with c := caps.set 0 (cap 6 0x7F 0 0x2000 0) } } } = some 0x3412 := by decide +kernel
theorem test_store_spad : seen (fun t => memRead t.core.eng.spad 17) (.st .spad 0 5 1 0 17) st = some 7 := by decide +kernel
theorem test_load_space_mismatch : seen (fun t => (t.core.csr.cause, t.core.csr.badaddr)) (.ld .stage false 3 9 0 0 8) st =
    some (0x40003, 8) := by decide +kernel
theorem test_store_buffered : seen (fun t => t.core.sb.map (fun e => (e.off, e.data))) (.st .global 1 5 0 0 8) st = some [(8, [7, 0])] := by
  decide +kernel
theorem test_cderive_outside : seen (fun t => t.core.csr.cause) (.cderive 3 15 5) (withX st 5 0x19) = some (0xF020003) := by decide +kernel
theorem test_cgetoff : xAfter 9 (.cgetoff 9 15) st = some 8 := by decide +kernel
theorem test_aadd_stage : seen (fun t => (t.core.seq.x[9], memNat t.base.mem (stagePa 3 0x80) 8)) (.aadd 9 2 5 0x80) (withX st 9 1) = some (0, 7) := by
  decide +kernel
theorem test_aadd_clobbers : seen (fun t => t.core.csr.cause) (.aadd 9 13 5 0) st = some 0x16 := by decide +kernel
theorem test_sc_without : xAfter 9 (.sc 9 2 5 0) st = some 1 := by decide +kernel
theorem test_barr_arrives : seen (fun t => (barRead t (stagePa 3 0x40)).pend) (.barr 9 13 0) st = some 1 := by decide +kernel
theorem test_binit_clobbers : seen (fun t => t.core.csr.cause) (.binit 13 2 1) st = some 0x16 := by decide +kernel
theorem test_pgfetch_uncovered : xAfter 9 (.pgfetch 9 11 0) (withWait st (.pgfetch 2 1 true)) = some 1 := by decide +kernel
theorem test_csrset_reserved : seen (fun t => t.core.csr.qk) (.csrset 9 5) (withX st 5 0xF3) = some 3 := by decide +kernel
theorem test_rngnext_zero : seen (fun t => (t.core.seq.x[9], t.core.csr.rngctr)) (.rngnext 9) st = some (0, 1) := by decide +kernel

/-! ## Witnesses: for each statement with hypotheses, states and operands that meet them, clause by clause -/

theorem witness_SequencerWordsRoundTrip : (Instr.ld .host true 2 63 15 63 0xFFFFFFFF).wf = true ∧
    (encodeSeq (.ld .host true 2 63 15 63 0xFFFFFFFF)).isSome = true := by decide +kernel

theorem witness_CommandWordsRoundTrip : (Instr.cpy ⟨3, 63, 15, 15⟩ 3 15 15 true).wf = true ∧
    (encodeCmd (.cpy ⟨3, 63, 15, 15⟩ 3 15 15 true)).isSome = true := by decide +kernel

theorem witness_DecodedInstructionsAreWellFormed : decodeSeq 0x30C0C00100000000 = some (.dq 12 3 0) ∧
    decodeCmd .matrix 0x8300000000000000 = some (.mnop ⟨2, 3, 0, 0⟩) := by decide +kernel

/-- A published ring: the copy ring of `ring1 w` holds the word `w` at its head. -/
def ring1 (w : Word) : State :=
  { withEngines st (fun g => { g with
      rings := g.rings.set 0 ⟨true, 4, 0, 0, 1, 1, false, 0, none⟩
      spad := memWriteL [] 0 (natBytes 8 w.toNat) }) with phase := .eng }

/-- `Fetches`, with the refusal's part in a form that is decided at once. -/
theorem fetches_of {s : State} (hr : s.core.refusal = none)
    (h : s.phase = .seq ∧ s.core.lease.isSome = true ∧ s.core.busy = 0 ∧ s.core.saving = false ∧ s.core.wait ≠ .ending ∧
      (s.core.eng.efault = none ∨ s.core.csr.mode = true ∨ answering s.core.wait = true) ∧
      releaseDue s = false ∧ waitOver s.core.wait = false) : Fetches s :=
  have none : ∀ r, s.core.refusal = some r → r.2 ≠ s.core.csr.mode := fun r hs => by rw [hr] at hs; cases hs
  ⟨h.1, h.2.1, h.2.2.1, h.2.2.2.1, h.2.2.2.2.1, h.2.2.2.2.2.1, none, h.2.2.2.2.2.2⟩

theorem witness_StepRunsTheDecodedInstruction_fetch : Fetches st ∧ Code st oCode ∧ st.core.seq.pc.toNat + 8 ≤ oCode.len ∧
    paOf oCode st.core.seq.pc.toNat = some 0x30000 ∧
    decodeSeq (BitVec.ofNat 64 (bytesNat (memReadN st.base.mem 0x30000 8))) = none ∧
    decodeSeq (BitVec.ofNat 64 (bytesNat (memReadN st.base.mem 0x30008 8))) = some .nop := by
  refine ⟨fetches_of rfl (by decide +kernel), ⟨6, by decide +kernel, by decide +kernel⟩, ?_⟩
  decide +kernel

theorem witness_StepRunsTheDecodedInstruction_end : Fetches (atPc st 0x2000) ∧ Code (atPc st 0x2000) oCode ∧
    oCode.len ≤ (atPc st 0x2000).core.seq.pc.toNat ∧ Fetches (inKernel st) ∧ Code (inKernel st) oKernel := by
  refine ⟨fetches_of rfl (by decide +kernel), ⟨6, by decide +kernel, by decide +kernel⟩, by decide +kernel, fetches_of rfl (by decide +kernel),
    ⟨7, by decide +kernel, by decide +kernel⟩⟩

/-- The hypotheses on the copy ring for the head `w`. -/
abbrev ReadyHead (w : Word) : Prop :=
  let s := ring1 w
  s.phase = .eng ∧ s.core.lease.isSome = true ∧ s.core.eng.freeze = none ∧ s.core.throttled = false ∧ s.core.saving = false ∧
    s.core.eng.reports = [] ∧ formJob s = none ∧ (renewNext s).isNone = true ∧ (dueOf s .copy).isNone = true ∧
    ringWord s.core.eng (engIdx .copy) = some w ∧ w.toNat / 2 ^ 62 ≠ 1 ∧
    (s.core.eng.rings[engIdx .copy]).idle = false ∧
    (s.core.eng.rings[engIdx .copy]).nextIss + idleCount (CmdFields.unpack w).hdr ≤ s.core.csr.scc

/-- CNOP at the head of the copy ring, and a word without a command. -/
theorem witness_StepRunsTheDecodedInstruction_ring : ReadyHead 0 ∧ ReadyHead 0x0000990000000000 := by decide +kernel

theorem witness_decodes_of_the_ring : decodeCmd .copy 0 = some (.cnop h0) ∧ decodeCmd .copy 0x0000990000000000 = none := by decide +kernel

/-- An engine fault that waits. -/
def fault1 : EFault := ⟨0x12, 0, .vector, 3, 5, 0⟩

theorem witness_EretReturnsAndTileModeTraps : st.core.csr.mode = false ∧ (inKernel st).core.csr.mode = true ∧
    (inKernel st).core.eng.efault = none ∧
    (let s := inKernel (withEngines { st with core := { st.core with csr := { st.core.csr with epend := true } } }
       (fun g => { g with efault := some fault1 }))
     s.core.csr.mode = true ∧ s.core.eng.efault = some fault1 ∧ s.core.csr.pmode = false ∧ s.core.csr.epend = true) := by
  decide +kernel

theorem witness_HaltEndsTheLease : (inKernel st).core.csr.mode = true ∧ (inKernel st).core.lease = some lease := by decide +kernel

theorem witness_CsrWritesTakeEffectOrTrap :
    (0x01B ∈ csrNumbers ∧ 0x01B ∉ csrReadOnly ∧ 0x01B ∉ csrKernelOnly) ∧
    (0x000 ∈ csrNumbers ∧ 0x000 ∉ csrReadOnly ∧ (inKernel st).core.csr.mode = true) ∧ 0x005 ∉ csrNumbers ∧ 0xFFF ∉ csrNumbers ∧
    (0x020 ∈ csrNumbers ∧ 0x020 ∈ csrReadOnly) ∧ (0x019 ∈ csrNumbers ∧ 0x019 ∈ csrKernelOnly ∧ st.core.csr.mode = false) := by decide +kernel

/-- A replay that holds the recorded value of the lease's first timer read. -/
def replayed : State := withBase st (fun b => { b with replay := some ⟨⟨.host, 9, 0⟩, 0, [], 0, [(1, 0, 77)], []⟩ })

theorem witness_TimeAndRandomReads : st.core.lease = some lease ∧ st.base.replay = none ∧ st.base.capture.mode = 0 ∧
    (Core.free 0).lease = none ∧ replayed.core.lease = some lease ∧
    (replayed.base.replay.bind (fun r => r.timers.find? (fun t => t.1 == lease.id && t.2.1 == lease.tread))) = some (1, 0, 77) := by
  decide +kernel

/-- In a replay a timer read gives the recorded value (22 R404). -/
theorem test_gtime_replayed : xAfter 9 (.gtime 9) replayed = some 77 := by decide +kernel

theorem witness_DivisionHandlesItsCorners : reg st 0 = 0 ∧ reg st 5 ≠ 0 := by decide +kernel

theorem witness_BranchesAndJumps : (BitVec.ofInt 64 ((reg st 5).toInt + (1#32).toInt)).toNat % 8 = 0 ∧
    (BitVec.ofInt 64 ((reg st 5).toInt + (0#32).toInt)).toNat % 8 ≠ 0 := by decide +kernel

theorem witness_TrapEntersTheHandler : (0x00000002ABCD0042#64).toNat / 2 ^ 58 = 0 ∧ (0x00000002ABCD0042#64).toNat / 2 ^ 32 % 256 = 0x02 ∧
    decodeSeq 0x00000002ABCD0042 = some (.trap 0x42) := by decide

theorem witness_ImmediateForms : (0x08A00004FFFFFFC5#64).toNat / 2 ^ 58 = 0x02 ∧ (0x08A00004FFFFFFC5#64).toNat / 2 ^ 32 % 256 = 0x04 ∧
    decodeSeq 0x08A00004FFFFFFC5 = some (.slli 10 0 5) := by decide

/-! ### Capabilities and plain memory -/

/-- Whether a check passes with the entry `o`, and the trap it gives otherwise. -/
def passes (r : Except Trap ObjEnt) (o : ObjEnt) : Bool :=
  match r with
  | .ok p => p == o
  | .error _ => false
def fails (r : Except Trap ObjEnt) (t : Trap) : Bool :=
  match r with
  | .ok _ => false
  | .error u => u == t

/-- Whether a check traps. -/
def trapsIn (r : Except Trap ObjEnt) : Bool :=
  match r with
  | .ok _ => false
  | .error _ => true

theorem passes_eq {r : Except Trap ObjEnt} {o : ObjEnt} (h : passes r o = true) : r = .ok o := by
  cases r <;> simp_all [passes]
theorem fails_eq {r : Except Trap ObjEnt} {t : Trap} (h : fails r t = true) : r = .error t := by
  cases r <;> simp_all [fails]

/-- Each check of the list fails first somewhere: tag, permission, range, alignment, presence, kernel use, space, span
tables. -/
theorem witness_CapabilityChecksStopAtTheFirstFailure :
    checkCap st 0 8 8 8 1 (some 2) = .ok oGlobal ∧ oGlobal.space ∈ [1, 2, 3] ∧ oGlobal.space ∉ [1] ∧
    checkCap st 8 0 8 8 1 none = .error ⟨0x03, 1, 8, 0⟩ ∧ checkCap st 15 0x10 8 8 2 none = .error ⟨0x03, 3, 15, 0x10⟩ ∧
    checkCap st 15 0x30 8 8 1 none = .error ⟨0x03, 2, 15, 0x30⟩ ∧ checkCap st 15 0x12 8 8 1 none = .error ⟨0x02, 1, 0, 0x12⟩ ∧
    checkCap st 10 0 8 8 1 none = .error ⟨0x03, 6, 10, 0⟩ ∧ checkCap st 6 0 8 8 1 none = .error ⟨0x03, 7, 6, 0⟩ ∧
    checkCap st 0 0 8 8 1 (some 1) = .error ⟨0x03, 4, 0, 0⟩ ∧ checkCap st 4 0 8 8 2 (some 1) = .error ⟨0x03, 3, 4, 0⟩ := by
  refine ⟨passes_eq ?_, ?_, ?_, fails_eq ?_, fails_eq ?_, fails_eq ?_, fails_eq ?_, fails_eq ?_, fails_eq ?_, fails_eq ?_, fails_eq ?_⟩ <;>
    decide +kernel

theorem witness_FailedChecksTrapAndLookupsPin :
    firstCheck st (.ld .stage false 3 9 0 0 8) = some (.error ⟨0x03, 4, 0, 8⟩) ∧
    firstCheck st (.rmode 2 true) = some (.error ⟨0x02, 0, 0, 0⟩) ∧
    capOid st.core.seq.c[1] = 0xFFFFFF ∧ capOid st.core.seq.c[0] ≠ 0xFFFFFF := by
  refine ⟨congrArg some (fails_eq ?_), congrArg some (fails_eq ?_), ?_, ?_⟩ <;> decide +kernel

/-- What the base answers. -/
def answers {α : Type} (r : Res α) (f : α → Bool) : Bool :=
  match r with
  | .ok _ v => f v
  | _ => false

/-- The loads of the scratchpad, of a register, of a GLOBAL object, and the capability loads. -/
theorem witness_LoadsDeliverTheirBytes :
    checkCap st 1 (off3 st 1 0 8) 8 8 1 (some (spaceNo .spad)) = .ok spadObj ∧ spadObj.space = 0 ∧
    checkCap (inKernel st) 6 (off3 st 6 0 8) 8 8 1 (some (spaceNo .stage)) = .ok oConfig ∧ oConfig.space ≠ 0 ∧ oConfig.role = .baseConfig ∧
    checkCap st 0 (off3 st 0 0 8) 8 8 1 (some (spaceNo .global)) = .ok oGlobal ∧ oGlobal.space ≠ 0 ∧ oGlobal.role ≠ .baseConfig ∧
    answers (baseLoad (at' { st with core := { st.core with sb := [⟨2, 8, natBytes 8 5, none⟩] } } 0) 0 oGlobal 8 8)
      (fun v => v.1.length == 8) = true ∧
    checkCap st 1 (off3 st 1 0 16) 16 16 1 none = .ok spadObj ∧ checkCap st 2 (off3 st 2 0 16) 16 16 1 none = .ok oStage ∧
    answers (baseLoad (at' st 2) 2 oStage 16 16) (fun v => v.1.length == 16) = true := by
  refine ⟨passes_eq ?_, ?_, passes_eq ?_, ?_, ?_, passes_eq ?_, ?_, ?_, ?_, passes_eq ?_, passes_eq ?_, ?_⟩ <;> decide +kernel

/-- A machine with a store of 2 bytes to offset 8 of object 2 in the buffer, and an L1 word at offset 16. -/
def buffered : State := { st with core := { st.core with
  sb := [⟨2, 8, [1, 2], none⟩], l1 := [⟨0x10010, 2, 16, 0x1122, false, false, false⟩] } }

theorem witness_BaseLoadsForwardMissOrRead :
    (oGlobal.space ≠ 1 ∧ ∀ i, i < 2 → sbByte buffered.core.sb oGlobal.oid (8 + i) ≠ none) ∧
    (∃ i, i < 4 ∧ sbByte buffered.core.sb oGlobal.oid (8 + i) ≠ none) ∧
    (∃ i, i < 4 ∧ sbByte buffered.core.sb oGlobal.oid (8 + i) = none) ∧
    ((∀ i, i < 8 → sbByte buffered.core.sb oGlobal.oid (0x1000 + i) = none) ∧ residentAt oGlobal 0x1000 = false) ∧
    ((∀ i, i < 8 → sbByte buffered.core.sb oGlobal.oid (16 + i) = none) ∧ oGlobal.space = 2 ∧ residentAt oGlobal 16 = true ∧
      paOf oGlobal (8 * (16 / 8)) = some 0x10010 ∧
      buffered.core.l1.find? (fun x => x.pa == 0x10010) = some ⟨0x10010, 2, 16, 0x1122, false, false, false⟩) ∧
    ((∀ i, i < 8 → sbByte buffered.core.sb oGlobal.oid (24 + i) = none) ∧ residentAt oGlobal 24 = true ∧ oGlobal.coh = false ∧ 24 % 8 + 8 ≤ 8 ∧
      paOf oGlobal (8 * (24 / 8)) = some 0x10018 ∧ buffered.core.l1.find? (fun x => x.pa == 0x10018) = none) ∧
    (oStage.space = 1 ∧ residentAt oStage 0 = true ∧ oStage.coh = false ∧ paOf oStage 0 = some (stagePa 3 0)) ∧
    ((∀ i, i < 8 → sbByte buffered.core.sb oHost.oid i = none) ∧ oHost.space = 3 ∧ residentAt oHost 0 = true ∧ oHost.coh = false ∧
      paOf oHost 0 = some (2 ^ 48 + 0x4000) ∧ dramChan (some oHost) (2 ^ 48 + 0x4000) = none ∧ 0 % 256 + 8 ≤ 256 ∧
      (∀ c ∈ st.core :: st.others, c.gated = false)) := by
  refine ⟨?_, ⟨0, by decide +kernel⟩, ⟨2, by decide +kernel⟩, ?_⟩ <;> decide +kernel

theorem witness_StoresGoWhereTheirObjectIs :
    checkCap st 1 (off3 st 1 0 8) 8 8 2 (some (spaceNo .spad)) = .ok spadObj ∧ Memory.wf st.core.eng.spad = true ∧
    checkCap (inKernel st) 6 (off3 st 6 0 8) 8 8 2 (some (spaceNo .stage)) = .ok oConfig ∧ oConfig.role = .baseConfig ∧
    checkCap (inKernel st) 7 (off3 st 7 0 0) 8 8 2 (some (spaceNo .stage)) = .ok oCmd ∧ oCmd.space ≠ 0 ∧ oCmd.role = .kernelCmd ∧
    (off3 st 7 0 0).toNat = 0x40 ∧ answers (baseStore (at' (inKernel st) 7) 7 oCmd 0x40 (natBytes 8 7) none) (fun _ => true) = true ∧
    (reg st 5).getLsbD 0 = true ∧
    checkCap st 1 (off3 st 1 0 16) 16 16 2 none = .ok spadObj ∧ checkCap st 0 (off3 st 0 0 16) 16 16 2 none = .ok oGlobal ∧
    answers (baseStore (at' st 0) 0 oGlobal 16 (natBytes 16 7) (some true)) (fun _ => true) = true := by
  refine ⟨passes_eq ?_, ?_, passes_eq ?_, ?_, passes_eq ?_, ?_, ?_, ?_, ?_, ?_, passes_eq ?_, passes_eq ?_, ?_⟩ <;> decide +kernel

theorem witness_BaseStoresCommitBufferOrWait :
    (residentAt oStage 0 = true ∧ oStage.space = 1 ∧ paOf oStage 0 = some (stagePa 3 0)) ∧
    (residentAt oGlobal 0xFF8 = true ∧ oGlobal.space ≠ 1) ∧ extOf oGlobal 0x2000 = none ∧
    (extOf oGlobal 0x1000 = some (1, ⟨0x80000, false, 1⟩, 0x1000) ∧ st.core.wait = .none) ∧
    (withWait st (.resid 2 1 false)).core.wait = .resid oGlobal.oid 1 false ∧
    (withWait st (.resid 2 1 true)).core.wait = .resid oGlobal.oid 1 true := by decide +kernel

/-- The first two pages of object 5, in two extents that do not follow one another. -/
def oSplit : ObjEnt := { oGlobal with len := 0x2000, exts := [⟨0x10000, true, 1⟩, ⟨0x40000, true, 1⟩] }

theorem witness_HomeWritesTouchOnlyTheirBytes :
    (extOf oSplit 0xFFC = some (0, ⟨0x10000, true, 1⟩, 0) ∧ 0 + 1 * 4096 - 0xFFC < (List.replicate 8 (5 : Byte)).length) ∧
    (oDig.exts.length = 1 ∧ (extOf oDig 0x1FF8).map (fun p => (p.1, p.2.1.pa + (0x1FF8 - p.2.2))) = some (0, 0x21FF8) ∧
      0x1FF8 + [1, 2].length ≤ pagesOf oDig.exts * 4096) ∧ Memory.wf st.base.mem = true ∧
    (∀ p, oDig.role ≠ .capTable p) ∧ ([1, 2] : List Byte) ≠ [] ∧ oDig.dcfg.getLsbD 0 = true ∧ oGlobal.dcfg.getLsbD 0 = false ∧
    0x1FF8 + [1, 2].length ≤ oDig.len ∧ st.base.ecc = [] := by decide +kernel

/-- c15 covers [0x10, 0x30) with its cursor at 0x18: a length of 0x18 reaches the end, 0x19 not. -/
theorem witness_DerivationsNeverGrow :
    (st.core.seq.c[15]).tag = true ∧ Derives st 15 ∧ capLo st.core.seq.c[15] ≤ 0x18 ∧
    0x18 + (reg (withX st 5 0x18) 5).toNat ≤ capLo st.core.seq.c[15] + capLen st.core.seq.c[15] ∧
    capLo st.core.seq.c[15] + capLen st.core.seq.c[15] < 0x18 + (reg (withX st 5 0x19) 5).toNat ∧
    (st.core.seq.c[8]).tag = false ∧ (st.core.seq.c[10]).tag = true ∧ findObj st (capOid st.core.seq.c[10]) = none ∧
    (st.core.seq.c[9]).tag = true ∧ findObj st (capOid st.core.seq.c[9]) = some oRevoking ∧ oRevoking.state = 2 ∧
    Instr.cderive 3 15 5 ∈ derivations 3 15 5 0 := by
  refine ⟨by decide +kernel, ⟨oGlobal, by decide +kernel⟩, ?_⟩
  decide +kernel

theorem witness_BaseLoads_array : (dramRead buffered oGlobal 24 8 buffered.core.id).2 = .ok := by decide +kernel

/-! ### Home instructions -/

/-- The null capability and the other forms are reached; an atomic at the sync object's free neighbour and at the
barrier's block. -/
theorem witness_ValueAtomicsReturnTheOldWord :
    (Leaves st 2 (off2 st 2 0x80) 8 8 4 [1, 2, 3] oStage ∧ Reaches oStage 0x80 (stagePa 3 0x80) ∧ (atWord st 2 oStage 0x80 (stagePa 3 0x80)).2 = .ok ∧
      tagged (atWord st 2 oStage 0x80 (stagePa 3 0x80)).1.base (stagePa 3 0x80) 8 = false) ∧
    (Leaves st 13 (off2 st 13 0) 8 8 4 [1, 2, 3] oStage ∧ Reaches oStage 0x40 (stagePa 3 0x40) ∧ (atWord st 13 oStage 0x40 (stagePa 3 0x40)).2 = .ok ∧
      tagged (atWord st 13 oStage 0x40 (stagePa 3 0x40)).1.base (stagePa 3 0x40) 8 = true) ∧
    (Leaves (inKernel st) 6 (off2 st 6 8) 8 8 4 [1, 2, 3] oConfig ∧ oConfig.role = .baseConfig) ∧
    (Instr.acas 9 2 5 0x80, fun old => if old = reg st 9 then some (reg st 5) else none) ∈ valueAtomics st 9 2 5 0x80 := by
  refine ⟨⟨⟨?_, passes_eq ?_⟩, ⟨?_, ?_, ?_⟩, ?_⟩, ⟨⟨?_, passes_eq ?_⟩, ⟨?_, ?_, ?_⟩, ?_⟩, ⟨⟨?_, passes_eq ?_⟩, ?_⟩, ?_⟩
  rotate_right
  · simp [valueAtomics]
  all_goals decide +kernel

/-- A reservation that stands on the word at 0x80, and one at a tagged block. -/
def reserved (pa : Nat) : State := withBase st (fun b => { b with resv := [⟨homeOf oStage pa, 0, 1, pa, 0, 0⟩] })

theorem witness_ReservationsGuardTheStore :
    (Leaves st 2 (off2 st 2 0x80) 8 8 4 [1, 2, 3] oStage ∧ Reaches oStage 0x80 (stagePa 3 0x80) ∧ (atWord st 2 oStage 0x80 (stagePa 3 0x80)).2 = .ok) ∧
    (∃ r ∈ (atWord (reserved (stagePa 3 0x80)) 2 oStage 0x80 (stagePa 3 0x80)).1.base.resv,
      r.slice = homeOf oStage (stagePa 3 0x80) ∧ r.core = 0 ∧ r.pa = stagePa 3 0x80 ∧ r.seq = 0 ∧ r.lease = 1 ∧ 0 < r.gtc + 4096) ∧
    tagged (atWord (reserved (stagePa 3 0x80)) 2 oStage 0x80 (stagePa 3 0x80)).1.base (stagePa 3 0x80) 8 = false ∧
    tagged (atWord (reserved (stagePa 3 0x40)) 13 oStage 0x40 (stagePa 3 0x40)).1.base (stagePa 3 0x40) 8 = true ∧
    (atWord st 2 oStage 0x80 (stagePa 3 0x80)).1.base.resv = [] := by
  refine ⟨⟨⟨?_, passes_eq ?_⟩, ⟨?_, ?_, ?_⟩, ?_⟩, ?_⟩ <;> decide +kernel

/-- An ordering immediate of every scope. -/
def ordAll : Ord := ⟨4, true, true, true, true, true⟩

/-- A posted engine write that the release half waits for. -/
def owing : State := withEngines st (fun g => { g with transit := [⟨0, .copy, 0, true, false, 0, 8, 2, 0, .bytes [(0x10000, 1)], none, 0⟩] })

/-- The machine of an ACQ, REL, BWAIT or BARRW through c12 or c13, its release half done and its request at the slice.
-/
def readied (b : CReg) (k : Nat) : State :=
  serve (released' st b ordAll) (homeOf oStage (stagePa 3 k)) 0 0 (released' st b ordAll).core.csr.pid

theorem witness_OrderingInstructionsComplete : releaseReady owing ordAll = false ∧ releaseReady st ordAll = true ∧
    ordAll.ascope ≠ 0 ∧ ordAll.global = true ∧ Leaves st 12 (off1 st 12) 16 16 4 [1] oStage ∧
    paOf oStage (off1 st 12).toNat = some (stagePa 3 0x20) ∧ releaseReady (at' st 12) ordAll = true ∧
    releaseReady (at' owing 12) ordAll = false ∧ liveSync (readied 12 0x20) (stagePa 3 0x20) = true ∧
    liveSync (readied 12 0x20) (stagePa 3 0) = false ∧
    owes (released' st 12 ordAll) (fun e => ([] : List (BitVec 24)).contains e.oid) = false ∧
    owes (released' owing 12 ordAll) (fun e => [(2 : BitVec 24)].contains e.oid) = true := by
  refine ⟨?_, ?_, ?_, ?_, ⟨?_, passes_eq ?_⟩, ?_⟩ <;> decide +kernel

theorem witness_LiveObjectsBeginAndEnd : AtSyncObj st 2 oStage (stagePa 3 0) ∧ AtSyncObj st 12 oStage (stagePa 3 0x20) ∧
    AtSyncObj st 13 oStage (stagePa 3 0x40) ∧
    liveObj (asked st 2 oStage (stagePa 3 0)) (stagePa 3 0) = none ∧
    liveObj (asked st 12 oStage (stagePa 3 0x20)) (stagePa 3 0x20) = some ⟨stagePa 3 0x20, false, 0, 0, false, []⟩ ∧
    memNat (asked st 12 oStage (stagePa 3 0x20)).base.mem (stagePa 3 0x20 + 12) 2 = 0 ∧
    liveObj (asked st 13 oStage (stagePa 3 0x40)) (stagePa 3 0x40) = some ⟨stagePa 3 0x40, true, 0, 0, true, []⟩ := by
  refine ⟨⟨⟨?_, passes_eq ?_⟩, ?_⟩, ⟨⟨?_, passes_eq ?_⟩, ?_⟩, ⟨⟨?_, passes_eq ?_⟩, ?_⟩, ?_⟩ <;> decide +kernel

theorem witness_BarrierArrivalsAndWaits :
    (AtSyncObj st 13 oStage (stagePa 3 0x40) ∧ liveBar (asked st 13 oStage (stagePa 3 0x40)) (stagePa 3 0x40) = true ∧
      Counts st lease ∧ (barRead (asked st 13 oStage (stagePa 3 0x40)) (stagePa 3 0x40)).pend ≠ 0 ∧
      Current 0 (barRead (asked st 13 oStage (stagePa 3 0x40)) (stagePa 3 0x40)).gen ∧ Current 15 0 ∧ ¬ Current 1 0) ∧
    (st.core.wait = .none ∧ releaseReady (at' st 13) ordAll = true ∧ releaseReady (at' owing 13) ordAll = false ∧
      liveBar (readied 13 0x40) (stagePa 3 0x40) = true ∧ lease.resumeArr = none ∧
      { lease with resumeArr := some (stagePa 3 0x40, 0) }.resumeArr = some (stagePa 3 0x40, (barRead (readied 13 0x40) (stagePa 3 0x40)).gen)) ∧
    (withWait st (.bwait (stagePa 3 0x40) true)).core.wait = .bwait (stagePa 3 0x40) true ∧
    (withWait st (.barrw (stagePa 3 0x40) 0 true)).core.wait = .barrw (stagePa 3 0x40) 0 true ∧
    (withWait st (.bwait (stagePa 3 0x40) false)).core.wait = .bwait (stagePa 3 0x40) false ∧
    (withWait st (.barrw (stagePa 3 0x40) 0 false)).core.wait = .barrw (stagePa 3 0x40) 0 false := by
  refine ⟨⟨⟨⟨?_, passes_eq ?_⟩, ?_⟩, ?_, ⟨?_, ?_, ?_⟩, ?_, .inl ?_, .inr ?_, by unfold Current; decide⟩,
    ?_⟩ <;> decide +kernel

/-- The barrier with nothing left to come. -/
def complete : State := withBase st (fun b => { b with
  mem := memWriteL b.mem (stagePa 3 0x40) (natBytes 16 (15 + 2 * 2 ^ 24 + 2 ^ 120))
  live := [⟨stagePa 3 0x40, true, 3, 4, false, [0, 7]⟩] })

theorem witness_PhasesCompleteAtZero : Memory.wf complete.base.mem = true ∧
    objAtPa complete (stagePa 3 0x40) = some (oStage, 0x40) ∧ (∀ i, i < 16 → paOf oStage (0x40 + i) = some (stagePa 3 0x40 + i)) ∧
    oStage.space = 1 ∧
    oStage.dcfg.getLsbD 0 = false ∧ oStage.role = .plain ∧
    liveObj complete (stagePa 3 0x40) = some ⟨stagePa 3 0x40, true, 3, 4, false, [0, 7]⟩ ∧
    (barRead complete (stagePa 3 0x40)).pend = 0 ∧ (barRead complete (stagePa 3 0x40)).inb = 0 ∧
    (barRead complete (stagePa 3 0x40)).outb = 0 ∧ (barRead st (stagePa 3 0x40)).pend ≠ 0 := by decide +kernel

/-- The region 2 bound to a sync object. -/
def oBound : ObjEnt := { oGlobal with sync := stagePa 3 0x20 }
def bound : State := withBase st (fun b => { b with objs := [oStage, oBound] })

theorem witness_RegionsBindAndChangeMode :
    (Leaves st 0 (off1 st 0) 1 1 3 [1, 2, 3] oGlobal ∧ (st.core.seq.c[8]).tag = false ∧ (st.core.seq.c[8]).bits = 0 ∧ oGlobal.sync = 0) ∧
    (Leaves bound 0 (off1 bound 0) 1 1 3 [1, 2, 3] oBound ∧ oBound.sync ≠ 0) ∧
    (checkHome (at' st 0) 12 (off1 st 12) 16 16 4 [1] = .ok oStage ∧ stagePa 3 0x20 ≠ 0 ∧
      (st.core.seq.c[12]).tag = true ∧ (st.core.seq.c[0]).tag = true ∧ trapsIn (checkHome (at' st 0) 0 (off1 st 0) 16 16 4 [1]) = true ∧
      paOf oStage (off1 st 12).toNat = some (stagePa 3 0x20) ∧ liveSync (askedBoth st 0 12 oGlobal 0) (stagePa 3 0x20) = true ∧
      oGlobal.sync ≠ stagePa 3 0x20 ∧ memNat (askedBoth st 0 12 oGlobal 0).base.mem (stagePa 3 0x20 + 12) 2 ≠ 65535) ∧
    (Leaves st 0 (off1 st 0) 1 1 3 [2, 3] oGlobal ∧ oGlobal.coh = false) ∧
    (Leaves st 14 (off1 st 14) 1 1 3 [2, 3] { oCoh with pins := 0 } ∧ oCoh.coh = true) := by
  refine ⟨⟨⟨?_, passes_eq ?_⟩, ?_⟩, ⟨⟨?_, passes_eq ?_⟩, ?_⟩, ⟨passes_eq ?_, ?_⟩, ⟨⟨?_, passes_eq ?_⟩, ?_⟩, ⟨⟨?_, passes_eq ?_⟩, ?_⟩⟩ <;>
    decide +kernel

theorem witness_DigestInstructions :
    ((inKernel st).core.csr.mode = true ∧ Leaves (inKernel st) 5 (off1 (inKernel st) 5) 1 1 2 [2, 3] oDig) ∧
    (reg st 0).getLsbD 0 = false ∧ dcfgValid oDig 0x0002000000000001 = true ∧ dcfgValid oDig 0x0002000000000F01 = false ∧
    (Leaves st 5 (off2 st 5 64) 1 1 8 [2, 3] oDig ∧ oDig.dcfg.getLsbD 0 = true) ∧ reg st 0 = 0 ∧
    (reg st 5 ≠ 0 ∧ Leaves st 5 (off1 st 5) (reg st 5).toNat 1 3 [2, 3] oDig ∧ nonResident oDig 0 (dcfgB oDig.dcfg) = none ∧
      st.base.bias = [] ∧ st.base.ecc = [] ∧ st.base.vbus = [] ∧ ∀ k ∈ st.core :: st.others, k.gated = false) ∧
    (oGlobal.dcfg.getLsbD 0 = false ∧ Leaves st 0 (off2 st 0 64) 1 1 8 [2, 3] oGlobal ∧
      Leaves st 0 (off1 st 0) (reg st 5).toNat 1 3 [2, 3] oGlobal) := by
  refine ⟨⟨?_, ?_, passes_eq ?_⟩, ?_, ?_, ?_, ⟨⟨?_, passes_eq ?_⟩, ?_⟩, ?_, ⟨?_, ⟨?_, passes_eq ?_⟩, ?_⟩, ?_, ⟨?_, passes_eq ?_⟩, ?_, passes_eq ?_⟩ <;>
    decide +kernel

theorem witness_PageInstructionsChangeTablesAndFetch :
    (Leaves st 4 (off1 st 4) 1 1 16 [1] oSpan ∧ paOf oSpan (off1 st 4).toNat = some (stagePa 3 0x10000) ∧ oSpan.span = true) ∧
    ((reg st 5).toNat % 65536 ≠ 0xFFFF ∧ ∀ e, (spanRead (asked st 4 oSpan (stagePa 3 0x10000)) oSpan).es[7]? = some e →
      e.state ≠ 1 ∨ e.count ≠ 0) ∧
    (checkCap (at' st 4) 0 (off1 st 0) 4096 1 3 none = .ok oGlobal ∧ trapsIn (checkCap (at' st 4) 8 (off1 st 8) 4096 1 3 none) = true) ∧
    (Leaves st 2 (off1 st 2) 1 1 16 [1] oStage ∧ oStage.span = false) ∧
    (Leaves st 0 (off2 st 0 64) 1 1 16 [1, 2, 3] oGlobal ∧ residentAt oGlobal 64 = true) ∧
    (Leaves st 11 (off2 st 11 0) 1 1 16 [1, 2, 3] oGlobal ∧ oGlobal.space ≠ 1 ∧
      extOf oGlobal (off2 st 11 0).toNat = some (1, ⟨0x80000, false, 1⟩, 0x1000) ∧ st.core.wait = .none ∧
      (withWait st (.pgfetch 2 1 true)).core.wait = .pgfetch oGlobal.oid 1 true) ∧
    (extOf { oHost with exts := [⟨2 ^ 48 + 0x4000, true, 1⟩] } 0x1000 = none ∧ oHost.space ≠ 1) := by
  refine ⟨⟨⟨?_, passes_eq ?_⟩, ?_, ?_⟩, ⟨?_, ?_⟩, ⟨passes_eq ?_, ?_⟩, ⟨⟨?_, passes_eq ?_⟩, ?_⟩, ⟨⟨?_, passes_eq ?_⟩, ?_⟩,
    ⟨⟨?_, passes_eq ?_⟩, ?_, ?_, ?_, ?_⟩, ?_⟩
  rotate_left 5
  · have h : (spanRead (asked st 4 oSpan (stagePa 3 0x10000)) oSpan).es[7]? = some ⟨0, 0, 0, 0, 0⟩ := by decide +kernel
    intro e he
    rw [h] at he
    cases he
    exact .inl (by decide)
  all_goals decide +kernel

/-- A span table: one mapped entry with two tokens, one spare of none, one retired, and an empty one below NENT. -/
def span1 : Span := ⟨{ (spanRead st oSpan).h with nent := 4, nextpos := 2, live := 2 },
  [⟨0, 2, 0, 1, 0⟩, ⟨0, 0, 0, 1, 1⟩, ⟨0, 0, 0, 2, 2⟩, ⟨0, 0, 0, 0, 0⟩, ⟨0, 0, 0, 0, 0⟩]⟩

theorem witness_SpanTableArithmetic :
    (3 < span1.h.nent ∧ 3 < span1.es.length ∧ (span1.es[3]?.map (fun e => e.state)) = some 0 ∧
      ∀ j, j < 3 → (span1.es[j]?.map (fun e => e.state)) ≠ some 0) ∧
    ((∀ j, j < 3 → (span1.es[j]?.map (fun e => e.state)) ≠ some 0) ∧ 3 < span1.es.length) ∧
    (span1.es[1]? = some ⟨0, 0, 0, 1, 1⟩ ∧ span1.es[2]? = some ⟨0, 0, 0, 2, 2⟩ ∧ span1.es[0]? = some ⟨0, 2, 0, 1, 0⟩) ∧
    span1.h.nextpos ≤ 2 ∧ 1 < span1.h.nextpos ∧ (spanSetPos span1 2).2 = 0 := by decide +kernel

/-! ### Rings, segments, leases -/

/-- In an engine trap of kernel mode. -/
def inTrap (s : State) : State := { s with core := { s.core with csr := { s.core.csr with mode := true, engt := true } } }

/-- A ring with head 3 and tail 5 of 16 entries; x6 is its present tail, x7 beyond the ring. -/
def ring3 : State := withX (withX (withEngines st (fun g => { g with rings := g.rings.set 0 ⟨true, 4, 0, 3, 5, 5, true, 0, none⟩ })) 6 5) 7 20

theorem witness_RingsPublishAndReport :
    (((BitVec.ofNat 16 (reg ring3 6).toNat - 3#16).toNat ≤ 2 ^ 4 ∧ (5#16 - 3#16).toNat ≤ (BitVec.ofNat 16 (reg ring3 6).toNat - 3#16).toNat)) ∧
    ¬ (BitVec.ofNat 16 (reg ring3 7).toNat - 3#16).toNat ≤ 2 ^ 4 ∧ (1 : Fin 16) ≠ 0 ∧ st.core.eng.fq.length < 32 ∧
    32 ≤ (withEngines st (fun g => { g with fq := List.replicate 32 (0, 0) })).core.eng.fq.length := by decide +kernel

theorem witness_EngineRegistersReadAndWrite :
    (∃ p ∈ engineCsrs st.core.eng .vector, (11 : Fin 256).val = p.1) ∧ (∀ p ∈ engineCsrs st.core.eng .matrix, (3 : Fin 256).val ≠ p.1) ∧
    (∃ p ∈ engineWrites st.core.eng (reg st 5), (8 : Fin 256).val = p.2.1) ∧ Drained st .copy ∧ ¬ Drained ring3 .copy ∧
    (7 : Fin 256).val = 4 + (3 : Fin 4).val ∧ (reg st 5).toNat / 2 ^ 60 % 4 = 0 ∧
    (reg (withX st 6 (1 <<< 60)) 6).toNat / 2 ^ 60 % 4 = 1 ∧ (reg (withX st 6 (2 <<< 60)) 6).toNat / 2 ^ 60 % 4 = 2 ∧
    ((inTrap st).core.csr.mode = true ∧ (inTrap st).core.csr.engt = true) ∧ ¬ (st.core.csr.mode = true ∧ st.core.csr.engt = true) := by
  refine ⟨?_, ?_, ?_, by unfold Drained; decide +kernel, by unfold Drained; decide +kernel, ?_⟩ <;> decide +kernel

/-- The code object of `saligning` holds SALIGN 1, 2, and its copy ring ALIGN 1; it waits since GTC 10 and now is 16. -/
def saligning : State := { withWait (withBase (ring1 0x4100000000000000) (fun b => { b with
  mem := memWriteL [] 0x30000 (natBytes 8 0x2000000200000201) })) (.salign 2 (some 10)) with gtc := 16 }

theorem witness_SegmentsOpenTogether :
    ¬ ((inTrap st).core.csr.engt = false ∧ (inTrap st).core.csr.epend = false) ∧ (st.core.csr.engt = false ∧ st.core.csr.epend = false) ∧
    Mismatch (ring1 0x4100000000000000) 5 0 1 ∧
    (∀ k m, ringAlign saligning.core.eng k = some m → m = 1) ∧ st.core.wait = .none ∧
    (∀ k, ringAlign st.core.eng k = none) ∧ saligning.core.wait = .salign 2 (some 10) ∧ 10 < saligning.gtc ∧ saligning.gtc % 16 = 0 ∧
    codeWord saligning saligning.core.seq.pc.toNat = some 0x2000000200000201 ∧ decodeSeq 0x2000000200000201 = some (.salign 1 2) ∧
    ¬ (16 < saligning.gtc) ∧
    Grants (withBase st (fun b => { b with dies := b.dies.set 0 { b.dies[0] with waiting := [(0, 3)] } })) 0 0 3 := by
  refine ⟨?_, ?_, ⟨?_, ?_, ?_⟩, ?_, ?_, ?_, ?_, ?_, ?_, ?_, ?_, ?_, ⟨⟨[], ?_⟩, ?_, ?_⟩⟩
  case refine_5 => intro j hj; exact absurd hj (by simp)
  case refine_6 =>
    intro k m h
    have h3 : ∀ k : Fin 3, ringAlign saligning.core.eng k = none ∨ ringAlign saligning.core.eng k = some 1 := by decide +kernel
    rcases h3 k with h0 | h0 <;> rw [h0] at h <;> cases h
    rfl
  all_goals decide +kernel

/-- A launch of two stages whose second one runs here, with a message put by the first. -/
def stage1 (s : State) (msgs : List Msg) : State :=
  { withBase s (fun b => { b with
      launches := [{ launch1 with stages := launch1.stages ++ launch1.stages }]
      stageqs := [⟨1, 0, msgs, []⟩] }) with
    core := { s.core with lease := some { lease with stage := 1 } } }

/-- A launch whose first stage runs here, with `n` messages queued for the second. -/
def stage0 (n : Nat) : State :=
  { withBase st (fun b => { b with
      launches := [{ launch1 with stages := launch1.stages ++ launch1.stages }]
      stageqs := [⟨1, 0, List.replicate n ⟨9, 0, []⟩, [(1, 1)]⟩] }) with
    core := { st.core with lease := some lease } }

theorem witness_LeasesRetireAndPassMessages :
    (inTrap st).core.csr.engt = true ∧ (st.core.csr.engt = false ∧ (∀ k, ringAlign st.core.eng k = none) ∧ Quiet st) ∧ ¬ Quiet owing ∧
    (MsgOffset (reg st 0) ∧ MsgOffset (reg (withX st 6 0x3FFFC0) 6) ∧ lastStage (stage0 0) lease = false) ∧
    ((lease.id, lease.puts) ∉ (stageQueue (stage0 0) 1 0).seen ∧ (stageQueue (stage0 0) 1 0).msgs.length < 256) ∧
    (lease.id, 1) ∈ (stageQueue (stage0 0) 1 0).seen ∧ 256 ≤ (stageQueue (stage0 256) 1 0).msgs.length ∧
    ({ lease with stage := 1, redo := [⟨1, 0, []⟩] }.redo = ⟨1, 0, []⟩ :: [] ∧ ({ lease with stage := 1 } : Lease).stage.val ≠ 0) ∧
    (lease.redo = [] ∧ (stageQueue (stage1 st [⟨1, 0, []⟩]) 1 0).msgs = [⟨1, 0, []⟩] ∧ (stageQueue (stage1 st []) 1 0).msgs = []) ∧
    (reg st 5).toNat % 64 ≠ 0 ∧ ((reg (withX st 6 0x400000) 6).toNat % 64 = 0 ∧ 0x3FFFC0 < (reg (withX st 6 0x400000) 6).toNat) ∧
    lastStage st lease = true ∧ lease.stage.val = 0 := by
  refine ⟨?_, ⟨?_, ?_, by unfold Quiet; decide +kernel⟩, by unfold Quiet; decide +kernel, ⟨?_, ?_, ?_⟩, ?_⟩ <;>
    first | decide +kernel | (unfold MsgOffset; decide +kernel)

/-- A dispatch table at 0x40 of a code object in STAGE: two buckets, 4 at 0x100 and 16 at 0x108, the second's target
in `tab 0x10C` bad. -/
def tab (t2 : Nat) : State := withBase st (fun b => { b with
  objs := [{ oCode with space := 1, exts := [⟨stagePa 5 0, true, 2⟩] }]
  mem := memWriteL [] (stagePa 5 0x40) (natBytes 8 2 ++ natBytes 8 (0x100 * 2 ^ 32 + 4) ++ natBytes 8 (t2 * 2 ^ 32 + 16)) })

/-- A code read of object 6 delivers a word and leaves the machine as it is. -/
def readsHere (s : State) (off : Nat) (w : Word) : Bool := decide (codeRead s off = (s, .ok, some w))

theorem witness_DispatchAndLaunch_table :
    (0x44 % 8 ≠ 0) ∧ codeRead (tab 0) 0x2000 = (tab 0, .ok, none) ∧ (readsHere (tab 0x108) 0x40 2 = true ∧ (2#64).toNat % 128 = 2) ∧
    (readsHere (tab 0) 0x60 0 = true ∧ (0#64).toNat % 128 = 0) ∧
    readsHere (tab 0x108) (0x40 + 8 + 8 * 1) 0x10800000010 = true ∧ readsHere (tab 0x10C) (0x40 + 8 + 8 * 1) 0x10C00000010 = true ∧
    (reg st 5).toNat ≤ (0x10800000010#64).toNat % 2 ^ 32 ∧
    (readsHere (tab 0x108) (0x40 + 8 + 8 * 0) 0x10000000004 = true ∧ (0x10000000004#64).toNat % 2 ^ 32 < (reg st 5).toNat) ∧
    (0x10800000010#64).toNat % 2 ^ 32 < (reg (withX st 5 17) 5).toNat ∧
    (codeObj (tab 0)).map (fun o => (o.space, o.coh)) = some (1, false) := by decide +kernel

theorem witness_DispatchAndLaunch_launch : Leaves st 2 (off1 st 2) 128 64 1 [1, 2] oStage ∧ nonResident oStage (off1 st 2).toNat 128 = none ∧
    (let d := dramRead (waits (at' st 2) .none) oStage 0 128 (at' st 2).core.id
     let r := homeGet d.1 (some d.1.core.id) oStage 0 128
     d.2 = .ok ∧ passes (checkHome r.1 2 (off1 r.1 2) (recordSize r.2) 64 1 [1, 2]) { oStage with pins := 1 } = true ∧
       off1 r.1 2 = off1 st 2 ∧ nonResident { oStage with pins := 1 } 0 (recordSize r.2) = none ∧
       (dramRead (waits (at' r.1 2) .none) { oStage with pins := 1 } 0 (recordSize r.2) (at' r.1 2).core.id).2 = .ok) := by
  refine ⟨⟨?_, passes_eq ?_⟩, ?_⟩ <;> decide +kernel

/-! ### The issue of engine commands -/

/-- A stream descriptor of one dimension: base, byte count, class, space, element type, capability register (06 R153).
-/
def dsc (base cnt cls space ty creg : Nat) : Desc :=
  (((Vector.replicate 8 0).set 0 (BitVec.ofNat 64 base)).set 1 (BitVec.ofNat 64 cnt)).set 5
    (BitVec.ofNat 64 (cls * 2 ^ 47 + space * 2 ^ 43 + ty * 2 ^ 39 + creg * 2 ^ 35))

/-- Streams: q0 f32 and q1 n32 in the scratchpad, q2 rows and q7 a range of object 2, q3 sixteen dense rows, q4
accumulators, q5 the digest of a block of object 5, q6 one record, q8 1024 bytes n32. -/
def streams (s : State) : State := withEngines s (fun g => { g with qs :=
  ((((((((g.qs.set 0 (dsc 0x3000 64 0 0 1 0)).set 1 (dsc 0x1000 64 0 0 13 0)).set 2 (dsc 0 64 4 3 1 0)).set 3 (dsc 0x2000 1024 0 0 1 0)).set 4
    (dsc 0 64 1 1 1 0)).set 5 (dsc 0 1 4 5 1 5)).set 6 (dsc 0x4000 32 0 0 7 0)).set 7 (dsc 0 512 4 3 7 0)).set 8 (dsc 0x5000 1024 0 0 13 0) })

/-- The format word bf16, bf16, f32 at the head of the queue, and a bf16 weight entry 5. -/
def fw1 : Word := 0x0000000100000122
def matrix1 : State := withEngines st (fun g => { g with
  fq := [(fw1, 0)], wtag := g.wtag.set 5 (some 2), mxspill := 0x2400FF0000000000,
  eff := { g.eff with mxspill := 0x2400FF0000000000 },
  tiles := (g.tiles.set 2 { Tile.start with slots := (Vector.replicate 8 none).set 3 (some 7), use := [3], ttype := 1 }).set 3
    { Tile.start with spilled := 2 ^ 7, ttype := 1 } })

/-- A release that stands in for `Admitted` of a job in a machine without jobs. -/
def admits' (s : State) (j : Job) : Bool :=
  (cmdHdr j.cmd).sset.val < 12 && (!slotFails s (cmdHdr j.cmd).schk || s.core.csr.schmode == 2) && portOk s j &&
    (match room s (recUse s j) j.held (chanOf j.cmd) with
     | .ok => true
     | _ => false)

theorem admits_ok {s : State} {j : Job} (h : admits' s j = true) : Admitted s j := by
  unfold admits' at h
  unfold Admitted
  cases hr : room s (recUse s j) j.held (chanOf j.cmd) <;> simp_all
  intro hs
  rcases h.1.2 with hn | hn
  · rw [hs] at hn; cases hn
  · exact hn

/-- A command of each vector class is admitted with legal operands; a type 6 is not legal. -/
theorem witness_VectorCommandsIssue :
    (tyA 1 ∧ Admitted st (job0 .vector (.vadd h0 1 2 3 1 1 0 false) (snap0 st) 1)) ∧ ¬ tyA 6 ∧
    (tyF 5 ∧ Admitted st (job0 .vector (.vdiv h0 1 2 3 0 5 0) (snap0 st) 1)) ∧ ¬ tyF 6 ∧
    (tyI 7 ∧ tyI 14 ∧ Admitted st (job0 .vector (.vclmul h0 1 2 3 0 14 true) (snap0 st) 1)) ∧ ¬ tyI 15 ∧
    Admitted st (job0 .copy (.cnop h0) (snap0 st) 0) ∧ Admitted st (job0 .matrix (.engineHint .matrix h0 3) (snap0 st) 0) ∧
    Admitted st (job0 .copy (.qld h0 3 0xFFFF) (snap0 st) 1) ∧
    ((64 : Fin 128).val ≤ 64 ∧ Admitted st (job0 .vector (.vwin h0 1 false 64 0) (snap0 st) 0)) ∧
    64 < (65 : Fin 128).val ∧ ¬ (2 ≤ (st.core.eng.eff.gctl[(2 : Fin 4)]).toNat / 2 ^ 43 % 16) ∧
    Admitted st { job0 .vector (.vst h0 1 0 1 0x7FFF) (snap0 st) 1 with buf := bytesOf (maskBits st.core.eng 0).toNat 16 } := by
  refine ⟨⟨by unfold tyA; decide, admits_ok ?_⟩, by unfold tyA; decide, ⟨by unfold tyF; decide, admits_ok ?_⟩, by unfold tyF; decide,
    ⟨by unfold tyI; decide, by unfold tyI; decide, admits_ok ?_⟩, by unfold tyI; decide, admits_ok ?_, admits_ok ?_, admits_ok ?_,
    ⟨?_, admits_ok ?_⟩, ?_, ?_, admits_ok ?_⟩ <;> decide +kernel

/-- g1 names object 2 through c0, class 4, space GLOBAL. -/
def global1 : State := withEngines st (fun g => { g with eff := { g.eff with gctl := g.eff.gctl.set 1 (BitVec.ofNat 64 (4 * 2 ^ 47 + 3 * 2 ^ 43)) } })

theorem witness_VectorCommandsIssue_global :
    (let ctl := global1.core.eng.eff.gctl[(1 : Fin 4)]
     ctl.toNat / 2 ^ 35 % 16 = 0 ∧ ctl.toNat / 2 ^ 43 % 16 = 3 ∧ clsAdmits (ctl.toNat / 2 ^ 47 % 8) 3 = true ∧
     (let snap := { snap0 global1 with gctl := ctl, gbase := global1.core.eng.eff.gbase[(1 : Fin 4)], capS := caps[0] }
      (match gCheck global1 (job0 .vector (.vldg h0 1 1 0 1 0x1F 0) snap 1) caps[0] 0 0 1 0x1F 1 3 with
       | .ok (some o) => o == oGlobal
       | _ => false) = true ∧
      admits' global1 (job0 .vector (.vldg h0 1 1 0 1 0x1F 0) { snap with objS := some oGlobal } 1) = true ∧
      admits' global1 (job0 .vector (.vstg h0 1 1 0 1 0x1F) { snap with objS := some oGlobal } 1) = true)) := by decide +kernel

theorem witness_MatrixCommandsIssue :
    fmtHead matrix1 = some fw1 ∧ weightType (fwTB fw1) = true ∧ Admitted matrix1 (job0 .matrix (.wload h0 0x1000 5) (snap0 matrix1) 16) ∧
    tripleOk fw1 = true ∧ matrix1.core.eng.wtag[(5 : Fin 128)] = some (Fin.ofNat 16 (fwTB fw1)) ∧
    (matrix1.core.eng.tiles[(2 : Fin 16)]).ttype.val = fwTC fw1 ∧ fwRow0 fw1 + 128 ≤ 128 ∧
    (match allocate matrix1 2 7 fw1 with | .ok a => a.slot == 3 | .error _ => false) = true ∧
    (match allocate matrix1 2 9 fw1 with | .ok a => a.slot == 0 | .error _ => false) = true ∧
    Admitted matrix1 (job0 .matrix (.mma h0 2 0x40 5 7 0) { snap0 matrix1 with slot := 3 } 128) ∧
    Admitted matrix1 (job0 .matrix (.mmat h0 2 0x40 5 7 0) { snap0 matrix1 with slot := 3 } (mmatT fw1 + 128)) ∧
    fwOT fw1 ≠ 6 ∧ fwOT fw1 ≠ 15 ∧ Admitted matrix1 (job0 .matrix (.drain h0 2 0x80 1) (snap0 matrix1) 1) ∧
    Admitted matrix1 (job0 .matrix (.drainq h0 2 0x300 0) (snap0 matrix1) 128) := by
  refine ⟨?_, ?_, admits_ok ?_, ?_, ?_, ?_, ?_, ?_, ?_, admits_ok ?_, admits_ok ?_, ?_, ?_, admits_ok ?_, admits_ok ?_⟩ <;> decide +kernel

theorem witness_MatrixCommandsIssue_slots :
    (weightType 1 = true ∧ 3 * weightK 1 < 16 * 2 ^ 3 ∧ 3 * weightN 1 < 16 * 2 ^ 3) ∧
    Admitted matrix1 (job0 .matrix (.slmap h0 2 3 7) (snap0 matrix1) 0) ∧
    (matrix1.core.eng.tiles[(2 : Fin 16)]).slots[(3 : Fin 8)] = some 7 ∧ (matrix1.core.eng.tiles[(2 : Fin 16)]).slots[(0 : Fin 8)] = none ∧
    slotOf matrix1.core.eng.tiles[(2 : Fin 16)] 9 = none ∧ isSpilled matrix1.core.eng.tiles[(2 : Fin 16)] 9 = false ∧
    slotOf matrix1.core.eng.tiles[(2 : Fin 16)] 7 = some 3 ∧ slotBusy matrix1 2 3 = false ∧
    (match spillRecord matrix1 2 7 2 with | .ok _ => false | .error f => f.code == 0x14) = true ∧
    isSpilled matrix1.core.eng.tiles[(3 : Fin 16)] 7 = true ∧ freeSlot matrix1.core.eng.tiles[(3 : Fin 16)] = some 0 ∧
    Admitted matrix1 (job0 .matrix (.bind h0 2 0x100 2 false 8 1) { snap0 matrix1 with labels := [(3, 7)], ttype := 1 } 1) := by
  refine ⟨?_, admits_ok ?_, ?_, ?_, ?_, ?_, ?_, ?_, ?_, ?_, ?_, admits_ok ?_⟩ <;> decide +kernel

/-- A stage object large enough for the spill records of a tile, at c2. -/
def oSpill : ObjEnt := { oStage with len := 0x10000000, exts := [⟨stagePa 3 0, true, 0x10000⟩] }
def spillable : State :=
  { withBase matrix1 (fun b => { b with objs := [oSpill] }) with
    core := { matrix1.core with seq := { matrix1.core.seq with c := caps.set 2 (cap 1 0x7F 0 0x10000000 0) } } }

theorem witness_MatrixCommandsIssue_records :
    (match spillRecord spillable 2 7 2 with | .ok o => o.oid == 1 | .error _ => false) = true ∧
    (match spillRecord spillable 3 7 1 with | .ok o => o.oid == 1 | .error _ => false) = true := by decide +kernel

/-- What `copies` asks of the command at place `k` of its list. -/
def asks (s : State) (qd qs qx : Fin 16) (k : Nat) : Prop :=
  (((copies s h0 1 qd qs qx false 16 0 16 0 false 0 4)[k]?).map (fun x => x.2.2.2)).getD False

/-- Every copy has streams that it accepts. -/
theorem witness_CopyCommandsIssue_copies :
    asks (streams st) 0 1 0 0 ∧ asks (streams st) 0 1 0 1 ∧ asks (streams st) 3 2 1 2 ∧ asks (streams st) 2 3 1 3 ∧
    asks (streams st) 2 3 1 4 ∧ asks (streams st) 0 0 1 5 ∧ asks (streams st) 3 0 8 6 ∧
    asks (streams st) 3 0 8 7 ∧ asks (streams st) 0 0 1 8 ∧ asks (streams st) 0 0 1 9 ∧ asks (streams st) 0 4 0 10 ∧
    asks (streams st) 4 0 0 11 ∧ asks (streams st) 6 5 0 12 ∧ asks (streams st) 3 5 1 13 := by
  simp only [asks, copies, List.getElem?_cons_zero, List.getElem?_cons_succ, List.cons_append, List.nil_append, Option.map_some,
    Option.getD_some]
  decide +kernel

theorem witness_CopyCommandsIssue_admitted :
    admits' (streams st) (job0 .copy (.cpy h0 1 0 1 false) (copySnap (streams st) 0 1 0) 1) = true ∧
    admits' (streams st) (job0 .copy (.gather h0 1 3 2 1 false) { copySnap (streams st) 3 2 1 with objS := none } 18) = true := by
  decide +kernel

/-- EVICT and PREFETCH of 512 bytes of object 2, and of a block's digest; CHKARM of 64 scratchpad bytes. -/
theorem witness_CopyCommandsIssue_ranges :
    (let t := strm (streams st).core.eng.qs[(7 : Fin 16)]
     let n := copySnap (streams st) 7 7 0
     strmOk t true false = true ∧ t.space = 3 ∧ checkStrm (streams st) t n.capS 1 = none ∧ n.objS = some oGlobal ∧
     admits' (streams st) { job0 .copy (.evict h0 7 true) n 0 with npos := 0 } = true) ∧
    (let t := strm (streams st).core.eng.qs[(5 : Fin 16)]
     let n := copySnap (streams st) 5 5 0
     strmOk t true false = true ∧ t.space = 5 ∧ checkDigest (streams st) t n.capS 8 = none ∧ n.objS = some oDig ∧
     admits' (streams st) { job0 .copy (.prefetch h0 5 true) n 0 with npos := 0 } = true) ∧
    (let t := strm (streams st).core.eng.qs[(1 : Fin 16)]
     strmOk t false false = true ∧ t.space ≤ 1 ∧ t.cnt1 = 1 ∧ t.cnt2 = 1 ∧ t.cnt0 ≤ 0x400000 ∧
     admits' (streams st) { job0 .copy (.chkarm h0 1 false true 3) (copySnap (streams st) 1 1 0) 0 with npos := 0 } = true) := by
  decide +kernel

/-! ### Events of the engines -/

/-- A copy of 64 bytes on ch1 from q1 to q0, issued at SCC 0. -/
def job1 : Job := { job0 .copy (.cpy h0 1 0 1 false) (copySnap (streams st) 0 1 0) 1 with id := 1 }

/-- A vector load of the bytes that it writes, which checks ch1 (d13). -/
def job2 : Job := { job0 .vector (.vld ⟨0, 0, 0, 13⟩ 1 0 1 0x60) (snap0 st) 1 with id := 2 }

/-- A copy on ch1 of a page of object 2 that is not resident. -/
def far : State := withEngines st (fun g => { g with qs := (g.qs.set 0 (dsc 0x3000 64 0 0 1 0)).set 1 (dsc 0x1000 64 4 3 1 0) })
def job3 : Job := { job0 .copy (.cpy h0 1 0 1 false) (copySnap far 0 1 0) 1 with id := 1 }

/-- The machine with these jobs in progress. -/
def running (js : List Job) (s : State) : State := withEngines s (fun g => { g with jobs := js, nextJob := 3 })

/-- How a read step ends. -/
def ends (r : StepRes) : Nat :=
  match r with
  | .done _ => 0
  | .stay _ => 1

theorem witness_RingsGoIdleAndReadStepsRun :
    (let r := (withEngines st (fun g => { g with rings := g.rings.set 1 ⟨true, 4, 0, 7, 7, 7, false, 0, none⟩ })).core.eng.rings[engIdx .matrix]
     r.en = true ∧ r.idle = false ∧ r.vis = r.head ∧ r.nextIss ≤ 0) ∧
    (dueJob (running [job1] (streams st)) = some job1 ∧ (running [job1] (streams st)).core.eng.freeze = none ∧
      chanFails (running [job1] (streams st)) job1 (nextReads (running [job1] (streams st)) job1) = false ∧
      (seen (fun t => (findJob t 1).map (fun j => j.formed)) .engineReadStep (running [job1] (streams st))) = some (some 1)) ∧
    (let s := running [{ job1 with step := 1, formed := 1 }, job2] (streams st)
     dueJob s = some job2 ∧ chanFails s job2 (nextReads s job2) = true ∧ s.core.csr.schmode ≠ 2 ∧ s.core.csr.schmode ≠ 1) ∧
    (dueJob (running [job3] far) = some job3) := by decide +kernel

/-- Writes of the copy: one due now, one late and wider than the ports left. -/
def pend1 (pcyc n : Nat) : Pend := ⟨1, .copy, pcyc, true, false, 0, n, 0, 0, .bytes .spad ((List.range n).map (fun (k : Nat) => (0x3000 + (k : Int), 5)))⟩
def writing (p : Pend) (scc late : Nat) : State :=
  let s := running [{ job1 with step := 1, formed := 1 }] (withEngines (streams st) (fun g => { g with pends := [p], lateUse := late }))
  { s with core := { s.core with csr := { s.core.csr with scc := scc } } }

theorem witness_EngineWritesLandAndFreezesEnd_writes :
    (let s := writing (pend1 3 64) 3 0
     nextPerform s (nextReads s) = some (pend1 3 64) ∧ ¬ (standing s = false ∧ (pend1 3 64).pcyc < s.core.csr.scc)) ∧
    (let s := writing (pend1 3 64) 5 0
     nextPerform s (nextReads s) = some (pend1 3 64) ∧ standing s = false ∧ (pend1 3 64).pcyc < s.core.csr.scc ∧
       pendSpad (pend1 3 64) ≤ portLeft s) ∧
    (let s := writing (pend1 3 64) 5 1000
     nextPerform s (nextReads s) = some (pend1 3 64) ∧ 0 < portLeft s ∧ portLeft s < pendSpad (pend1 3 64)) := by decide +kernel

/-- Engine writes on their way: to a free place of object 1 and into its live barrier. -/
def transit1 (off : Nat) : Transit := ⟨1, .copy, 0, true, false, 0, 8, 1, off, .bytes ((List.range 8).map (fun k => (stagePa 3 off + k, 5))), some 0, 0⟩
def landing (off : Nat) : State :=
  running [{ job1 with step := 1, formed := 1 }] (withEngines (streams st) (fun g => { g with transit := [transit1 off] }))

/-- A freeze of the core. -/
def frozen1 (c : Nat) (gtc : Nat) : State :=
  { withEngines st (fun g => { g with freeze := some ⟨c, 0, .matrix, 0, 0, none, 0, 0, none⟩ }) with gtc := gtc }

theorem witness_EngineWritesLandAndFreezesEnd_homes :
    (nextTransit (landing 0x80) = some (transit1 0x80) ∧
      (landWrite (withEng (landing 0x80) { (landing 0x80).core.eng with transit := [] }) (transit1 0x80)).2 = none) ∧
    (nextTransit (landing 0x40) = some (transit1 0x40) ∧
      (landWrite (withEng (landing 0x40) { (landing 0x40).core.eng with transit := [] }) (transit1 0x40)).2 = some 0x40 ∧
      (landing 0x40).core.eng.efault = none ∧ (findJob (landing 0x40) 1).map (fun j => j.clob) = some false) ∧
    (freezeEnds (frozen1 2 0) ⟨2, 0, .matrix, 0, 0, none, 0, 0, none⟩ = false ∧
      freezeEnds (withEngines (frozen1 2 0) (fun g => { g with fq := [(0, 0)] })) ⟨2, 0, .matrix, 0, 0, none, 0, 0, none⟩ = true ∧
      2 ∈ [1, 2, 5] ∧ 0 + 2 ^ 24 ≤ (frozen1 2 (2 ^ 24)).gtc) ∧
    (let s := withEngines st (fun g => { g with efault := some fault1 })
     s.core.eng.efault = some fault1 ∧ s.core.csr.mode = false ∧ (inKernel s).core.csr.mode = true) ∧
    (∃ c ∈ ({ st with others := [Core.free 1] } : State).others, c.id = 1 ∧ 1 ≠ st.core.id) := by
  refine ⟨?_, ?_, ?_, ?_, ⟨Core.free 1, by simp, rfl, by decide⟩⟩ <;> decide +kernel

/-- A report of the copy of job 3. -/
def report1 (cause : Nat) (sent : Bool) (sub : Option Nat) : Report := ⟨1, .copy, 0, 0, cause, 2, 0x1000, 0, 0, sent, sub⟩
def reporting (r : Report) (gtc : Nat) : State :=
  { running [job3] (withEngines far (fun g => { g with reports := [r], freeze := some ⟨r.cause, 0, .copy, 0, 0, some 1, 0, 0, none⟩ })) with gtc := gtc }

theorem witness_ReportsFreezeAndEnd :
    unsent (reporting (report1 3 false none) 0) 3 (fun r => r.eng == .copy && r.entry == 0 && r.pos == 0) =
      some (report1 3 false none) ∧
    unsent (reporting (report1 3 false (some 1)) 0) 3 (fun r => r.eng == .copy && r.entry == 0 && r.pos == 0) =
      some (report1 3 false (some 1)) ∧
    unsent (reporting (report1 4 false none) 4) 4 (fun r => r.eng == .copy && r.entry == 0 && decide (r.found + 4 ≤ 4)) =
      some (report1 4 false none) ∧
    (let s := reporting (report1 3 true none) 0
     ∃ r ∈ s.core.eng.reports.filter (fun r => !reportOver s r), r.sent = true) ∧
    (let s := reporting { report1 3 true none with off := 0 } 0
     (∀ r ∈ s.core.eng.reports.filter (fun r => !reportOver s r), r.sent = false) ∧
       s.core.eng.freeze.map (fun f => f.cause) = some 3) ∧
    givenUp (reporting (report1 3 true (some 3)) 0) (fun c => c == some 1) = some (report1 3 true (some 3)) ∧
    findJob (reporting (report1 3 true (some 3)) 0) 1 = some job3 := by
  decide +kernel

/-! ### The walker, contexts, homes, channels -/

/-- A launch record of one stage on cores 0 and 1, code 6, completion at object 2; and one with a bad first byte. -/
def record (b0 : Nat) : List Byte :=
  natBytes 1 b0 ++ natBytes 1 1 ++ List.replicate 67 0 ++ natBytes 3 2 ++ natBytes 8 64 ++ List.replicate 48 0 ++
    natBytes 40 3 ++ natBytes 3 6 ++ List.replicate 21 0
def queued (b0 : Nat) : Queued := ⟨5, 0, record b0, true⟩
def queueing (b0 : Nat) : State := withBase st (fun b => { b with queues := b.queues.set 3 [queued b0] })

/-- A launch whose stage has iterations left, with no lease here. -/
def startable : State := { st with core := Core.free 0 }

theorem witness_LaunchesGoLiveAndLeasesStart :
    ((queueing 1).base.replay = none ∧ (queueing 1).base.queues[(3 : Fin 16)] = [queued 1] ∧
      rejection (dequeued (queueing 1) 3 []) (queued 1).data = none ∧
      (∀ k ∈ (queueing 1).base.launches, k.id ≠ (launchRec (queued 1)).id) ∧ 0 < (launchRec (queued 1)).total) ∧
    ((queueing 2).base.queues[(3 : Fin 16)] = [queued 2] ∧ rejection (dequeued (queueing 2) 3 []) (queued 2).data = some 4) ∧
    (startable.base.replay = none ∧ startable.base.capture.mode = 0 ∧ startable.base.launches.find? (fun k => k.id == launch1.id) = some launch1 ∧
      launch1.stages[(0 : Fin 8).val]? = some ⟨BitVec.ofNat 320 3, 6, 0xFFFFFF, 1⟩ ∧ (∀ x ∈ launch1.rerun, x.stage ≠ 0) ∧
      1 < launch1.total ∧ pickCore startable ⟨BitVec.ofNat 320 3, 6, 0xFFFFFF, 1⟩ = some 0 ∧
      (imageAsk startable launch1 lease).2 ≠ .busy) := by decide +kernel

/-- An image object whose channel carries a failing transfer. -/
def imageWaits : State :=
  let c := (dramChan (some oGlobal) 0x10000).getD (0, 0)
  withBase startable (fun b => { b with vbus := [⟨c.1, c.2, 0, some ⟨0, 3, 0, 0, false, false⟩, []⟩] })

theorem witness_LeasesStart_waits :
    (imageAsk imageWaits { launch1 with stages := launch1.stages.map (fun g => { g with image := 2 }) } lease).2 = .busy ∧
    ([] : List (BitVec 32)).length < 2 ^ 32 := by decide +kernel

/-- An id in use is skipped, the last one too (01 R31). -/
theorem test_freshId : freshId [1, 2] 0 = 3 ∧ BitVec.ofNat 32 (freshId [0xFFFFFFFF, 0] (2 ^ 32 - 2)) = 1 := by decide +kernel

/-- A replay whose first record is the launch above, in five capture records. -/
def capRecord (k : Nat) : List Byte :=
  natBytes 8 (1 : Nat) ++ natBytes 8 0 ++ natBytes 8 5 ++ ((record 1).drop (40 * k)).take 40
def replaying : Replay := ⟨⟨.host, 0, 0⟩, 0x70000, (List.range 5).map capRecord, 0, [], []⟩

theorem witness_LaunchesGoLive_replay : (replayLaunch replaying).isSome = true := by decide +kernel

/-- A saved context of the lease above, with its head at its place, and the machine that keeps it. -/
def ctx1 (faulted : Bool) : Ctx :=
  ⟨ctxAt 0, faulted, 0, lease, 0, [], [], [], [], [], none, none, none, Vector.replicate 4 0, Vector.replicate 4 0, Vector.replicate 20 0,
    Vector.replicate 3 0⟩
def saved (x : Ctx) (head : Nat) : State :=
  withBase startable (fun b => { b with ctxs := [x], mem := memWriteL b.mem (ctxAt 0) (natBytes 4 head ++ natBytes 4 0x764) })

theorem witness_ContextsLeaveAndReturn :
    (({ st with core := { st.core with busy := 2 } } : State).core.lease = some lease ∧ st.core.busy = 0 ∧ (drainAll st).core.posted = [] ∧
      answering (drainAll st).core.wait = false ∧ (drainAll st).core.sb = [] ∧ (drainAll st).core.eng.transit = [] ∧
      (drainAll st).core.eng.jobs = [] ∧ ctxRoom (drainAll st) = true ∧
      (drainCore (giveUpWait (drainAll st))).core.lease = some lease) ∧
    (({ st with core := { st.core with busy := 2 } } : State).core.busy ≠ 0) ∧
    ((saved (ctx1 false) 1).base.ctxs.find? (fun y => y.pa == ctxAt 0 && !y.faulted) = some (ctx1 false) ∧
      inCoreSet (saved (ctx1 false) 1) lease 1 = true ∧ coreFree (saved (ctx1 false) 1) 1 = true ∧
      leaveNow (saved (ctx1 false) 1) 1 (ctxClass (saved (ctx1 false) 1) (ctx1 false)) = true ∧
      (let s := withBase (saved (ctx1 false) 1) (fun b => { b with temp := 95, mem := memPut b.mem (ctxAt 0 + 0x440) 8 0x100 })
       ctxClass s (ctx1 false) = 1 ∧ leaveNow s 1 1 = false)) ∧
    (saved (ctx1 true) 1).base.ctxs.find? (fun y => y.pa == ctxAt 0 && y.faulted) = some (ctx1 true) ∧
    (∀ l ∈ ({ saved (ctx1 true) 1 with base := { (saved (ctx1 true) 1).base with launches := [] } } : State).base.launches, l.id ≠ 1) ∧
    (∃ l ∈ (saved (ctx1 true) 1).base.launches, l.id = (ctx1 true).lease.launch) := by decide +kernel

theorem witness_ContextsLeaveAndReturn_format : Resumable (saved (ctx1 false) 1) (ctx1 false) ∧ ¬ Resumable (saved (ctx1 false) 2) (ctx1 false) := by
  unfold Resumable
  decide +kernel

/-- The word of BWAIT c13, x5 and of BARRW x9, c13, x5 at the pc. -/
def atWord' (w : Word) (k : Wait) : State := withWait (withBase st (fun b => { b with mem := memWriteL b.mem 0x30000 (natBytes 8 w.toNat) })) k

/-- A core whose L1 holds a dirty word of the COHERENT object, gated or not. -/
def probed1 (gated : Bool) : State := { st with core := { st.core with l1 := [⟨0x60008, 9, 8, 1, false, true, false⟩], gated := gated } }

theorem witness_HomesReachTheCores :
    (decodeSeq 0x2C03450300000000 = some (.bwait 13 5 ⟨0, false, false, false, false, false⟩) ∧
      Machine.atPc (atWord' 0x2C03450300000000 (.bwait (stagePa 3 0x40) true)) = some (.bwait 13 5 ⟨0, false, false, false, false, false⟩)) ∧
    Machine.atPc (atWord' 0x2C93450400000000 (.barrw (stagePa 3 0x40) 0 true)) = some (.barrw 9 13 5 ⟨0, false, false, false, false, false⟩) ∧
    ({ st with core := { st.core with refusal := some (0x40, false) } } : State).core.refusal = some (0x40, false) ∧
    (let s := withBase (withWait st (.bwait 8 false)) (fun b => { b with releases := [(0, 8)] })
     s.base.releases = [(0, 8)] ∧ (findCore s 0).map (fun k => k.wait) = some (.bwait 8 false)) ∧
    st.core.sb = [] ∧ (buffered.core.sb = [⟨2, 8, [1, 2], none⟩] ∧ findObj buffered 2 = some oGlobal ∧ oGlobal.space = 2 ∧
      (drainFetch buffered oGlobal ⟨2, 8, [1, 2], none⟩).2 = .ok) ∧
    oHost.space ≠ 2 ∧
    ((findCore (probed1 false) 0).map (fun c => c.gated) = some false ∧ (0 : Fin 16).val ≤ (15 : Fin 16).val ∧
      (findCore (probed1 true) 0).map (fun c => c.gated) = some true ∧
      (oCoh.space ≠ 1 ∧ oCoh.coh = true ∧ 8 % 256 + 8 ≤ 256 ∧ paOf oCoh 8 = some 0x60008 ∧ retains (probed1 true) 0x60008 8 (probed1 true).core = true) ∧
      ∃ w ∈ (probed1 true).core.l1, (decide (w.pa < 128 * 0xC00 + 8 * 16 ∧ 128 * 0xC00 + 8 * 0 < w.pa + 8) && cohWord (probed1 true) w) = true ∧
        w.dirty = true) := by decide +kernel

/-- A sequence on channel 2 of die 1 at attempt `a`, width code `w`. -/
def failing (a w : Nat) (since gtc : Nat) : State :=
  { withBase st (fun b => { b with vbus := [⟨1, 2, Fin.ofNat 4 w, some ⟨0x100, 3, a, since, false, w != 0⟩, []⟩] }) with gtc := gtc }

theorem witness_ChannelsAndRegistersOfTheBase :
    ((vchanOf st.base 1 2).width ≠ 3 ∧ (vchanOf st.base 1 2).vseq = none) ∧
    ((vchanOf (failing 0 0 0 24).base 1 2).vseq = some ⟨0x100, 3, 0, 0, false, false⟩ ∧ 0 + 24 ≤ (failing 0 0 0 24).gtc) ∧
    (vchanOf (failing 2 1 0 24).base 1 2).vseq = some ⟨0x100, 3, 2, 0, false, true⟩ ∧ (vchanOf (failing 3 0 0 0).base 1 2).vseq.map (fun q => q.attempt) = some 3 ∧
    ((vchanOf (failing 4 0 0 256).base 1 2).vseq.map (fun q => q.attempt) = some 4 ∧ 0 + 256 ≤ (failing 4 0 0 256).gtc) ∧
    ((vchanOf (failing 5 0 0 0).base 1 2).vseq.map (fun q => q.attempt) = some 5 ∧ (vchanOf (failing 5 0 0 0).base 1 2).width ≠ 3) ∧
    (failing 1 0 0 23).gtc < 0 + 24 ∧
    ((fun (x : Word) (n : Nat) => ((List.range 16).map (fun k => if k = 1 then bitsOf x.toNat 15 0 else bitsOf (pbktOf st.base n k).toNat 15 0)).sum)
      0 255 = 12288 ∧
     (fun (x : Word) (n : Nat) => ((List.range 16).map (fun k => if k = 1 then bitsOf x.toNat 15 0 else bitsOf (pbktOf st.base n k).toNat 15 0)).sum)
      1 255 = 12289) := by decide +kernel

theorem witness_ChannelsAndRegisters_ways : BadWays st 255 3 ∧ ¬ BadWays st 255 0x555500000000 := by
  constructor
  · exact .inl ⟨0, by decide, by decide⟩
  · intro h
    have h1 : ∀ w, w < 24 → wayCode 0x555500000000 w ≠ 3 := by decide +kernel
    have h2 : ¬ 4 < (List.range 24).countP (fun w => wayCode 0x555500000000 w = 2) := by decide +kernel
    have h3 : ∀ w, w < 24 → ¬ (wayCode (regGet st.base.slcfg 255 0x555500000000) w = 0 ∧ wayCode 0x555500000000 w ≠ 0) := by decide +kernel
    rcases h with ⟨w, hw, h⟩ | h | ⟨w, hw, h, h', -⟩
    · exact h1 w hw h
    · exact h2 h
    · exact h3 w hw ⟨h, h'⟩

/-! ### The host, commands, the module -/

/-- A command's context. -/
def ctx0 : CmdCtx := ⟨.host, 9, 0⟩

theorem witness_HostRequestsActAtTheHomes :
    (hdmMapped 0x10000 8 = true ∧ objAtPa (withBase st (fun b => { b with objs := [] })) 0x10000 = none ∧ 0x100F8 % 256 + 8 ≤ 256 ∧
      hdmMapped (stagePa 3 0) 8 = false ∧ 0x10000 / 4096 ∉ st.base.bias ∧ st.base.ecc = [] ∧ st.base.vbus = [] ∧
      (readPieces st 0 (granules 0x10000 8) (some [])).2 = some (memReadN st.base.mem 0x10000 8)) ∧
    (let g := chanAt (homeOfPa 0x10000) 0x10000
     let s := withBase st (fun b => { b with
       objs := [], vbus := [⟨(g.getD (0, 0)).1, (g.getD (0, 0)).2, 0, some ⟨0, 3, 0, 0, false, false⟩, []⟩] })
     g.isSome = true ∧ (readPieces s 0 (granules 0x10000 8) (some [])).2 = none ∧ (readPa s 0 0x10000 8 true).2 = none) ∧
    (readPa st 0 0x10000 8 true).2 ≠ none ∧ (∀ r ∈ bar0Map st.base 5, r.1 ≠ 0x30) ∧
    ((wakeAt (probed1 true) 0x60008 8).2 = .busy ∧ hostDrops (probed1 true) 0x60008 8 = false ∧ (wakeAt st 0x10000 8).2 ≠ .busy) ∧
    (hostDrops st (stagePa 3 0x40) 8 = true ∧ hostDrops st 0x10000 8 = false ∧ 0x10038 % 64 + 8 ≤ 64 ∧
      hostDrops st (2 ^ 54) 8 = false ∧ hdmMapped (2 ^ 54) 8 = false) ∧
    (paRangeOk (2 ^ 48 + 64) 64 = true ∧ paKind (2 ^ 48 + 64) = .host ∧ ¬ (paRangeOk 0x10000 64 = true ∧ paKind 0x10000 = .host)) ∧
    (256 < (BitVec.ofNat 9 300 - st.base.hcqhead).toNat ∧ (BitVec.ofNat 9 256 - st.base.hcqhead).toNat ≤ 256) ∧
    (withBase st (fun b => { b with cmdq := [⟨.host, 0, Vector.replicate 8 0⟩] })).base.cmdq.countP (fun c => c.src = .host) = 1 ∧
    st.base.hcqhead = st.base.hcqtail ∧
    (withBase st (fun b => { b with hcqtail := 3 })).base.hcqhead ≠ (withBase st (fun b => { b with hcqtail := 3 })).base.hcqtail ∧
    (withBase st (fun b => { b with kbell := [4] })).base.kbell = [4] := by decide +kernel

theorem witness_HostAtomic_member : ((9 : Fin 11), (if (5 : Word) = 6 then some (7 : Word) else none)) ∈ atomics 5 7 6 := by
  simp [atomics]

/-- An entry image of a new STAGE object, and of one that the table holds. -/
def image (o : ObjEnt) : State := withBase st (fun b => { b with mem := memWriteL b.mem 0x70000 (entryBytes o) })

theorem witness_TableCommandsActAndAnswer :
    (withBase st (fun b => { b with rail := false })).base.rail = false ∧ st.base.rail = true ∧ paRangeOk 0x70000 128 = true ∧
    paRangeOk (2 ^ 54) 128 = false ∧ paRangeOk (2 ^ 54) 16 = false ∧ paRangeOk (2 ^ 54) 1 = false ∧
    missingExtent st 2 0 = none ∧ (missingExtent st 2 1).isSome = true ∧
    (missingExtent st 2 1).map (fun p => (p.2.npg, extentOk st p.1.space.val p.1.dielocal p.1.die ⟨0x90000, true, 1⟩,
      extentOk st p.1.space.val p.1.dielocal p.1.die ⟨stagePa 3 0, true, 1⟩)) = some (1, true, false) ∧
    st.base.objs.find? (fun o => o.oid == 0x99) = none ∧ st.base.objs.find? (fun o => o.oid == 2) = some oGlobal ∧ oGlobal.pins = 0 ∧
    (at' st 0).base.objs.any (fun o => o.oid == 2 && o.pins != 0) = true ∧ oneSlice oStage = true ∧
    (let o := { oStage with len := 64 + 16 * 4, exts := [⟨stagePa 3 0, true, 1⟩] }
     o.space = 1 ∧ oneSlice o = true ∧ o.len = 64 + 16 * ((o.len - 64) / 16) ∧ 0 < (o.len - 64) / 16 ∧ (o.len - 64) / 16 ≤ 65535) ∧
    paRangeOk 0x10008 16 = true ∧ 0x10008 % 16 ≠ 0 ∧ tagged st.base 0x10010 16 = false ∧
    (objAtPa st 0x10010).map (fun p => p.1.span) = some false ∧ tagged st.base (stagePa 3 0x40) 16 = true ∧
    (paRangeOk 0x10000 4096 = true ∧ paKind 0x10000 ≠ .host) ∧ 0x10 ∉ st.base.bias ∧ paKind (2 ^ 48) = .host ∧
    (withBase st (fun b => { b with bias := [0x10] })).base.bias = [0x10] ∧
    (withBase st (fun b => { b with cmdWaits := [⟨ctx0, some 2, 0, 0⟩] })).base.cmdWaits.find? (fun y => y.oid == some 2) =
      some ⟨ctx0, some 2, 0, 0⟩ ∧
    (let s := { withBase st (fun b => { b with rail := false, cmdWaits := [⟨ctx0, some 2, 0, 9⟩] }) with phase := .base }
     s.base.rail = false ∧ s.phase = .base ∧ (∀ p ∈ s.inputs, s.gtc < p.1) ∧ s.base.cmdWaits = [⟨ctx0, some 2, 0, 9⟩]) := by decide +kernel

/-- OBJSET's image: new, and of an object that the table holds already. -/
theorem witness_TableCommands_image :
    (let u := (readRange (image { oStage with oid := 0x77 }) 0 0x70000 128).1
     let e := entryOf ((readRange (image { oStage with oid := 0x77 }) 0 0x70000 128).2.getD [])
     (readRange (image { oStage with oid := 0x77 }) 0 0x70000 128).2 ≠ none ∧ e.oid = 0x77 ∧ findObj u e.oid = none ∧ e.space = 1 ∧ (e.exts.all (fun x => extentOk u 1 e.dielocal e.die x)) = true ∧
       e.len ≤ (e.exts.map (fun x => x.npg)).sum * 4096) ∧
    (findObj (readRange (image oStage) 0 0x70000 128).1 (entryOf ((readRange (image oStage) 0 0x70000 128).2.getD [])).oid).isSome = true := by
  decide +kernel

/-- LAUNCHQ's record names queue 0, and reaches its end. -/
theorem witness_TableCommands_launch :
    (let s := withBase st (fun b => { b with mem := memWriteL b.mem 0x70000 (record 1) })
     let h := readRange s 0 0x70000 128
     h.2 ≠ none ∧ (recordQueue (h.2.getD [])).map (fun k => k.val) = some 0 ∧ paRangeOk 0x70000 (recordSize (h.2.getD [])) = true ∧
       (readRange h.1 0 0x70000 (recordSize (h.2.getD []))).2 ≠ none) ∧
    (0x70000 % 64 = 0 ∧ paKind 0x70000 ≠ .host) ∧ (paRangeOk 0x70020 128 = true ∧ 0x70020 % 64 ≠ 0) ∧
    (paRangeOk (2 ^ 48) 128 = true ∧ paKind (2 ^ 48) = .host) := by decide +kernel

theorem witness_ModuleCommandsActAndAnswer :
    st.base.rail = true ∧ 8 ≤ (8 : Nat) ∧ 16 ≤ (16 : Nat) ∧
    BadPower st 0 2 3 6 9 ∧ ¬ BadPower st 0 300 3 6 9 ∧ ¬ BadPower st 0 9 3 6 9 ∧ BadPower st 0 301 3 6 9 ∧
    paRangeOk (2 ^ 54) 64 = false ∧ paRangeOk 0x70000 64 = true ∧ 65 % 64 ≠ 0 ∧ 128 % 64 = 0 ∧ paRangeOk 0x70000 1728 = true ∧
    (withBase st (fun b => { b with cmdWaits := [⟨ctx0, none, 3, 0⟩] })).base.cmdWaits.find? (fun y => y.oid.isNone && y.die == 3) =
      some ⟨ctx0, none, 3, 0⟩ ∧
    (readRange st 0 0x70000 64).2 ≠ none ∧ (readRange st 0 0x70000 128).2 ≠ none := by
  unfold BadPower
  decide +kernel

/-- Every die fenced, at 115 °C. -/
def allFenced : State := withBase st (fun b => { b with temp := 115, dies := b.dies.map (fun d => { d with fenced := true }) })

theorem witness_CyclesThermalStepsAndResets :
    (114#8).toNat < 115 ∧ (115 ≤ allFenced.base.temp.toNat ∧ ∀ d : Fin 8, (allFenced.base.dies[d]).fenced = true) ∧
    st.base.temp.toNat < 115 ∧ st.base.rail = true ∧ ((st.core :: [Core.free 1]).map (fun c => c.id)).Nodup ∧ st.base.slpend = [] ∧
    (withBase st (fun b => { b with rail := false })).base.rail = false := by decide +kernel

/-- A core that runs, one that stands in a freeze of a command's issue, and one that stands otherwise. -/
theorem witness_Cycles_cores : ¬ Stands st.core ∧ (Stands (frozen1 2 0).core ∧ SpillSeen (frozen1 2 0).core) ∧
    (Stands { st.core with throttled := true } ∧ ¬ SpillSeen { st.core with throttled := true }) := by
  refine ⟨?_, ⟨?_, ⟨_, rfl, ?_⟩⟩, ⟨?_, ?_⟩⟩
  · unfold Stands; decide +kernel
  · unfold Stands; decide +kernel
  · decide
  · unfold Stands; decide +kernel
  · rintro ⟨f, hf, -⟩
    exact absurd (hf.symm.trans (by decide +kernel : st.core.eng.freeze = none)) (by simp)

theorem witness_IntegerLanesCompute : tyI 7 ∧ tyI 14 ∧ (∃ p ∈ laneCommands h0 1 2 3 0 8 0 0 false, p.1 = .vadd h0 1 2 3 0 8 0 true) := by
  refine ⟨by unfold tyI; decide, by unfold tyI; decide, ⟨_, List.mem_cons_of_mem _ List.mem_cons_self, rfl⟩⟩

theorem witness_StepsKeepTheMemoriesCanonical : Canonical st ∧ (match step st with | .next _ => true | _ => false) = true := by
  constructor
  · unfold Canonical
    refine ⟨by decide +kernel, ?_⟩
    intro c hc
    rcases hc with rfl | hc
    · decide +kernel
    · exact absurd hc (by simp [st, State.reset])
  · decide +kernel

/-! ## One step from reset with an instruction placed -/

theorem test_placed_instruction_runs : (match step (State.reset.withFetchWord 64 0x08A0000000000200) with
    | .next t => some t.core.seq.x[10]
    | _ => none) = some 0x200 := by decide +kernel

theorem test_reset_steps : (match step State.reset with
    | .next t => t.core.lease.isNone
    | _ => false) = true := by decide +kernel

/-! ## Read steps of engines, with the spec's example values -/

/-- A vector command in progress, with what lane 0 of v2 and v3 holds in `n` bytes. -/
def lanes (i : Instr) (n a b : Nat) : State :=
  let j : Job := { job0 .vector i (snap0 st) 1 with id := 1 }
  running [j] (withEngines st (fun g => { g with
    acc := memWriteL (memWriteL [] (rowOff j 2) (natBytes n a)) (rowOff j 3) (natBytes n b) }))

/-- The first `n` bytes that the next read step writes, as a number. -/
def firstLane (n : Nat) (s : State) : Option Nat :=
  (seen (fun t => t.core.eng.pends) .engineReadStep s).bind (fun l => match l with
    | p :: _ => match p.w with
      | .bytes _ ws => some (bytesNat ((ws.take n).map Prod.snd))
      | _ => none
    | [] => none)

/-- 30,000 + 10,000 saturates at 32,767 (20 R371). -/
theorem test_vadd_sat : firstLane 2 (lanes (.vadd h0 1 2 3 0 8 0 true) 2 30000 10000) = some 32767 := by decide +kernel

/-- 1.5 + 0.25 is 1.75 in f32, and 1 / 3 rounds to 0x3EAAAAAB. -/
theorem test_vadd_f32 : firstLane 4 (lanes (.vadd h0 1 2 3 0 1 0 false) 4 0x3FC00000 0x3E800000) = some 0x3FE00000 := by decide +kernel
theorem test_vdiv_f32 : firstLane 4 (lanes (.vdiv h0 1 2 3 0 1 0) 4 0x3F800000 0x40400000) = some 0x3EAAAAAB := by decide +kernel

/-- The square root of 2 in f64, nearest even. -/
theorem test_vsqrt_f64 : firstLane 8 (lanes (.vsqrt h0 1 2 0 0 0) 8 0x4000000000000000 0) = some 0x3FF6A09E667F3BCD := by decide +kernel

/-- A read step that cannot reach its page waits. -/
theorem test_read_waits : ends (stepForm (running [job3] far) job3 0) = 1 := by decide +kernel

/-! ## Signatures and write-backs -/

/-- A signature of zeros verifies under no odd exponent (22 R401): its 4,096th power ends in no trailer. -/
theorem test_zero_signature : pssVerify (2 ^ 4095 + 1) 3 [1, 2, 3] (List.replicate 512 0) = false := by decide +kernel

/-- An encoding is one that the check takes (22 R401). -/
theorem test_pss_encoding : pssMatches [1, 2, 3] (pssEncode [1, 2, 3] (List.replicate 64 7)) = true := by decide +kernel

/-- Two words of one granule, of one CSTC or of two stores, of which a write-back reaches the first (10 R249). -/
def mates (pair : Bool) : Core :=
  { st.core with l1 := [⟨0x10010, 2, 16, 1, true, true, pair⟩, ⟨0x10018, 2, 24, 2, true, true, pair⟩] }
def taken (c : Core) : List Nat := (c.l1.filter (wbTakes c (fun w => w.pa == 0x10010))).map (fun w => w.pa)
theorem test_pair_writes_back : taken (mates true) = [0x10010, 0x10018] ∧ taken (mates false) = [0x10010] := by decide +kernel

end Sys2Proof.Tests
end

section
/-! The canonical form of the memories through a step (log entry 1), layer by layer: for each operation of the model that
gives a state, a lemma `Canon.<operation>` that it keeps the form; then the meanings of the instructions and events, the
schedule's actions, and the step. -/

-- One theorem after the other: hundreds of proofs elaborated at once, each waiting for the kernel to check what stands before
-- it, exhaust the threads that the check's memory limit allows.
set_option Elab.async false

namespace Sys2Proof.Machine

/-! ## The form, part by part -/

/-- Every memory of the machine is canonical: the base's, the current core's stores, and those of the other cores. -/
structure Canon (s : State) : Prop where
  mem : Memory.wf s.base.mem = true
  core : s.core.eng.storesWf
  others : ∀ c ∈ s.others, c.eng.storesWf

theorem storesWf_iff (e : Engines) : e.storesWf ↔
    Memory.wf e.spad = true ∧ Memory.wf e.acc = true ∧ Memory.wf e.wpl = true ∧ Memory.wf e.side = true := by
  constructor
  · intro h
    exact ⟨h .spad, h .acc, h .wpl, h .side⟩
  · rintro ⟨hs, ha, hw, hd⟩ st
    cases st
    · exact hs
    · exact ha
    · exact hw
    · exact hd

/-- The statement's form of the invariant. -/
theorem canonical_iff (s : State) : Claims.Canonical s ↔ Canon s := by
  unfold Claims.Canonical
  constructor
  · rintro ⟨hm, hc⟩
    exact ⟨hm, (storesWf_iff _).2 (hc _ (.inl rfl)), fun c h => (storesWf_iff _).2 (hc c (.inr h))⟩
  · rintro ⟨hm, hc, ho⟩
    refine ⟨hm, ?_⟩
    rintro c (rfl | h)
    · exact (storesWf_iff _).1 hc
    · exact (storesWf_iff _).1 (ho c h)

/-- Two engines with the same stores. -/
structure SameStores (e f : Engines) : Prop where
  spad : e.spad = f.spad := by rfl
  acc : e.acc = f.acc := by rfl
  wpl : e.wpl = f.wpl := by rfl
  side : e.side = f.side := by rfl

theorem SameStores.storesWf {e f : Engines} (h : SameStores e f) (hf : f.storesWf) : e.storesWf := by
  rw [storesWf_iff] at *
  rw [h.spad, h.acc, h.wpl, h.side]
  exact hf

/-- The stores of a core that no lease runs on are empty. -/
theorem storesWf_free (id : Nat) : (Core.free id).eng.storesWf := storesWf_start

section
variable {s t : State}

/-- What passes the ways and commits at the homes (`Kept`) keeps the form. -/
theorem Canon.of_kept (h : Canon s) (k : Kept s t) : Canon t :=
  ⟨k.2 h.mem, k.core ▸ h.core, k.others ▸ h.others⟩

/-- An update that leaves every memory alone keeps the form. -/
theorem Canon.frame (h : Canon s) (hm : t.base.mem = s.base.mem := by rfl)
    (hc : SameStores t.core.eng s.core.eng := by exact {}) (ho : t.others = s.others := by rfl) : Canon t :=
  ⟨hm ▸ h.mem, hc.storesWf h.core, ho ▸ h.others⟩

/-- Another current core. -/
theorem Canon.withCore (h : Canon s) {c : Core} (hc : c.eng.storesWf) : Canon { s with core := c } := ⟨h.mem, hc, h.others⟩

/-- Other bytes of the base's memory. -/
theorem Canon.withBase (h : Canon s) {b : Base} (hb : Memory.wf b.mem = true) : Canon { s with base := b } := ⟨hb, h.core, h.others⟩

/-- A fold of steps that keep the form keeps it. -/
theorem Canon.foldl {β : Type} (h : Canon s) {f : State → β → State} (hf : ∀ s b, Canon s → Canon (f s b)) (l : List β) :
    Canon (l.foldl f s) :=
  foldl_keeps Canon f hf l s h

/-- A fold that carries a state and something else. -/
theorem Canon.foldl_fst {α β : Type} (h : Canon s) {f : State × α → β → State × α} (hf : ∀ a b, Canon a.1 → Canon (f a b).1) (a : α)
    (l : List β) : Canon (l.foldl f (s, a)).1 :=
  foldl_keeps (fun a => Canon a.1) f hf l (s, a) h

theorem Canon.ite {c : Prop} [Decidable c] (hs : Canon s) (ht : Canon t) : Canon (if c then s else t) := by
  split
  · exact hs
  · exact ht

/-- A step that follows on a condition. -/
theorem Canon.then {c : Prop} [Decidable c] (h : Canon s) (ht : Canon s → Canon t) : Canon (if c then t else s) := (ht h).ite h

theorem Canon.ite_fst {α : Type} {c : Prop} [Decidable c] {p q : State × α} (hp : Canon p.1) (hq : Canon q.1) :
    Canon (if c then p else q).1 := by
  split
  · exact hp
  · exact hq

/-- The state of a pair, once the pair is known. -/
theorem Canon.of_eq {α : Type} {p : State × α} {a : α} (h : Canon p.1) (e : p = (s, a)) : Canon s := by
  subst e
  exact h

/-! ## Registers, cores, objects -/

variable {s : State} {o : ObjEnt} {off n pa id : Nat} {bs : List Byte} {pid : Fin 16} {me src : Option Nat} {k : PacketKind}
  {tag atomic : Bool}

/-- A core with register `r` written has the engines that it had. -/
@[simp] theorem setX_eng (c : Core) (r : XReg) (v : Word) : (setX c r v).eng = c.eng := by
  unfold setX
  split <;> rfl

theorem Canon.wrX (h : Canon s) {r : XReg} {v : Word} : Canon (wrX s r v) :=
  h.withCore (by rw [setX_eng]; exact h.core)

theorem Canon.wrC (h : Canon s) {r : CReg} {v : Cap} : Canon (wrC s r v) := h.frame

theorem Canon.retire (h : Canon s) : Canon (retire n s) := h.frame

theorem Canon.onEng (h : Canon s) {f : Engines → Engines} (hf : (f s.core.eng).storesWf) : Canon (onEng s f) := h.withCore hf

/-- An update of the engines that leaves their stores alone. -/
theorem Canon.engFrame (h : Canon s) {f : Engines → Engines} (hf : SameStores (f s.core.eng) s.core.eng := by exact {}) :
    Canon (Machine.onEng s f) :=
  h.onEng (hf.storesWf h.core)

theorem Canon.onBase (h : Canon s) {f : Base → Base} (hf : (f s.base).mem = s.base.mem := by rfl) : Canon (onBase s f) :=
  h.frame hf

theorem Canon.onCore (h : Canon s) {f : Core → Core} (hf : ∀ c : Core, c.eng.storesWf → (f c).eng.storesWf) : Canon (onCore s id f) := by
  unfold Machine.onCore
  split
  · exact h.withCore (hf _ h.core)
  · refine ⟨h.mem, h.core, fun d hd => ?_⟩
    obtain ⟨c, hc, rfl⟩ := List.mem_map.1 hd
    split
    · exact hf c (h.others c hc)
    · exact h.others c hc

theorem Canon.onCores (h : Canon s) {f : Core → Core} (hf : ∀ c : Core, c.eng.storesWf → (f c).eng.storesWf) : Canon (onCores s f) := by
  refine ⟨h.mem, hf _ h.core, fun d hd => ?_⟩
  obtain ⟨c, hc, rfl⟩ := List.mem_map.1 hd
  exact hf c (h.others c hc)

theorem Canon.onObj (h : Canon s) {oid : BitVec 24} {f : ObjEnt → ObjEnt} : Canon (onObj s oid f) := h.frame

theorem Canon.tcacheDrop (h : Canon s) (t : TEnt) : Canon (tcacheDrop s t) := by
  unfold Machine.tcacheDrop
  dsimp only
  split
  · exact h.frame
  · exact h.frame

theorem Canon.touchObj (h : Canon s) {oid : BitVec 24} {long : Bool} : Canon (touchObj s oid long) := by
  unfold Machine.touchObj
  split
  · exact h
  · split
    · exact h.frame
    · dsimp only
      split
      · exact h.frame
      · split
        · exact (h.tcacheDrop _).frame
        · exact h

/-! ## The homes -/

theorem Canon.logEvent (h : Canon s) {kind addr die p : Nat} : Canon (logEvent s kind addr die p) :=
  ⟨Memory.wf_logEvent _ _ _ _ _ h.mem, by rw [logEvent_core]; exact h.core, by rw [logEvent_others]; exact h.others⟩

theorem Canon.post (h : Canon s) {port : Nat} {i : Fin 6} : Canon (post s port k pid n i) := h.of_kept (.post _ _ _ _ _ _)

theorem Canon.serve (h : Canon s) {g up down : Nat} : Canon (serve s g up down pid k src) := h.of_kept (.serve _ _ _ _ _ _ _)

theorem Canon.dramRead (h : Canon s) {core : Nat} : Canon (dramRead s o off n core pid).1 := h.of_kept (.dramRead _ _ _ _ _ _)

theorem Canon.dramAsk (h : Canon s) {core : Nat} : Canon (dramAsk s o off n core pid).1 := h.of_kept (.dramAsk _ _ _ _ _ _)

theorem Canon.wakeAsk (h : Canon s) : Canon (wakeAsk s o off n).1 := h.of_kept (.wakeAsk _ _ _ _)

theorem Canon.digLines (h : Canon s) {j core : Nat} {write : Bool} : Canon (digLines s o j core pid write).1 :=
  h.of_kept (.digLines _ _ _ _ _ _)

theorem Canon.homePut (h : Canon s) : Canon (homePut s o off bs tag atomic pid) := h.of_kept (homePut_changes _ _ _ _ _ _ _)

theorem Canon.homePutPa (h : Canon s) : Canon (homePutPa s pa bs tag atomic pid) := h.of_kept (homePutPa_changes _ _ _ _ _ _)

theorem Canon.hostRecall (h : Canon s) : Canon (hostRecall s pa) := by
  unfold Machine.hostRecall
  split
  · exact h.foldl (fun _ _ h => h.homePutPa) _
  · exact h

theorem Canon.dirRefresh (h : Canon s) (b : Nat) : Canon (dirRefresh s b) := h.frame

/-! ## The L1s and the store buffer -/

theorem Canon.wbUnit (h : Canon s) (ws : List L1Word) : Canon (wbUnit id pid s ws) := by
  unfold Machine.wbUnit
  split
  · exact h
  · dsimp only
    split
    · exact h.serve.hostRecall.homePut
    · exact h.serve.hostRecall.homePutPa

theorem Canon.writeBack (h : Canon s) {p : L1Word → Bool} : Canon (writeBack s id p) := by
  unfold Machine.writeBack
  split
  · exact h
  · exact (h.foldl (fun _ ws h => h.wbUnit ws) _).onCore (fun _ hc => hc)

theorem Canon.dropWords (h : Canon s) {p : L1Word → Bool} : Canon (dropWords s id p) := h.onCore (fun _ hc => hc)

theorem Canon.tellCore (h : Canon s) {g : Nat} : Canon (tellCore s g id pid) := h.post

theorem Canon.tellSlice (h : Canon s) {g : Nat} : Canon (tellSlice s g id pid) := h.post

theorem Canon.probe (h : Canon s) {read : Bool} : Canon (probe s me pa n read) := by
  refine Canon.foldl (h.foldl (fun s c h => ?_) _) (fun s b h => ?_) _
  · split
    · exact h
    · exact (Canon.writeBack (h.tellCore.ite h)).dropWords
  · exact (h.dirRefresh b).ite h

theorem Canon.takeBack (h : Canon s) {read : Bool} : Canon (takeBack s me o off n read) := by
  refine h.foldl (fun s g h => ?_) _
  split
  · exact h
  · exact h.hostRecall.probe.ite h.hostRecall

theorem Canon.homeGet (h : Canon s) : Canon (homeGet s me o off n pid k src).1 := by
  unfold Machine.homeGet
  split
  · exact h
  · exact h.serve.takeBack

theorem Canon.homeStore (h : Canon s) : Canon (homeStore s me o off bs tag atomic pid k src) := by
  unfold Machine.homeStore
  split
  · exact h
  · exact h.serve.takeBack.homePut

theorem Canon.homeTake (h : Canon s) : Canon (homeTake s me o off n pid k src).1 := by
  unfold Machine.homeTake
  split
  · exact h
  · exact h.serve.takeBack

theorem Canon.digRecall (h : Canon s) (j : Nat) : Canon (digRecall s o j) := by
  refine h.foldl (fun s g h => ?_) _
  cases paOf o g.1 with
  | none => exact h
  | some pa => exact h.hostRecall

theorem Canon.digGet (h : Canon s) {j core : Nat} : Canon (digGet s o j core pid).1 := by
  unfold Machine.digGet
  dsimp only
  exact (h.digRecall j).digLines

theorem Canon.l1Room (h : Canon s) : Canon (l1Room s pa) := by
  unfold Machine.l1Room
  dsimp only
  exact h.ite h.writeBack.dropWords

theorem Canon.l1Fill (h : Canon s) : Canon (l1Fill s o off) := by
  unfold Machine.l1Fill
  split
  · exact h
  · split
    · exact h
    · exact h.l1Room.homeGet.frame

theorem Canon.l1Read (h : Canon s) : Canon (l1Read s o off n).1 := h.foldl (fun _ _ h => h.l1Fill) _

theorem Canon.takeOwnership (h : Canon s) : Canon (takeOwnership s o pa) := h.serve.hostRecall.probe.onBase.ite h

theorem Canon.l1Store (h : Canon s) {pair : Bool} : Canon (l1Store s o off bs tag pair) := by
  unfold Machine.l1Store
  dsimp only
  split
  · exact h
  · exact ((h.takeOwnership.l1Fill).ite (h.takeOwnership.ite h.takeOwnership.l1Room)).frame

theorem Canon.drainFetch (h : Canon s) (e : SbEnt) : Canon (drainFetch s o e).1 := by
  unfold Machine.drainFetch
  split
  · exact h.dramRead
  · exact h.wakeAsk

theorem Canon.drainOne (h : Canon s) : Canon (drainOne s) := by
  unfold Machine.drainOne
  split
  · exact h
  · rename_i e rest _
    split
    · exact h.frame
    · rename_i o _
      have hf : Canon { (Machine.drainFetch s o e).1 with core := { (Machine.drainFetch s o e).1.core with sb := rest } } :=
        (h.drainFetch e).frame
      dsimp only
      split
      · exact h.drainFetch e
      · split
        · split
          · exact hf.l1Store
          · exact hf.l1Store.l1Store
        · exact hf.homeStore

theorem Canon.drainAll (h : Canon s) : Canon (drainAll s) := h.foldl (fun _ _ h => h.drainOne) _

end

/-! ## The context area and the end of a lease (04 R108, R109) -/

section
variable {s t : State} {o : ObjEnt} {off n pa id : Nat} {bs : List Byte} {pid : Fin 16} {me src : Option Nat} {tag atomic : Bool}

/-- The context area is written with listed bytes and moved parts of the stores: the memory stays canonical. -/
theorem Memory.wf_ctxWrite (m : Mem) (s : State) (c : Core) (pa : Nat) (arr : Fin 3 → Bool × Nat) (h : Memory.wf m = true) :
    Memory.wf (ctxWrite m s c pa arr) = true := by
  unfold ctxWrite
  dsimp only
  refine wf_memWrites _ _ (wf_memWrites _ _ (wf_memWrites _ _ (wf_memWrites _ _ (wf_memWriteL _ _ _ ?_))))
  refine foldl_keeps (fun m => Memory.wf m = true) _ (fun m t hm => wf_memWriteL _ _ _ hm) _ _ ?_
  exact foldl_keeps (fun m => Memory.wf m = true) _ (fun m p hm => wf_memPut _ _ _ _ hm) _ _ (wf_memClear _ _ _ h)

theorem Canon.releasePins (h : Canon s) {pins : List TEnt} {launch : BitVec 32} : Canon (releasePins s pins launch) := by
  unfold Machine.releasePins
  dsimp only
  exact (h.foldl (fun s t h => h.ite h.onObj) _).frame

theorem Canon.homePutLong (h : Canon s) : Canon (homePutLong s o off bs pid) := by
  unfold Machine.homePutLong
  refine h.foldl (fun s k h => ?_) _
  dsimp only
  exact h.ite h.homeStore

theorem Canon.reportLaunch (h : Canon s) {l : Launch} {status reason : Nat} : Canon (reportLaunch s l status reason) := by
  unfold Machine.reportLaunch
  cases Machine.findObj s l.complOid with
  | none => exact Canon.logEvent (h.foldl (fun _ _ h => h.onObj) _).frame
  | some o => exact Canon.logEvent (h.homePutLong.foldl (fun _ _ h => h.onObj) _).frame

theorem Canon.finishLaunch (h : Canon s) {la : BitVec 32} : Canon (finishLaunch s la) := by
  unfold Machine.finishLaunch
  split
  · exact h
  · exact h.reportLaunch.ite h

theorem Canon.onLaunch (h : Canon s) {la : BitVec 32} {f : Launch → Launch} : Canon (onLaunch s la f) := h.frame

theorem Canon.landBytes (h : Canon s) {one : Bool} : Canon (landBytes s o off bs one).1 := by
  unfold Machine.landBytes
  exact h.foldl (fun _ _ h => h.homeStore) _

theorem Canon.landAtomic (h : Canon s) {f : Nat → Nat} : Canon (landAtomic s o off n f).1 := by
  unfold Machine.landAtomic
  split
  · exact h
  · exact h.dramRead.homeTake.homePut

theorem Canon.landAdd (h : Canon s) {ty v : Nat} : Canon (landAdd s o off ty v).1 := h.landAtomic

theorem Canon.landFetch (h : Canon s) (t : Transit) : Canon (landFetch s t).1 := by
  unfold Machine.landFetch
  split
  · exact h.dramRead
  · exact h.dramAsk
  · exact h

theorem Canon.landCap (h : Canon s) : Canon (landCap s pa n).1 := by
  unfold Machine.landCap
  split
  · exact h
  · exact h.landAtomic

theorem Canon.landWrite (h : Canon s) (t : Transit) : Canon (landWrite s t).1 := by
  unfold Machine.landWrite
  split
  · exact h.landCap
  · split
    · exact h
    · exact h.landBytes
  · split
    · exact h
    · exact h.landAdd

theorem storesWf_freeCore (c : Core) : (freeCore c).eng.storesWf := storesWf_free c.id

theorem Canon.drainCore (h : Canon s) : Canon (drainCore s) := by
  unfold Machine.drainCore
  exact h.drainAll.writeBack.frame

theorem Canon.saveContext (h : Canon s) {faulted : Bool} : Canon (saveContext s faulted) := by
  unfold Machine.saveContext
  split
  · exact h
  · exact ⟨Memory.wf_ctxWrite _ _ _ _ _ h.mem, storesWf_free s.core.id, h.others⟩

theorem Canon.leaseEnds (h : Canon s) : Canon (leaseEnds s) := h.tellSlice

theorem Canon.endFaulted (h : Canon s) : Canon (endFaulted s) := by
  unfold Machine.endFaulted
  split
  · exact h.withCore (storesWf_freeCore _)
  · have hl := h.leaseEnds.drainCore.foldl (f := fun s t => (Machine.landWrite s t).1) (fun _ t h => h.landWrite t)
    exact ((hl _).frame (t := Machine.onEng _ _)).saveContext.onLaunch.finishLaunch

theorem Canon.endRetired (h : Canon s) : Canon (endRetired s) := by
  unfold Machine.endRetired
  split
  · exact h
  · exact (h.leaseEnds.releasePins.withCore (storesWf_freeCore s.core)).frame.onLaunch.finishLaunch

theorem Canon.endInterrupted (h : Canon s) {l : Lease} {pins : List TEnt} : Canon (endInterrupted s l pins) := by
  unfold Machine.endInterrupted
  exact h.releasePins.onLaunch.finishLaunch

/-! ## Traps (04 R97 to R100) -/

theorem Canon.setWait (h : Canon s) {w : Wait} : Canon (setWait s w) := h.frame

theorem Canon.onMyLease (h : Canon s) {f : Lease → Lease} : Canon (onMyLease s f) := h.frame

theorem Canon.giveUpWait (h : Canon s) : Canon (giveUpWait s) := by
  unfold Machine.giveUpWait
  split
  · exact h.frame
  · exact h.frame

theorem Canon.enterTrap (h : Canon s) {epc cause bad : Word} : Canon (enterTrap s epc cause bad) := h.frame

theorem Canon.faultLease (h : Canon s) : Canon (faultLease s) := by
  unfold Machine.faultLease
  exact h.drainAll.endFaulted.ite h.drainAll.frame

theorem Canon.takeTrapAt (h : Canon s) {t : Trap} {epc : Word} {eng : Nat} : Canon (takeTrapAt s t epc eng) := by
  unfold Machine.takeTrapAt
  exact h.enterTrap.faultLease.ite h.enterTrap

theorem Canon.takeTrap (h : Canon s) {t : Trap} : Canon (takeTrap s t) := h.takeTrapAt

theorem Canon.raiseEFault (h : Canon s) {f : EFault} : Canon (raiseEFault s f) := by
  unfold Machine.raiseEFault
  exact h.ite h.frame

theorem Canon.enterEngineTrap (h : Canon s) {f : EFault} {epc : Word} : Canon (enterEngineTrap s f epc) := h.frame

theorem Canon.takeEFault (h : Canon s) {f : EFault} : Canon (takeEFault s f) := h.giveUpWait.enterEngineTrap

theorem Canon.responseTrap (h : Canon s) {t : Trap} : Canon (responseTrap s t) := by
  unfold Machine.responseTrap
  split
  · exact h.takeTrap.ite h.takeEFault
  · exact h.takeTrap

theorem Canon.doEret (h : Canon s) : Canon (doEret s) := by
  unfold Machine.doEret
  dsimp only
  split
  · exact h.frame
  · exact Canon.ite h.frame h.frame

/-! ## Outcomes, and results that may stall or trap -/

/-- Where an outcome goes on, the memories are canonical. -/
def CanonOut : Out → Prop
  | .next t => Canon t
  | _ => True

/-- Whatever an operation of the sequencer results in, the memories are canonical. -/
def CanonRes {α : Type} : Res α → Prop
  | .ok s _ => Canon s
  | .stall s => Canon s
  | .trap s _ => Canon s

theorem Canon.out (h : Canon s) : CanonOut (.next s) := h

theorem CanonOut.next {o : Out} (h : CanonOut o) (ho : o = .next t) : Canon t := by
  subst ho
  exact h

theorem CanonOut.ite {c : Prop} [Decidable c] {o p : Out} (ho : CanonOut o) (hp : CanonOut p) : CanonOut (if c then o else p) := by
  split
  · exact ho
  · exact hp

theorem CanonRes.ite {α : Type} {c : Prop} [Decidable c] {o p : Res α} (ho : CanonRes o) (hp : CanonRes p) :
    CanonRes (if c then o else p) := by
  split
  · exact ho
  · exact hp

/-- An operation and what follows it. -/
theorem CanonRes.finish {α : Type} {r : Res α} (h : CanonRes r) {k : State → α → Out} (hk : ∀ u v, Canon u → CanonOut (k u v)) :
    CanonOut (finish r k) := by
  cases r with
  | ok u v => exact hk u v h
  | stall u => exact h
  | trap u t => exact Canon.takeTrap h

theorem Canon.touchCap (h : Canon s) {b : CReg} : Canon (touchCap s b) := h.touchObj

/-- A capability check and what follows it. -/
theorem Canon.withCap (h : Canon s) {b : CReg} {r : Except Trap ObjEnt} {k : State → ObjEnt → Out}
    (hk : ∀ u o, Canon u → CanonOut (k u o)) : CanonOut (withCap s b r k) := by
  cases r with
  | error t => exact h.takeTrap
  | ok o => exact hk _ o h.touchCap

theorem Canon.kernelOnly (h : Canon s) {f : State → Out} (hf : CanonOut (f s)) : CanonOut (kernelOnly s f) :=
  CanonOut.ite hf h.takeTrap

/-! ## Loads and stores -/

theorem Canon.spadStore (h : Canon s) : Canon (spadStore s off bs) :=
  h.onEng (storesWf_setStore _ .spad _ h.core (Memory.wf_memWriteL _ _ _ (h.core .spad)))

theorem Canon.baseLoad (h : Canon s) {b : CReg} : CanonRes (baseLoad s b o off n) := by
  unfold Machine.baseLoad
  dsimp only
  split
  · exact h
  · split
    · exact h
    · split
      · exact h.frame
      · split
        · rename_i u hu
          exact (Canon.ite_fst h h.dramRead).of_eq hu
        · rename_i u hu
          exact (Canon.ite_fst h h.dramRead).of_eq hu
        · rename_i u hu
          have h := (Canon.ite_fst h h.dramRead).of_eq hu
          exact CanonRes.ite h.l1Read h.homeGet

theorem Canon.askExtent (h : Canon s) : Canon (askExtent s o off) := h.logEvent

theorem Canon.residencyWait (h : Canon s) {b : CReg} : CanonRes (residencyWait s b o off) := by
  unfold Machine.residencyWait
  split
  · exact h.setWait
  · split
    · exact CanonRes.ite (CanonRes.ite h.setWait h) h.askExtent.setWait
    · exact h.askExtent.setWait

theorem Canon.baseStore (h : Canon s) {b : CReg} {tg : Option Bool} : CanonRes (baseStore s b o off bs tg) := by
  unfold Machine.baseStore
  split
  · exact h.residencyWait
  · dsimp only
    split
    · split
      · exact h.setWait
      · exact CanonRes.ite h.setWait h.setWait.homeStore
    · exact CanonRes.ite h.frame h.setWait

theorem Canon.captureRec (h : Canon s) {ty : Nat} : Canon (captureRec s ty bs) := by
  unfold Machine.captureRec
  dsimp only
  split
  · exact h
  · split
    · exact Canon.logEvent h.frame
    · exact (h.ite h.homePutPa).onBase

theorem Canon.readGtc (h : Canon s) : Canon (readGtc s).1 := by
  unfold Machine.readGtc
  split
  · exact h
  · dsimp only
    split
    · exact Canon.captureRec h.frame
    · exact Canon.captureRec h.frame

theorem Canon.codeRead (h : Canon s) : Canon (codeRead s off).1 := by
  unfold Machine.codeRead
  split
  · exact h
  · split
    · exact h.dramRead.takeBack.ite h.dramRead
    · exact h

end

/-! ## Home instructions (12 R279 to R285) -/

section
variable {s t : State} {o : ObjEnt} {off n pa id : Nat} {bs : List Byte} {b : CReg} {a : XReg} {imm : BitVec 32}

theorem Canon.leaving (h : Canon s) {k : State → Out} (hk : CanonOut (k s)) : CanonOut (leaving s k) := CanonOut.ite hk h

theorem Canon.withHome (h : Canon s) {x : Int} {size align : Nat} {need : BitVec 8} {spaces : List (Fin 8)}
    {k : State → ObjEnt → Nat → Out} (hk : ∀ u o off, Canon u → CanonOut (k u o off)) :
    CanonOut (withHome s b x size align need spaces k) :=
  h.withCap (fun _ _ h => h.leaving (hk _ _ _ h))

theorem Canon.sent (h : Canon s) : Canon (sent s o off) := by
  unfold Machine.sent
  split
  · exact h.serve
  · exact h

theorem Canon.withOp (h : Canon s) {x : Int} {size align : Nat} {need : BitVec 8} {spaces : List (Fin 8)}
    {k : State → ObjEnt → Nat → Out} (hk : ∀ u o off, Canon u → CanonOut (k u o off)) :
    CanonOut (withOp s b x size align need spaces k) :=
  h.withHome (fun _ _ _ h => hk _ _ _ h.sent)

theorem Canon.releaseWrites (h : Canon s) {ord : Ord} : Canon (releaseWrites s ord) := by
  unfold Machine.releaseWrites
  split
  · exact h
  · have hg : Canon (if ord.global then Machine.writeBack s s.core.id (fun _ => true) else s) := h.writeBack.ite h
    exact hg.writeBack.ite hg

theorem Canon.acquireHalf (h : Canon s) {ord : Ord} : Canon (acquireHalf s ord) := h.ite h.dropWords

theorem Canon.begun (h : Canon s) {bound : List (BitVec 24)} : Canon (begun s bound) := by
  unfold Machine.begun
  split
  · exact h
  · exact h.setWait

theorem Canon.released (h : Canon s) {ord : Ord} {bound : List (BitVec 24)} {k : State → Out} (hk : ∀ u, Canon u → CanonOut (k u)) :
    CanonOut (released s ord bound k) :=
  CanonOut.ite (hk _ h.releaseWrites) h.begun

theorem Canon.withOrd (h : Canon s) {ord : Ord} {bound : State → ObjEnt → Nat → List (BitVec 24)}
    {ready : State → List (BitVec 24) → Bool} {k : State → ObjEnt → Nat → List (BitVec 24) → Out}
    (hk : ∀ u o off bs, Canon u → CanonOut (k u o off bs)) : CanonOut (withOrd s b ord bound ready k) := by
  unfold Machine.withOrd
  exact h.withCap (fun _ _ h => h.released (fun _ h => CanonOut.ite (hk _ _ _ _ h.sent) h.begun.out))

/-! ## Barriers (09 R222 to R228) -/

theorem Canon.barWrite (h : Canon s) {w : Bar} : Canon (barWrite s pa w) := h.homePutPa

theorem Canon.onLive (h : Canon s) {f : LiveObj → LiveObj} : Canon (onLive s pa f) := h.frame

theorem Canon.sendRelease (h : Canon s) (c : Nat) : Canon (sendRelease s pa c) := h.tellCore

theorem Canon.tryComplete (h : Canon s) : Canon (tryComplete s pa) := by
  unfold Machine.tryComplete
  dsimp only
  split
  · split
    · exact h
    · exact ((Canon.frame h.barWrite).foldl (fun _ c h => h.sendRelease c) _).onLive
  · exact h

theorem Canon.onLease (h : Canon s) {f : Lease → Lease} : Canon (onLease s id f) := h.onCore (fun _ hc => hc)

theorem Canon.barOp (h : Canon s) {k : Fin 3} {g w : Nat} (hb : barOp s id pa k g = some (t, w)) : Canon t := by
  unfold Machine.barOp at hb
  dsimp only at hb
  split at hb
  · cases hb
    exact h.onLease
  · split at hb
    all_goals
      split at hb
      · cases hb
      · cases hb
        exact h.barWrite.onLive.onLease.tryComplete

theorem Canon.registerWaiter (h : Canon s) : Canon (registerWaiter s pa) := h.onLive

/-! ## Atomics -/

theorem Canon.ownWord (h : Canon s) : Canon (ownWord s pa) := by
  unfold Machine.ownWord
  exact h.writeBack.dropWords

theorem Canon.atomAccess (h : Canon s) {k : State → ObjEnt → Nat → Nat → Out} (hk : ∀ u o off pa, Canon u → CanonOut (k u o off pa)) :
    CanonOut (atomAccess b imm s k) := by
  refine h.withHome (fun u o off h => ?_)
  split
  · exact h.takeTrap
  · split
    · exact h.residencyWait.finish (fun _ _ h => h)
    · dsimp only
      split
      · exact h.setWait
      · split
        all_goals rename_i hu
        · exact ((h.setWait.ownWord.ite h.setWait).dramRead.of_eq hu).setWait
        · exact ((h.setWait.ownWord.ite h.setWait).dramRead.of_eq hu).responseTrap
        · exact hk _ _ _ _ ((h.setWait.ownWord.ite h.setWait).dramRead.of_eq hu)

theorem Canon.valueAtomic (h : Canon s) {f : Word → Option Word} : CanonOut (valueAtomic f a b imm s) := by
  refine h.atomAccess (fun u o off pa h => ?_)
  split
  · exact h.responseTrap
  · dsimp only
    split
    · exact h.homeTake.wrX.retire
    · exact h.homeTake.homePut.wrX.retire

theorem Canon.reserve (h : Canon s) {slice : Nat} : Canon (reserve s slice pa) := h.frame

theorem Canon.execLr (h : Canon s) : CanonOut (execLr a b imm s) :=
  h.atomAccess (fun _ _ _ _ h => h.ownWord.homeGet.reserve.wrX.retire)

theorem Canon.execSc (h : Canon s) {c : XReg} : CanonOut (execSc a b c imm s) := by
  refine h.atomAccess (fun u o off pa h => ?_)
  dsimp only
  split
  · split
    · exact h.serve.takeBack.responseTrap
    · exact (Canon.frame h.serve.takeBack.takeBack.homePut).wrX.retire
  · exact (Canon.frame h.serve.takeBack).wrX.retire

/-! ## Branches and capabilities (05 R126 to R135) -/

theorem Canon.jumpTo (h : Canon s) {w : Word} : Canon (jumpTo n w s) := h.frame

theorem Canon.branch (h : Canon s) {taken : Bool} : CanonOut (branch taken imm s) := h.jumpTo.ite h.retire

theorem Canon.execJalr (h : Canon s) {r : XReg} : CanonOut (execJalr a r imm s) := CanonOut.ite h.takeTrap h.wrX.jumpTo

theorem Canon.execCderive (h : Canon s) {d : CReg} {c : XReg} : CanonOut (execCderive d b c s) :=
  CanonOut.ite h.takeTrap (CanonOut.ite h.takeTrap (h.withCap (fun _ _ h => h.wrC.retire)))

theorem Canon.execCrestrict (h : Canon s) {d : CReg} {perm : BitVec 8} : CanonOut (execCrestrict d b perm s) :=
  CanonOut.ite h.takeTrap (h.withCap (fun _ _ h => h.wrC.retire))

theorem Canon.moveCursor (h : Canon s) {d : CReg} {v : Word} : CanonOut (moveCursor d b v s) :=
  CanonOut.ite (h.withCap (fun _ _ h => h.wrC.retire)) h.wrC.retire

theorem Canon.execCldc (h : Canon s) {d : CReg} {c : XReg} : CanonOut (execCldc d b c imm s) := by
  unfold Machine.execCldc
  refine h.withCap (fun u o h => ?_)
  split
  · exact h.wrC.retire
  · split
    · exact h.takeTrap
    · exact h.baseLoad.finish (fun _ _ h => h.wrC.retire)

theorem Canon.execCstc (h : Canon s) {d : CReg} {c : XReg} : CanonOut (execCstc d b c imm s) := by
  unfold Machine.execCstc
  refine h.withCap (fun u o h => ?_)
  split
  · exact h.spadStore.retire
  · split
    · exact h.takeTrap
    · exact h.baseStore.finish (fun _ _ h => h.retire)

end

/-! ## What the engines share (01 R15 to R25, 06 R157 to R164) -/

section
variable {s t : State} {o : ObjEnt} {off n pa id pos len job : Nat} {bs : List Byte} {j : Job} {e : Eng}

theorem Canon.offend (h : Canon s) {wr : Bool} {x : Int} : Canon (offend s e wr x) := h.frame.ite h

theorem Canon.offendRange (h : Canon s) {wr : Bool} {st : Store} {x : Int} : Canon (offendRange s e wr st x n) :=
  h.ite (h.offend.ite (h.offend.ite h))

theorem Canon.localRead (h : Canon s) {st : Store} {x : Int} : Canon (localRead s e st x n).1 := by
  unfold Machine.localRead
  exact h.offendRange

theorem Canon.onJob (h : Canon s) {f : Job → Job} : Canon (onJob s id f) := h.frame

theorem Canon.addPend (h : Canon s) {far : Bool} {pcyc : Nat} {w : PWrite} : Canon (addPend s j far pcyc pos len w) := h.frame

theorem Canon.addBytes (h : Canon s) {far : Bool} {st : Store} {pcyc : Nat} {x : Int} : Canon (addBytes s j far st pcyc pos x bs) :=
  h.foldl (fun _ _ h => h.addPend) _

theorem Canon.addTransit (h : Canon s) {oid : BitVec 24} {w : TWrite} : Canon (addTransit s j pos len oid off w) := h.frame

theorem Canon.addReport (h : Canon s) {r : Report} : Canon (addReport s r) := h.ite h.frame

theorem Canon.reportMiss (h : Canon s) : Canon (reportMiss s j o off pos) := h.addReport

theorem Canon.granRead (h : Canon s) : Canon (granRead s j o off n pos).1 := by
  unfold Machine.granRead
  dsimp only
  split
  · exact h.reportMiss
  · split
    · exact h
    · split
      · exact Canon.ite_fst h.addReport h
      · split
        · exact h.wakeAsk.dramRead
        · exact h.wakeAsk.dramRead.addReport
        · exact h.wakeAsk.dramRead.homeGet.onJob

theorem Canon.engRead (h : Canon s) : Canon (engRead s j o off n pos).1 := by
  unfold Machine.engRead
  refine h.foldl_fst (fun a g h => ?_) _ _
  split
  · exact h
  · exact h.granRead

theorem Canon.extTouch (h : Canon s) {k : Fin 20} : Canon (extTouch s j k o off) := by
  unfold Machine.extTouch
  exact h.ite h.frame

theorem Canon.freezeCore (h : Canon s) {f : Freeze} : Canon (freezeCore s f) := by
  unfold Machine.freezeCore
  split
  · exact h
  · exact h.frame

theorem Canon.checkMissed (h : Canon s) {slot : Fin 16} {entry step : Nat} {job : Option Nat} {js : List Job}
    {reads : Option (List Rng)} : Canon (checkMissed s e slot entry step job js reads) :=
  (h.raiseEFault.ite h.freezeCore).ite h.raiseEFault

theorem Canon.drawBucket (h : Canon s) {g : Nat} {p : Fin 16} : Canon (drawBucket s g n p) := by
  unfold Machine.drawBucket
  exact h.frame.ite h

theorem Canon.countBarrier (h : Canon s) {k : Fin 3} : Canon (countBarrier s j k) := by
  unfold Machine.countBarrier
  dsimp only
  split
  · exact h.raiseEFault
  · split
    · split
      · rename_i hb
        exact h.tellSlice.drawBucket.barOp hb
      · exact h.tellSlice.drawBucket.raiseEFault
    · exact h.tellSlice.drawBucket.raiseEFault

theorem Canon.sourceRead (h : Canon s) : Canon (sourceRead s id) := by
  unfold Machine.sourceRead
  split
  · exact h
  · exact h.onJob.countBarrier.ite h

theorem offendWrites_frame (s : State) (e : Eng) (st : Store) (as : List Int) :
    (offendWrites s e st as).base = s.base ∧ (offendWrites s e st as).others = s.others := by
  unfold offendWrites
  split
  · exact ⟨rfl, rfl⟩
  · unfold Machine.offend
    extract_lets first
    split
    · exact ⟨rfl, rfl⟩
    · exact ⟨rfl, rfl⟩

/-- A timed write changes the current core alone. -/
theorem applyWrite_frame (s : State) (e : Eng) (w : PWrite) :
    (applyWrite s e w).base = s.base ∧ (applyWrite s e w).others = s.others := by
  cases w with
  | bytes st ws => exact offendWrites_frame _ _ _ _
  | accum st ty rm hs => exact offendWrites_frame _ _ _ _
  | zero rs => exact ⟨rfl, rfl⟩
  | mask k v => exact ⟨rfl, rfl⟩
  | maskPart ws => exact ⟨rfl, rfl⟩
  | weight we data side tag => exact ⟨rfl, rfl⟩

theorem Canon.applyWrite (h : Canon s) {w : PWrite} : Canon (applyWrite s e w) := by
  obtain ⟨hb, ho⟩ := applyWrite_frame s e w
  exact ⟨by rw [hb]; exact h.mem, storesWf_applyWrite s e w h.core, by rw [ho]; exact h.others⟩

theorem Canon.performPend (h : Canon s) {p : Pend} : Canon (performPend s p) := by
  unfold Machine.performPend
  dsimp only
  exact h.applyWrite.onJob.engFrame

theorem Canon.landBlocked (h : Canon s) (ht : landBlocked s = some t) : Canon t := by
  unfold Machine.landBlocked at ht
  obtain ⟨w, -, hw⟩ := List.exists_of_findSome?_eq_some ht
  split at hw
  · cases hw
  · dsimp only at hw
    split at hw
    · cases hw
    · rename_i hl
      split at hw
      · cases hw
      · cases hw
        exact (h.landFetch w).of_eq hl
    · rename_i hl
      split at hw
      · cases hw
      · cases hw
        exact ((h.landFetch w).of_eq hl).addReport

theorem Canon.landTransit (h : Canon s) {w : Transit} : Canon (landTransit s w) := by
  unfold Machine.landTransit
  have hw : Canon (Machine.onEng s (fun e => { e with transit := e.transit.erase w })) := h.frame
  dsimp only
  split
  · exact ((hw.landWrite w).ite (hw.landWrite w).raiseEFault.onJob).onJob
  · exact (hw.landWrite w).onJob

theorem Canon.stopCopy (h : Canon s) {code sub step : Nat} {aux : Option Nat} {bad : Option Word} :
    Canon (stopCopy s j code sub aux step bad) := by
  unfold Machine.stopCopy
  split
  · exact h
  · exact Canon.raiseEFault h.frame

theorem Canon.checkEarly (h : Canon s) {reads : List Rng} : Canon (checkEarly s e reads) := by
  unfold Machine.checkEarly
  refine h.foldl (fun s k h => ?_) _
  dsimp only
  split
  · split
    · exact h
    · exact h.ite h.frame
  · exact h

theorem Canon.loadAdds (h : Canon s) : Canon (loadAdds s j) := by
  unfold Machine.loadAdds
  split
  · dsimp only
    split
    · exact h
    · exact h.foldl (fun _ _ h => h.addTransit) _
  · exact h

theorem Canon.chkArm (h : Canon s) : Canon (chkArm s j) := by
  unfold Machine.chkArm
  split
  · exact h.frame
  · exact h

theorem Canon.lineBack (h : Canon s) (l : CLine) : Canon (lineBack s l) := h.of_kept (.lineBack _ _)

theorem Canon.evictLines (h : Canon s) {last : Bool} : Canon (evictLines s j last) := by
  unfold Machine.evictLines
  split
  · exact (h.foldl (fun _ l h => h.lineBack l) _).onBase
  · exact h

theorem Canon.completeJob (h : Canon s) : Canon (completeJob s j) := by
  unfold Machine.completeJob
  exact h.evictLines.chkArm.loadAdds.onJob.engFrame

theorem sameStores_foldChan (f : Engines) (ch : Fin 4) : SameStores (foldChan f ch) f := by
  unfold foldChan
  refine foldl_keeps (SameStores · f) _ (fun e j h => ?_) _ _ {}
  split
  · exact ⟨h.spad, h.acc, h.wpl, h.side⟩
  · exact h

theorem Canon.settleJob (h : Canon s) (id : Nat) : Canon (settleJob s id) := by
  unfold Machine.settleJob
  split
  · exact h
  · extract_lets u v w
    have hu : Canon u := h.onJob.ite h
    have hv : Canon v := hu.onJob.countBarrier.ite hu
    have hw : Canon w := hv.onJob
    exact hu.ite (hw.completeJob.ite hw)

theorem Canon.settle (h : Canon s) : Canon (settle s) := by
  unfold Machine.settle
  have hs : ∀ e : Engines, e.storesWf → ((List.finRange 4).foldl foldChan e).storesWf :=
    fun e he => foldl_keeps Engines.storesWf _ (fun e ch he => (sameStores_foldChan e ch).storesWf he) _ _ he
  extract_lets u v
  have hu : Canon u := h.foldl (fun _ id h => h.settleJob id) _
  have hv : Canon v := hu.onEng (hs _ hu.core)
  exact hv.engFrame

end

/-! ## The read steps of the copy engine (06 R154 to R167, 07 R173 to R188) -/

section
variable {s t : State} {o : ObjEnt} {off n pa id pos k lo hi i pcyc w : Nat} {bs : List Byte} {j : Job} {e : Eng} {x src dst : End}
  {qd qs qx q : Fin 16} {far : Bool}

/-- Whether a step is done or stays, the memories are canonical. -/
def CanonStep : StepRes → Prop
  | .done s => Canon s
  | .stay s => Canon s

theorem Canon.done (h : Canon s) : CanonStep (.done s) := h

theorem CanonStep.ite {c : Prop} [Decidable c] {r p : StepRes} (hr : CanonStep r) (hp : CanonStep p) : CanonStep (if c then r else p) := by
  split
  · exact hr
  · exact hp

theorem Canon.readLocal (h : Canon s) : Canon (readLocal s x lo n).1 := by
  unfold Machine.readLocal
  split
  · exact h
  · refine h.foldl_fst (fun a p h => ?_) _ _
    exact h.localRead

theorem Canon.readBase (h : Canon s) : Canon (readBase s j x lo n pos).1 := by
  unfold Machine.readBase
  refine h.foldl_fst (fun a p h => ?_) _ _
  refine Canon.foldl_fst (s := a.1) h (fun a g h => ?_) a.2 _
  split
  · dsimp only
    split
    · exact h.extTouch.granRead
    · exact h.extTouch.granRead
  · exact h

theorem Canon.sendBytes (h : Canon s) : Canon (sendBytes s j pos o off bs) := by
  unfold Machine.sendBytes
  extract_lets ws joins
  exact h.frame.ite h.addTransit

theorem Canon.putEnd (h : Canon s) : Canon (putEnd s j far x lo bs pcyc) := by
  unfold Machine.putEnd
  split
  · exact h.foldl (fun _ p h => h.addBytes) _
  · refine Canon.onJob (h.foldl (fun s p h => h.foldl (fun s g h => ?_) _) _)
    split
    · exact h
    · exact h.extTouch.sendBytes

theorem Canon.stopElem (h : Canon s) {f : CmdFault} : Canon (stopElem s j f) := h.stopCopy

theorem Canon.fetchBytes (h : Canon s) : Canon (fetchBytes s j src dst pos lo hi).1 := by
  unfold Machine.fetchBytes
  exact Canon.ite_fst h h.readBase

theorem Canon.formed (h : Canon s) {all : Bool} {f : Option CmdFault} : CanonStep (formed s j all f) := by
  unfold Machine.formed
  split
  · exact h.stopElem
  · exact CanonStep.ite h h

theorem Canon.spadRead (h : Canon s) {t : Strm} : Canon (spadRead s t lo n).1 := by
  unfold Machine.spadRead
  refine h.foldl_fst (fun a p h => ?_) _ _
  exact h.localRead

theorem Canon.lastRead (h : Canon s) : Canon (lastRead s j k) := h.sourceRead.ite h

theorem Canon.readIdx (h : Canon s) {t l : Strm} : Canon (readIdx s t l w k).1 := by
  unfold Machine.readIdx
  exact Canon.ite_fst h.spadRead h

theorem Canon.cpyRead (h : Canon s) : Canon (cpyRead s j qd qs k) := by
  unfold Machine.cpyRead
  dsimp only
  split
  · exact (Canon.ite_fst h.readIdx.readIdx.onJob.readLocal h.readIdx.readIdx.onJob).onJob.stopElem
  · exact (Canon.ite_fst h.readIdx.readIdx.onJob.readLocal h.readIdx.readIdx.onJob).onJob

theorem Canon.cpyForm (h : Canon s) : CanonStep (cpyForm s j qd qs k) := by
  unfold Machine.cpyForm
  exact CanonStep.ite h (h.fetchBytes.putEnd.lastRead.ite h.fetchBytes.putEnd).formed

theorem Canon.fillRead (h : Canon s) {poff : Nat} : Canon (fillRead s j qd poff k) := by
  unfold Machine.fillRead
  have hp : Canon (if k = 0 then Machine.localRead s .copy .spad (8 * poff : Nat) 8 else (s, j.buf)).1 := Canon.ite_fst h.localRead h
  dsimp only
  split
  · exact (hp.sourceRead.ite hp).readIdx.onJob.stopElem
  · exact (hp.sourceRead.ite hp).readIdx.onJob

theorem Canon.fillForm (h : Canon s) : CanonStep (fillForm s j qd k) := by
  unfold Machine.fillForm
  exact CanonStep.ite h h.putEnd.formed

theorem Canon.rowRead (h : Canon s) : Canon (rowRead s j qd qs k) := by
  unfold Machine.rowRead
  cases rowAt j k with
  | none =>
    dsimp only
    split
    · exact h.onJob.readLocal.onJob.stopElem
    · exact h.onJob.readLocal.onJob
  | some r =>
    dsimp only
    split
    · exact h.spadRead.onJob.readLocal.onJob.stopElem
    · exact h.spadRead.onJob.readLocal.onJob

theorem Canon.addEnd (h : Canon s) {ty : Nat} : Canon (addEnd s j far x lo bs ty pcyc) := by
  unfold Machine.addEnd
  extract_lets sz es
  split
  · exact h.ite h.addPend
  · refine Canon.onJob (h.foldl (fun s p h => ?_) _)
    split
    · exact h.extTouch.addTransit
    · exact h

theorem Canon.rowForm (h : Canon s) : CanonStep (rowForm s j qd qs k) := by
  unfold Machine.rowForm
  dsimp only
  split
  · exact (h.fetchBytes.addEnd.lastRead.ite h.fetchBytes.addEnd).formed
  · exact (h.fetchBytes.putEnd.lastRead.ite h.fetchBytes.putEnd).formed

theorem Canon.putBlock (h : Canon s) : Canon (putBlock s j far x pos w k bs) := h.foldl (fun _ _ h => h.putEnd) _

theorem Canon.topForm (h : Canon s) : CanonStep (topForm s j qd qs qx k) := by
  unfold Machine.topForm
  dsimp only
  refine Canon.formed (Canon.then (Canon.onJob ?_) Canon.lastRead)
  exact (Canon.ite_fst h.readBase h.readLocal).foldl (fun _ g h => h.putBlock.putBlock) _

theorem Canon.packFixed (h : Canon s) : Canon (packFixed s j k) := by
  unfold Machine.packFixed
  dsimp only
  split
  · exact h.addBytes.ite h
  · exact h.foldl (fun _ _ h => h.putEnd) _
  · exact h

theorem Canon.packRead (h : Canon s) : Canon (packRead s j k) := by
  unfold Machine.packRead
  exact h.spadRead.onJob.packFixed

theorem Canon.packElem (h : Canon s) : Canon (packElem s j qs lo n pos).1 := by
  unfold Machine.packElem
  exact Canon.ite_fst h.readBase h.readLocal

theorem Canon.eachElem (h : Canon s) {f : State → Job → Nat → State × Bool} (hf : ∀ u j i, Canon u → Canon (f u j i).1)
    (is : List Nat) : Canon (eachElem s id f is).1 := by
  induction is generalizing s with
  | nil => exact h
  | cons i is ih =>
    unfold Machine.eachElem
    split
    · exact h
    · exact Canon.ite_fst (ih (hf _ _ _ h).onJob) (hf _ _ _ h)

theorem Canon.compactForm (h : Canon s) : CanonStep (compactForm s j qd qs k) := by
  unfold Machine.compactForm
  extract_lets sp e l r
  have hr : Canon r.1 := by
    refine h.eachElem (fun u j i h => ?_) _
    split
    · exact h
    · extract_lets dpos n next
      split
      · rename_i hu
        exact h.packElem.of_eq hu
      · rename_i hu
        exact ((h.packElem.of_eq hu).ite (h.packElem.of_eq hu).putEnd).onJob
  exact CanonStep.ite hr hr.onJob.lastRead

theorem Canon.expandForm (h : Canon s) : CanonStep (expandForm s j qd qs k) := by
  unfold Machine.expandForm
  extract_lets sp e r
  have hr : Canon r.1 := by
    refine h.eachElem (fun u j i h => ?_) _
    extract_lets put
    split
    · exact h
    · split
      · rename_i hu
        exact h.packElem.of_eq hu
      · rename_i hu
        exact (h.packElem.of_eq hu).onJob.putEnd
  exact CanonStep.ite hr hr.onJob.lastRead

theorem Canon.accForm (h : Canon s) {rm : Fin 4} {acc : Bool} : CanonStep (accForm s j qd qs rm acc k) := by
  unfold Machine.accForm
  dsimp only
  refine Canon.formed (Canon.then ?_ Canon.lastRead)
  split
  · exact (Canon.ite_fst h.readBase h.readLocal).ite (Canon.ite_fst h.readBase h.readLocal).addPend
  · exact (Canon.ite_fst h.readBase h.readLocal).putEnd

theorem Canon.stopDig (h : Canon s) : Canon (stopDig s j) := h.stopCopy

theorem Canon.digFetch (h : Canon s) : Canon (digFetch s j qs o i).1 := by
  unfold Machine.digFetch
  extract_lets u
  have hu : Canon u := h.extTouch
  split
  · rename_i hd
    exact hu.digGet.of_eq hd
  · rename_i hd
    dsimp only
    exact (hu.digGet.of_eq hd).serve

theorem Canon.digRecords (h : Canon s) : Canon (digRecords s j qs o i n).1 := by
  unfold Machine.digRecords
  refine h.foldl_fst (fun a q h => ?_) _ _
  split
  · exact h
  · dsimp only
    exact h.digFetch

theorem Canon.dscanRecord (h : Canon s) : Canon (dscanRecord s j qd qs o i).1 := by
  unfold Machine.dscanRecord
  split
  · exact h
  · split
    · rename_i hd
      exact h.digRecords.of_eq hd
    · rename_i hd
      exact (h.digRecords.of_eq hd).putEnd

theorem Canon.dscanForm (h : Canon s) : CanonStep (dscanForm s j qd qs k) := by
  unfold Machine.dscanForm
  split
  · exact h.stopDig
  · extract_lets r
    have hr : Canon r.1 := by
      refine h.foldl_fst (fun a q h => ?_) _ _
      dsimp only
      exact h.dscanRecord
    exact CanonStep.ite hr.lastRead hr

theorem Canon.dskipCount (h : Canon s) : Canon (dskipCount s j qx n) := h.ite h.putEnd

theorem Canon.dskipDigest (h : Canon s) : Canon (dskipDigest s j qs qx o i) := by
  unfold Machine.dskipDigest
  split
  · exact h
  · split
    · exact h
    · extract_lets r
      split
      · rename_i hd
        exact h.digFetch.of_eq hd
      · rename_i hd
        extract_lets pass j u v
        have hu : Canon u := (h.digFetch.of_eq hd).onJob
        have hv : Canon v := hu.putEnd.ite hu
        exact hv.dskipCount.ite hv

theorem Canon.dskipDigests (h : Canon s) : Canon (dskipDigests s j qs qx k) := by
  unfold Machine.dskipDigests
  split
  · exact h
  · exact h.foldl (fun _ _ h => h.dskipDigest) _

theorem Canon.dskipRead (h : Canon s) {poff : Nat} : Canon (dskipRead s j qs qx poff k) := by
  unfold Machine.dskipRead
  have hb : Canon (if k = 0 then Machine.localRead s .copy .spad (16 * poff : Nat) 16 else (s, j.buf)).1 := Canon.ite_fst h.localRead h
  exact (hb.onJob.dskipCount.ite hb.onJob).ite hb.onJob.dskipDigests

theorem Canon.dskipForm (h : Canon s) {dcls : Fin 8} : CanonStep (dskipForm s j qd qs qx dcls k) := by
  unfold Machine.dskipForm
  split
  · exact h.stopDig
  · extract_lets t r lq ld b i u v d0 n lo
    have hu : Canon u := h.dskipDigests
    refine CanonStep.ite hu.lastRead (CanonStep.ite hu (CanonStep.ite hu.lastRead ?_))
    dsimp only
    split
    · exact hu.readBase.foldl (fun _ _ h => h.putEnd) _
    · exact Canon.lastRead (Canon.onJob (hu.readBase.foldl (fun _ _ h => h.putEnd) _))

theorem Canon.qldForm (h : Canon s) : CanonStep (qldForm s qd off) := by
  unfold Machine.qldForm
  dsimp only
  exact Canon.engFrame h.localRead

theorem Canon.copyRead (h : Canon s) : Canon (copyRead s j k) := by
  unfold Machine.copyRead
  split
  · exact h.cpyRead
  · exact h.fillRead
  · exact h.rowRead
  · exact h.rowRead
  · exact h.rowRead
  · exact h.packRead
  · exact h.packRead
  · exact h.dskipRead
  · exact h

theorem Canon.copyForm (h : Canon s) : CanonStep (copyForm s j k) := by
  unfold Machine.copyForm
  split
  · exact h.qldForm
  · exact h.cpyForm
  · exact h.fillForm
  · exact h.rowForm
  · exact h.rowForm
  · exact h.rowForm
  · exact h.topForm
  · exact h.topForm
  · exact h.topForm
  · exact h.compactForm
  · exact h.expandForm
  · exact h.accForm
  · exact h.accForm
  · exact h.dscanForm
  · exact h.dskipForm
  · exact h

/-! ### Data requested again (01 R36, 06 R159) -/

theorem Canon.bytesAgain (h : Canon s) {os : List (Option Nat)} : Canon (bytesAgain s j x pos os).1 := by
  unfold Machine.bytesAgain
  refine h.foldl_fst (fun a o h => ?_) _ _
  split
  · exact h
  · exact h
  · exact h.readBase

theorem Canon.topAgain (h : Canon s) : Canon (topAgain s j pos n).1 := by
  unfold Machine.topAgain
  exact Canon.ite_fst h.readBase (Canon.ite_fst h.readBase h.readBase)

theorem Canon.sourceAgain (h : Canon s) : Canon (sourceAgain s j pos n).1 := by
  unfold Machine.sourceAgain
  extract_lets q whole each
  split
  · exact h.bytesAgain
  · exact h.bytesAgain
  · exact h.topAgain
  · exact h.topAgain
  · exact h.topAgain
  · split
    · exact h.stopDig
    · exact Canon.ite_fst h h.bytesAgain
  · exact h.readBase
  · exact h.readBase
  · exact h.readBase
  · exact h.readBase
  · exact h.readBase
  · split
    · exact h.stopDig
    · exact h.digRecords
  · exact h

theorem Canon.copyAgain (h : Canon s) {p : Pend} : Canon (copyAgain s j p).1 := h.sourceAgain

theorem Canon.renewTransit (h : Canon s) {t : Transit} : Canon (renewTransit s j t) := by
  unfold Machine.renewTransit
  split
  · rename_i hs
    exact h.sourceAgain.of_eq hs
  · rename_i hs
    exact (h.sourceAgain.of_eq hs).engFrame

end

/-! ## The steps of the matrix and vector engines (15 R317 to R330, 19 R357 to R361) -/

section
variable {s t : State} {o : ObjEnt} {off n pa id pos len k pcyc ty i : Nat} {bs : List Byte} {j : Job} {e : Eng} {far : Bool}
  {tile : Fin 16} {spa : Fin 16384} {we : Fin 128}

theorem Canon.addRow (h : Canon s) {hs : List Addend} : Canon (addRow s j tile k pcyc hs) := h.addPend

theorem Canon.wloadRun (h : Canon s) : CanonStep (wloadRun s j spa we k) := by
  unfold Machine.wloadRun
  dsimp only
  split
  · exact h.localRead.onJob.addPend
  · exact h.localRead.onJob

theorem Canon.mmaRun (h : Canon s) : CanonStep (mmaRun s j tile spa we k) := by
  unfold Machine.mmaRun
  exact h.localRead.addRow

theorem Canon.mmazRun (h : Canon s) : CanonStep (mmazRun s j tile spa we k) := by
  unfold Machine.mmazRun
  exact CanonStep.ite h.localRead.onJob.done (CanonStep.ite h.onJob.done h.mmaRun)

theorem Canon.mmatRun (h : Canon s) : CanonStep (mmatRun s j tile spa we k) := by
  unfold Machine.mmatRun
  dsimp only
  split
  · exact h.localRead.onJob
  · exact h.addRow

theorem Canon.bindRun (h : Canon s) {ts : Fin 8} {acc : Bool} {cstr : Fin 256} : CanonStep (bindRun s j tile spa ts acc cstr k) := by
  unfold Machine.bindRun
  refine Canon.done (Canon.addPend (h.foldl_fst (fun a p h => ?_) _ _))
  exact h.localRead

theorem Canon.drainRun (h : Canon s) : CanonStep (drainRun s j tile spa n k) := by
  unfold Machine.drainRun
  exact CanonStep.ite h.addPend.onJob.addPend.done h.addPend.onJob.done

theorem Canon.drainqRun (h : Canon s) : CanonStep (drainqRun s j tile spa n k) := by
  unfold Machine.drainqRun
  exact CanonStep.ite h.onJob.done (CanonStep.ite h.addPend.addPend.done h.addPend.done)

theorem Canon.slfillRun (h : Canon s) {lbl : Fin 256} : CanonStep (slfillRun s j tile lbl) := by
  unfold Machine.slfillRun
  split
  · exact h
  · dsimp only
    split
    · exact h.engRead
    · exact Canon.foldl h.engRead (fun s c h => h.addBytes) _

theorem Canon.slfillAgain (h : Canon s) {lbl : Fin 256} {w : PWrite} : Canon (slfillAgain s j tile lbl pos w).1 := by
  unfold Machine.slfillAgain
  split
  · exact h.engRead
  · exact h

theorem Canon.matRun (h : Canon s) : CanonStep (matRun s j k) := by
  unfold Machine.matRun
  split
  · exact h.wloadRun
  · exact h.mmaRun
  · exact h.mmatRun
  · exact h.mmazRun
  · exact h.bindRun
  · exact h.drainRun
  · exact h.drainqRun
  · exact h.slfillRun
  · exact h

theorem Canon.addLanes (h : Canon s) {vd : Fin 64} {vs : List (Nat × Nat)} : Canon (addLanes s j far pcyc pos len vd ty vs) := h.addPend

theorem Canon.addHalf (h : Canon s) {vd : Fin 64} {vs : List (Nat × Nat)} : Canon (addHalf s j k pcyc vd ty vs) := by
  unfold Machine.addHalf
  exact Canon.ite (h.foldl (fun _ _ h => h.addLanes) _) h.addLanes

theorem Canon.touchElem (h : Canon s) {g : Fin 4} : Canon (touchElem s j g o pos n) := h.extTouch.extTouch

theorem Canon.vldgElem (h : Canon s) {g : Fin 4} {x : Fin 4096} : Canon (vldgElem s j g ty x o i).1 := by
  unfold Machine.vldgElem
  dsimp only
  split
  · exact Canon.ite_fst h.touchElem.reportMiss h.touchElem
  · exact h.touchElem.engRead

theorem Canon.vldgRun (h : Canon s) {vd : Fin 64} {g : Fin 4} {m mr : Fin 8} {x : Fin 4096} :
    CanonStep (vldgRun s j vd g m ty x mr) := by
  unfold Machine.vldgRun
  extract_lets mask u sz on r vs v w z
  have hu : Canon u := h.onJob
  have hr : Canon r.1 := by
    refine hu.foldl_fst (fun a i h => ?_) _ _
    split
    · rename_i ha
      obtain ⟨o, -, ho⟩ := Option.map_eq_some_iff.1 ha
      exact h.vldgElem.of_eq ho
    · rename_i ha
      obtain ⟨o, -, ho⟩ := Option.map_eq_some_iff.1 ha
      exact h.vldgElem.of_eq ho
    · exact h
  have hv : Canon v := hr.ite hr.addPend.onJob
  have hw : Canon w := hv.foldl (fun _ _ h => h.addLanes) _
  have hz : Canon z := hw.onJob
  exact CanonStep.ite hv.addHalf.addHalf (CanonStep.ite hz (hz.foldl (fun _ _ h => h.addLanes) _))

theorem Canon.vldgAgain (h : Canon s) {vd : Fin 64} {g : Fin 4} {x : Fin 4096} {w : PWrite} : Canon (vldgAgain s j vd g ty x w).1 := by
  unfold Machine.vldgAgain
  split
  · refine Canon.foldl_fst h.onJob (fun a i h => ?_) _ _
    split
    · exact h
    · dsimp only
      exact h.vldgElem
  · exact h

theorem Canon.vstgRun (h : Canon s) {va : Fin 64} {g : Fin 4} {m : Fin 8} {x : Fin 4096} : CanonStep (vstgRun s j va g m ty x) := by
  unfold Machine.vstgRun
  split
  · exact h
  · exact h.foldl (fun _ _ h => h.touchElem.addTransit) _

theorem Canon.vecRun (h : Canon s) : CanonStep (vecRun s j) := by
  unfold Machine.vecRun
  split
  · dsimp only
    exact h.localRead.addLanes
  · exact h.addPend
  · exact h.vldgRun
  · exact h.vstgRun
  · split
    · exact h.addLanes
    · exact h.addPend
    · exact h

/-! ## Steps and issues of all engines -/

theorem Canon.stepRead (h : Canon s) : Canon (stepRead s j k) := by
  unfold Machine.stepRead
  split
  · exact h.copyRead
  · exact h

theorem Canon.stepForm (h : Canon s) : CanonStep (stepForm s j k) := by
  unfold Machine.stepForm
  split
  · exact h.copyForm
  · exact h.matRun
  · exact h.vecRun

/-- The effects of a prepared command at its issue keep the form. -/
def Prep.KeepsCanon (p : Prep) : Prop := ∀ u j, Canon u → Canon (p.eff u j)

theorem Canon.begin (h : Canon s) {p : Prep} (hp : p.KeepsCanon) : Canon (begin s p) := by
  unfold Machine.begin
  exact hp _ _ h.engFrame

theorem Canon.issue (h : Canon s) {p : Prep} (hp : p.KeepsCanon) : CanonOut (issue s p) := by
  unfold Machine.issue
  extract_lets hdr entry fault
  have hf : ∀ code sub aux bad, CanonOut (fault code sub aux bad) := fun _ _ _ _ => h.raiseEFault
  refine CanonOut.ite (hf _ _ _ _) (CanonOut.ite (CanonOut.ite h.freezeCore.out (hf _ _ _ _)) (CanonOut.ite (hf _ _ _ _)
    (CanonOut.ite h.checkMissed.out ?_)))
  split
  · exact hf _ _ _ _
  · refine CanonOut.ite (hf _ _ _ _) ?_
    split
    · exact h.begin hp
    · exact hf _ _ _ _
    · exact h.freezeCore

end

/-! ## The issue of the engines' commands (07 R171, 16 R334, 19 R362) -/

section
variable {s t : State} {o : ObjEnt} {n occ nsteps : Nat} {j : Job} {e : Eng} {cmd : Instr} {hdr : Hdr} {qd qs qx : Fin 16}
  {tile : Fin 16} {lbl : Fin 256} {sl : Fin 8} {we : Fin 128} {bad pop bad2 : Bool} {flt : Option CmdFault}

theorem Canon.nopIssue (h : Canon s) : CanonOut (nopIssue s e cmd) := h.issue (fun _ _ h => h)

theorem Canon.execEngineHint (h : Canon s) {k : Fin 16} : CanonOut (execEngineHint e hdr k s) := h.issue (fun _ _ h => h)

theorem Canon.touchEnds (h : Canon s) : Canon (touchEnds s j) := by
  unfold Machine.touchEnds
  extract_lets touch u v
  have ht : ∀ {u d c}, Canon u → Canon (touch u d c) := fun h => h.ite h.touchObj
  have hv : Canon v := by
    unfold v
    split
    · exact ht (ht (ht h))
    · exact ht (ht (ht h))
    · exact ht (ht (ht h))
    · exact ht (ht h)
  exact hv.touchObj.ite hv

theorem Canon.copyIssue (h : Canon s) {sn : Snap} {flts : List (Option CmdFault)} : CanonOut (copyIssue s cmd sn nsteps bad flts) :=
  h.issue (fun _ _ h => h.touchEnds)

theorem Canon.execQld (h : Canon s) {off : Fin 65536} : CanonOut (execQld hdr qd off s) := h.issue (fun _ _ h => h)

theorem Canon.execChkarm (h : Canon s) {off clr : Bool} {k : Fin 4} : CanonOut (execChkarm hdr qs off clr k s) :=
  h.issue (fun _ _ h => h)

theorem Canon.touchRange (h : Canon s) : Canon (touchRange s j qs) := by
  unfold Machine.touchRange
  split
  · exact h
  · exact h.foldl (fun _ _ h => h.extTouch) _

theorem Canon.rangeIssue (h : Canon s) {eff : State → Job → State} (he : ∀ u j, Canon u → Canon (eff u j)) :
    CanonOut (rangeIssue s cmd qs eff) :=
  h.issue (fun _ _ h => he _ _ h.touchEnds.touchRange)

theorem Canon.askResident (h : Canon s) : Canon (askResident s j o) := by
  unfold Machine.askResident
  exact h.foldl (fun _ _ h => h.logEvent.ite h) _

theorem Canon.wayRead (h : Canon s) {home kind pa core : Nat} {chan : Option (Fin 8 × Fin 16)} {pid : Fin 16} :
    Canon (wayRead s home kind chan pa n core pid).1 :=
  h.of_kept (.wayRead _ _ _ _ _ _ _ _)

theorem Canon.fillRange (h : Canon s) {t : Strm} : Canon (fillRange s t o) := by
  unfold Machine.fillRange
  exact Canon.ite (h.foldl (fun _ _ h => h.serve.digLines) _) (h.foldl (fun _ _ h => h.serve.wayRead) _)

theorem Canon.execPrefetch (h : Canon s) {res : Bool} : CanonOut (execPrefetch hdr qs res s) := by
  refine h.rangeIssue (fun u j h => ?_)
  split
  · exact h
  · exact h.fillRange.askResident.ite h.fillRange

theorem Canon.execEvict (h : Canon s) {inv : Bool} : CanonOut (execEvict hdr qs inv s) :=
  h.rangeIssue (fun _ _ h => h.evictLines.onJob)

/-! ### The matrix engine -/

theorem Canon.onTile (h : Canon s) {f : Tile → Tile} : Canon (onTile s tile f) := h.engFrame

theorem Canon.touchSpill (h : Canon s) : Canon (touchSpill s j o) := h.touchObj

theorem Canon.spillSlot (h : Canon s) : Canon (spillSlot s j tile sl lbl o) := by
  unfold Machine.spillSlot
  exact Canon.onTile (h.touchSpill.foldl (fun _ _ h => h.addTransit) _)

theorem Canon.clearSlot (h : Canon s) : Canon (clearSlot s j tile sl) := h.addPend

theorem Canon.takeAlloc (h : Canon s) {a : Alloc} : Canon (takeAlloc s j tile lbl a) := by
  unfold Machine.takeAlloc
  split
  · exact h.onTile
  · exact h.clearSlot.onTile
  · exact h.spillSlot.clearSlot.onTile

theorem Canon.matIssue (h : Canon s) {eff : State → Job → State} (he : ∀ u j, Canon u → Canon (eff u j)) :
    CanonOut (matIssue s j bad pop bad2 flt occ eff) :=
  h.issue he

theorem Canon.mmaIssue (h : Canon s) {lead : Nat} : CanonOut (mmaIssue s cmd tile we lbl n lead) := by
  refine h.matIssue (fun u j h => ?_)
  dsimp only
  split
  · exact h.takeAlloc.onTile.onJob
  · exact h.onTile.onJob

theorem Canon.execSlspill (h : Canon s) : CanonOut (execSlspill hdr tile lbl s) := by
  unfold Machine.execSlspill
  dsimp only
  split
  · exact h.matIssue (fun _ _ h => h)
  · refine h.matIssue (fun u j h => ?_)
    split
    · exact h.spillSlot
    · exact h

theorem Canon.execSlfill (h : Canon s) : CanonOut (execSlfill hdr tile lbl s) := by
  refine h.matIssue (fun u j h => ?_)
  extract_lets v w
  have hv : Canon v := by
    unfold v
    split
    · exact h.touchSpill
    · exact h
  exact hv.clearSlot.onTile.onJob

theorem Canon.execDrainq (h : Canon s) {spa : Fin 16384} {nrow : Fin 128} : CanonOut (execDrainq hdr tile spa nrow s) :=
  h.matIssue (fun _ _ h => h.frame.ite h)

/-! ### The vector engine -/

theorem Canon.vecIssue (h : Canon s) {ok : Bool} : CanonOut (vecIssue s cmd ok) := h.issue (fun _ _ h => h)

theorem Canon.execVwin (h : Canon s) {wt : Fin 16} {mode : Bool} {wr : Fin 128} {ws : Fin 8} : CanonOut (execVwin hdr wt mode wr ws s) := by
  unfold Machine.execVwin
  refine h.issue (fun u j h => ?_)
  dsimp only
  exact h.engFrame

theorem Canon.execVst (h : Canon s) {va : Fin 64} {m : Fin 8} {t : Fin 16} {off : Fin 32768} : CanonOut (execVst hdr va m t off s) :=
  h.issue (fun _ _ h => h)

theorem Canon.gIssue (h : Canon s) {g : Fin 4} {m : Fin 8} {t : Fin 16} {off : Fin 4096} {need : BitVec 8} {mine : Bool} :
    CanonOut (gIssue s cmd g m t off need mine) := by
  unfold Machine.gIssue
  extract_lets ctl creg sp cls cap sn0 sn r o l
  clear_value o
  refine h.issue (fun u j h => ?_)
  dsimp only
  cases o with
  | none => exact h.onJob.ite h
  | some o => exact h.touchObj.onJob.ite h.touchObj

end

/-! ## Engine steps, freezes, reports (01 R6 to R27, 06 R157 to R163) -/

section
variable {s t : State} {o : ObjEnt} {n id core : Nat} {j : Job} {e : Eng} {entry : BitVec 16} {ch : Fin 4}

/-- The turn of another core: the current core stands among the others meanwhile. -/
theorem Canon.atCore (h : Canon s) {f : State → State} (hf : ∀ u, Canon u → Canon (f u)) : Canon (atCore s id f) := by
  unfold Machine.atCore
  split
  · exact hf s h
  · split
    · exact h
    · rename_i c hc
      extract_lets me r
      have hr : Canon r := by
        refine hf _ ⟨h.mem, h.others c (List.mem_of_find?_eq_some hc), fun d hd => ?_⟩
        obtain ⟨x, hx, rfl⟩ := List.mem_map.1 hd
        split
        · exact h.core
        · exact h.others x hx
      split
      · exact hr
      · rename_i d hd
        refine ⟨hr.mem, hr.others d (List.mem_of_find?_eq_some hd), fun y hy => ?_⟩
        obtain ⟨x, hx, rfl⟩ := List.mem_map.1 hy
        split
        · exact hr.core
        · exact hr.others x hx

theorem Canon.checkRecords (h : Canon s) : Canon (checkRecords s j) := by
  unfold Machine.checkRecords
  dsimp only
  split
  · exact h
  · split
    · exact h.raiseEFault
    · exact h.freezeCore

theorem Canon.lateRecords (h : Canon s) : Canon (lateRecords s) := by
  unfold Machine.lateRecords
  dsimp only
  split
  · exact h.checkRecords
  · exact h

theorem Canon.formNext (h : Canon s) : Canon (formNext s j) := by
  have hs : CanonStep (Machine.stepForm s j j.formed) := h.stepForm
  unfold Machine.formNext
  split
  · rename_i hu
    rw [hu] at hs
    exact Canon.checkRecords (Canon.onJob hs)
  · rename_i hu
    rw [hu] at hs
    exact hs

theorem Canon.attempt (h : Canon t) : Canon (attempt s t j) := h.engFrame.ite h

theorem Canon.readStep (h : Canon s) : Canon (readStep s j) := by
  unfold Machine.readStep
  extract_lets u
  have hu : Canon u := h.stepRead.onJob
  split
  · exact hu
  · exact hu.formNext.ite hu

theorem Canon.execEngineReadStep (h : Canon s) : CanonOut (execEngineReadStep s) := by
  unfold Machine.execEngineReadStep
  split
  · exact h
  · split
    · exact h
    · exact CanonOut.ite h.checkMissed.out h.checkEarly.readStep.out

theorem Canon.pendAgain (h : Canon s) {p : Pend} : Canon (pendAgain s j p).1 := by
  unfold Machine.pendAgain
  split
  · exact h.vldgAgain
  · exact h.slfillAgain
  · exact h.copyAgain

theorem Canon.renewPend (h : Canon s) {p : Pend} : Canon (renewPend s j p) := by
  unfold Machine.renewPend
  split
  · rename_i hp
    exact h.pendAgain.of_eq hp
  · rename_i hp
    exact (h.pendAgain.of_eq hp).engFrame

theorem Canon.renewNext (h : Canon s) (ht : renewNext s = some t) : Canon t := by
  unfold Machine.renewNext at ht
  extract_lets go at ht
  have hgo : ∀ {j u}, go j u = some t → Canon u → Canon t := by
    intro j u hu hc
    unfold go at hu
    split at hu
    · cases hu
      exact hc
    · cases hu
  rw [Option.orElse_eq_or] at ht
  rcases Option.or_eq_some_iff.1 ht with hp | ⟨-, hp⟩
  · obtain ⟨p, -, hp⟩ := List.exists_of_findSome?_eq_some hp
    split at hp
    · obtain ⟨j, -, hj⟩ := Option.bind_eq_some_iff.1 hp
      exact hgo hj h.renewPend
    · cases hp
  · obtain ⟨p, -, hp⟩ := List.exists_of_findSome?_eq_some hp
    split at hp
    · obtain ⟨j, -, hj⟩ := Option.bind_eq_some_iff.1 hp
      exact hgo hj h.renewTransit
    · cases hp

theorem Canon.execTimedWritePerform (h : Canon s) : CanonOut (execTimedWritePerform s) := by
  unfold Machine.execTimedWritePerform
  split
  · exact h
  · exact h.performPend

theorem Canon.execHomeTransaction (h : Canon s) : CanonOut (execHomeTransaction s) := by
  unfold Machine.execHomeTransaction
  split
  · exact h
  · exact h.landTransit

theorem Canon.execDataArrival (h : Canon s) {lo hi : Nat} : CanonOut (execDataArrival core e entry lo hi s) :=
  Canon.atCore h.frame (fun _ h => h.frame)

theorem Canon.execFreezeResume (h : Canon s) : CanonOut (execFreezeResume s) := by
  unfold Machine.execFreezeResume
  split
  · exact CanonOut.ite h.engFrame.out h
  · exact h

theorem Canon.execFreezeTimeout (h : Canon s) : CanonOut (execFreezeTimeout s) := by
  unfold Machine.execFreezeTimeout
  split
  · exact CanonOut.ite h.raiseEFault.out h
  · exact h

theorem Canon.execEngineFaultTrap (h : Canon s) : CanonOut (execEngineFaultTrap s) := by
  unfold Machine.execEngineFaultTrap
  split
  · exact CanonOut.ite h.out h.takeEFault
  · exact h

theorem Canon.homeTells (h : Canon s) (r : Report) : Canon (homeTells s r) := by
  unfold Machine.homeTells
  split
  · exact h.tellCore
  · exact h

theorem Canon.deliver (h : Canon s) {r : Report} : Canon (deliver s r) := by
  unfold Machine.deliver
  exact (h.homeTells r).engFrame.freezeCore

theorem Canon.execTranslationFaultReport (h : Canon s) : CanonOut (execTranslationFaultReport core e entry n s) := by
  refine Canon.out (h.atCore (fun u h => ?_))
  split
  · exact h
  · exact h.deliver.logEvent.ite h.deliver

theorem Canon.execMemoryErrorReport (h : Canon s) : CanonOut (execMemoryErrorReport core e entry s) := by
  refine Canon.out (h.atCore (fun u h => ?_))
  split
  · exact h
  · exact h.deliver

theorem Canon.execCauseResolved (h : Canon s) : CanonOut (execCauseResolved core s) := by
  refine Canon.out (h.atCore (fun u h => ?_))
  extract_lets left v w
  have hv : Canon v := h.foldl (fun _ r h => h.homeTells r) _
  have hw : Canon w := hv.engFrame
  split
  · exact hw
  · split
    · exact hw.engFrame.ite hw
    · exact hw

theorem Canon.refreeze (h : Canon s) : Canon (refreeze s) := by
  unfold Machine.refreeze
  split
  · exact h
  · exact h.freezeCore

theorem Canon.giveUp (h : Canon s) {r : Report} {sub : Nat} : Canon (giveUp s r sub) := by
  unfold Machine.giveUp
  exact h.onJob.engFrame.raiseEFault

theorem Canon.execCopyStop (h : Canon s) {sub : Fin 4} : CanonOut (execCopyStop core ch sub s) := by
  refine Canon.out (h.atCore (fun u h => ?_))
  split
  · split
    · exact h.stopCopy
    · exact h
  · exact h

/-! ## RESTART, DISCARD, rings (06 R159, 01 R6 to R11) -/

theorem Canon.chanRun (h : Canon s) : Canon (chanRun s ch) := h.engFrame

theorem Canon.restartOp (h : Canon s) : Canon (restartOp s ch) := by
  unfold Machine.restartOp
  split
  · exact h
  · exact h.onJob.chanRun.engFrame

theorem Canon.discardOp (h : Canon s) : Canon (discardOp s ch) := by
  unfold Machine.discardOp
  split
  · exact h
  · exact h.onJob.engFrame.chanRun.completeJob

theorem Canon.execRgcfgWrite (h : Canon s) {v : Word} : CanonOut (execRgcfgWrite e v s) := CanonOut.ite h.engFrame.out h

theorem Canon.execRingIdle (h : Canon s) : CanonOut (execRingIdle e s) := by
  unfold Machine.execRingIdle
  split
  · exact h.engFrame
  · exact h

theorem Canon.ringFault (h : Canon s) {code sub : Nat} : Canon (ringFault s e code sub) := h.raiseEFault

end

/-! ## The ENG group (05 R136 to R141) -/

section
variable {s t : State} {o : ObjEnt} {off n pa id : Nat} {bs : List Byte} {a r : XReg} {b : CReg} {e : Eng} {v : Word} {pid : Fin 16}

/-- Publishing changes the rings alone. -/
theorem Canon.publish (h : Canon s) (hp : publish s e v = .ok t) : Canon t := by
  unfold Machine.publish at hp
  dsimp only at hp
  split at hp
  · cases hp
  · cases hp
    exact h.engFrame

theorem Canon.execRtail (h : Canon s) : CanonOut (execRtail e r s) := by
  unfold Machine.execRtail
  split
  · exact h.takeTrap
  · rename_i hp
    exact (h.publish hp).retire

theorem Canon.askPower (h : Canon s) {cls : Fin 4} : Canon (askPower s cls) := h.frame

theorem Canon.releaseSegment (h : Canon s) {seg : Fin 64} {cls : Fin 4} : Canon (releaseSegment s seg cls) := h.frame

theorem Canon.dropPower (h : Canon s) : Canon (dropPower s id) := h.frame

theorem Canon.mismatchTrap (h : Canon s) {k : Fin 3} {m : Fin 64} : Canon (mismatchTrap s k m) := h.dropPower.takeTrapAt

theorem Canon.execSalign (h : Canon s) {seg : Fin 64} {cls : Fin 4} : CanonOut (execSalign seg cls s) := by
  unfold Machine.execSalign
  split
  · exact h.takeTrap
  · split
    · exact h.mismatchTrap
    · split
      · exact CanonOut.ite h.releaseSegment.out h
      · exact h.askPower.setWait

theorem Canon.execSegmentRelease (h : Canon s) : CanonOut (execSegmentRelease s) := by
  unfold Machine.execSegmentRelease
  split
  · split
    · split
      · exact h.mismatchTrap
      · exact h.releaseSegment
    · exact h
  · exact h

theorem Canon.execPowerLeaveGrant (h : Canon s) : CanonOut (execPowerLeaveGrant s) := by
  unfold Machine.execPowerLeaveGrant
  split
  · exact h
  · exact h.onBase.onCore (fun _ hc => hc)

theorem Canon.execFpush (h : Canon s) : CanonOut (execFpush r s) := CanonOut.ite h.out (Canon.retire h.engFrame).out

theorem Canon.execSlotrd (h : Canon s) {slot : Fin 16} : CanonOut (execSlotrd a slot s) := CanonOut.ite h.takeTrap h.wrX.retire

theorem Canon.ecsrSet (h : Canon s) {x : Ecsr} : CanonRes (ecsrSet s e x v) := by
  unfold Machine.ecsrSet
  cases x with
  | rgcfg =>
    dsimp only
    split
    · exact h.engFrame
    · exact h
  | rgptr =>
    dsimp only
    split
    · exact h
    · rename_i hp
      exact h.publish hp
  | chst ch =>
    dsimp only
    split
    · exact h
    · split
      · exact h
      · exact h.restartOp.ite h.discardOp
  | chkCfg k => exact h.engFrame
  | chkHit k => exact h.engFrame
  | mxspill => exact h.engFrame
  | vfcr => exact h.engFrame
  | vwst => exact h
  | gctl k => exact h.engFrame
  | gbase k => exact h.engFrame

theorem Canon.execEcsrr (h : Canon s) {x : Fin 256} : CanonOut (execEcsrr a e x s) := by
  unfold Machine.execEcsrr
  split
  · exact h.takeTrap
  · exact h.wrX.retire

theorem Canon.execEcsrw (h : Canon s) {x : Fin 256} : CanonOut (execEcsrw e x r s) := by
  unfold Machine.execEcsrw
  split
  · exact h.takeTrap
  · exact h.ecsrSet.finish (fun _ _ h => h.retire)

/-! ## The TILE group (05 R142 to R147) -/

theorem Canon.execTretire (h : Canon s) : CanonOut (execTretire s) :=
  CanonOut.ite h.takeTrap (CanonOut.ite h.takeTrap (CanonOut.ite h.writeBack.endRetired h.out))

theorem Canon.putStageQueue (h : Canon s) {q : StageQ} : Canon (putStageQueue s q) := h.onBase

theorem Canon.execStgput (h : Canon s) : CanonOut (execStgput r s) := by
  unfold Machine.execStgput
  dsimp only
  split
  · exact h.takeTrap
  · exact h.takeTrap
  · split
    · exact h.takeTrap
    · split
      · exact h.onMyLease.retire
      · split
        · exact h
        · exact h.putStageQueue.onMyLease.retire

theorem Canon.execStgget (h : Canon s) : CanonOut (execStgget r s) := by
  unfold Machine.execStgget
  dsimp only
  split
  · exact h.takeTrap
  · exact h.takeTrap
  · split
    · exact h.takeTrap
    · split
      · exact h.onMyLease.onMyLease.spadStore.retire
      · split
        · exact h.putStageQueue.onMyLease.spadStore.retire
        · exact h

/-- What follows a fetch of a code word. -/
theorem Canon.withCode {α : Type} {P : α → Prop} (h : Canon s) {k : State → Word → α} {go : State → α} (hk : ∀ u w, Canon u → P (k u w))
    (hg : ∀ u, Canon u → P (go u)) : P (withCode s off k go) := by
  unfold Machine.withCode
  split
  all_goals rename_i hc
  · exact hg _ (h.codeRead.of_eq hc)
  · exact hg _ (h.codeRead.of_eq hc).takeTrap
  · exact hg _ (h.codeRead.of_eq hc).takeTrap
  · exact hk _ _ (h.codeRead.of_eq hc)

theorem Canon.bucket (h : Canon s) {tab : Nat} {k : State → Word → Out} (hk : ∀ u w, Canon u → CanonOut (k u w)) (m i : Nat) :
    CanonOut (bucket tab v k m i s) := by
  induction m generalizing s i with
  | zero => exact h.takeTrap
  | succ m ih => exact h.withCode (fun u w h => CanonOut.ite (hk u w h) (ih h (i + 1))) (fun _ h => h)

theorem Canon.execDispatch (h : Canon s) {table : Fin 4194304} : CanonOut (execDispatch r table s) := by
  unfold Machine.execDispatch
  refine CanonOut.ite h.takeTrap (h.withCode (fun u w h => ?_) (fun _ h => h))
  refine CanonOut.ite h.takeTrap (h.bucket (fun _ _ h => ?_) _ _)
  exact CanonOut.ite h.takeTrap h.wrX.jumpTo

/-- A refused record leaves the state to whoever offered it; an accepted one keeps the form. -/
theorem Canon.captureLaunch (h : Canon s) {la : BitVec 32} : Canon (captureLaunch s la bs) := by
  unfold Machine.captureLaunch
  exact h.captureRec.foldl (fun _ _ h => h.captureRec) _

theorem Canon.offer (h : Canon s) {tag : Bool} {la : BitVec 32} (ho : offer s pid bs tag = .accepted t la) : Canon t := by
  unfold Machine.offer at ho
  split at ho
  · cases ho
  · split at ho
    · cases ho
    · split at ho
      · cases ho
      · cases ho
        exact Canon.captureLaunch h.frame

theorem Canon.recordRead (h : Canon s) {k : State → List Byte → Out} (hk : ∀ u bs, Canon u → CanonOut (k u bs)) :
    CanonOut (recordRead s b o off n k) := by
  unfold Machine.recordRead
  split
  · exact h.residencyWait.finish (fun _ _ h => h)
  · split
    all_goals rename_i hr
    · exact h.dramRead.of_eq hr
    · exact (h.dramRead.of_eq hr).takeTrap
    · exact hk _ _ (h.dramRead.of_eq hr).homeGet

theorem Canon.execLaunch (h : Canon s) : CanonOut (execLaunch a b s) := by
  unfold Machine.execLaunch
  extract_lets off done
  have hd : ∀ {u w}, Canon u → CanonOut (done u w) := fun h => h.setWait.wrX.retire
  refine h.withHome (fun u o k h => h.recordRead (fun u hdr h => h.withCap (fun u o h => h.recordRead (fun u data h => ?_))))
  dsimp only
  split
  · exact hd h
  · exact hd h
  · rename_i ho
    exact hd (h.offer ho)

end

/-! ## The walker (01 R29 to R32, 22 R390, R397, R403, R404) -/

section
variable {s t : State} {id core : Nat} {l : Launch} {x : Lease} {r : Replay} {c : CmdCtx}

theorem Canon.respond (h : Canon s) {status value : Nat} : Canon (respond s c status value) := by
  unfold Machine.respond
  dsimp only
  split
  · exact h.homePutPa.onBase
  · exact h.onBase
  · exact h.homePutPa.homePutPa

theorem Canon.takeRecord (h : Canon s) {q : Fin 16} {y : Queued} (ht : takeRecord s q = some (t, y)) : Canon t := by
  unfold Machine.takeRecord at ht
  split at ht
  · obtain ⟨p, -, hp⟩ := Option.map_eq_some_iff.1 ht
    cases hp
    exact h.onBase
  · split at ht
    · cases ht
    · cases ht
      exact h.onBase

theorem Canon.execLaunchWalk (h : Canon s) {q : Fin 16} : CanonOut (execLaunchWalk q s) := by
  unfold Machine.execLaunchWalk
  split
  · exact h
  · rename_i ht
    dsimp only
    split
    · exact (h.takeRecord ht).reportLaunch
    · exact (h.takeRecord ht).onBase.finishLaunch

theorem Canon.imageFetch (h : Canon s) {o : ObjEnt} {pid : Fin 16} : Canon (imageFetch s o pid) := by
  unfold Machine.imageFetch
  extract_lets dirty u v
  have hu : Canon u := Canon.ite (h.foldl (fun _ _ h => h.probe) _) h
  have hv : Canon v := by
    refine hu.ite (hu.foldl (fun s g h => ?_) _)
    cases paOf o g.1 with
    | none => exact h
    | some pa => exact h.hostRecall
  exact hv.dramRead

/-- The image that a lease's scratchpad starts with is canonical: listed writes to the empty memory, cut at its length. -/
theorem Memory.wf_imageMem (s : State) (oid : BitVec 24) : Memory.wf (imageMem s oid) = true := by
  unfold imageMem
  split
  · rfl
  · exact wf_filter _ _ (foldl_keeps (fun a : Mem × Nat => Memory.wf a.1 = true) _ (fun a e h => wf_memWrites _ _ h) _ _ rfl)

/-- A core at its lease's start holds the image, and nothing in its other stores. -/
theorem storesWf_startCore (s : State) (l : Launch) (x : Lease) (c : Core) : (startCore s l x c).eng.storesWf :=
  storesWf_setStore Engines.start .spad _ storesWf_start (Memory.wf_imageMem _ _)

theorem Canon.imageAsk (h : Canon s) : Canon (imageAsk s l x).1 := by
  unfold Machine.imageAsk
  split
  · exact h.dramAsk
  · exact h

/-- A core of canonical stores placed in the machine. -/
theorem Canon.placeCore (h : Canon s) {f : Core → Core} (hf : ∀ c : Core, c.eng.storesWf → (f c).eng.storesWf) :
    Canon (placeCore s id f) := by
  unfold Machine.placeCore
  split
  · exact h.onCore hf
  · refine ⟨h.mem, h.core, fun d hd => ?_⟩
    rcases List.mem_append.1 hd with hd | hd
    · exact h.others d hd
    · rw [List.mem_singleton.1 hd]
      exact hf _ (storesWf_free id)

theorem Canon.startLease (h : Canon s) : Canon (startLease s l x core) := by
  unfold Machine.startLease
  extract_lets u v
  have hu : Canon u := by
    unfold u
    split
    · exact h.imageFetch
    · exact h
  have hv : Canon v := hu.tellCore.onLaunch.dropPower.placeCore (fun c _ => storesWf_startCore u l x c)
  exact hv.captureRec

theorem Canon.endReplay (h : Canon s) {status : Nat} : Canon (endReplay s r status) := h.onBase.logEvent.respond

theorem Canon.startReady (h : Canon s) {after : State → State} (ha : ∀ u, Canon u → Canon (after u)) :
    CanonOut (startReady s l x core after) := by
  unfold Machine.startReady
  split
  · rename_i hi
    exact h.imageAsk.of_eq hi
  · exact (ha s h).startLease

theorem Canon.execLeaseStart (h : Canon s) {launch : BitVec 32} {stage : Fin 8} : CanonOut (execLeaseStart launch stage s) := by
  unfold Machine.execLeaseStart
  split
  · exact h
  · split
    · split
      · exact h.startReady (fun _ h => h.frame)
      · exact h
    · split
      · exact h
      · refine CanonOut.ite h.out ?_
        extract_lets inSet die taken
        refine CanonOut.ite h.endReplay.out (CanonOut.ite h.out ?_)
        split
        · exact h.endReplay
        · exact h.startReady (fun _ h => h.onBase)

end

/-! ## Preemption, resume and release of a context (01 R35, R36, 04 R108 to R112) -/

section
variable {s t : State} {core pa : Nat} {x : Ctx}

theorem Canon.execPreemption (h : Canon s) : CanonOut (execPreemption core s) := by
  refine Canon.out (h.atCore (fun u h => ?_))
  split
  · exact h
  · extract_lets v
    have hv : Canon v := h.drainAll.ite h
    split
    · exact hv.giveUpWait.drainCore.saveContext
    · exact hv.frame

/-- The stores of a context area are canonical: each is moved bytes written to the empty memory. -/
theorem storesWf_areaStores (s : State) (x : Ctx) : (areaStores s x).storesWf :=
  (storesWf_iff _).2 ⟨Memory.wf_memWrites _ _ rfl, Memory.wf_memWrites _ _ rfl, Memory.wf_memWrites _ _ rfl, Memory.wf_memWrites _ _ rfl⟩

theorem sameStores_areaEng (s : State) (x : Ctx) : SameStores (areaEng s x) (areaStores s x) := {}

/-- The engines of a core that takes up a context hold the stores of its area. -/
theorem storesWf_resumeCore (s : State) (x : Ctx) (c : Core) : (resumeCore s x c).eng.storesWf := by
  have he : (areaEng s x).storesWf := (sameStores_areaEng s x).storesWf (storesWf_areaStores s x)
  exact SameStores.storesWf {} he

theorem Canon.queueLeave (h : Canon s) {k : Fin 4} : Canon (queueLeave s core k) := by
  unfold Machine.queueLeave
  dsimp only
  split
  · exact h
  · refine Canon.onBase (h.placeCore (fun c hc => ?_))
    exact hc

theorem Canon.refuseContext (h : Canon s) : Canon (refuseContext s x) := by
  unfold Machine.refuseContext
  extract_lets u l v
  have hu : Canon u := h.withBase (Memory.wf_memPut _ _ _ _ h.mem)
  have hv : Canon v := hu.onLaunch
  exact hv.finishLaunch

theorem Canon.execContextResume (h : Canon s) : CanonOut (execContextResume core pa s) := by
  unfold Machine.execContextResume
  split
  · exact h
  · rename_i x _
    refine CanonOut.ite h.refuseContext.out (CanonOut.ite h.out (CanonOut.ite (Canon.frame h.queueLeave).out ?_))
    exact (h.placeCore (fun c _ => storesWf_resumeCore s x c)).onBase.out

theorem Canon.execContextRelease (h : Canon s) : CanonOut (execContextRelease pa s) := by
  unfold Machine.execContextRelease
  split
  · exact h
  · exact h.onBase.releasePins

end

/-! ## The SYNC group (12 R286 to R296) -/

section
variable {s t : State} {pa : Nat} {a : XReg} {b : CReg} {c : XReg} {ord : Ord}

theorem Canon.execFence (h : Canon s) : CanonOut (execFence ord s) := h.released (fun _ h => h.setWait.acquireHalf.retire)

theorem Canon.barrierHome (h : Canon s) {o : ObjEnt} {off : Nat} {k : State → Nat → Nat → Out}
    (hk : ∀ u pa off, Canon u → CanonOut (k u pa off)) : CanonOut (barrierHome s o off k) := by
  unfold Machine.barrierHome
  split
  · exact h.takeTrap
  · exact CanonOut.ite (hk _ _ _ h) h.takeTrap

theorem Canon.atBarrier (h : Canon s) {k : State → Nat → Nat → Out} (hk : ∀ u pa off, Canon u → CanonOut (k u pa off)) :
    CanonOut (atBarrier b s k) :=
  h.withOp (fun _ _ _ h => h.barrierHome hk)

theorem Canon.atBarrierOrd (h : Canon s) {k : State → Nat → Nat → Out} (hk : ∀ u pa off, Canon u → CanonOut (k u pa off)) :
    CanonOut (atBarrierOrd b ord s k) :=
  h.withOrd (fun _ _ _ _ h => h.barrierHome hk)

theorem Canon.execBinit (h : Canon s) {expect : Fin 1048576} {kind : Fin 256} : CanonOut (execBinit b expect kind s) := by
  refine h.withOp (fun u o off h => CanonOut.ite h.takeTrap ?_)
  split
  · exact h.takeTrap
  · exact CanonOut.ite h.takeTrap (Canon.retire (Canon.frame h.barWrite)).out

theorem Canon.execBxfer (h : Canon s) : CanonOut (execBxfer b c s) := by
  refine h.atBarrier (fun u pa off h => ?_)
  extract_lets xin xout fresh old v
  have hv : Canon v := h.barWrite.ite h
  exact hv.onLive.retire

theorem Canon.execBarr (h : Canon s) : CanonOut (execBarr a b c s) := by
  unfold Machine.execBarr
  extract_lets refuse
  have hr : ∀ {u off}, Canon u → Canon (refuse u off) := fun h => h.frame
  refine h.withOp (fun u o off h => ?_)
  extract_lets live
  refine CanonOut.ite (CanonOut.ite (hr h).retire h.takeTrap) ?_
  split
  · rename_i hb
    obtain ⟨p, -, hp⟩ := Option.bind_eq_some_iff.1 hb
    exact (h.barOp hp).wrX.retire
  · exact CanonOut.ite (hr h).retire h.takeTrap

theorem Canon.bwaitDone (h : Canon s) : Canon (bwaitDone s ord) := h.acquireHalf.setWait.retire

theorem Canon.barrwDone (h : Canon s) {g : Nat} : Canon (barrwDone s a g ord) := h.acquireHalf.setWait.wrX.retire

theorem Canon.execBwait (h : Canon s) : CanonOut (execBwait b c ord s) := by
  unfold Machine.execBwait
  split
  · exact h.bwaitDone
  · exact h
  · exact h.atBarrierOrd (fun _ _ _ h => CanonOut.ite h.bwaitDone h.registerWaiter.setWait)

theorem Canon.execBarrw (h : Canon s) : CanonOut (execBarrw a b c ord s) := by
  unfold Machine.execBarrw
  split
  · exact h.barrwDone
  · exact h
  · refine h.atBarrierOrd (fun u pa off h => ?_)
    extract_lets arrived
    have ha : ∀ v g, arrived = some (v, g) → Canon v := by
      intro v g ha
      unfold arrived at ha
      split at ha
      · split at ha
        · cases ha
          exact h.onLease
        · exact h.barOp ha
      · exact h.barOp ha
    clear_value arrived
    cases arrived with
    | none => exact h.takeTrap
    | some p => exact CanonOut.ite (ha _ _ rfl).barrwDone (ha _ _ rfl).registerWaiter.setWait

theorem Canon.syncPutNreg (h : Canon s) {n : Nat} : Canon (syncPutNreg s pa n) := h.homePutPa

theorem Canon.execBfree (h : Canon s) : CanonOut (execBfree b s) := by
  refine h.withOp (fun u o off h => ?_)
  dsimp only
  split
  · exact h.takeTrap
  · exact CanonOut.ite h.takeTrap (Canon.retire (Canon.frame h.homePutPa)).out

theorem Canon.execSoinit (h : Canon s) : CanonOut (execSoinit b s) := by
  refine h.withOp (fun u o off h => ?_)
  split
  · exact h.takeTrap
  · exact CanonOut.ite h.takeTrap (Canon.retire (Canon.frame h.homePutPa)).out

theorem Canon.atSync (h : Canon s) {ready : State → List (BitVec 24) → Bool} {k : State → Nat → List (BitVec 24) → Out}
    (hk : ∀ u pa bs, Canon u → CanonOut (k u pa bs)) : CanonOut (atSync b ord s ready k) := by
  refine h.withOrd (fun u o off bs h => ?_)
  split
  · exact h.takeTrap
  · exact CanonOut.ite (hk _ _ _ h) h.takeTrap

theorem Canon.execAcq (h : Canon s) : CanonOut (execAcq b ord s) :=
  h.atSync (fun _ _ _ h => h.dropWords.setWait.acquireHalf.retire)

theorem Canon.execRel (h : Canon s) : CanonOut (execRel b ord s) :=
  h.atSync (fun _ _ _ h => h.writeBack.homePutPa.setWait.acquireHalf.retire)

theorem Canon.execRbind (h : Canon s) {d : CReg} : CanonOut (execRbind b d s) := by
  unfold Machine.execRbind
  extract_lets off
  refine h.withCap (fun u o h => ?_)
  split
  · exact h.takeTrap
  · extract_lets v
    have hv : Canon v := h.touchCap.ite h
    refine hv.leaving ?_
    extract_lets w
    have hw : Canon w := hv.sent
    split
    · exact hw.takeTrap
    · refine CanonOut.ite hw.retire.out (CanonOut.ite hw.takeTrap ?_)
      extract_lets x y z
      have hx : Canon x := hw.onObj
      have hy : Canon y := hx.ite hx.syncPutNreg
      have hz : Canon z := hy.ite hy.syncPutNreg
      exact hz.retire

theorem Canon.sweepCore (acc : State × List Nat × Option Nat) (h : Canon acc.1) {o : ObjEnt} {id : Nat} :
    Canon (sweepCore o acc id).1 := by
  unfold Machine.sweepCore
  split
  · exact h
  · extract_lets ws v dir first
    have hv : Canon v := h.writeBack
    exact hv.frame

theorem Canon.execRmode (h : Canon s) {mode : Bool} : CanonOut (execRmode b mode s) := by
  refine h.withOp (fun u o off h => CanonOut.ite h.retire.out ?_)
  extract_lets v ds
  have hv : Canon v := h.onObj
  refine CanonOut.ite ?_ (Canon.retire hv.frame).out
  split
  rename_i w _ hit hw
  have hc : Canon w := Canon.of_eq (hv.foldl_fst (fun acc c h => Canon.sweepCore acc h) _ _) hw
  extract_lets z
  have hz : Canon z := by
    unfold z
    split
    · exact hc
    · exact hc.onObj
  exact hz.retire

end

/-! ## Responses and releases that reach a core, probes (09 R216 to R225, 10 R232, 12 R279) -/

section
variable {s : State} {core pa n : Nat}

theorem Canon.execHomeResponse (h : Canon s) : CanonOut (execHomeResponse s) := by
  unfold Machine.execHomeResponse
  split
  · exact h.bwaitDone
  · exact h.barrwDone
  · exact h

theorem Canon.execPostedBarrRefusal (h : Canon s) : CanonOut (execPostedBarrRefusal s) := by
  unfold Machine.execPostedBarrRefusal
  split
  · exact h
  · exact Canon.takeTrapAt h.frame

theorem Canon.execBarrierRelease (h : Canon s) : CanonOut (execBarrierRelease s) := by
  unfold Machine.execBarrierRelease
  split
  · exact h
  · exact h.onBase.onCore (fun _ hc => hc)

theorem Canon.execReservationTimeout (h : Canon s) : CanonOut (execReservationTimeout s) := h.onBase

theorem Canon.wake (h : Canon s) : Canon (wake s core pa n) := by
  unfold Machine.wake
  exact h.ite h.onBase

theorem Canon.execDirectoryProbe (h : Canon s) {block : Nat} {first last : Fin 16} :
    CanonOut (execDirectoryProbe core block first last s) := by
  unfold Machine.execDirectoryProbe
  dsimp only
  split
  · exact h
  · exact CanonOut.ite (h.dropWords.wake.dirRefresh _).out (h.writeBack.dropWords.dirRefresh _).out

theorem Canon.execRetentionWakeWriteback (h : Canon s) : CanonOut (execRetentionWakeWriteback core s) := by
  unfold Machine.execRetentionWakeWriteback
  extract_lets due hit u v
  have hu : Canon u := h.onBase
  have hv : Canon v := hu.writeBack.dropWords
  exact (hv.foldl (fun _ b h => h.dirRefresh b) _).out

end

/-! ## The vertical bus (08 R192, R195) -/

section
variable {s : State} {die : Fin 8} {chan : Fin 16} {pa : Nat} {v : VChan} {group : Fin 32}

theorem Canon.logVbus (h : Canon s) {event g attempt width : Nat} : Canon (logVbus s die chan event pa g attempt width) :=
  h.of_kept (.logAppend _ _ _ _ _ _)

theorem Canon.putVchan (h : Canon s) : Canon (putVchan s v) := by
  unfold Machine.putVchan
  exact h.onBase

theorem Canon.reportGranule (h : Canon s) : Canon (reportGranule s pa) := by
  unfold Machine.reportGranule
  split
  · exact h
  · refine h.foldl (fun s c h => h.atCore (fun u h => h.foldl (fun s j h => ?_) _)) _
    split
    · exact h.addReport
    · exact h

theorem Canon.granuleArrives (h : Canon s) : Canon (granuleArrives s pa) := by
  unfold Machine.granuleArrives
  split
  · exact h
  · exact h.onCores (fun _ hc => SameStores.storesWf {} hc)

theorem Canon.failReports (h : Canon s) : Canon (failReports s die chan) := h.onCores (fun _ hc => SameStores.storesWf {} hc)

theorem Canon.servesUntil (h : Canon s) {home gran till : Nat} : Canon (servesUntil s home gran till) := h.onBase

theorem Canon.useLine (h : Canon s) {home gran kind : Nat} {pid : Fin 16} {dirty : Bool} : Canon (useLine s home gran kind pid dirty) :=
  h.of_kept (.useLine _ _ _ _ _ _)

theorem Canon.sendQueued (h : Canon s) : Canon (sendQueued s v) := by
  unfold Machine.sendQueued
  refine h.putVchan.foldl (fun s r h => ?_) _
  dsimp only
  exact h.wayRead.servesUntil.ite (h.wayRead.useLine.ite h.wayRead)

theorem Canon.exhausted (h : Canon s) {q : VSeq} : Canon (exhausted s v q) := by
  unfold Machine.exhausted
  exact h.putVchan.ite h.logVbus.putVchan.failReports

theorem Canon.execTransferParityError (h : Canon s) : CanonOut (execTransferParityError die chan group pa s) := by
  unfold Machine.execTransferParityError
  dsimp only
  split
  · exact h
  · split
    · exact h.logVbus.putVchan.reportGranule
    · exact CanonOut.ite h.out h.logVbus.putVchan.out

theorem Canon.execTransferRetry (h : Canon s) {pass : Bool} : CanonOut (execTransferRetry die chan pass group s) := by
  unfold Machine.execTransferRetry
  dsimp only
  split
  · exact h
  · split
    · exact h
    · exact CanonOut.ite h.sendQueued.granuleArrives.out (CanonOut.ite h.logVbus.exhausted.out h.logVbus.putVchan.out)

theorem Canon.execChannelRetrainDone (h : Canon s) {ok : Bool} : CanonOut (execChannelRetrainDone die chan ok s) := by
  unfold Machine.execChannelRetrainDone
  dsimp only
  split
  · exact h
  · exact CanonOut.ite h.out h.logVbus.putVchan.out

theorem Canon.execHalfWidthDone (h : Canon s) : CanonOut (execHalfWidthDone die chan s) := by
  unfold Machine.execHalfWidthDone
  dsimp only
  split
  · exact h
  · exact CanonOut.ite h.out h.logVbus.putVchan.out

end

/-! ## The host and the side-band port (10 R250, 11 R260, 22 R388 to R390) -/

section
variable {s t : State} {pa n : Nat} {bs : List Byte} {pid : Fin 16} {i : Instr} {v : Word}

theorem Canon.dropHostLines (h : Canon s) : Canon (dropHostLines s pa n) := by
  unfold Machine.dropHostLines
  exact h.onBase.ite h

theorem Canon.fetchAt (h : Canon s) : Canon (fetchAt s pid pa n).1 := by
  unfold Machine.fetchAt
  split
  · exact h.dramRead
  · exact h
  · exact h.wayRead

theorem Canon.reachAt (h : Canon s) {up down : Nat} {read : Bool} : Canon (reachAt s pid pa n up down read) := by
  unfold Machine.reachAt
  split
  · exact h.serve.takeBack
  · exact h.serve.hostRecall

theorem Canon.readPa (h : Canon s) {take : Bool} : Canon (readPa s pid pa n take).1 := by
  unfold Machine.readPa
  split
  · rename_i hf
    exact h.fetchAt.of_eq hf
  · rename_i hf
    exact (h.fetchAt.of_eq hf).reachAt

theorem Canon.putPa (h : Canon s) {atomic : Bool} : Canon (putPa s pid pa bs atomic) := h.homePutPa.dropHostLines

theorem Canon.writePa (h : Canon s) {atomic : Bool} : Canon (writePa s pid pa bs atomic) := h.reachAt.putPa

theorem Canon.readRange (h : Canon s) : Canon (readRange s pid pa n).1 := by
  unfold Machine.readRange
  refine h.foldl_fst (fun a g h => ?_) _ _
  exact h.readPa

theorem Canon.writeRange (h : Canon s) : Canon (writeRange s pid pa bs) := h.foldl (fun _ _ h => h.writePa) _

theorem Canon.again (h : Canon s) : CanonOut (again s i) := h.frame

theorem Canon.hostAgain (h : Canon s) : CanonOut (hostAgain s i) := h.frame

theorem Canon.execHostRead (h : Canon s) : CanonOut (execHostRead pa n s) := by
  unfold Machine.execHostRead
  refine CanonOut.ite h.out ?_
  split
  · rename_i hr
    exact (h.readRange.of_eq hr).hostAgain
  · rename_i hr
    exact (h.readRange.of_eq hr).onBase

theorem Canon.captureWrite (h : Canon s) : Canon (captureWrite s pa bs) := h.foldl (fun _ _ h => h.captureRec) _

theorem Canon.wakeAt (h : Canon s) : Canon (wakeAt s pa n).1 := by
  unfold Machine.wakeAt
  split
  · exact Canon.ite_fst h h.wakeAsk
  · exact h

theorem Canon.hostWriteBlock (h : Canon s) : Canon (hostWriteBlock s pa bs) := by
  unfold Machine.hostWriteBlock
  exact h.logEvent.ite h.writePa.captureWrite

theorem Canon.execHostWrite (h : Canon s) : CanonOut (execHostWrite pa bs s) := by
  unfold Machine.execHostWrite
  dsimp only
  split
  · rename_i hw
    refine Canon.hostAgain (Canon.of_eq (h.foldl_fst (fun a p h => ?_) _ _) hw)
    exact h.wakeAt
  · exact Canon.out (h.foldl (fun _ _ h => h.hostWriteBlock.ite h) _)

theorem Canon.execHostAtomic (h : Canon s) {op : Fin 11} {e : Word} : CanonOut (execHostAtomic op pa v e s) := by
  unfold Machine.execHostAtomic
  dsimp only
  refine CanonOut.ite h.logEvent.out (CanonOut.ite h.out ?_)
  split
  · rename_i hr
    exact (h.readPa.of_eq hr).hostAgain
  · rename_i hr
    split
    · exact (h.readPa.of_eq hr).onBase
    · exact (h.readPa.of_eq hr).onBase.putPa.captureWrite

theorem Canon.execHostLineInvalidate (h : Canon s) : CanonOut (execHostLineInvalidate pa bs s) := h.writeRange.ite h

theorem Canon.execHcqtailWrite (h : Canon s) : CanonOut (execHcqtailWrite v s) := CanonOut.ite h.out h.onBase

theorem Canon.execHcqbaseWrite (h : Canon s) : CanonOut (execHcqbaseWrite v s) := CanonOut.ite h.onBase.out h.out

theorem Canon.execKernelDoorbell (h : Canon s) : CanonOut (execKernelDoorbell s) := by
  unfold Machine.execKernelDoorbell
  split
  · exact h
  · exact h.onBase

theorem Canon.execSidebandMessage (h : Canon s) {rec_ : Vector Word 8} : CanonOut (execSidebandMessage rec_ s) := h.onBase

theorem Canon.execSidebandLogRead (h : Canon s) {log : Fin 17} : CanonOut (execSidebandLogRead log n s) := h.onBase

end

/-! ## Commands (22 R390 to R397) -/

section
variable {s t : State} {c : CmdCtx} {pa n : Nat} {oid : BitVec 24} {bs : List Byte}

theorem Canon.powered (h : Canon s) {k : State → Out} (hk : CanonOut (k s)) : CanonOut (powered s c k) := CanonOut.ite hk h.respond

theorem Canon.named (h : Canon s) {k : State → Out} (hk : CanonOut (k s)) : CanonOut (named s c pa n k) := CanonOut.ite hk h.respond

theorem Canon.fetched (h : Canon s) {i : Instr} {k : State → List Byte → Out} (hk : ∀ u bs, Canon u → CanonOut (k u bs)) :
    CanonOut (fetched s c pa n i k) := by
  unfold Machine.fetched
  split
  · rename_i hr
    exact (h.readRange.of_eq hr).again
  · rename_i hr
    exact hk _ _ (h.readRange.of_eq hr)

theorem Canon.basePut (h : Canon s) {pid : Fin 16} : Canon (basePut s pid pa bs) :=
  h.foldl (fun _ _ h => h.logEvent.ite h.writePa) _

/-- A command that answers, whether or not it changes anything before. -/
theorem Canon.answer (h : Canon s) {status value : Nat} : CanonOut (.next (Machine.respond s c status value)) := h.respond

theorem Canon.execObjset (h : Canon s) : CanonOut (execObjset c pa s) :=
  h.powered (h.named (h.fetched (fun _ _ h => CanonOut.ite h.answer h.onBase.answer)))

theorem Canon.execObjrd (h : Canon s) : CanonOut (execObjrd c oid pa s) := h.named h.basePut.answer

theorem Canon.execObjextResolve (h : Canon s) {x : Nat} {pbase : Word} : CanonOut (execObjextResolve c oid x pbase s) := by
  refine h.powered ?_
  split
  · exact h.answer
  · refine CanonOut.ite h.answer (Canon.answer (h.onObj.onCores (fun _ hc => ?_)))
    exact hc

theorem Canon.execObjextFail (h : Canon s) {x : Nat} : CanonOut (execObjextFail c oid x s) := by
  refine h.powered ?_
  split
  · exact h.answer
  · exact Canon.answer (h.onBase.onCores (fun _ hc => SameStores.storesWf {} hc))

theorem Canon.dropEntry (h : Canon s) {o : ObjEnt} : Canon (dropEntry s o) := by
  unfold Machine.dropEntry
  extract_lets inside store u
  have hu : Canon u := h.onCores (fun _ hc => hc)
  exact hu.onBase

theorem Canon.execObjinv (h : Canon s) : CanonOut (execObjinv c oid n s) := by
  refine h.powered ?_
  split
  · exact h.answer
  · exact CanonOut.ite h.onObj.dropEntry.answer h.onObj.onBase.out

theorem Canon.dropWait (h : Canon s) {w : CmdWait} : Canon (dropWait s w) := h.onBase

theorem Canon.finishInv (h : Canon s) : Canon (finishInv s oid) := by
  unfold Machine.finishInv
  split
  · exact h.dropWait.dropEntry.respond.ite h
  · exact h.dropWait.respond
  · exact h

theorem Canon.execObjinvTimeout (h : Canon s) : CanonOut (execObjinvTimeout oid s) := by
  unfold Machine.execObjinvTimeout
  split
  · exact h
  · exact CanonOut.ite h.dropWait.answer h.out

theorem Canon.execCapstore (h : Canon s) {lo hi : Word} : CanonOut (execCapstore c pa lo hi s) := by
  refine h.powered (h.named ?_)
  extract_lets span bytes u
  have hu : Canon u := by
    unfold u
    split
    · exact h.homeStore
    · exact h.homePutPa
  exact CanonOut.ite h.answer hu.answer

theorem Canon.execSpcreate (h : Canon s) : CanonOut (execSpcreate c oid n s) := by
  refine h.powered ?_
  split
  · exact h.answer
  · exact CanonOut.ite h.answer h.onObj.homePutLong.onObj.answer

theorem Canon.execBiasToHost (h : Canon s) : CanonOut (execBiasToHost c pa s) := by
  refine h.powered (h.named ?_)
  extract_lets p mine u v w
  have hu : Canon u := h.foldl (fun _ _ h => h.writeBack.dropWords) _
  have hv : Canon v := hu.foldl (fun _ l h => h.lineBack l) _
  have hw : Canon w := hv.onBase
  exact CanonOut.ite h.answer (CanonOut.ite h.answer hw.answer)

theorem Canon.execBiasToDevice (h : Canon s) {lines : List (Nat × List Byte)} : CanonOut (execBiasToDevice c pa lines s) := by
  refine h.powered (h.named ?_)
  extract_lets p mine u
  have hu : Canon u := h.foldl (fun _ _ h => h.writeRange) _
  exact CanonOut.ite hu.onBase.answer h.answer

theorem Canon.execLaunchq (h : Canon s) {queue : Nat} : CanonOut (execLaunchq c pa queue s) := by
  refine h.powered (h.named (CanonOut.ite h.answer (h.fetched (fun u hdr h => ?_))))
  refine CanonOut.ite h.answer (h.named (h.fetched (fun v d h => ?_)))
  split
  · rename_i ho
    exact (h.offer ho).answer
  · exact h.answer
  · exact h.answer

theorem Canon.execQcfg (h : Canon s) {queue : Nat} {mask : BitVec 16} : CanonOut (execQcfg c queue mask s) := by
  refine h.powered ?_
  split
  · exact h.onBase.answer
  · exact h.answer

end

/-! ## The DIG group (12 R297 to R299, 11 R256, R265) -/

section
variable {s t : State} {o : ObjEnt} {b : CReg} {a : XReg} {j : Nat}

theorem Canon.dropStore (h : Canon s) : Canon (dropStore s o) := by
  unfold Machine.dropStore
  exact h.onBase.ite h

theorem Canon.onCsr (h : Canon s) {f : Csr → Csr} : Canon (onCsr s f) := h.frame

theorem Canon.execDcfg (h : Canon s) : CanonOut (execDcfg b a s) := by
  refine h.kernelOnly (h.withOp (fun u o off h => ?_))
  dsimp only
  split
  · split
    · exact (h.dropStore.withBase (Memory.wf_digInit _ _ h.dropStore.mem)).onObj.retire
    · exact h.takeTrap
  · exact h.dropStore.onObj.retire

theorem Canon.execDq (h : Canon s) {imm : BitVec 32} : CanonOut (execDq a b imm s) := by
  refine h.withHome (fun u o off h => ?_)
  dsimp only
  split
  · split
    · rename_i hd
      exact (h.digGet.of_eq hd).setWait
    · rename_i hd
      exact (h.digGet.of_eq hd).setWait.serve.wrX.wrX.onCsr.retire
  · exact h.takeTrap

theorem Canon.rebuildRead (h : Canon s) : Canon (rebuildRead s o j).1 := by
  unfold Machine.rebuildRead
  dsimp only
  exact (h.digRecall j).dramRead.digLines

/-- A rebuilt digest keeps the canonical form. -/
theorem Memory.wf_digRebuild (m : Mem) (o : ObjEnt) (j : Nat) (h : Memory.wf m = true) : Memory.wf (digRebuild m o j) = true := by
  unfold digRebuild
  exact wf_digWrite _ _ _ _ h

theorem Canon.rebuildBlock (h : Canon s) : Canon (rebuildBlock s o j) := by
  unfold Machine.rebuildBlock
  extract_lets u
  have hu : Canon u := h.serve.digLines
  clear_value u
  refine hu.withBase ?_
  dsimp only
  exact Memory.wf_digRebuild _ _ _ hu.mem

theorem Canon.rebuildBlocks (h : Canon s) {off : Nat} {js : List Nat} : CanonRes (rebuildBlocks b o off js s) := by
  have hr := h.foldl_fst (f := fun (acc : State × Fetch) j =>
    ((Machine.rebuildRead acc.1 o j).1, acc.2.and (Machine.rebuildRead acc.1 o j).2)) (fun a j h => by
      dsimp only
      exact h.rebuildRead) .ok js
  unfold Machine.rebuildBlocks
  dsimp only
  split
  · rename_i hu
    exact (hr.of_eq hu).setWait
  · rename_i hu
    exact (hr.of_eq hu).responseTrap
  · rename_i hu
    exact (hr.of_eq hu).foldl (fun _ _ h => h.rebuildBlock) _

theorem Canon.execDrebuild (h : Canon s) : CanonOut (execDrebuild b a s) := by
  refine CanonOut.ite h.retire.out (h.withHome (fun u o off h => ?_))
  dsimp only
  split
  · split
    · exact h.residencyWait.finish (fun _ _ h => h)
    · exact h.setWait.rebuildBlocks.finish (fun _ _ h => h.retire)
  · exact h.takeTrap

end

/-! ## The base's registers (09 R201 to R213) -/

section
variable {s t : State} {g p : Nat} {v : Word}

theorem Canon.slReject (h : Canon s) : Canon (slReject s g) := h.onBase

theorem Canon.slApply (h : Canon s) : Canon (slApply s g v) := h.onBase

theorem Canon.slStep (h : Canon s) (p : Nat × Word) : Canon (slStep s p) := by
  unfold Machine.slStep
  split
  · exact (h.lineBack _).onBase
  · exact h.slApply.onBase

theorem Canon.slDrain (h : Canon s) : Canon (slDrain s) := h.foldl (fun _ p h => h.slStep p) _

theorem Canon.slcfgOp (h : Canon s) : Canon (slcfgOp s g v) := by
  unfold Machine.slcfgOp
  exact h.slReject.ite (h.onBase.ite h.slApply)

theorem Canon.pbktOp (h : Canon s) : Canon (pbktOp s g p v) := by
  unfold Machine.pbktOp
  exact h.slReject.ite h.onBase

theorem Canon.plainRegOp (h : Canon s) {r : PlainReg} : Canon (plainRegOp s r v) := by
  unfold Machine.plainRegOp
  split
  · exact h.onBase
  · exact h.onBase
  · exact h.onBase
  · exact h.onBase

theorem Canon.configWrite (h : Canon s) {off : Nat} : Canon (configWrite s off v) := by
  unfold Machine.configWrite
  dsimp only
  split
  · exact h.plainRegOp.ite h
  · exact h.slcfgOp.ite (h.plainRegOp.ite (h.plainRegOp.ite (h.pbktOp.ite h)))

theorem Canon.execSlcfgWrite (h : Canon s) : CanonOut (execSlcfgWrite g v s) := h.slcfgOp.ite h

theorem Canon.execPbktWrite (h : Canon s) : CanonOut (execPbktWrite g p v s) := h.pbktOp.ite h

theorem Canon.execRegisterWrite (h : Canon s) {r : PlainReg} : CanonOut (execRegisterWrite r v s) := h.plainRegOp

end

/-! ## LD and ST (05 R128, R129) -/

section
variable {s : State} {sp : Space} {size : Fin 4} {a c : XReg} {b : CReg} {imm : BitVec 32}

theorem Canon.execLd (h : Canon s) {sgn : Bool} : CanonOut (execLd sp sgn size a b c imm s) := by
  unfold Machine.execLd
  dsimp only
  refine h.withCap (fun u o h => ?_)
  refine CanonOut.ite h.wrX.retire (CanonOut.ite ?_ ?_)
  · exact CanonOut.ite h.wrX.retire h.takeTrap
  · exact h.baseLoad.finish (fun _ _ h => h.wrX.retire)

theorem Canon.storeConfig (h : Canon s) {k : Nat} {v : Word} : CanonOut (storeConfig s k v) := by
  unfold Machine.storeConfig
  dsimp only
  split
  · exact CanonOut.ite h.out h.setWait.retire
  · exact CanonOut.ite h.configWrite.setWait.out h.configWrite.retire

theorem Canon.execSt (h : Canon s) : CanonOut (execSt sp size a b c imm s) := by
  unfold Machine.execSt
  dsimp only
  refine h.withCap (fun u o h => ?_)
  refine CanonOut.ite h.spadStore.retire (CanonOut.ite ?_ ?_)
  · exact CanonOut.ite h.storeConfig h.takeTrap
  · refine h.baseStore.finish (fun u _ h => ?_)
    exact Canon.retire (h.frame.ite h)

end

/-! ## Dies, power, capture, firmware, rails, the GTC cycle (01 R12, 09 R211 to R213, R227, 22 R396 to R404) -/

section
variable {s t : State} {id pa n : Nat} {c : CmdCtx}

/-- A held request of an atomic or of DREBUILD keeps the form where it goes on. -/
theorem Canon.heldRequest (h : Canon s) {i : Instr} {run : State → Out} (hr : heldRequest i = some run) : CanonOut (run s) := by
  unfold Machine.heldRequest at hr
  split at hr <;> cases hr
  · exact h.valueAtomic
  · exact h.valueAtomic
  · exact h.valueAtomic
  · exact h.valueAtomic
  · exact h.valueAtomic
  · exact h.valueAtomic
  · exact h.valueAtomic
  · exact h.valueAtomic
  · exact h.valueAtomic
  · exact h.valueAtomic
  · exact h.valueAtomic
  · exact h.execSc
  · exact h.execDrebuild

theorem Canon.applyHeld (h : Canon s) : Canon (applyHeld s id) := by
  refine h.atCore (fun u h => ?_)
  split
  · rename_i hb
    obtain ⟨i, -, hi⟩ := Option.bind_eq_some_iff.1 hb
    split
    · rename_i hr
      have hc := h.onBase (f := fun b => { b with vbus := [] })
      refine Canon.onCores (CanonOut.next ((hc.onCores (fun _ hc => ?_)).heldRequest hi) hr).onBase (fun _ hc => ?_)
      · exact hc
      · exact hc
    · exact h
  · exact h

theorem Canon.withdraw (h : Canon s) : Canon (withdraw s id) := h.onBase

theorem Canon.fenceCore (h : Canon s) : Canon (fenceCore s id) := by
  unfold Machine.fenceCore
  extract_lets u v
  have hu : Canon u := h.applyHeld.withdraw.dropPower
  have hv : Canon v := hu.onCore (fun c _ => storesWf_freeCore c)
  split
  · exact hu
  · split
    · exact hv.endInterrupted
    · exact hv

theorem Canon.fenceDie (h : Canon s) {d : Fin 8} : Canon (fenceDie s d) := by
  unfold Machine.fenceDie
  extract_lets mine u v w
  have hu : Canon u := h.foldl (fun _ _ h => h.fenceCore) _
  have hv : Canon v := hu.foldl (fun _ b h => h.dirRefresh b) _
  have hw : Canon w := hv.frame
  exact hw.onBase

theorem Canon.execDiefence (h : Canon s) : CanonOut (execDiefence c n s) := by
  refine h.powered ?_
  split
  · exact h.fenceDie.logEvent.answer
  · exact h.answer

theorem Canon.execDiereset (h : Canon s) : CanonOut (execDiereset c n s) := by
  refine h.powered ?_
  split
  · extract_lets d u v
    have hu : Canon u := h.ite h.fenceDie
    have hv : Canon v := hu.logEvent
    clear_value v
    exact hv.onBase
  · exact h.answer

theorem Canon.overheat (h : Canon s) : Canon (overheat s) := by
  unfold Machine.overheat
  exact Canon.ite (h.foldl (fun _ _ h => h.fenceDie.logEvent) _).logEvent h

theorem Canon.execDieresetResponse (h : Canon s) {die : Fin 8} : CanonOut (execDieresetResponse die s) := by
  unfold Machine.execDieresetResponse
  split
  · exact h
  · exact h.dropWait.onBase.respond.overheat

theorem Canon.execVbtrain (h : Canon s) {chan : Nat} {ok : Bool} : CanonOut (execVbtrain c n chan ok s) := by
  refine h.powered ?_
  split
  · exact h.logVbus.putVchan.answer
  · exact h.answer

theorem Canon.execLvcfg (h : Canon s) {cap costs : Word} : CanonOut (execLvcfg c n cap costs s) := by
  refine h.powered ?_
  split
  · exact CanonOut.ite h.answer h.onBase.answer
  · exact h.answer

theorem Canon.execThermalStep (h : Canon s) {temp : BitVec 8} : CanonOut (execThermalStep temp s) := by
  unfold Machine.execThermalStep
  extract_lets old u
  have hu : Canon u := h.onBase
  exact (hu.overheat.ite hu).out

theorem Canon.execPowerThrottle (h : Canon s) : CanonOut (execPowerThrottle s) := h.onCores (fun _ hc => hc)

theorem Canon.execCapcfgStop (h : Canon s) : CanonOut (execCapcfgStop c pa n s) := h.powered h.onBase.answer

theorem Canon.capStart (h : Canon s) {m : Fin 3} : CanonOut (capStart c pa n m s) :=
  h.powered (h.named (CanonOut.ite h.answer h.onBase.answer))

theorem Canon.execReplay (h : Canon s) : CanonOut (execReplay c pa n s) := by
  refine h.powered (h.named (CanonOut.ite h.answer (h.fetched (fun u bs h => ?_))))
  exact h.onBase

theorem Canon.replayWrite (h : Canon s) {r : Replay} (ht : replayWrite s r = some t) : Canon t := by
  unfold Machine.replayWrite at ht
  split at ht
  · cases ht
  · split at ht
    · cases ht
    · cases ht
      exact h.onBase.foldl (fun _ _ h => h.hostWriteBlock) _

theorem Canon.execAttest (h : Canon s) {quotePa : Nat} : CanonOut (execAttest c pa quotePa s) :=
  h.named (h.named (h.fetched (fun _ _ h => h.basePut.answer)))

theorem Canon.execFwload (h : Canon s) : CanonOut (execFwload c pa s) := by
  unfold Machine.execFwload
  refine h.named (h.fetched (fun u img h => ?_))
  generalize imageVerifies img = verified
  exact CanonOut.ite h.onBase.answer h.answer

/-- The kernels' code is listed writes to the base's memory. -/
theorem Memory.wf_installKernels (b : Base) (img : List Byte) (h : Memory.wf b.mem = true) :
    Memory.wf (installKernels b img).mem = true := by
  unfold installKernels
  refine foldl_keeps (fun b : Base => Memory.wf b.mem = true) _ (fun b p h => ?_) _ b h
  split
  · exact h
  · exact wf_memWriteL _ _ _ h

theorem Canon.execMainRailDown (h : Canon s) : CanonOut (execMainRailDown s) := h.onBase

theorem Canon.execMainRailUp (h : Canon s) : CanonOut (execMainRailUp s) := h.onBase

theorem Canon.execModuleReset (h : Canon s) : CanonOut (execModuleReset s) := by
  unfold Machine.execModuleReset
  dsimp only
  refine Canon.out (Canon.overheat ⟨?_, storesWf_free 0, fun c hc => (List.not_mem_nil hc).elim⟩)
  dsimp only
  refine Memory.wf_installKernels _ _ ?_
  dsimp only
  exact Memory.wf_filter _ _ h.mem

theorem Canon.cycleCore (h : Canon s) : Canon (cycleCore s) := by
  unfold Machine.cycleCore
  extract_lets c still thawed old eff e f csr t
  have he : SameStores e c.eng := {}
  have hf : f.storesWf := by
    unfold f
    split
    · exact he.storesWf h.core
    · exact SameStores.storesWf {} (he.storesWf h.core)
  have ht : Canon t := h.withCore hf
  exact ht.ite ht.lateRecords

theorem Canon.execGtcCycle (h : Canon s) : CanonOut (execGtcCycle s) := by
  unfold Machine.execGtcCycle
  extract_lets t
  have ht : Canon t :=
    Canon.ite (Canon.slDrain (h.foldl (fun _ _ h => h.atCore (fun _ h => h.cycleCore)) _)).onBase h
  exact ht.frame

end

/-! ## The PAGE group (11 R268 to R278, 12 R300 to R307) -/

section
variable {s t : State} {o : ObjEnt} {a c : XReg} {b : CReg} {tag : Fin 16}

theorem Canon.spanWrite (h : Canon s) {t : Span} : Canon (spanWrite s o t) := by
  unfold Machine.spanWrite
  extract_lets u
  have hu : Canon u := h.foldl (fun _ _ h => h.homePut) _
  exact hu.foldl (fun _ _ h => h.ite h.homePut) _

theorem Canon.atSpanWith {α : Type} (h : Canon s) {also : State → (State → α → Out) → Out} {k : State → α → ObjEnt → Span → Out}
    (ha : ∀ u go, Canon u → (∀ v p, Canon v → CanonOut (go v p)) → CanonOut (also u go))
    (hk : ∀ u p o t, Canon u → CanonOut (k u p o t)) : CanonOut (atSpanWith b s also k) := by
  unfold Machine.atSpanWith
  refine h.withCap (fun u o h => CanonOut.ite (ha _ _ h (fun v p h => ?_)) h.takeTrap)
  exact h.leaving (hk _ _ _ _ h.sent)

theorem Canon.atSpan (h : Canon s) {k : State → ObjEnt → Span → Out} (hk : ∀ u o t, Canon u → CanonOut (k u o t)) :
    CanonOut (atSpan b s k) :=
  h.atSpanWith (fun _ _ h hg => hg _ _ h) (fun _ _ _ _ h => hk _ _ _ h)

theorem Canon.execPgmap (h : Canon s) {d : CReg} : CanonOut (execPgmap a b d tag s) := by
  unfold Machine.execPgmap
  dsimp only
  refine h.atSpanWith (fun u go h hg => h.withCap (fun v o h => hg v o h)) (fun u p o t h => ?_)
  exact CanonOut.ite h.wrX.retire h.spanWrite.wrX.retire

theorem Canon.execPgunmap (h : Canon s) : CanonOut (execPgunmap a b c s) := h.atSpan (fun _ _ _ h => h.spanWrite.wrX.retire)

theorem Canon.askFetch (h : Canon s) {off : Nat} : Canon (askFetch s o off) := h.sent.askExtent

/-- Other posted requests of the core. -/
theorem Canon.withPosted (h : Canon s) {l : List (BitVec 24 × Nat)} : Canon { s with core := { s.core with posted := l } } := h.frame

theorem Canon.execPgfetch (h : Canon s) {imm : BitVec 32} : CanonOut (execPgfetch a b imm s) := by
  refine h.withHome (fun u o off h => ?_)
  extract_lets answer
  have ha : ∀ {u v}, Canon u → CanonOut (answer u v) := fun h => h.setWait.wrX.retire
  refine CanonOut.ite (ha h.sent) ?_
  split
  · exact CanonOut.ite (ha h) (CanonOut.ite (ha h) h.out)
  · exact ha h.sent
  · exact CanonOut.ite (ha h.sent) (CanonOut.ite (ha h.askFetch.withPosted) h.askFetch.setWait)

theorem Canon.execSptag (h : Canon s) : CanonOut (execSptag b c tag s) := by
  refine h.atSpan (fun u o t h => ?_)
  dsimp only
  split
  · exact h.spanWrite.retire
  · split
    · exact CanonOut.ite h.spanWrite.retire h.takeTrap
    · exact h.takeTrap

theorem Canon.execSpret (h : Canon s) {mode : Bool} : CanonOut (execSpret a b tag mode s) :=
  h.atSpan (fun _ _ _ h => h.spanWrite.wrX.retire)

theorem Canon.execSptrunc (h : Canon s) : CanonOut (execSptrunc a b c s) := h.atSpan (fun _ _ _ h => h.spanWrite.wrX.retire)

theorem Canon.execSpposGet (h : Canon s) : CanonOut (execSpposGet a b c s) := h.atSpan (fun _ _ _ h => h.wrX.retire)

theorem Canon.execSpposSet (h : Canon s) : CanonOut (execSpposSet a b c s) := h.atSpan (fun _ _ _ h => h.spanWrite.wrX.retire)

end

/-! ## The SYS group (05 R115 to R121) -/

section
variable {s : State} {a : XReg}

theorem Canon.execHalt (h : Canon s) : CanonOut (execHalt s) := h.kernelOnly h.faultLease

theorem Canon.execTrap (h : Canon s) {code : BitVec 16} : CanonOut (execTrap code s) := h.takeTrapAt

theorem Canon.execEret (h : Canon s) : CanonOut (execEret s) := h.kernelOnly h.doEret

theorem Canon.execCsrr (h : Canon s) {csr : Fin 4096} : CanonOut (execCsrr a csr s) := by
  unfold Machine.execCsrr
  exact CanonOut.ite (CanonOut.ite h.readGtc.wrX.retire h.wrX.retire) h.takeTrap

theorem Canon.csrWriteForm (h : Canon s) {csr : Fin 4096} {v : Word} : CanonOut (csrWriteForm csr v s) :=
  CanonOut.ite (CanonOut.ite h.takeTrap h.onCsr.retire) h.takeTrap

theorem Canon.execGtime (h : Canon s) : CanonOut (execGtime a s) := h.readGtc.wrX.retire

theorem Canon.execRngnext (h : Canon s) : CanonOut (execRngnext a s) := h.wrX.onCsr.retire

end

/-! ## Every row of the opcode table -/

section
variable {s : State} {cmd : Instr} {qd qs qx : Fin 16}

theorem Canon.rowsIssue (h : Canon s) {more : Job → Bool} : CanonOut (rowsIssue s cmd qd qs qx more) := h.copyIssue

theorem Canon.topIssue (h : Canon s) {limits : State → Job → List Nat} {ok : Job → Bool} :
    CanonOut (topIssue s cmd qd qs qx limits ok) :=
  h.copyIssue

theorem Canon.execTopkcTab (h : Canon s) {hdr : Hdr} {ch : Fin 4} {bc : Bool} {e0 : Fin 4096} {kcap : Fin 512} :
    CanonOut (execTopkcTab hdr ch qd qs qx bc e0 kcap s) := by
  unfold Machine.execTopkcTab
  exact h.topIssue

theorem Canon.packIssue (h : Canon s) : CanonOut (packIssue s cmd qd qs qx) := h.copyIssue

theorem Canon.accIssue (h : Canon s) {rd : Bool} : CanonOut (accIssue s cmd qd qs rd) := h.copyIssue

/-- Every instruction and every event keeps the form. -/
theorem Canon.exec (h : Canon s) (i : Instr) : CanonOut (exec i s) := by
  cases i with dsimp only [Machine.exec]
  | nop | hint => exact h.retire
  | halt => exact h.execHalt
  | trap => exact h.execTrap
  | eret => exact h.execEret
  | csrr => exact h.execCsrr
  | csrw | csrset | csrclr => exact h.csrWriteForm
  | gtime => exact h.execGtime
  | rngnext => exact h.execRngnext
  | add | sub | and | or | xor | sll | srl | sra | mul | mulh | div | divn | rem | remn | min | max | minn | maxn | slt
  | sltn | clz | ctz | popc | clmul | clmulh | addi | andi | ori | xori | slli | srli | srai | slti | sltni | movhi => exact h.wrX.retire
  | beq | bne | blt | bge | bltn | bgen => exact h.branch
  | jal => exact h.wrX.jumpTo
  | jalr => exact h.execJalr
  | ld => exact h.execLd
  | st => exact h.execSt
  | cderive => exact h.execCderive
  | crestrict => exact h.execCrestrict
  | csetoff | cincoff => exact h.moveCursor
  | cgetbase | cgetlen | cgetoff => exact h.wrX.retire
  | cldc => exact h.execCldc
  | cstc => exact h.execCstc
  | rtail => exact h.execRtail
  | rstat => exact h.wrX.retire
  | salign => exact h.execSalign
  | fpush => exact h.execFpush
  | slotrd => exact h.execSlotrd
  | ecsrr => exact h.execEcsrr
  | ecsrw => exact h.execEcsrw
  | tretire => exact h.execTretire
  | stgput => exact h.execStgput
  | stgget => exact h.execStgget
  | dispatch => exact h.execDispatch
  | launch => exact h.execLaunch
  | aadd | aand | aor | axor | amin | amax | aminn | amaxn | aswp | acas | fadd => exact h.valueAtomic
  | lr => exact h.execLr
  | sc => exact h.execSc
  | fence => exact h.execFence
  | binit => exact h.execBinit
  | bxfer => exact h.execBxfer
  | barr => exact h.execBarr
  | bwait => exact h.execBwait
  | barrw => exact h.execBarrw
  | bfree => exact h.execBfree
  | soinit => exact h.execSoinit
  | acq => exact h.execAcq
  | rel => exact h.execRel
  | rbind => exact h.execRbind
  | rmode => exact h.execRmode
  | dcfg => exact h.execDcfg
  | dq => exact h.execDq
  | drebuild => exact h.execDrebuild
  | pgmap => exact h.execPgmap
  | pgunmap => exact h.execPgunmap
  | pgfetch => exact h.execPgfetch
  | sptag => exact h.execSptag
  | spret => exact h.execSpret
  | sptrunc => exact h.execSptrunc
  | spposGet => exact h.execSpposGet
  | spposSet => exact h.execSpposSet
  | align => exact h
  | engineHint => exact h.execEngineHint
  | cnop => exact h.nopIssue
  | qld => exact h.execQld
  | cpy | fill => exact h.copyIssue
  | gather | scatter | scatadd => exact h.rowsIssue
  | topkr | topkc => exact h.topIssue
  | topkcTab => exact h.execTopkcTab
  | compact | expand => exact h.packIssue
  | accrd | accwr => exact h.accIssue
  | dscan | dskip => exact h.copyIssue
  | prefetch => exact h.execPrefetch
  | evict => exact h.execEvict
  | chkarm => exact h.execChkarm
  | mnop => exact h.nopIssue
  | wload => exact h.matIssue (fun _ _ h => h)
  | wconst | wfree => exact h.matIssue (fun _ _ h => h.addPend)
  | mma | mmat | mmaz => exact h.mmaIssue
  | accz => exact h.matIssue (fun _ _ h => h.addPend.onTile)
  | slmap => exact h.matIssue (fun _ _ h => h.takeAlloc)
  | slclr => exact h.matIssue (fun _ _ h => h.onTile)
  | slspill => exact h.execSlspill
  | slfill => exact h.execSlfill
  | bind | drain => exact h.matIssue (fun _ _ h => h)
  | drainq => exact h.execDrainq
  | vnop => exact h.nopIssue
  | vwin => exact h.execVwin
  | vmov | vadd | vsub | vmul | vfma | vmin | vmax | vabs | vneg | vdiv | vsqrt | vrsq | vrcp | vexp2 | vlog2 | vcvt | vand
  | vor | vxor | vshl | vshr | vshra | vpopc | vctz | vclmul | vpxor | vpsum | vred | vcmp | vsel | vbcast | viota | vperm
  | vcompr | vld => exact h.vecIssue
  | vldg => exact h.gIssue
  | vst => exact h.execVst
  | vstg => exact h.gIssue
  | vmtest | mand | mor | mnot | mpop => exact h.vecIssue
  | segmentRelease => exact h.execSegmentRelease
  | powerLeaveGrant => exact h.execPowerLeaveGrant
  | ringIdle => exact h.execRingIdle
  | engineReadStep => exact h.execEngineReadStep
  | timedWritePerform => exact h.execTimedWritePerform
  | dataArrival => exact h.execDataArrival
  | freezeResume => exact h.execFreezeResume
  | freezeTimeout => exact h.execFreezeTimeout
  | engineFaultTrap => exact h.execEngineFaultTrap
  | translationFaultReport => exact h.execTranslationFaultReport
  | causeResolved => exact h.execCauseResolved
  | copyStop => exact h.execCopyStop
  | restart => exact h.restartOp.ite h
  | discard => exact h.discardOp.ite h
  | rgcfgWrite => exact h.execRgcfgWrite
  | registerWrite => exact h.execRegisterWrite
  | slcfgWrite => exact h.execSlcfgWrite
  | pbktWrite => exact h.execPbktWrite
  | preemption => exact h.execPreemption
  | contextResume => exact h.execContextResume
  | launchWalk => exact h.execLaunchWalk
  | leaseStart => exact h.execLeaseStart
  | homeTransaction => exact h.execHomeTransaction
  | homeResponse => exact h.execHomeResponse
  | postedBarrRefusal => exact h.execPostedBarrRefusal
  | barrierRelease => exact h.execBarrierRelease
  | reservationTimeout => exact h.execReservationTimeout
  | storeBufferDrain => exact h.drainOne
  | directoryProbe => exact h.execDirectoryProbe
  | retentionWakeWriteback => exact h.execRetentionWakeWriteback
  | transferParityError => exact h.execTransferParityError
  | memoryErrorReport => exact h.execMemoryErrorReport
  | transferRetry => exact h.execTransferRetry
  | channelRetrainDone => exact h.execChannelRetrainDone
  | halfWidthDone => exact h.execHalfWidthDone
  | hostRead => exact h.execHostRead
  | hostWrite => exact h.execHostWrite
  | hostAtomic => exact h.execHostAtomic
  | hostLineInvalidate => exact h.execHostLineInvalidate
  | hcqtailWrite => exact h.execHcqtailWrite
  | hcqbaseWrite => exact h.execHcqbaseWrite
  | kernelDoorbell => exact h.execKernelDoorbell
  | sidebandMessage => exact h.execSidebandMessage
  | sidebandLogRead => exact h.execSidebandLogRead
  | objset => exact h.execObjset
  | objextResolve => exact h.execObjextResolve
  | objextFail => exact h.execObjextFail
  | objinv => exact h.execObjinv
  | objinvTimeout => exact h.execObjinvTimeout
  | objrd => exact h.execObjrd
  | capstore => exact h.execCapstore
  | spcreate => exact h.execSpcreate
  | biasToHost => exact h.execBiasToHost
  | biasToDevice => exact h.execBiasToDevice
  | launchq => exact h.execLaunchq
  | qcfg => exact h.execQcfg
  | diefence => exact h.execDiefence
  | diereset => exact h.execDiereset
  | vbtrain => exact h.execVbtrain
  | lvcfg => exact h.execLvcfg
  | capcfgStop => exact h.execCapcfgStop
  | capcfgFull | capcfgWrap => exact h.capStart
  | replay => exact h.execReplay
  | attest => exact h.execAttest
  | fwload => exact h.execFwload
  | thermalStep => exact h.execThermalStep
  | powerThrottle => exact h.execPowerThrottle
  | moduleReset => exact h.execModuleReset
  | gtcCycle => exact h.execGtcCycle
  | mainRailDown => exact h.execMainRailDown
  | mainRailUp => exact h.execMainRailUp
  | dieresetResponse => exact h.execDieresetResponse
  | contextRelease => exact h.execContextRelease

end

/-! ## The schedule (01 R4, R10, R13, 04 R99, 22 R389 to R391) -/

/-- The state at which an action runs an instruction, or to which it goes, has canonical memories. -/
def CanonAct : Action → Prop
  | .run s _ => Canon s
  | .go s => Canon s

/-- What may come next, if anything, keeps the form. -/
def CanonMay : Option Action → Prop
  | some a => CanonAct a
  | none => True

theorem CanonAct.ite {c : Prop} [Decidable c] {a b : Action} (ha : CanonAct a) (hb : CanonAct b) : CanonAct (if c then a else b) := by
  split
  · exact ha
  · exact hb

theorem CanonMay.ite {c : Prop} [Decidable c] {o p : Option Action} (ho : CanonMay o) (hp : CanonMay p) :
    CanonMay (if c then o else p) := by
  split
  · exact ho
  · exact hp

/-- The action of an option, once it is known. -/
theorem CanonMay.of_eq {o : Option Action} {a : Action} (h : CanonMay o) (e : o = some a) : CanonAct a := by
  subst e
  exact h

theorem CanonMay.findSome {α : Type} {f : α → Option Action} (hf : ∀ a, CanonMay (f a)) (l : List α) :
    CanonMay (l.findSome? f) := by
  cases h : l.findSome? f with
  | none => trivial
  | some a =>
    obtain ⟨b, -, hb⟩ := List.exists_of_findSome?_eq_some h
    exact (hf b).of_eq hb

/-- What comes next if it may, else another action. -/
theorem CanonMay.getD {o : Option Action} {a : Action} (ho : CanonMay o) (ha : CanonAct a) : CanonAct (o.getD a) := by
  cases o with
  | none => exact ha
  | some b => exact ho

section
variable {s t : State} {e : Eng}

theorem Canon.go (h : Canon s) : CanonAct (.go s) := h

theorem Canon.run (h : Canon s) {i : Instr} : CanonAct (.run s i) := h

theorem Canon.may (h : Canon s) {i : Instr} : CanonMay (some (.run s i)) := h

theorem Canon.mayGo (h : Canon s) : CanonMay (some (.go s)) := h

theorem CanonMay.none : CanonMay none := trivial

/-! ### The base -/

theorem Canon.nextCmd (h : Canon s) : CanonMay (nextCmd s) := by
  unfold Machine.nextCmd
  split
  · trivial
  · refine CanonMay.ite .none ?_
    dsimp only
    split
    · exact h.onBase.may
    · exact h.onBase.respond.mayGo

theorem Canon.giveUpAct (h : Canon s) {r : Report} : CanonAct (giveUpAct s t r) := by
  unfold Machine.giveUpAct
  dsimp only
  split
  · exact h
  · exact h.atCore (fun _ h => h.giveUp)

theorem Canon.reportAct (h : Canon s) : CanonMay (reportAct s t) := by
  unfold Machine.reportAct
  dsimp only
  split
  · exact h.may
  · exact h.may
  · refine CanonMay.ite .none ?_
    split
    · exact h.giveUpAct
    · exact CanonMay.ite h.may .none

theorem Canon.walkAct (h : Canon s) : CanonMay (walkAct s) := by
  unfold Machine.walkAct
  split
  · exact h.may
  · exact .findSome (fun l => .findSome (fun g => .ite h.may .none) _) _

theorem Canon.replayAct (h : Canon s) {r : Replay} : CanonMay (replayAct s r) := by
  unfold Machine.replayAct
  extract_lets refused
  have hr : CanonMay refused := h.endReplay.mayGo
  split
  · rename_i hw
    exact (h.replayWrite hw).mayGo
  · exact .ite hr h.may
  · exact .ite hr (.ite .none (.ite h.may .none))
  · exact .ite hr (.ite .none h.endReplay.mayGo)

theorem Canon.waitAct (h : Canon s) (w : CmdWait) : CanonMay (waitAct s w) := by
  unfold Machine.waitAct
  split
  · exact .ite h.finishInv.mayGo (.ite h.may .none)
  · exact .ite h.may .none

theorem Canon.railAct (h : Canon s) : CanonMay (railAct s) := by
  unfold Machine.railAct
  split
  · exact h.dropWait.respond.mayGo
  · split
    · exact h.endReplay.mayGo
    · exact h.nextCmd

theorem Canon.baseAct (h : Canon s) : CanonMay (baseAct s) := by
  unfold Machine.baseAct
  split
  · exact Canon.may h.frame
  · refine .ite h.railAct (.ite h.may (.ite h.may (.ite h.may ?_)))
    have hr : CanonMay (someCore s (Machine.reportAct s)) := .findSome (fun _ => h.reportAct) _
    have hw : CanonMay (s.base.cmdWaits.findSome? (Machine.waitAct s)) := .findSome h.waitAct _
    split
    · rename_i ha
      exact hr.of_eq ha
    · refine .ite h.may (.ite h.may ?_)
      split
      · exact h.may
      · split
        · exact h.may
        · split
          · rename_i ha
            exact hw.of_eq ha
          · split
            · rename_i ha
              exact h.nextCmd.of_eq ha
            · split
              · exact h.replayAct
              · exact h.walkAct

/-! ### A core -/

theorem Canon.ringStep (h : Canon s) : CanonMay (ringStep s e) := by
  unfold Machine.ringStep
  split
  · trivial
  · exact h.may
  · exact h.ringFault.mayGo
  · exact h.ringFault.mayGo
  · exact h.may

theorem Canon.engineAct (h : Canon s) : CanonMay (engineAct s e) := CanonMay.ite h.may h.ringStep

theorem Canon.frozenAct (h : Canon s) {f : Freeze} : CanonMay (frozenAct s f) := by
  unfold Machine.frozenAct
  refine .ite h.may (.ite h.raiseEFault.mayGo (.ite h.may ?_))
  cases freeJob s f with
  | none => trivial
  | some j => exact h.readStep.mayGo

theorem Canon.lateAct (h : Canon s) : CanonMay (lateAct s) := by
  unfold Machine.lateAct
  split
  · exact h.formNext.attempt.mayGo
  · exact h.readStep.attempt.mayGo
  · cases hn : Machine.renewNext s with
    | none => trivial
    | some t => exact (h.renewNext hn).mayGo

theorem Canon.engAct (h : Canon s) : CanonMay (engAct s) := by
  unfold Machine.engAct
  refine .ite .none ?_
  split
  · rename_i ha
    exact h.lateAct.of_eq ha
  · refine .ite .none ?_
    split
    · exact h.frozenAct
    · exact .ite .none (.ite h.refreeze.mayGo (.findSome (fun _ => h.engineAct) _))

theorem Canon.perfAct (h : Canon s) : CanonMay (perfAct s) := by
  unfold Machine.perfAct
  refine .ite .none (.ite h.may (.ite h.may ?_))
  split
  · rename_i hb
    exact (h.landBlocked hb).mayGo
  · cases newReport s with
    | none => trivial
    | some r => exact h.addReport.mayGo

theorem Canon.fetchAct (h : Canon s) : CanonAct (fetchAct s) := by
  refine h.withCode (P := CanonAct) (fun u w h => ?_) (fun _ h => h)
  split
  · exact h
  · exact h.takeTrap

/-- Another phase of the cycle. -/
theorem Canon.withPhase (h : Canon s) {p : Phase} : Canon { s with phase := p } := h.frame

theorem Canon.seqAct (h : Canon s) : CanonAct (seqAct s) := by
  unfold Machine.seqAct
  exact .ite h.go (.ite h.faultLease.go (.ite h.run (.ite h.run (.ite h.withPhase.run (.ite h.run h.fetchAct)))))

/-- The turn passes: the cores are the same. -/
theorem Canon.turnCore (h : Canon s) : Canon (turnCore s) := by
  unfold Machine.turnCore
  extract_lets last t
  have ht : Canon t := by
    unfold t
    split
    · exact h
    · rename_i c rest hc
      have ho : ∀ d ∈ c :: rest, d.eng.storesWf := hc ▸ h.others
      refine ⟨h.mem, ho c List.mem_cons_self, fun d hd => ?_⟩
      rcases List.mem_append.1 hd with hd | hd
      · exact ho d (List.mem_cons_of_mem _ hd)
      · rw [List.mem_singleton.1 hd]
        exact h.core
  clear_value t
  exact ht.frame.ite ht.frame

theorem Canon.nextAction (h : Canon s) : CanonAct (nextAction s) := by
  unfold Machine.nextAction
  split
  · exact h.baseAct.getD h.withPhase.go
  · exact h.engAct.getD h.withPhase.go
  · exact h.perfAct.getD h.settle.withPhase.go
  · exact .ite h.withPhase.go h.withPhase.run
  · exact h.withPhase.seqAct
  · exact h.turnCore.go
  · exact h.withPhase.run

/-- One step keeps the form. -/
theorem Canon.step (h : Canon s) : CanonOut (step s) := by
  have ha : CanonAct (Machine.nextAction s) := h.nextAction
  unfold Machine.step
  split
  · rename_i hr
    rw [hr] at ha
    exact Canon.exec ha _
  · rename_i hr
    rw [hr] at ha
    exact ha

end

end Sys2Proof.Machine

/-- Settles O59: every instruction, every event and every action of the schedule keeps the form, by the lemma `Canon.<operation>`
of each. -/
theorem stepsKeepTheMemoriesCanonical : Obligations.StepsKeepTheMemoriesCanonical := by
  intro s t hs hst
  rw [Sys2Proof.Machine.canonical_iff] at hs ⊢
  exact hs.step.next hst
end

section
/-! Settled for the engines and tiles: what the events of a core's engines do, event by event (01 R10 to R26, 04 R97 to R110, 06 R157 to
R159, 08 R191, R192), in the words of the claims. -/

open Sys2Proof Sys2Proof.Machine Sys2Proof.Claims

namespace Sys2Proof.Machine

/-! ## Freezes and engine faults (04 R99, R110) -/

/-- A fault is recorded as the claims say: unless one that is recorded stands against it. -/
theorem raiseEFault_eq_faulted (s : State) (f : EFault) : raiseEFault s f = faulted s f := by
  unfold raiseEFault faulted
  cases hf : s.core.eng.efault with
  | none => rfl
  | some old =>
    have stands : standsAgainst s old f = true ↔
        ¬ (f.eng.code < old.eng.code ∧ s.core.eng.freeze.map (fun z => z.since) = some s.gtc) := by
      cases hz : s.core.eng.freeze <;> simp [standsAgainst, hz, imp_iff_not_or]
    by_cases hc : f.eng.code < old.eng.code ∧ s.core.eng.freeze.map (fun z => z.since) = some s.gtc
    · have hn : ¬ standsAgainst s old f = true := fun h => stands.1 h hc
      simp only [Option.map_some, Option.getD_some, if_neg hn, if_pos hc]
    · simp only [Option.map_some, Option.getD_some, if_pos (stands.2 hc), if_neg hc]

/-- A freeze whose record needs nothing and names no channel. -/
theorem freezeCore_eq_frozen (s : State) (cause : Nat) (slot : Fin 16) (e : Eng) (step : Nat) (job : Option Nat) :
    freezeCore s ⟨cause, slot, e, step, s.gtc, job, 0, 0, none⟩ = frozen s cause slot e step job := by
  unfold freezeCore frozen
  cases hf : s.core.eng.freeze with
  | none => rfl
  | some f => rfl

theorem onJob_eq_withJob (s : State) (id : Nat) (f : Job → Job) : onJob s id f = withJob s id f := rfl

/-- A failed check under STRICT or, of a check that is made, any mode but ELASTIC is a schedule fault (01 R20). -/
theorem checkMissed_strict (s : State) (e : Eng) (slot : Fin 16) (entry step : Nat) (job : Option Nat) (js : List Job)
    (reads : Option (List Rng)) (h : s.core.csr.schmode ≠ 1) :
    checkMissed s e slot entry step job js reads = faulted s ⟨0x11, 1, e, entry, step, word slot.val⟩ := by
  rw [checkMissed, if_neg h, raiseEFault_eq_faulted]

/-- A failed check under ELASTIC freezes the core, or is an unbounded wait (01 R21). -/
theorem checkMissed_elastic (s : State) (e : Eng) (slot : Fin 16) (entry step : Nat) (job : Option Nat) (js : List Job)
    (reads : Option (List Rng)) (h : s.core.csr.schmode = 1) :
    checkMissed s e slot entry step job js reads =
      if unbounded s js reads then faulted s ⟨0x11, 3, e, entry, step, 0⟩ else frozen s 1 slot e step job := by
  rw [checkMissed, if_pos h, raiseEFault_eq_faulted, freezeCore_eq_frozen]

/-! ## Read steps (01 R18 to R26) -/

/-- Forming a step, as the claims say it. -/
theorem formNext_eq_formed (s : State) (j : Job) : formNext s j = Claims.formed s j := by
  unfold formNext Claims.formed
  cases stepForm s j j.formed with
  | stay t => rfl
  | done t =>
    simp only [checkRecords, raiseEFault_eq_faulted, freezeCore_eq_frozen, onJob_eq_withJob]
    rfl

/-- A read step: its reads, and what it forms of them when no earlier step of its command still waits. -/
theorem readStep_eq (s : State) (j k : Job) (h : findJob (withJob (stepRead s j j.step) j.id (fun k => { k with step := j.step + 1 })) j.id = some k) :
    readStep s j =
      let v := withJob (stepRead s j j.step) j.id (fun k => { k with step := j.step + 1 })
      if k.stop = none ∧ k.formed = j.step then Claims.formed v k else v := by
  simp only [readStep, onJob_eq_withJob, h, formNext_eq_formed, Bool.and_eq_true, Option.isNone_iff_eq_none, beq_iff_eq]

section
variable {s : State} {j : Job} (hf : s.core.eng.freeze = none) (hj : dueJob s = some j)
include hf hj

/-- A due read step whose channel check fails. -/
theorem engineReadStep_missed (hm : chanFails s j (nextReads s j) = true ∧ s.core.csr.schmode ≠ 2) :
    exec .engineReadStep s = .next (checkMissed s j.eng (cmdHdr j.cmd).schk j.entry.toNat (stepCycle j j.step) (some j.id)
      (chanEarlier s j) (some (nextReads s j))) := by
  have hb : (s.core.csr.schmode != 2 && chanFails s j (nextReads s j)) = true := by
    simpa [and_comm] using hm
  simp only [exec, execEngineReadStep, hf, hj, Option.isSome_none, Bool.false_eq_true, if_false, if_pos hb]

/-- A due read step whose channel check passes. -/
theorem engineReadStep_passed (hm : ¬ (chanFails s j (nextReads s j) = true ∧ s.core.csr.schmode ≠ 2)) :
    exec .engineReadStep s = .next (readStep (checkEarly s j.eng (nextReads s j ++ matEarly j j.step)) j) := by
  have hb : ¬ (s.core.csr.schmode != 2 && chanFails s j (nextReads s j)) = true := by
    simpa [and_comm] using hm
  simp only [exec, execEngineReadStep, hf, hj, Option.isSome_none, Bool.false_eq_true, if_false, if_neg hb]

end

/-- A ring with nothing left to issue goes idle at the end of its last command's occupancy (01 R10). -/
theorem ringIdle_runs_out (s : State) (e : Eng) (hen : (s.core.eng.rings[engIdx e]).en = true)
    (hidle : (s.core.eng.rings[engIdx e]).idle = false) (hvis : (s.core.eng.rings[engIdx e]).vis = (s.core.eng.rings[engIdx e]).head)
    (hnext : (s.core.eng.rings[engIdx e]).nextIss ≤ s.core.csr.scc) :
    exec (.ringIdle e) s = .next (withRing s e { s.core.eng.rings[engIdx e] with idle := true }) := by
  have word : ringWord s.core.eng (engIdx e) = none := by
    simp only [ringWord, hen, hvis, bne_self_eq_false, Bool.and_false, Bool.false_eq_true, if_false]
  have act : ringAct s e = .idle := by
    simp only [ringAct, word, hen, hidle, hvis, hnext, Bool.not_false, beq_self_eq_true, decide_true, Bool.and_self, if_true]
  simp only [exec, execRingIdle, act]
  rfl

/-! ## What happens at another core (04 R110) -/

/-- At the current core. -/
theorem atCore_self {s : State} {k : Nat} (h : s.core.id = k) (f : State → State) : atCore s k f = f s := if_pos h

/-- What is done at core `k` matters only where `k` is the current core. -/
theorem atCore_congr (s : State) (k : Nat) (f g : State → State) (h : ∀ t : State, t.core.id = k → f t = g t) :
    atCore s k f = atCore s k g := by
  unfold atCore
  split
  · exact h s ‹_›
  · cases hc : s.others.find? (fun c => c.id == k) with
    | none => rfl
    | some c =>
      have hk : c.id = k := by simpa using List.find?_some hc
      simp only [h { s with core := c, others := s.others.map (fun d => if d.id = k then s.core else d) } hk]

/-- The holds of the world may change before the core's turn, or in it. -/
theorem atCore_holds (s : State) (k : Nat) (p : Hold → Bool) (f : State → State)  (h : ∃ c ∈ s.others, c.id = k) :
    atCore { s with holds := s.holds.filter p } k f = atCore s k (fun t => f { t with holds := t.holds.filter p }) := by
  unfold atCore
  split
  · rfl
  · obtain ⟨c, hc⟩ : ∃ c, s.others.find? (fun c => c.id == k) = some c := by
      obtain ⟨d, hd, rfl⟩ := h
      exact Option.isSome_iff_exists.1 (List.find?_isSome.2 ⟨d, hd, beq_self_eq_true _⟩)
    simp only [hc]

/-- The state that an event answers. -/
theorem after_next {i : Instr} {s t : State} (h : exec i s = .next t) : after i s = t := by simp only [after, h]

/-- An event that acts at the core that it names means the same at every core. -/
theorem sameElsewhere_of_atCore (i : Nat → Instr) (f : Nat → State → State) (h : ∀ s k, exec (i k) s = .next (atCore s k (f k)))
    (s : State) : SameElsewhere s i := by
  intro k _ _
  rw [h]
  refine congrArg _ (atCore_congr s k _ _ fun t ht => ?_)
  rw [after_next (h t k), atCore_self ht]

/-! ## Timed writes (01 R23 to R26) -/

/-- A write that is not late, or has room in the cycle, performs whole. -/
theorem performPend_whole (s : State) (p : Pend) (n : Nat) (h : ¬ ((!standing s && p.pcyc < s.core.csr.scc) && portLeft s < pendSpad p) = true)
    (hn : n = if (!standing s && p.pcyc < s.core.csr.scc) then pendSpad p else 0) :
    performPend s p = performed s p p.w p.len n [] := by
  simp only [performPend, if_neg h, hn]
  rfl

/-- A late write that is wider than the ports left performs in part. -/
theorem performPend_part (s : State) (p now rest : Pend)
    (h : ((!standing s && p.pcyc < s.core.csr.scc) && portLeft s < pendSpad p) = true) (hs : splitPend p (portLeft s) = some (now, rest))
    (hpos : now.pos = p.pos) :
    performPend s p = performed s p now.w now.len (pendSpad now) [rest] := by
  have late : (!standing s && p.pcyc < s.core.csr.scc) = true := (Bool.and_eq_true_iff.1 h).1
  simp only [performPend, if_pos h, hs, if_pos late, hpos]
  rfl

/-- Bytes are cut at the ports left. -/
theorem splitPend_bytes {p : Pend} {st : Store} {ws : List (Int × Byte)} {n : Nat} (hw : p.w = .bytes st ws) (h0 : 0 < n) (hn : n < p.len) :
    splitPend p n = some ({ p with len := n, w := .bytes st (ws.take n) },
      { p with pos := p.pos + n, len := p.len - n, w := .bytes st (ws.drop n) }) := by
  simp only [splitPend, hw, if_pos (And.intro h0 hn)]

/-- Values that are added are cut between elements. -/
theorem splitPend_accum {p : Pend} {st : Store} {ty : Fin 16} {rm : Fin 4} {hs : List (List Int × Addend)} {n : Nat}
    (hw : p.w = .accum st ty rm hs) (h0 : 0 < n / max 1 (tySize ty.val)) (hn : n / max 1 (tySize ty.val) * max 1 (tySize ty.val) < p.len) :
    let z := max 1 (tySize ty.val)
    splitPend p n = some ({ p with len := n / z * z, w := .accum st ty rm (hs.take (n / z)) },
      { p with pos := p.pos + n / z * z, len := p.len - n / z * z, w := .accum st ty rm (hs.drop (n / z)) }) := by
  have hz : 0 < n / max 1 (tySize ty.val) * max 1 (tySize ty.val) := Nat.mul_pos h0 (by omega)
  simp only [splitPend, hw, if_pos (And.intro hz hn)]

section
variable {s : State} {p : Pend} (hp : nextPerform s (nextReads s) = some p)
include hp

theorem timedWritePerform_next : exec .timedWritePerform s = .next (performPend s p) := by
  simp only [exec, execTimedWritePerform, hp]

/-- The four ways in which the next timed write performs (01 R16, R25). -/
theorem timedWritePerform_whole (h : ¬ (standing s = false ∧ p.pcyc < s.core.csr.scc)) :
    exec .timedWritePerform s = .next (performed s p p.w p.len 0 []) := by
  have late : ¬ (!standing s && decide (p.pcyc < s.core.csr.scc)) = true := by simpa using h
  rw [timedWritePerform_next hp, performPend_whole s p 0 (fun hl => late (Bool.and_eq_true_iff.1 hl).1) (if_neg late).symm]

theorem timedWritePerform_late (h : standing s = false ∧ p.pcyc < s.core.csr.scc) (hw : pendSpad p ≤ portLeft s) :
    exec .timedWritePerform s = .next (performed s p p.w p.len (pendSpad p) []) := by
  have late : (!standing s && decide (p.pcyc < s.core.csr.scc)) = true := by simpa using h
  rw [timedWritePerform_next hp, performPend_whole s p (pendSpad p) (by simpa using fun _ _ => hw) (if_pos late).symm]

theorem timedWritePerform_part {now rest : Pend} (h : standing s = false ∧ p.pcyc < s.core.csr.scc) (hw : portLeft s < pendSpad p)
    (hs : splitPend p (portLeft s) = some (now, rest)) (hpos : now.pos = p.pos) :
    exec .timedWritePerform s = .next (performed s p now.w now.len (pendSpad now) [rest]) := by
  rw [timedWritePerform_next hp, performPend_part s p now rest (by simpa using ⟨h, hw⟩) hs hpos]

theorem timedWritePerform_bytes (h : standing s = false ∧ p.pcyc < s.core.csr.scc) (h0 : 0 < portLeft s) (hn : portLeft s < p.len)
    {ws : List (Int × Byte)} (hw : p.w = .bytes .spad ws) (hl : portLeft s < ws.length) :
    exec .timedWritePerform s = .next (performed s p (.bytes .spad (ws.take (portLeft s))) (portLeft s) (portLeft s)
      [{ p with pos := p.pos + portLeft s, len := p.len - portLeft s, w := .bytes .spad (ws.drop (portLeft s)) }]) := by
  have hp' := timedWritePerform_part hp h (by simpa only [pendSpad, hw] using hl) (splitPend_bytes hw h0 hn) rfl
  rw [hp']
  simp only [pendSpad, List.length_take, min_eq_left hl.le]

theorem timedWritePerform_accum (h : standing s = false ∧ p.pcyc < s.core.csr.scc) (hl : portLeft s < pendSpad p)
    {ty : Fin 16} {rm : Fin 4} {hs : List (List Int × Addend)} (hw : p.w = .accum .spad ty rm hs)
    (h0 : 0 < portLeft s / max 1 (tySize ty.val)) (hn : portLeft s / max 1 (tySize ty.val) * max 1 (tySize ty.val) < p.len) :
    let z := max 1 (tySize ty.val)
    let m := portLeft s / z
    exec .timedWritePerform s = .next (performed s p (.accum .spad ty rm (hs.take m)) (m * z)
      (((hs.take m).map (fun h => h.1.length)).sum)
      [{ p with pos := p.pos + m * z, len := p.len - m * z, w := .accum .spad ty rm (hs.drop m) }]) :=
  timedWritePerform_part hp h hl (splitPend_accum hw h0 hn) rfl

end

/-! ## Landings (01 R24, 09 R223) -/

/-- The state in which a write that leaves the list lands. -/
def landingFrom (s : State) (t : Transit) : State := withEng s { s.core.eng with transit := s.core.eng.transit.erase t }

/-- Whether the drop of a byte is already reported: for this command, or as an engine fault. -/
def clobTold (s : State) (t : Transit) : Prop := s.core.eng.efault ≠ none ∨ ∃ j, findJob s t.job = some j ∧ j.clob = true

theorem clobTold_iff (s : State) (t : Transit) :
    (((findJob s t.job).map (fun j => j.clob)).getD false || s.core.eng.efault.isSome) = true ↔ clobTold s t := by
  unfold clobTold
  cases findJob s t.job <;> cases s.core.eng.efault <;> simp

/-- A landing: what the home does, the report of a dropped byte, and the positions counted. -/
theorem landTransit_eq (s : State) (t : Transit) :
    let r := landWrite (landingFrom s t) t
    landTransit s t = withJob (r.2.elim r.1 (fun off =>
        if ((findJob s t.job).map (fun j => j.clob)).getD false || s.core.eng.efault.isSome then r.1
        else onJob (raiseEFault r.1 ⟨0x16, 0, t.eng, t.entry.toNat, t.step, word off⟩) t.job (fun j => { j with clob := true })))
      t.job (fun j => { j with perf := perfAdd j.perf t.pos t.len }) := by
  intro r
  have hr : landWrite (onEng s (fun e => { e with transit := e.transit.erase t })) t = r := rfl
  simp only [landTransit, hr]
  clear_value r
  obtain ⟨v, _ | off⟩ := r <;> rfl

section
variable {s : State} {t : Transit} (ht : nextTransit s = some t)
include ht

/-- A landing that drops nothing, or whose drop is already reported. -/
theorem homeTransaction_quiet (h : (landWrite (landingFrom s t) t).2 = none ∨ clobTold s t) :
    exec .homeTransaction s =
      .next (withJob (landWrite (landingFrom s t) t).1 t.job (fun j => { j with perf := perfAdd j.perf t.pos t.len })) := by
  simp only [exec, execHomeTransaction, ht, landTransit_eq]
  cases hl : (landWrite (landingFrom s t) t).2 with
  | none => rfl
  | some off =>
    have told := (clobTold_iff s t).2 (h.resolve_left (by simp [hl]))
    simp only [Option.elim_some, if_pos told]

/-- A landing that drops a byte, which is yet to be reported (09 R223). -/
theorem homeTransaction_clobbers {off : Nat} (hl : (landWrite (landingFrom s t) t).2 = some off) (h : ¬ clobTold s t) :
    exec .homeTransaction s = .next (withJob
      (withJob (faulted (landWrite (landingFrom s t) t).1 ⟨0x16, 0, t.eng, t.entry.toNat, t.step, word off⟩) t.job
        (fun j => { j with clob := true }))
      t.job (fun j => { j with perf := perfAdd j.perf t.pos t.len })) := by
  simp only [exec, execHomeTransaction, ht, landTransit_eq, hl, Option.elim_some, if_neg (mt (clobTold_iff s t).1 h),
    raiseEFault_eq_faulted, onJob_eq_withJob]

end

/-! ## Arrivals (01 R23, R25) -/

/-- Whether a hold is of these positions of a command of this core. -/
def holdMeets (core : Nat) (e : Eng) (entry : BitVec 16) (lo hi : Nat) (h : Hold) : Bool :=
  h.core == core && h.eng == e && h.entry == entry && h.lo ≤ hi && lo ≤ h.hi

/-- Whether a pending write gets its data by an arrival of positions `lo` to `hi`. -/
def pendComes (s : State) (e : Eng) (entry : BitVec 16) (lo hi : Nat) (p : Pend) : Bool :=
  ((findJob s p.job).map (fun j => j.eng == e && j.entry == entry)).getD false && (p.pos ≤ hi && lo < p.pos + max 1 p.len) &&
    !p.arrived && !p.need

/-- Whether a write on its way gets its data by an arrival of positions `lo` to `hi`. -/
def transitComes (e : Eng) (entry : BitVec 16) (lo hi : Nat) (t : Transit) : Bool :=
  t.eng == e && t.entry == entry && (t.pos ≤ hi && lo < t.pos + max 1 t.len) && !t.need

/-- The current core once the data has come. -/
def arrived (e : Eng) (entry : BitVec 16) (lo hi : Nat) (s : State) : State :=
  withEng s { s.core.eng with
    pends := s.core.eng.pends.map (fun p => if pendComes s e entry lo hi p then { p with arrived := true, ready := s.gtc + p.lag } else p)
    transit := s.core.eng.transit.map (fun t => if transitComes e entry lo hi t then { t with arrived := true } else t) }

/-- The state with the holds of these positions lifted. -/
def lifted (core : Nat) (e : Eng) (entry : BitVec 16) (lo hi : Nat) (s : State) : State :=
  { s with holds := s.holds.filter (fun h => !holdMeets core e entry lo hi h) }

theorem dataArrival_eq (s : State) (core : Nat) (e : Eng) (entry : BitVec 16) (lo hi : Nat) :
    exec (.dataArrival core e entry lo hi) s = .next (atCore (lifted core e entry lo hi s) core (arrived e entry lo hi)) := rfl

/-- What comes at the current core. -/
theorem dataArrival_self (s : State) (e : Eng) (entry : BitVec 16) (lo hi : Nat) :
    exec (.dataArrival s.core.id e entry lo hi) s = .next (arrived e entry lo hi (lifted s.core.id e entry lo hi s)) := by
  rw [dataArrival_eq, atCore_self (s := lifted _ _ _ _ _ s) (k := s.core.id) rfl]

theorem sameElsewhere_dataArrival (s : State) (e : Eng) (entry : BitVec 16) (lo hi : Nat) : SameElsewhere s (.dataArrival · e entry lo hi) := by
  intro k _ hk
  rw [dataArrival_eq, lifted, atCore_holds s k _ _ hk]
  refine congrArg _ (atCore_congr s k _ _ fun t ht => ?_)
  rw [after_next (dataArrival_eq t k e entry lo hi), atCore_self (s := lifted _ _ _ _ _ t) ht]
  rfl

theorem pendComes_iff (s : State) (e : Eng) (entry : BitVec 16) (lo hi : Nat) (p : Pend) :
    pendComes s e entry lo hi p = true ↔ (∃ j, findJob s p.job = some j ∧ j.eng = e ∧ j.entry = entry) ∧
      (p.pos ≤ hi ∧ lo < p.pos + max 1 p.len) ∧ p.arrived = false ∧ p.need = false := by
  unfold pendComes
  cases findJob s p.job <;> simp [and_assoc]

theorem transitComes_iff (e : Eng) (entry : BitVec 16) (lo hi : Nat) (t : Transit) :
    transitComes e entry lo hi t = true ↔
      t.eng = e ∧ t.entry = entry ∧ (t.pos ≤ hi ∧ lo < t.pos + max 1 t.len) ∧ t.need = false := by
  simp [transitComes, and_assoc]

/-- A pending write after an arrival. -/
theorem arrived_pends {s : State} (e : Eng) (entry : BitVec 16) (lo hi : Nat) {k : Nat} {p : Pend} (hp : s.core.eng.pends[k]? = some p) :
    (arrived e entry lo hi s).core.eng.pends[k]? =
      some (if pendComes s e entry lo hi p then { p with arrived := true, ready := s.gtc + p.lag } else p) := by
  simp only [arrived, withEng, List.getElem?_map, hp, Option.map_some]

/-- A write on its way after an arrival. -/
theorem arrived_transit {s : State} (e : Eng) (entry : BitVec 16) (lo hi : Nat) {k : Nat} {t : Transit}
    (ht : s.core.eng.transit[k]? = some t) :
    (arrived e entry lo hi s).core.eng.transit[k]? = some (if transitComes e entry lo hi t then { t with arrived := true } else t) := by
  simp only [arrived, withEng, List.getElem?_map, ht, Option.map_some]

theorem holdMeets_iff (core : Nat) (e : Eng) (entry : BitVec 16) (lo hi : Nat) (h : Hold) :
    holdMeets core e entry lo hi h = true ↔ h.core = core ∧ h.eng = e ∧ h.entry = entry ∧ h.lo ≤ hi ∧ lo ≤ h.hi := by
  simp [holdMeets, and_assoc]

/-! ## The ends of freezes (01 R21 to R26, 04 R99, R110) -/

section
variable {s : State} {f : Freeze} (hf : s.core.eng.freeze = some f)
include hf

theorem freezeResume_ends (h : freezeEnds s f = true) : exec .freezeResume s = .next (withEng s { s.core.eng with freeze := none }) := by
  simp only [exec, execFreezeResume, hf, if_pos h]
  rfl

theorem freezeResume_stays (h : freezeEnds s f = false) : exec .freezeResume s = .next s := by
  simp only [exec, execFreezeResume, hf, h, Bool.false_eq_true, if_false]

theorem freezeTimeout_expired (h : freezeEnds s f = false) (hc : f.cause ∈ [1, 2, 5]) (hg : f.since + 2 ^ 24 ≤ s.gtc) :
    exec .freezeTimeout s = .next (faulted s ⟨0x11, 4, f.eng, freezeEntry s f, f.step, 0⟩) := by
  have expired : freezeExpired s f = true := by
    simp only [List.mem_cons, List.not_mem_nil, or_false] at hc
    simp only [freezeExpired, Bool.and_eq_true, Bool.or_eq_true, beq_iff_eq, decide_eq_true_eq, or_assoc]
    exact ⟨hc, hg⟩
  simp only [exec, execFreezeTimeout, hf, expired, h, Bool.not_false, Bool.and_self, if_true, raiseEFault_eq_faulted]

end

/-- The handler's address is that of the claims. -/
theorem enterTrap_eq_inHandler (s : State) (epc cause bad : Word) : enterTrap s epc cause bad = inHandler s epc cause bad := rfl

section
variable {s : State} {f : EFault} (hf : s.core.eng.efault = some f)
include hf

theorem engineFaultTrap_kernel (hm : s.core.csr.mode = true) : exec .engineFaultTrap s = .next s := by
  simp only [exec, execEngineFaultTrap, hf, if_pos hm]

theorem engineFaultTrap_tile (hm : s.core.csr.mode = false) : exec .engineFaultTrap s = .next (takeEFault s f) := by
  simp only [exec, execEngineFaultTrap, hf, hm, Bool.false_eq_true, if_false]

end

/-- The trap of an engine fault in the words of the claims. -/
theorem takeEFault_eq (s : State) (f : EFault) :
    let t := inHandler (giveUpWait s) s.core.seq.pc (causeWord f.code f.sub f.aux f.eng.code true f.step) f.bad
    takeEFault s f = { t with core := { t.core with
      csr := { t.core.csr with engt := true, epend := false }, eng := { t.core.eng with efault := none } } } := rfl

/-! ## A stalled instruction is given up (12 R280) -/

/-- No barrier waits for a core that has given up its wait. -/
theorem giveUpWait_waiters (s : State) : ∀ l ∈ (giveUpWait s).base.live, s.core.id ∉ l.waiters := by
  intro l hl
  obtain ⟨m, -, rfl⟩ : ∃ m ∈ s.base.live, { m with waiters := m.waiters.filter (· != s.core.id) } = l := by
    unfold giveUpWait at hl
    cases hw : s.core.wait <;> rw [hw] at hl <;> exact List.mem_map.1 hl
  simp

/-- A BARRW in its wait leaves its arrival with the lease. -/
theorem giveUpWait_barrw {s : State} {pa g : Nat} {d : Bool} {l : Lease} (hw : s.core.wait = .barrw pa g d) (hl : s.core.lease = some l) :
    (giveUpWait s).core.lease = some { l with resumeArr := some (pa, g) } := by
  simp only [giveUpWait, hw]
  exact congrArg (Option.map _) hl

/-! ## Reports of the base (01 R25, 06 R157 to R159, 08 R191, R192) -/

theorem homeTells_eq_homeSays (s : State) (r : Report) : homeTells s r = homeSays s r := rfl

/-- What the homes of reports say changes no core. -/
@[simp] theorem homeSays_core (s : State) (r : Report) : (homeSays s r).core = s.core := by
  unfold homeSays
  split <;> rfl

theorem homeSays_foldl_core (rs : List Report) (s : State) : (rs.foldl homeSays s).core = s.core :=
  foldl_keeps (fun t => t.core = s.core) _ (fun t r h => (homeSays_core t r).trans h) rs s rfl

/-- A report reaches its core, as the claims say it. -/
theorem deliver_eq_told (s : State) (r : Report) : deliver s r = told s r := freezeCore_eq_frozen _ _ _ _ _ _

/-- A residency fault also asks the host for the extent (22 R394). -/
theorem translationFaultReport_sent {s : State} {e : Eng} {entry : BitVec 16} {o : Nat} {r : Report}
    (hr : unsent s 3 (fun r => r.eng == e && r.entry == entry && r.pos == o) = some r) :
    exec (.translationFaultReport s.core.id e entry o) s = .next (if r.sub = none then
      logEvent (told s r) 1 (r.oid.toNat * 2 ^ 40 + r.off) (dieOf (told s r).core.id).val (told s r).core.csr.pid.val else told s r) := by
  simp only [exec, execTranslationFaultReport, atCore_self, hr, deliver_eq_told, Option.isNone_iff_eq_none]

theorem memoryErrorReport_sent {s : State} {e : Eng} {entry : BitVec 16} {r : Report}
    (hr : unsent s 4 (fun r => r.eng == e && r.entry == entry && decide (r.found + 4 ≤ s.gtc)) = some r) :
    exec (.memoryErrorReport s.core.id e entry) s = .next (told s r) := by
  simp only [exec, execMemoryErrorReport, atCore_self, hr, deliver_eq_told]

/-- The reports whose cause stands, and the state once the base has told the core of the others (09 R211). -/
def reportsLeft (s : State) : List Report := s.core.eng.reports.filter (fun r => !reportOver s r)
def resolvedTold (s : State) : State :=
  let u := (s.core.eng.reports.filter (reportOver s)).foldl homeSays s
  withEng u { u.core.eng with reports := reportsLeft s }

@[simp] theorem resolvedTold_freeze (s : State) : (resolvedTold s).core.eng.freeze = s.core.eng.freeze := by
  simp only [resolvedTold, withEng, homeSays_foldl_core]

/-- CAUSE_RESOLVED: a core on which a cause still stands stays frozen. -/
theorem causeResolved_eq (s : State) : exec (.causeResolved s.core.id) s = .next (
    if (reportsLeft s).any (fun r => r.sent) then resolvedTold s
    else match (resolvedTold s).core.eng.freeze with
      | some f => if f.cause = 3 ∨ f.cause = 4 then onEng (resolvedTold s) thawEng else resolvedTold s
      | none => resolvedTold s) := by
  simp only [exec, execCauseResolved, atCore_self]
  rfl

theorem causeResolved_stays {s : State} (h : ∃ r ∈ reportsLeft s, r.sent = true) :
    exec (.causeResolved s.core.id) s = .next (resolvedTold s) := by
  rw [causeResolved_eq, if_pos (List.any_eq_true.2 h)]

theorem causeResolved_thaws {s : State} {f : Freeze} (h : ∀ r ∈ reportsLeft s, r.sent = false) (hf : s.core.eng.freeze = some f)
    (hc : f.cause = 3 ∨ f.cause = 4) :
    exec (.causeResolved s.core.id) s =
      .next (withEng (resolvedTold s) { (resolvedTold s).core.eng with freeze := some { f with cause := 0 } }) := by
  have none_sent : ¬ (reportsLeft s).any (fun r => r.sent) = true := by simpa using h
  simp only [causeResolved_eq, if_neg none_sent, resolvedTold_freeze, hf, if_pos hc, onEng, withEng, thawEng, Option.map_some]

/-- A report that the base gives up belongs to a command with the property asked for. -/
theorem givenUp_holds {s : State} {p : Option (Fin 4) → Bool} {r : Report} (h : givenUp s p = some r) :
    p ((findJob s r.job).bind (fun j => chanOf j.cmd)) = true := by
  obtain ⟨e, -, he⟩ := List.exists_of_findSome?_eq_some h
  have hr := List.find?_some he
  exact (Bool.and_eq_true_iff.1 hr).2

/-- A stopped copy, as the claims say it (06 R159). -/
theorem stopCopy_eq (s : State) (j : Job) (ch : Fin 4) (code sub step : Nat) (h : chanOf j.cmd = some ch) :
    let at0 := firstUndelivered s j
    let off := BitVec.ofNat 64 (posOffset (peekJob s.core.eng j) at0)
    let t := withJob s j.id (fun j => { j with stop := some at0 })
    stopCopy s j code sub none step none = faulted
      (withEng t { t.core.eng with
        chans := t.core.eng.chans.set ch { t.core.eng.chans[ch] with stopped := true, undel := off }
        reports := t.core.eng.reports.filter (fun q => q.job ≠ j.id) })
      ⟨code, sub, .copy, j.entry.toNat, step, off⟩ := by
  have others : ∀ l : List Report, l.filter (fun q => q.job != j.id) = l.filter (fun q => q.job ≠ j.id) := fun l =>
    List.filter_congr (fun q _ => by by_cases hq : q.job = j.id <;> simp [hq])
  simp only [stopCopy, h, raiseEFault_eq_faulted, others]
  rfl

theorem copyStop_stops {s : State} {ch sub : Fin 4} {r : Report} {j : Job} (hr : givenUp s (fun c => c == some ch) = some r)
    (hj : findJob s r.job = some j) :
    exec (.copyStop s.core.id ch sub) s = .next (stopCopy s j 0x05 sub.val none r.step none) := by
  simp only [exec, execCopyStop, atCore_self, hr, hj]

end Sys2Proof.Machine

/-- Settles O47: a read step by whether its channel check fails, and in which mode. -/
theorem ringsGoIdleAndReadStepsRun : Obligations.RingsGoIdleAndReadStepsRun := by
  intro s e
  refine ⟨fun hen hidle hvis hnext => ringIdle_runs_out s e hen hidle hvis hnext, fun j hf hj => ⟨?_, ?_, ?_⟩⟩
  · intro hm hs
    rw [engineReadStep_missed hf hj hm, checkMissed_strict _ _ _ _ _ _ _ _ hs]
  · intro hm hs
    rw [engineReadStep_missed hf hj hm, checkMissed_elastic _ _ _ _ _ _ _ _ hs]
  · intro hm k hk
    rw [engineReadStep_passed hf hj hm, readStep_eq _ _ _ hk]

/-- Settles O48: each event by the lemma about it, the arrival through the positions of the two lists that it maps. -/
theorem engineWritesLandAndFreezesEnd : Obligations.EngineWritesLandAndFreezesEnd := by
  intro s
  refine ⟨fun p hp => ⟨timedWritePerform_whole hp, timedWritePerform_late hp,
      fun hl h0 hn ws hw hs => timedWritePerform_bytes hp hl h0 hn hw hs,
      fun hl hw ty rm hs hp' h0 hn => timedWritePerform_accum hp hl hw hp' h0 hn⟩,
    fun t ht => ⟨homeTransaction_quiet ht, fun off hl hn => homeTransaction_clobbers ht hl hn⟩,
    fun e entry lo hi => ?_, fun f hf => ⟨freezeResume_ends hf, freezeResume_stays hf, freezeTimeout_expired hf⟩,
    fun f hf => ⟨engineFaultTrap_kernel hf, fun hm => by rw [engineFaultTrap_tile hf hm, takeEFault_eq]⟩,
    ⟨giveUpWait_waiters s, fun pa g d l hw hl => giveUpWait_barrw hw hl⟩, fun e entry lo hi => sameElsewhere_dataArrival s e entry lo hi⟩
  refine ⟨_, dataArrival_self s e entry lo hi, fun h => ?_, List.length_map _, fun k p hp => ?_, fun k t ht => ?_, rfl⟩
  · change h ∈ s.holds.filter _ ↔ _
    rw [List.mem_filter, Bool.not_eq_true', ← Bool.not_eq_true, holdMeets_iff]
  · rw [arrived_pends (s := lifted _ _ _ _ _ s) e entry lo hi hp]
    refine ⟨fun hc => ?_, fun hc => ?_⟩
    · rw [if_pos ((pendComes_iff (lifted _ _ _ _ _ s) e entry lo hi p).2 hc)]
      rfl
    · rw [if_neg (mt (pendComes_iff (lifted _ _ _ _ _ s) e entry lo hi p).1 hc)]
  · rw [arrived_transit (s := lifted _ _ _ _ _ s) e entry lo hi ht]
    refine ⟨fun hc => ?_, fun hc => ?_⟩
    · rw [if_pos ((transitComes_iff e entry lo hi t).2 hc)]
    · rw [if_neg (mt (transitComes_iff e entry lo hi t).1 hc)]

/-- Settles O49: each report by the lemma about it. -/
theorem reportsFreezeAndEnd : Obligations.ReportsFreezeAndEnd := by
  intro s e entry o ch sub
  refine ⟨fun r hr => translationFaultReport_sent hr, fun r hr => memoryErrorReport_sent hr,
    ⟨causeResolved_stays, fun h f hf hc => causeResolved_thaws h hf hc⟩, fun r j hr hj => ?_,
    sameElsewhere_of_atCore _ (fun _ => _) (fun _ _ => rfl) s, sameElsewhere_of_atCore _ (fun _ => _) (fun _ _ => rfl) s,
    sameElsewhere_of_atCore _ (fun _ => _) (fun _ _ => rfl) s, sameElsewhere_of_atCore _ (fun _ => _) (fun _ _ => rfl) s⟩
  have chan : chanOf j.cmd = some ch := by simpa [hj] using givenUp_holds hr
  rw [copyStop_stops hr hj, stopCopy_eq s j ch _ _ _ chan]

/-- Settles O60: every field of the reset state by its definition; the sparse tables and the memory list nothing. -/
theorem resetStateIsAsTheSpecGivesIt : Obligations.ResetStateIsAsTheSpecGivesIt := by
  have canon : Canonical State.reset := ⟨Memory.wf_reset, fun c hc => by
    obtain rfl | hc := hc
    · exact ⟨storesWf_start .spad, storesWf_start .acc, storesWf_start .wpl, storesWf_start .side⟩
    · cases hc⟩
  have rings : ∀ k : Fin 3, (State.reset.core.eng.rings[k]).en = false := by decide
  have weights : ∀ k : Fin 16, State.reset.base.nwgt[k] = 1 := by decide
  have queues : ∀ k : Fin 16, State.reset.base.queues[k] = [] ∧ State.reset.base.qcfg[k] = 1 ∧ State.reset.base.kcode[k] = none := by
    decide
  have dies : ∀ d : Fin 8, State.reset.base.dies[d] = Die.start := by decide
  refine ⟨canon, rfl, rfl, rfl, rfl, rfl, rfl, rfl, rings, fun _ => rfl, rfl, rfl, rfl, rfl, fun _ => rfl, weights, rfl, rfl, rfl,
    rfl, rfl, rfl, rfl, rfl, rfl, rfl, rfl, queues, rfl, rfl, rfl, rfl, rfl, rfl, rfl, rfl, rfl, rfl, rfl, rfl, rfl, fun d => ?_⟩
  simp only [dies d]
  exact ⟨rfl, rfl, rfl, rfl, rfl⟩
end

section
/-! Settled for the engines and tiles: contexts that leave a core and return (01 R35, R36, 04 R108 to R112, 22 R393). -/

open Sys2Proof Sys2Proof.Machine Sys2Proof.Claims

namespace Sys2Proof.Machine

/-! ## Contexts that leave (01 R35, 04 R108) -/

theorem atBoundary_iff (s : State) : atBoundary s = true ↔ Boundary s := by
  simp [atBoundary, Boundary]

theorem reading_iff (s : State) (j : Job) : reading s j = true ↔ SourceReading s j := by
  simp [reading, SourceReading, and_assoc, List.any_eq_false]

/-- A context can be saved when the claims say so. -/
theorem saveReady_iff (s : State) : saveReady s = true ↔ Savable s := by
  have spills : (!s.core.eng.transit.any (fun t => t.job == 0)) = true ↔ ∀ t ∈ s.core.eng.transit, t.job ≠ 0 := by simp
  have reads : (!s.core.eng.jobs.any (reading s)) = true ↔ ∀ j ∈ s.core.eng.jobs, ¬ SourceReading s j := by
    simp [← reading_iff]
  simp only [saveReady, Savable, Bool.and_eq_true, atBoundary_iff, List.isEmpty_iff, spills, reads, and_assoc]

/-- The current core's buffers, drained at an instruction boundary. -/
def drained (s : State) : State := if s.core.busy = 0 then drainAll s else s

/-- What a preemption does at the core that holds a lease. -/
theorem preemption_eq {s : State} {l : Lease} (hl : s.core.lease = some l) : exec (.preemption s.core.id) s = .next (
    if saveReady (drained s) then saveContext (drainCore (giveUpWait (drained s))) false
    else { drained s with
      core := { (drained s).core with saving := (drained s).core.saving || atBoundary (drained s) }
      inputs := (drained s).inputs ++ [((drained s).gtc + 1, .preemption s.core.id)] }) := by
  simp only [exec, execPreemption, atCore_self, hl, Option.isNone_some, Bool.false_eq_true, if_false]
  rfl

theorem preemption_saves {s : State} {l : Lease} (hl : s.core.lease = some l) (h : Savable (drained s)) :
    exec (.preemption s.core.id) s = .next (saveContext (drainCore (giveUpWait (drained s))) false) := by
  rw [preemption_eq hl, if_pos ((saveReady_iff _).2 h)]

/-- Until the context can be saved the base tries again, and from a boundary on the core executes nothing (log entry 4). -/
theorem preemption_waits {s : State} {l : Lease} (hl : s.core.lease = some l) (h : ¬ Savable (drained s)) :
    ∃ v, (v = true ↔ (drained s).core.saving = true ∨ Boundary (drained s)) ∧ exec (.preemption s.core.id) s =
      .next { drained s with
        core := { (drained s).core with saving := v }
        inputs := (drained s).inputs ++ [((drained s).gtc + 1, .preemption s.core.id)] } := by
  refine ⟨(drained s).core.saving || atBoundary (drained s), by rw [Bool.or_eq_true, atBoundary_iff], ?_⟩
  rw [preemption_eq hl, if_neg (mt (saveReady_iff _).1 h)]

/-- A core without a lease has nothing to save. -/
theorem preemption_free {s : State} (hl : s.core.lease = none) : exec (.preemption s.core.id) s = .next s := by
  simp only [exec, execPreemption, atCore_self, hl, Option.isNone_none, if_true]

/-- The context that the current core leaves with lease `l`. -/
def savedCtx (s : State) (l : Lease) : Ctx :=
  let e := s.core.eng
  ⟨ctxPa s, false, s.core.csr.scc, l, s.core.csr.pid, s.core.tcache, e.jobs, e.pends, e.transit, e.reports, e.freeze, e.efault,
    s.core.refusal, e.chkCfg, e.chkHit, e.extJob, e.rings.map (fun r => r.nextIss)⟩

/-- What stands in the machine once a context is saved. -/
theorem saveContext_spec {u : State} {m : Lease} (hm : u.core.lease = some m) : ∃ t y, saveContext u false = t ∧ SavedOf u m y ∧
    t.core.lease = none ∧ t.core.id = u.core.id ∧ t.core.l1 = [] ∧ t.core.resvSeq = u.core.resvSeq + 1 ∧
    t.base.ctxs = u.base.ctxs ++ [y] ∧ t.nextCtx = u.nextCtx + 1 ∧ t.others = u.others ∧ t.base.launches = u.base.launches := by
  simp only [saveContext, hm]
  exact ⟨_, savedCtx u m, rfl, ⟨rfl, rfl, rfl, rfl, rfl⟩, rfl, rfl, rfl, rfl, rfl, rfl, rfl, rfl⟩

/-! ## Contexts that return (01 R36, 04 R109, R112) -/

/-- What a core takes from the area of a saved context. -/
theorem resumed_resumeCore (s : State) (x : Ctx) (c : Core) : Resumed s x (resumeCore s x c) := by
  refine ⟨rfl, rfl, rfl, ?_, fun k hk => ?_, rfl, rfl, rfl, rfl, rfl, rfl, rfl⟩
  · change (areaSeq s.base.mem x.pa).x[0] = 0
    simp [areaSeq]
  · change (areaSeq s.base.mem x.pa).x[k] = _
    have hk' : (0 : Nat) ≠ k.val := fun h => hk (Fin.ext h.symm)
    simp only [areaSeq, Fin.getElem_fin]
    rw [Vector.getElem_set_ne _ _ hk']
    simp

section
variable {s : State} {x : Ctx} (hx : s.base.ctxs.find? (fun y => y.pa == x.pa && !y.faulted) = some x) (core : Nat)
include hx

theorem contextResume_refused (h : ¬ Resumable s x) : exec (.contextResume core x.pa) s = .next (refuseContext s x) := by
  have bad : memNat s.base.mem x.pa 2 ≠ 1 ∨ memNat s.base.mem (x.pa + 4) 4 ≠ 0x764 := not_and_or.1 h
  simp only [exec, execContextResume, hx, if_pos bad]

/-- A context that is resumable goes to a free core of its stage's set, or waits in turn for its power class. -/
theorem contextResume_eq (h : Resumable s x) (hin : inCoreSet s x.lease core = true) (hfree : coreFree s core = true) :
    exec (.contextResume core x.pa) s = .next (
      if leaveNow s core (ctxClass s x) then
        onBase (placeCore s core (resumeCore s x)) (fun b => { b with ctxs := b.ctxs.filter (fun y => y.pa != x.pa) })
      else { queueLeave s core (ctxClass s x) with inputs := s.inputs ++ [(s.gtc + 1, .contextResume core x.pa)] }) := by
  have good : ¬ (memNat s.base.mem x.pa 2 ≠ 1 ∨ memNat s.base.mem (x.pa + 4) 4 ≠ 0x764) := fun hb => not_and_or.2 hb h
  simp only [exec, execContextResume, hx, if_neg good, hin, hfree, Bool.not_true, Bool.or_self, Bool.false_eq_true, if_false]
  cases leaveNow s core (ctxClass s x) <;> rfl

end

/-- The contexts that stay when the one at `pa` goes. -/
theorem filter_pa_ne (cs : List Ctx) (pa : Nat) : cs.filter (fun y => y.pa != pa) = cs.filter (fun y => y.pa ≠ pa) :=
  List.filter_congr (fun y _ => by by_cases h : y.pa = pa <;> simp [h])

/-! ## The release of a FAULTED context (04 R108, 22 R393) -/

section
variable {s : State} {x : Ctx} (hx : s.base.ctxs.find? (fun y => y.pa == x.pa && y.faulted) = some x)
include hx

theorem contextRelease_eq : exec (.contextRelease x.pa) s = .next (releasePins
    { s with base := { s.base with ctxs := s.base.ctxs.filter (fun y => y.pa ≠ x.pa) } }
    (if s.base.launches.any (fun l => l.id == x.lease.launch) then x.pins else x.pins.map (fun t => { t with long := false }))
    x.lease.launch) := by
  simp only [exec, execContextRelease, hx, onBase, filter_pa_ne]

theorem contextRelease_ended (h : ∀ l ∈ s.base.launches, l.id ≠ x.lease.launch) : exec (.contextRelease x.pa) s = .next (releasePins
    { s with base := { s.base with ctxs := s.base.ctxs.filter (fun y => y.pa ≠ x.pa) } }
    (x.pins.map (fun t => { t with long := false })) x.lease.launch) := by
  have ended : ¬ s.base.launches.any (fun l => l.id == x.lease.launch) = true := by simpa using h
  rw [contextRelease_eq hx, if_neg ended]

theorem contextRelease_live (h : ∃ l ∈ s.base.launches, l.id = x.lease.launch) : exec (.contextRelease x.pa) s = .next (releasePins
    { s with base := { s.base with ctxs := s.base.ctxs.filter (fun y => y.pa ≠ x.pa) } } x.pins x.lease.launch) := by
  have live : s.base.launches.any (fun l => l.id == x.lease.launch) = true := by simpa using h
  rw [contextRelease_eq hx, if_pos live]

end

end Sys2Proof.Machine

/-- Settles O51: each event by the lemma about it. -/
theorem contextsLeaveAndReturn : Obligations.ContextsLeaveAndReturn := by
  intro s core x
  refine ⟨preemption_free, fun l hl => ⟨preemption_waits hl, fun hd => ⟨preemption_saves hl hd, fun m hm => saveContext_spec hm⟩⟩,
    fun hx => ⟨contextResume_refused hx core, resumed_resumeCore s x, fun hr hin hfree => ⟨fun hl => ?_, fun hl => ?_⟩⟩,
    fun hx => contextRelease_ended hx, fun hx => contextRelease_live hx, sameElsewhere_of_atCore _ (fun _ => _) (fun _ _ => rfl) s⟩
  · rw [contextResume_eq hx core hr hin hfree, if_pos hl, onBase, filter_pa_ne]
  · rw [contextResume_eq hx core hr hin hfree, hl]
    rfl
end

section
/-! Refuted for the engines and tiles: the cycle of a core as the claims give it (01 R12, 07 R171). -/

open Sys2Proof Sys2Proof.Machine Sys2Proof.Claims

namespace Sys2Proof.Machine.TwoCores

/-! ## A machine of two cores, for the cycle of the second one (01 R12, 07 R171, R186, 11 R262)

Core 1 runs a DSKIP over the two blocks of a COHERENT region with SUM digests, and commands with 512 records. Core 0 holds a dirty word of
the second block. When core 1's late data comes, the home takes that word back, the digest of the second block changes, the block
passes, and the DSKIP needs no record any more. -/

/-- A COHERENT region of two blocks of 8 bytes with SUM digests of s64 elements. -/
def region : ObjEnt :=
  ⟨5, 1, false, false, false, 0, true, false, 1, 0, false, 16, 0, 0x00020000000000A3, 0, 0, [⟨stagePa 3 0, true, 1⟩], .plain⟩

/-- Core 0, with a dirty word of the second block in its L1. -/
def holder : Core := { Core.free 0 with l1 := [⟨stagePa 3 8, 5, 8, 1, false, true, false⟩] }

/-- A stream of `count` elements in a space, with a timing class. -/
def stream (count space cls : Nat) : Desc := #v[0, BitVec.ofNat 64 count, 0, 0, 0, BitVec.ofNat 64 (space * 2 ^ 43 + cls * 2 ^ 47), 0, 0]

/-- What the DSKIP found at its issue: 16 bytes of the scratchpad, the region's two digests, a list in the base. -/
def skipSnap : Snap where
  qd := stream 16 0 0
  qs := stream 2 5 4
  qx := stream 16 3 4
  lqd := Vector.replicate 8 0
  lqs := Vector.replicate 8 0
  capD := Cap.null
  capS := Cap.null
  capX := Cap.null
  capB := Cap.null
  objD := none
  objS := some region
  objX := none
  fmt := 0
  slot := 0
  ttype := 15
  labels := []
  limits := []
  qk := 0
  vfcr := 0
  vwst := 0
  gctl := 0
  gbase := 0
  mxspill := 0

/-- The DSKIP after both of its read steps: its first block has passed, the second digest waits, OP 8 asks for a sum above 0. -/
def skip : Job where
  id := 1
  eng := .copy
  entry := 0
  cmd := .dskip ⟨0, 0, 0, 0⟩ 0 0 1 2 0 0 0
  sset := 0
  iss := 0
  old := false
  step := 2
  formed := 0
  nsteps := 2
  snap := skipSnap
  idx := [1]
  idx2 := []
  buf := natBytes 8 0 ++ natBytes 8 8
  gran := none
  cnt := 0
  npos := 32
  perf := []
  minDone := 0
  held := 0
  bcOut := false
  bcIn := false
  stop := none
  allIn := false
  done := false
  clob := false
  chk := none

/-- A matrix command with 128 records. -/
def rows (id : Nat) : Job := { skip with id := id, eng := .matrix, cmd := .mma ⟨0, 0, 0, 0⟩ 0 0 0 0 0, step := 0, nsteps := 0 }

/-- Core 1; a byte of the DSKIP's list performs as many cycles after the next as its latency, so that its records are checked. -/
def runner : Core :=
  { Core.free 1 with
    csr := { Csr.start with scc := 100 }
    eng := { Engines.start with
      jobs := [skip, rows 2, rows 3, rows 4, rows 5]
      pends := [⟨1, .copy, 155, true, false, 16, 0, 0, 0, .bytes .spad []⟩] } }

def machine : State := { State.reset with core := holder, others := [runner], base := { Base.start with objs := [region] } }

/-- Whether core 1 has an engine fault after a GTC cycle. -/
def faultsAfterCycle : Option Bool :=
  match exec .gtcCycle machine with
  | .next t => (findCore t 1).map (fun c => c.eng.efault.isSome)
  | _ => none

/-- Core 1 only freezes: its late data will free a record. -/
theorem runner_freezes : faultsAfterCycle = some false := by decide +kernel

theorem runner_runs : ¬ Stands runner := by
  unfold Stands
  decide

end Sys2Proof.Machine.TwoCores

/-- Refutes O57: the claim checks the records of core 1 in the machine with core 1 in place of core 0, where no core holds the dirty word;
there the second block never passes, the late data frees no record, and the wait is an unbounded one. The cycle itself, in which core 0
stands beside core 1, freezes core 1. -/
theorem not_cyclesThermalStepsAndResets : ¬ Obligations.CyclesThermalStepsAndResets := by
  intro h
  obtain ⟨-, -, -, -, -, cycle, -⟩ := h TwoCores.machine 0
  obtain ⟨t, ht, -, cores, -⟩ := cycle rfl (by decide)
  obtain ⟨d, hd, -, -, running⟩ := cores TwoCores.runner (by simp [TwoCores.machine])
  have claimed : d.eng.efault.isSome = true := by
    rw [running TwoCores.runner_runs]
    decide +kernel
  have actual : TwoCores.faultsAfterCycle = some d.eng.efault.isSome := by
    simp only [TwoCores.faultsAfterCycle, ht]
    exact congrArg (Option.map (fun c : Core => c.eng.efault.isSome)) hd
  rw [TwoCores.runner_freezes, claimed] at actual
  cases actual
end

section
/-! Settled for the engines and tiles: launches go live and leases start (01 R29 to R32, 02 R60, 04 R88, 22 R397). A lease start counts
its id before the base reads the image, and the claim reads the image first: the two commute, function by function of the homes. -/

open Sys2Proof Sys2Proof.Machine Sys2Proof.Claims

namespace Sys2Proof.Machine

/-! ## The homes do not look at the id counter of leases -/

/-- `s` with `n` as the last id that a lease has taken. -/
def withLid (n : Nat) (s : State) : State := { s with nextLid := n }

/-- The same beside a result. -/
def withLid₂ {α : Type} (n : Nat) (p : State × α) : State × α := (withLid n p.1, p.2)

section
variable (n : Nat) (s : State)

@[simp] theorem withLid_base : (withLid n s).base = s.base := rfl

theorem onBase_withLid (f : Base → Base) : onBase (withLid n s) f = withLid n (onBase s f) := rfl

theorem drawBucket_withLid (g b : Nat) (p : Fin 16) : drawBucket (withLid n s) g b p = withLid n (drawBucket s g b p) := by
  unfold drawBucket
  dsimp only
  rw [apply_ite (withLid n)]
  rfl

theorem serve_withLid (g up down : Nat) (p : Fin 16) (k : PacketKind) (src : Option Nat) :
    serve (withLid n s) g up down p k src = withLid n (serve s g up down p k src) := by
  cases src with
  | none => exact drawBucket_withLid n (post s (slicePort g) k p up 1) g _ p
  | some c => exact drawBucket_withLid n (post (post s _ k p up _) _ _ p down _) g _ p

theorem lineBack_withLid (l : CLine) : lineBack (withLid n s) l = withLid n (lineBack s l) := by
  unfold lineBack
  rw [apply_ite (withLid n), serve_withLid]
  rfl

theorem useLine_withLid (home gran kind : Nat) (pid : Fin 16) (dirty : Bool) :
    useLine (withLid n s) home gran kind pid dirty = withLid n (useLine s home gran kind pid dirty) := by
  simp only [useLine, withLid_base, lineBack_withLid]
  split
  · rfl
  · split
    · rfl
    · split <;> rfl

theorem queueOn_withLid (v : VChan) (r : VReq) : queueOn (withLid n s) v r = withLid n (queueOn s v r) := by
  unfold queueOn
  rw [apply_ite (withLid n)]
  rfl

theorem logErrors_withLid (d : Fin 8) (ch : Fin 16) (es : List EccErr) (core : Nat) :
    logErrors (withLid n s) d ch es core = withLid n (logErrors s d ch es core) :=
  List.foldl_hom (withLid n) (fun _ _ => rfl)

theorem wayAsk_withLid (home kind : Nat) (chan : Option (Fin 8 × Fin 16)) (gran core : Nat) (pid : Fin 16) :
    wayAsk (withLid n s) home kind chan gran core pid = withLid₂ n (wayAsk s home kind chan gran core pid) := by
  simp only [wayAsk, withLid_base, queueOn_withLid]
  split
  · rfl
  · split
    · rfl
    · split
      · rfl
      · split <;> rfl

theorem arrayRead_withLid (d : Fin 8) (ch : Fin 16) (home gran core : Nat) :
    arrayRead (withLid n s) d ch home gran core = withLid n (arrayRead s d ch home gran core) := by
  unfold arrayRead
  refine .trans (ite_congr rfl (fun _ => rfl) (fun _ => ?_)) (apply_ite (withLid n) _ _ _).symm
  exact logErrors_withLid n (servesUntil s home gran s.gtc) d ch _ core

section
variable {s t : State} {home kind : Nat} {chan : Option (Fin 8 × Fin 16)} {pa k core : Nat} {pid : Fin 16}

/-- A read that misses every way takes its granule through the array, and the ways when its words are good (08 R191). -/
theorem wayRead_of_miss {d : Fin 8} {ch : Fin 16} (ha : wayAsk s home kind (some (d, ch)) (pa / 256) core pid = (t, .ok))
    (hl : (t.base.lines.any fun l => l.is home (pa / 256)) = false) : wayRead s home kind (some (d, ch)) pa k core pid =
      (let u := arrayRead t d ch home (pa / 256) core
       if uncorrectable u.base (pa / 256 * 256) 256 then (u, if uncorrectable u.base pa k then .bad else .ok)
       else (useLine u home (pa / 256) kind pid false, .ok)) := by
  simp only [wayRead, ha, hl, Bool.false_eq_true, ↓reduceIte]

/-- A read that a way serves, or that no channel stands behind, reads no array. -/
theorem wayRead_of_hit (ha : wayAsk s home kind chan (pa / 256) core pid = (t, .ok))
    (hl : (t.base.lines.any fun l => l.is home (pa / 256)) = true ∨ chan = none) :
    wayRead s home kind chan pa k core pid = (useLine t home (pa / 256) kind pid false, .ok) := by
  rcases hl with hl | rfl
  · simp only [wayRead, ha, hl, ↓reduceIte]
  · simp only [wayRead, ha, ite_self]

/-- A read whose channel refuses it, or queues it, goes no further (08 R192). -/
theorem wayRead_of_held {r : Fetch} (ha : wayAsk s home kind chan (pa / 256) core pid = (t, r)) (hr : r ≠ .ok) :
    wayRead s home kind chan pa k core pid = (t, r) := by
  cases r with
  | ok => exact absurd rfl hr
  | _ => simp only [wayRead, ha]

end

theorem wayRead_withLid (home kind : Nat) (chan : Option (Fin 8 × Fin 16)) (pa k core : Nat) (pid : Fin 16) :
    wayRead (withLid n s) home kind chan pa k core pid = withLid₂ n (wayRead s home kind chan pa k core pid) := by
  rcases ha : wayAsk s home kind chan (pa / 256) core pid with ⟨t, r⟩
  have hb : wayAsk (withLid n s) home kind chan (pa / 256) core pid = (withLid n t, r) := by rw [wayAsk_withLid, ha, withLid₂]
  by_cases hr : r = .ok
  · subst hr
    by_cases hl : (t.base.lines.any fun l => l.is home (pa / 256)) = true ∨ chan = none
    · rw [wayRead_of_hit ha hl, wayRead_of_hit hb hl, useLine_withLid, withLid₂]
    · obtain ⟨hm, hc⟩ := not_or.mp hl
      obtain ⟨⟨d, ch⟩, rfl⟩ := Option.ne_none_iff_exists'.mp hc
      have hl := Bool.eq_false_of_not_eq_true hm
      rw [wayRead_of_miss ha hl, wayRead_of_miss hb hl, arrayRead_withLid]
      simp only [useLine_withLid]
      rw [apply_ite (withLid₂ n)]
      rfl
  · rw [wayRead_of_held ha hr, wayRead_of_held hb hr, withLid₂]

theorem wayWrite_withLid (home kind : Nat) (chan : Option (Fin 8 × Fin 16)) (pa k core : Nat) (pid : Fin 16) :
    wayWrite (withLid n s) home kind chan pa k core pid = withLid n (wayWrite s home kind chan pa k core pid) := by
  have first (c : Prop) [Decidable c] :
      onBase (if c then withLid n s else (wayRead (withLid n s) home kind chan pa k core pid).1) (fun b => eccWritten b pa k) =
        withLid n (onBase (if c then s else (wayRead s home kind chan pa k core pid).1) (fun b => eccWritten b pa k)) := by
    rw [wayRead_withLid]
    by_cases hc : c
    · simp only [if_pos hc]
      rfl
    · simp only [if_neg hc]
      rfl
  have last (t u : State) (h : u = withLid n t) (hit opened : Bool) (q : VChan → Prop) [DecidablePred q] (r : VReq) (v : Option VChan) :
      (if hit || opened && !uncorrectable u.base (pa / 256 * 256) 256 then useLine u home (pa / 256) kind pid true else match v with
        | some v => if q v then queueOn u v r else u
        | none => u) =
      withLid n (if hit || opened && !uncorrectable t.base (pa / 256 * 256) 256 then useLine t home (pa / 256) kind pid true else match v with
        | some v => if q v then queueOn t v r else t
        | none => t) := by
    subst h
    rw [useLine_withLid, apply_ite (withLid n)]
    refine ite_congr rfl (fun _ => rfl) (fun _ => ?_)
    cases v with
    | none => rfl
    | some v =>
      simp only [queueOn_withLid]
      exact (apply_ite (withLid n) _ _ _).symm
  exact last _ _ (first _) _ _ (fun v => (v.width != 3 && v.vseq.isSome) = true) _ _

theorem eachGranule_withLid (o : ObjEnt) (off k : Nat) (f : State → Nat → Nat → State × Fetch)
    (hf : ∀ s pa m, f (withLid n s) pa m = withLid₂ n (f s pa m)) :
    eachGranule (withLid n s) o off k f = withLid₂ n (eachGranule s o off k f) := by
  refine List.foldl_hom (withLid₂ n) (init := (s, Fetch.ok)) (fun acc g => ?_)
  dsimp only
  cases paOf o g.1 with
  | none => rfl
  | some pa => simp only [withLid₂, hf]

theorem wake_withLid (id pa k : Nat) : wake (withLid n s) id pa k = withLid n (wake s id pa k) := by
  unfold wake
  rw [apply_ite (withLid n)]
  rfl

theorem wakeAsk_withLid (o : ObjEnt) (off k : Nat) : wakeAsk (withLid n s) o off k = withLid₂ n (wakeAsk s o off k) := by
  unfold wakeAsk
  rw [apply_ite (withLid₂ n)]
  congr 1
  refine eachGranule_withLid n s o off k _ (fun s pa m => ?_)
  change (match (s.core :: s.others).filter (retains s pa m) with
    | [] => (withLid n s, Fetch.ok)
    | cs => (cs.foldl (fun s (c : Core) => wake s c.id pa m) (withLid n s), Fetch.busy)) = _
  cases (s.core :: s.others).filter (retains s pa m) with
  | nil => rfl
  | cons c cs => exact congrArg (·, Fetch.busy) (List.foldl_hom (withLid n) (fun s (c : Core) => wake_withLid n s c.id pa m))

theorem dramRead_withLid (o : ObjEnt) (off k core : Nat) (pid : Fin 16) :
    dramRead (withLid n s) o off k core pid = withLid₂ n (dramRead s o off k core pid) := by
  unfold dramRead
  rw [apply_ite (withLid₂ n)]
  congr 1
  dsimp only
  rw [wakeAsk_withLid, withLid₂, eachGranule_withLid n _ o off k _ (fun s pa m => wayRead_withLid n s ..)]
  rfl

theorem dramWrite_withLid (o : ObjEnt) (off k core : Nat) (pid : Fin 16) :
    dramWrite (withLid n s) o off k core pid = withLid n (dramWrite s o off k core pid) := by
  unfold dramWrite
  rw [apply_ite (withLid n)]
  congr 1
  refine List.foldl_hom (withLid n) (fun s g => ?_)
  cases paOf o g.1 with
  | none => rfl
  | some pa => exact wayWrite_withLid n s ..

theorem digLose_withLid (o : ObjEnt) (home gran : Nat) (pid : Fin 16) :
    digLose (withLid n s) o home gran pid = withLid n (digLose s o home gran pid) := by
  unfold digLose
  dsimp only
  rw [onBase_withLid, wayWrite_withLid]

theorem digLine_withLid (o : ObjEnt) (home pa core : Nat) (pid : Fin 16) :
    digLine (withLid n s) o home pa core pid = withLid₂ n (digLine s o home pa core pid) := by
  simp only [digLine, wayRead_withLid, withLid₂, digLose_withLid]
  split <;> rfl

theorem digLines_withLid (o : ObjEnt) (j core : Nat) (pid : Fin 16) (write : Bool) :
    digLines (withLid n s) o j core pid write = withLid₂ n (digLines s o j core pid write) := by
  refine List.foldl_hom (withLid₂ n) (init := (s, Fetch.ok)) (fun acc p => ?_)
  cases write <;> simp only [withLid₂, digLine_withLid, wayWrite_withLid, Bool.false_eq_true, ↓reduceIte]

theorem homePutAt_withLid (o : ObjEnt) (tag atomic : Bool) (pid : Fin 16) (off : Nat) (bs : List Byte) :
    homePutAt (withLid n s) o tag atomic pid off bs = withLid n (homePutAt s o tag atomic pid off bs) := by
  have digs (js : List Nat) (t : State) : js.foldl (fun s j => (digLines s o j 0x3FF pid true).1) (withLid n t) =
      withLid n (js.foldl (fun s j => (digLines s o j 0x3FF pid true).1) t) :=
    List.foldl_hom (withLid n) (fun t j => congrArg Prod.fst (digLines_withLid n t o j 0x3FF pid true))
  unfold homePutAt
  cases paOf o off with
  | none => rfl
  | some pa =>
    simp only [dramWrite_withLid, digs]
    rfl

theorem homePut_withLid (o : ObjEnt) (off : Nat) (bs : List Byte) (tag atomic : Bool) (pid : Fin 16) :
    homePut (withLid n s) o off bs tag atomic pid = withLid n (homePut s o off bs tag atomic pid) :=
  List.foldl_hom (withLid n) (fun s p => homePutAt_withLid n s o tag atomic pid p.1 p.2)

theorem paWrite_withLid (pa k : Nat) (pid : Fin 16) : paWrite (withLid n s) pa k pid = withLid n (paWrite s pa k pid) := by
  have each : (granules pa k).foldl (fun s g => wayWrite s (homeOfPa g.1) 1 (dramChan none g.1) g.1 g.2.2 0x3FF pid) (withLid n s) =
      withLid n ((granules pa k).foldl (fun s g => wayWrite s (homeOfPa g.1) 1 (dramChan none g.1) g.1 g.2.2 0x3FF pid) s) :=
    List.foldl_hom (withLid n) (fun s g => wayWrite_withLid n s ..)
  simp only [paWrite, each]
  cases paKind pa <;> rfl

theorem homePutPa_withLid (pa : Nat) (bs : List Byte) (tag atomic : Bool) (pid : Fin 16) :
    homePutPa (withLid n s) pa bs tag atomic pid = withLid n (homePutPa s pa bs tag atomic pid) := by
  have h : objAtPa (withLid n s) pa = objAtPa s pa := rfl
  simp only [homePutPa, h, homePut_withLid, paWrite_withLid]
  cases objAtPa s pa <;> rfl

theorem hostRecall_withLid (pa : Nat) : hostRecall (withLid n s) pa = withLid n (hostRecall s pa) := by
  unfold hostRecall
  rw [apply_ite (withLid n)]
  congr 1
  exact List.foldl_hom (withLid n) (fun s l => homePutPa_withLid n s ..)

theorem onCore_withLid (id : Nat) (f : Core → Core) : onCore (withLid n s) id f = withLid n (onCore s id f) := by
  unfold onCore
  rw [apply_ite (withLid n)]
  rfl

theorem wbUnit_withLid (id : Nat) (pid : Fin 16) (ws : List L1Word) : wbUnit id pid (withLid n s) ws = withLid n (wbUnit id pid s ws) := by
  cases ws with
  | nil => rfl
  | cons w ws =>
    have h : findObj (withLid n s) w.oid = findObj s w.oid := rfl
    cases ho : findObj s w.oid with
    | none =>
      simp only [wbUnit, h, ho]
      rw [serve_withLid, hostRecall_withLid, homePutPa_withLid]
    | some o =>
      simp only [wbUnit, h, ho]
      rw [serve_withLid, hostRecall_withLid, homePut_withLid]

theorem writeBack_withLid (id : Nat) (p : L1Word → Bool) : writeBack (withLid n s) id p = withLid n (writeBack s id p) := by
  have h : findCore (withLid n s) id = findCore s id := rfl
  unfold writeBack
  rw [h]
  cases findCore s id with
  | none => rfl
  | some c =>
    have units (us : List (List L1Word)) : us.foldl (wbUnit id c.csr.pid) (withLid n s) = withLid n (us.foldl (wbUnit id c.csr.pid) s) :=
      List.foldl_hom (withLid n) (fun s ws => wbUnit_withLid n s id c.csr.pid ws)
    simp only [units, onCore_withLid]

theorem probe_withLid (me : Option Nat) (pa k : Nat) (read : Bool) : probe (withLid n s) me pa k read = withLid n (probe s me pa k read) := by
  have told (s : State) (c : Core) : (if probeGoes (withLid n s) c pa k then tellCore (withLid n s) (homeOfPa pa) c.id c.csr.pid else withLid n s) =
      withLid n (if probeGoes s c pa k then tellCore s (homeOfPa pa) c.id c.csr.pid else s) := by
    rw [apply_ite (withLid n)]
    rfl
  have dropped (s : State) (id : Nat) (p : L1Word → Bool) : dropWords (withLid n s) id p = withLid n (dropWords s id p) :=
    onCore_withLid n s id _
  unfold probe
  dsimp only
  rw [List.foldl_hom (withLid n) (l := allCores (withLid n s)) (init := s) (fun s c => ?_)]
  · refine List.foldl_hom (withLid n) (fun s b => ?_)
    rw [apply_ite (withLid n)]
    rfl
  · rw [told, writeBack_withLid, dropped]
    exact (apply_ite (withLid n) _ _ _).symm

theorem imageFetch_withLid (o : ObjEnt) (pid : Fin 16) : imageFetch (withLid n s) o pid = withLid n (imageFetch s o pid) := by
  have probes (pas : List Nat) (s : State) : pas.foldl (fun s pa => probe s none pa 8 true) (withLid n s) =
      withLid n (pas.foldl (fun s pa => probe s none pa 8 true) s) := List.foldl_hom (withLid n) (fun s pa => probe_withLid n s ..)
  have recalls (gs : List (Nat × Nat × Nat)) (s : State) :
      gs.foldl (fun s g => ((paOf o g.1).map (hostRecall s)).getD s) (withLid n s) =
        withLid n (gs.foldl (fun s g => ((paOf o g.1).map (hostRecall s)).getD s) s) := by
    refine List.foldl_hom (withLid n) (fun s g => ?_)
    cases paOf o g.1 with
    | none => rfl
    | some pa => exact hostRecall_withLid n s pa
  have probed (c : Prop) [Decidable c] (pas : List Nat) : (if c then pas.foldl (fun s pa => probe s none pa 8 true) (withLid n s) else withLid n s) =
      withLid n (if c then pas.foldl (fun s pa => probe s none pa 8 true) s else s) := by
    rw [probes, apply_ite (withLid n)]
  have recalled (t : State) (gs : List (Nat × Nat × Nat)) :
      (if (withLid n t).base.bias.isEmpty then withLid n t else gs.foldl (fun s g => ((paOf o g.1).map (hostRecall s)).getD s) (withLid n t)) =
        withLid n (if t.base.bias.isEmpty then t else gs.foldl (fun s g => ((paOf o g.1).map (hostRecall s)).getD s) t) := by
    rw [recalls, apply_ite (withLid n)]
    rfl
  have cores : allCores (withLid n s) = allCores s := rfl
  unfold imageFetch
  dsimp only
  rw [cores, probed, recalled, dramRead_withLid, withLid₂]

end

/-! ## What reading an image leaves -/

/-- What no read and no write-back at the homes changes: GTC, the objects, the kernel code, the launches and the capture. -/
def settled (s : State) : Nat × List ObjEnt × Vector (Option KCode) 16 × List Launch × Capture :=
  (s.gtc, s.base.objs, s.base.kcode, s.base.launches, s.base.capture)

theorem Kept.settled {s t : State} (h : Kept s t) : settled t = settled s := by
  obtain ⟨⟨m, ts, rs, ls, es, lv, ps, vb, fs, ws, rfl⟩, -⟩ := h
  rfl

theorem settled_foldl {β : Type} {f : State → β → State} (hf : ∀ s b, settled (f s b) = settled s) (l : List β) (s : State) :
    settled (l.foldl f s) = settled s :=
  foldl_keeps (fun t => settled t = settled s) f (fun t b h => (hf t b).trans h) l s rfl

theorem settled_onCore (s : State) (id : Nat) (f : Core → Core) : settled (onCore s id f) = settled s := by
  unfold onCore
  split <;> rfl

theorem settled_hostRecall (s : State) (pa : Nat) : settled (hostRecall s pa) = settled s := by
  unfold hostRecall
  split
  · exact settled_foldl (fun s l => (homePutPa_changes s ..).settled) _ s
  · rfl

theorem settled_wbUnit (id : Nat) (pid : Fin 16) (s : State) (ws : List L1Word) : settled (wbUnit id pid s ws) = settled s := by
  have recalled (s : State) (g n pa : Nat) : settled (hostRecall (serve s g n 0 pid .control (some id)) pa) = settled s :=
    (settled_hostRecall ..).trans (Kept.serve ..).settled
  unfold wbUnit
  split
  · rfl
  · dsimp only
    split
    · exact (homePut_changes ..).settled.trans (recalled ..)
    · exact (homePutPa_changes ..).settled.trans (recalled ..)

theorem settled_writeBack (s : State) (id : Nat) (p : L1Word → Bool) : settled (writeBack s id p) = settled s := by
  unfold writeBack
  split
  · rfl
  · exact (settled_onCore ..).trans (settled_foldl (settled_wbUnit id _) _ s)

theorem settled_probe (s : State) (me : Option Nat) (pa n : Nat) (read : Bool) : settled (probe s me pa n read) = settled s := by
  unfold probe
  refine (settled_foldl (fun s b => ?_) _ _).trans (settled_foldl (fun s c => ?_) _ s)
  · split <;> rfl
  · split
    · rfl
    · refine (settled_onCore ..).trans ((settled_writeBack ..).trans ?_)
      split <;> rfl

theorem settled_imageFetch (s : State) (o : ObjEnt) (pid : Fin 16) : settled (imageFetch s o pid) = settled s := by
  unfold imageFetch
  have probed (c : Prop) [Decidable c] (pas : List Nat) : settled (if c then pas.foldl (fun s pa => probe s none pa 8 true) s else s) = settled s := by
    split
    · exact settled_foldl (fun s pa => settled_probe s ..) _ s
    · rfl
  have recalled (t : State) (gs : List (Nat × Nat × Nat)) :
      settled (if t.base.bias.isEmpty then t else gs.foldl (fun s g => ((paOf o g.1).map (hostRecall s)).getD s) t) = settled t := by
    split
    · rfl
    · refine settled_foldl (fun s g => ?_) gs t
      cases paOf o g.1 with
      | none => rfl
      | some pa => exact settled_hostRecall s pa
  exact (Kept.dramRead ..).settled.trans ((recalled ..).trans (probed ..))

theorem imageRead_withLid (n : Nat) (s : State) (l : Launch) (g : StageRec) : imageRead (withLid n s) l g = withLid n (imageRead s l g) := by
  have h : findObj (withLid n s) g.image = findObj s g.image := rfl
  unfold imageRead
  rw [h]
  cases if g.image = 0 then none else findObj s g.image with
  | none => rfl
  | some o => exact imageFetch_withLid n s o l.pid

theorem settled_imageRead (s : State) (l : Launch) (g : StageRec) : settled (imageRead s l g) = settled s := by
  unfold imageRead
  split
  · exact settled_imageFetch ..
  · rfl

/-! ## A core in its place -/

section
variable (s : State) (k : Nat) (f : Core → Core)

@[simp] theorem placeCore_base : (placeCore s k f).base = s.base := by
  unfold placeCore onCore
  split
  · split <;> rfl
  · rfl

@[simp] theorem placeCore_gtc : (placeCore s k f).gtc = s.gtc := by
  unfold placeCore onCore
  split
  · split <;> rfl
  · rfl

@[simp] theorem placeCore_nextLid : (placeCore s k f).nextLid = s.nextLid := by
  unfold placeCore onCore
  split
  · split <;> rfl
  · rfl

end

/-- The cores after one of them has changed, which keeps its id. -/
theorem findCore_onCore (s : State) (k : Nat) {g : Core → Core} (hg : ∀ c, (g c).id = c.id) (id : Nat) :
    findCore (onCore s k g) id = if id = k then (findCore s id).map g else findCore s id := by
  unfold onCore findCore
  split
  next hk =>
    by_cases hi : s.core.id = id
    · rw [if_pos ((hg _).trans hi), if_pos (hi.symm.trans hk), if_pos hi, Option.map_some]
    · rw [if_neg (fun h => hi ((hg _).symm.trans h)), if_neg (fun h => hi (hk.trans h.symm)), if_neg hi]
  next hk =>
    have same : ((fun d => d.id == id) ∘ fun c => if c.id = k then g c else c) = fun (d : Core) => d.id == id := funext fun d => by
      by_cases hd : d.id = k <;> simp [hd, hg]
    by_cases hi : s.core.id = id
    · rw [if_pos hi, if_pos hi, if_neg (fun h => hk (hi.trans h))]
    · simp only [if_neg hi, List.find?_map, same]
      have ofId {d : Core} (h : s.others.find? (fun d => d.id == id) = some d) : d.id = id := by simpa using List.find?_some h
      cases hf : s.others.find? (fun d => d.id == id) with
      | none => simp only [Option.map_none, ite_self]
      | some d => simp only [Option.map_some, ofId hf, apply_ite some]

/-- The cores once one has its place: it is listed, and the others stand as they are. -/
theorem findCore_placeCore (s : State) (k : Nat) {g : Core → Core} (hg : ∀ c, (g c).id = c.id) (id : Nat) :
    findCore (placeCore s k g) id = if id = k then some (g ((findCore s k).getD (Core.free k))) else findCore s id := by
  unfold placeCore
  cases hk : findCore s k with
  | some c =>
    rw [findCore_onCore s k hg]
    by_cases hi : id = k
    · rw [if_pos hi, if_pos hi, hi, hk, Option.map_some, Option.getD_some]
    · rw [if_neg hi, if_neg hi]
  | none =>
    have new : (g (Core.free k)).id = k := hg _
    have absent : s.core.id ≠ k ∧ s.others.find? (fun c => c.id == k) = none := by
      unfold findCore at hk
      by_cases hc : s.core.id = k
      · rw [if_pos hc] at hk
        contradiction
      · exact ⟨hc, by rwa [if_neg hc] at hk⟩
    unfold findCore
    by_cases hi : id = k
    · subst hi
      simp only [if_neg absent.1, List.find?_append, absent.2, List.find?_singleton, new, beq_self_eq_true, ↓reduceIte, Option.none_or,
        Option.getD_none]
    · have other : ((g (Core.free k)).id == id) = false := by simpa [new] using Ne.symm hi
      simp only [if_neg hi, List.find?_append, List.find?_singleton, other, Bool.false_eq_true, ↓reduceIte, Option.or_none]

/-! ## Lease-start state (01 R32, 04 R88) -/

@[simp] theorem startCore_id (s : State) (l : Launch) (x : Lease) (c : Core) : (startCore s l x c).id = c.id := rfl

/-- What a lease's core holds. -/
theorem started_startCore (s : State) {u : State} (l : Launch) (x : Lease) (c : Core) (hk : u.base.kcode = s.base.kcode) :
    Started s l x (startCore u l x c) := by
  have tvec : (startCore u l x c).csr.tvec = ((s.base.kcode[l.pid]).map (fun k => k.trap)).getD 0 := hk ▸ rfl
  have idx : ∀ k : Fin 4, (startCore u l x c).seq.x[k.val + 1] = (x.idx[k]).setWidth 64
    | 0 => rfl
    | 1 => rfl
    | 2 => rfl
    | 3 => rfl
  have zeros : ∀ k : Fin 64, k.val = 0 ∨ 8 ≤ k.val → (startCore u l x c).seq.x[k] = 0 := by
    intro k hk
    simp only [startCore, freeCore, Core.free, Fin.getElem_fin]
    repeat rw [Vector.getElem_set_ne _ _ (by omega)]
    exact Vector.getElem_replicate _
  have nulls : ∀ k : Fin 16, 2 ≤ k.val → (startCore u l x c).seq.c[k] = Cap.null := by
    intro k hk
    simp only [startCore, freeCore, Core.free, Fin.getElem_fin]
    repeat rw [Vector.getElem_set_ne _ _ (by omega)]
    exact Vector.getElem_replicate _
  have rings : ∀ k : Fin 3, ((startCore u l x c).eng.rings[k]).en = false
    | 0 => rfl
    | 1 => rfl
    | 2 => rfl
  exact ⟨rfl, rfl, rfl, rfl, rfl, rfl, rfl, rfl, tvec, idx, rfl, rfl, rfl, zeros, rfl, rfl, rfl, nulls, rfl, rfl, rfl, rfl, rings, rfl, rfl, rfl⟩

/-! ## The walker (01 R29, R30) -/

/-- The walker rejects a record in its completion record. -/
theorem launchWalk_rejects {s u : State} {q : Fin 16} {x : Queued} {w : Nat} (h : takeRecord s q = some (u, x))
    (hw : rejection u x.data = some w) : exec (.launchWalk q) s = .next (reportLaunch u (launchRec x) 1 w) := by
  change execLaunchWalk q s = _
  simp only [execLaunchWalk, h, hw]

/-- An accepted record's launch goes live, and completes at once if it has nothing to do. -/
theorem launchWalk_accepts {s u : State} {q : Fin 16} {x : Queued} (h : takeRecord s q = some (u, x)) (hw : rejection u x.data = none) :
    exec (.launchWalk q) s = .next (finishLaunch (onBase u (fun b => { b with launches := b.launches ++ [launchRec x] })) (launchRec x).id) := by
  change execLaunchWalk q s = _
  simp only [execLaunchWalk, h, hw]

theorem takeRecord_queue {s : State} {q : Fin 16} {x : Queued} {rest : List Queued} (hr : s.base.replay = none)
    (hq : s.base.queues[q] = x :: rest) : takeRecord s q = some (dequeued s q rest, x) := by
  simp only [takeRecord, hr, hq]
  rfl

theorem takeRecord_replay {s : State} (q : Fin 16) {r r' : Replay} {x : Queued} (hr : s.base.replay = some r)
    (hx : replayLaunch r = some (r', x)) :
    takeRecord s q = some ({ s with base := { s.base with replay := some { r' with brought := r'.brought ++ [x.id] } } }, x) := by
  simp only [takeRecord, hr, hx]
  rfl

/-- An accepted record has a stage. -/
theorem stages_of_accepted {u : State} {d : List Byte} (h : rejection u d = none) : recNat d 1 1 ≠ 0 := by
  intro h0
  simp [rejection, h0] at h

/-- A launch with iterations and a stage is not over before its first lease. -/
theorem launchDone_launchRec {x : Queued} (hn : recNat x.data 1 1 ≠ 0) (ht : 0 < (launchRec x).total) : launchDone (launchRec x) = false := by
  have first : ∃ g ∈ recStages x.data, g.next = 0 := ⟨_, List.mem_map.2 ⟨0, List.mem_range.2 (Nat.pos_of_ne_zero hn), rfl⟩, rfl⟩
  obtain ⟨g, hg, h0⟩ := first
  have open_ : (launchRec x).stages.all (fun g => (launchRec x).total ≤ g.next) = false :=
    List.all_eq_false.2 ⟨g, hg, by simpa [h0] using Nat.ne_of_gt ht⟩
  simp only [launchDone, open_, Bool.and_false]

/-- A launch that is not over goes on. -/
theorem finishLaunch_live {s : State} {id : BitVec 32} {l : Launch} (hl : s.base.launches.find? (fun l => l.id == id) = some l)
    (hd : launchDone l = false) : finishLaunch s id = s := by
  simp only [finishLaunch, hl, hd, Bool.false_and, Bool.false_eq_true, ↓reduceIte]

/-- A launch that goes live is the one of its id. -/
theorem find_new_launch {ls : List Launch} {l : Launch} (h : ∀ k ∈ ls, k.id ≠ l.id) : (ls ++ [l]).find? (fun k => k.id == l.id) = some l := by
  have old : ls.find? (fun k => k.id == l.id) = none := List.find?_eq_none.2 (fun k hk => by simpa using h k hk)
  rw [List.find?_append, old, Option.none_or, List.find?_singleton, beq_self_eq_true, if_pos rfl]

/-! ## Fresh ids (01 R31) -/

/-- As many consecutive numbers as a list has ids, and one more, are not all among them. -/
theorem exists_unused {used : List (BitVec 32)} (h : used.length < 2 ^ 32) (n : Nat) :
    ∃ i ∈ List.range (used.length + 1), BitVec.ofNat 32 (n + 1 + i) ∉ used := by
  by_contra hall
  have nodup : ((List.range (used.length + 1)).map (fun i => BitVec.ofNat 32 (n + 1 + i))).Nodup := by
    refine List.Nodup.map_on (fun i hi j hj hij => ?_) List.nodup_range
    have eq := congrArg BitVec.toNat hij
    simp only [BitVec.toNat_ofNat, List.mem_range] at eq hi hj
    omega
  have sub : (List.range (used.length + 1)).map (fun i => BitVec.ofNat 32 (n + 1 + i)) ⊆ used := fun b hb => by
    obtain ⟨i, hi, rfl⟩ := List.mem_map.1 hb
    exact of_not_not (fun hn => hall ⟨i, hi, hn⟩)
  have le := (List.subperm_of_subset nodup sub).length_le
  simp at le

/-- The id of a new lease is above the last and none in use. -/
theorem freshId_spec {used : List (BitVec 32)} (h : used.length < 2 ^ 32) (n : Nat) :
    n < freshId used n ∧ BitVec.ofNat 32 (freshId used n) ∉ used := by
  obtain ⟨i, hi, hn⟩ := exists_unused h n
  have some_ : (((List.range (used.length + 1)).map (fun i => n + 1 + i)).find? (fun k => !used.contains (BitVec.ofNat 32 k))).isSome :=
    List.find?_isSome.2 ⟨_, List.mem_map.2 ⟨i, hi, rfl⟩, by simpa using hn⟩
  obtain ⟨k, hk⟩ := Option.isSome_iff_exists.1 some_
  obtain ⟨j, -, rfl⟩ := List.mem_map.1 (List.mem_of_find?_eq_some hk)
  have unused := List.find?_some hk
  rw [freshId, hk, Option.getD_some]
  exact ⟨by omega, by simpa using unused⟩

/-! ## Lease starts (01 R31, R32) -/

/-- Once a lease has been told to its core, its launch stands as the start leaves it and the core asks for no power (09 R211). -/
def leaseTold (s : State) (l : Launch) (k : Nat) : State :=
  dropPower (onLaunch (tellCore s (leaseSlice k) k l.pid) l.id (fun _ => l)) k

section
variable (s : State) (l : Launch) (k : Nat)

@[simp] theorem leaseTold_findCore (id : Nat) : findCore (leaseTold s l k) id = findCore s id := rfl
@[simp] theorem leaseTold_mem : (leaseTold s l k).base.mem = s.base.mem := rfl
@[simp] theorem leaseTold_nextLid : (leaseTold s l k).nextLid = s.nextLid := rfl
@[simp] theorem leaseTold_objs : (leaseTold s l k).base.objs = s.base.objs := rfl
@[simp] theorem leaseTold_capture : (leaseTold s l k).base.capture = s.base.capture := rfl
@[simp] theorem leaseTold_gtc : (leaseTold s l k).gtc = s.gtc := rfl
@[simp] theorem leaseTold_launches : (leaseTold s l k).base.launches = s.base.launches.map (fun y => if y.id = l.id then l else y) := rfl

end

theorem captureRec_off {s : State} (h : s.base.capture.mode = 0) (ty : Nat) (content : List Byte) : captureRec s ty content = s := by
  simp only [captureRec, h, true_or, ↓reduceIte]

/-- Reading an image leaves what no read at the homes changes. -/
theorem imageRead_frame (s : State) (l : Launch) (g : StageRec) : (imageRead s l g).gtc = s.gtc ∧ (imageRead s l g).base.objs = s.base.objs ∧
    (imageRead s l g).base.kcode = s.base.kcode ∧ (imageRead s l g).base.launches = s.base.launches ∧
    (imageRead s l g).base.capture = s.base.capture := by
  simpa only [settled, Prod.mk.injEq] using settled_imageRead s l g

/-- Without a capture a lease start places its core. -/
theorem startLease_eq {s : State} {l : Launch} {x : Lease} {g : StageRec} (k : Nat) (hc : s.base.capture.mode = 0) (hi : imageOf l x = g.image) :
    startLease s l x k = placeCore (leaseTold (imageRead s l g) l k) k (startCore (imageRead s l g) l x) := by
  have off : (placeCore (leaseTold (imageRead s l g) l k) k (startCore (imageRead s l g) l x)).base.capture.mode = 0 := by
    obtain ⟨-, -, -, -, same⟩ := imageRead_frame s l g
    rw [placeCore_base, leaseTold_capture, same, hc]
  unfold startLease
  rw [hi]
  unfold leaseTold imageRead at off ⊢
  exact captureRec_off off ..

/-- What a started lease's core and its machine hold. -/
theorem startLease_spec {s : State} {l : Launch} {x : Lease} {g : StageRec} (k : Nat) (hc : s.base.capture.mode = 0) (hi : imageOf l x = g.image) :
    ∃ t c, startLease s l x k = t ∧ findCore t k = some c ∧ Started s l x c ∧ (g.image = 0 → c.eng.spad = []) ∧
      t.nextLid = (imageRead s l g).nextLid ∧ t.base.mem = (imageRead s l g).base.mem ∧ t.base.objs = s.base.objs ∧ t.gtc = s.gtc ∧
      t.base.launches = s.base.launches.map (fun y => if y.id = l.id then l else y) ∧
      (∀ n, n ≠ k → findCore t n = findCore (imageRead s l g) n) := by
  obtain ⟨gtc, objs, kcode, launches, -⟩ := imageRead_frame s l g
  have found := findCore_placeCore (leaseTold (imageRead s l g) l k) k (startCore_id (imageRead s l g) l x)
  refine ⟨_, _, startLease_eq k hc hi, (found k).trans (if_pos rfl), started_startCore s l x _ kcode, fun h0 => ?_,
    ?_, ?_, ?_, ?_, ?_, fun n hn => by rw [found n, if_neg hn, leaseTold_findCore]⟩
  · simp only [startCore, imageMem, hi, h0, ↓reduceIte]
  · rw [placeCore_nextLid, leaseTold_nextLid]
  · rw [placeCore_base, leaseTold_mem]
  · rw [placeCore_base, leaseTold_objs, objs]
  · rw [placeCore_gtc, leaseTold_gtc, gtc]
  · rw [placeCore_base, leaseTold_launches, launches]

/-! ## The next lease of a stage -/

/-- The lease of iteration `g.next`, and its launch once it has started. -/
def nextIteration (s : State) (l : Launch) (stage : Fin 8) (g : StageRec) : Lease × Launch :=
  (⟨BitVec.ofNat 32 (freshId (leaseIds s) s.nextLid), l.id, stage, idxOf l.loops g.next, g.code, l.abort, false, [], none, 0, [], [], 0⟩,
    { l with live := l.live + 1, stages := l.stages.set stage.val { g with next := g.next + 1 } })

section
variable {s : State} {l : Launch} {stage : Fin 8} {g : StageRec} (hg : l.stages[stage.val]? = some g)
include hg

/-- With no lease to run again, the next iteration starts. -/
theorem nextLease_iteration (hr : ∀ x ∈ l.rerun, x.stage ≠ stage) (ht : g.next < l.total) :
    nextLease s l stage = some (nextIteration s l stage g) := by
  have none_ : l.rerun.filter (fun x => x.stage == stage) = [] := List.filter_eq_nil_iff.2 (fun x hx => by simpa using hr x hx)
  simp only [nextLease, none_, hg, if_pos ht]
  rfl

theorem imageOf_nextIteration : imageOf (nextIteration s l stage g).2 (nextIteration s l stage g).1 = g.image := by
  have hlt : stage.val < l.stages.length := (List.getElem?_eq_some_iff.1 hg).1
  simp [imageOf, nextIteration, hlt]

/-- A lease start waits for its image, or the next iteration starts under a fresh id. -/
theorem leaseStart_eq {k : Nat} (hn : s.base.replay = none) (hf : s.base.launches.find? (fun k => k.id == l.id) = some l)
    (hr : ∀ x ∈ l.rerun, x.stage ≠ stage) (ht : g.next < l.total) (hk : pickCore s g = some k) :
    exec (.leaseStart l.id stage) s =
      startReady s (nextIteration s l stage g).2 (nextIteration s l stage g).1 k (fun s => withLid (freshId (leaseIds s) s.nextLid) s) := by
  change execLeaseStart l.id stage s = _
  simp only [execLeaseStart, hf, hn, nextLease_iteration hg hr ht, hg, Option.bind_some, hk]
  rfl

end

theorem startReady_busy {s v : State} {l : Launch} {x : Lease} (h : imageAsk s l x = (v, .busy)) (k : Nat) (after : State → State) :
    startReady s l x k after = .next v := by
  simp only [startReady, h]

theorem startReady_ready {s : State} {l : Launch} {x : Lease} (h : (imageAsk s l x).2 ≠ .busy) (k : Nat) (after : State → State) :
    startReady s l x k after = .next (startLease (after s) l x k) := by
  unfold startReady
  split
  · next hb => exact absurd (congrArg Prod.snd hb) h
  · rfl

theorem imageRead_congr {l l' : Launch} (s : State) (g : StageRec) (h : l.pid = l'.pid) : imageRead s l g = imageRead s l' g := by
  simp only [imageRead, h]

end Sys2Proof.Machine

/-- Settles O50: the walker's two outcomes, the start of the next iteration (which commutes with counting its id), and fresh ids by
the pigeonhole principle. -/
theorem launchesGoLiveAndLeasesStart : Obligations.LaunchesGoLiveAndLeasesStart := by
  intro s q stage
  refine ⟨fun u x htake => ?_, fun l g k hn hc hf hg hr ht hk => ?_, fun used n h => freshId_spec h n⟩
  · have taken : takeRecord s q = some (u, x) ∧ u.base.launches = s.base.launches := by
      rcases htake with ⟨hr, rest, hq, rfl⟩ | ⟨r, r', hr, hx, rfl⟩
      · exact ⟨takeRecord_queue hr hq, rfl⟩
      · exact ⟨takeRecord_replay q hr hx, rfl⟩
    obtain ⟨taken, same⟩ := taken
    refine ⟨fun w hw => launchWalk_rejects taken hw, fun hw hid ht => ?_⟩
    have new := find_new_launch (l := launchRec x) (same.symm ▸ hid)
    rw [launchWalk_accepts taken hw]
    exact congrArg _ (finishLaunch_live (s := onBase u _) new (launchDone_launchRec (stages_of_accepted hw) ht))
  · rw [leaseStart_eq hg hn hf hr ht hk]
    refine ⟨fun v hv => startReady_busy hv .., fun hready => ?_⟩
    have spec := startLease_spec (s := withLid (freshId (leaseIds s) s.nextLid) s) k hc (imageOf_nextIteration (s := s) hg)
    rw [imageRead_withLid, ← imageRead_congr s g (show l.pid = (nextIteration s l stage g).2.pid from rfl)] at spec
    obtain ⟨t, c, ht, hrest⟩ := spec
    exact ⟨t, c, (startReady_ready hready ..).trans (congrArg _ ht), hrest⟩
end

section
/-! Settled for words and the opcode map: words and the instructions that they encode (02 R39 to R55). The operands that share a field
are digits of the field's number, of mixed radix; a `simp` that asks `omega` for the digits reads each of them back. -/

open Sys2Proof Sys2Proof.Claims

namespace Sys2Proof

/-! ## The checks that the operand types leave open (02 R43, R44, R48) -/

theorem Hdr.wf_iff (h : Hdr) : h.wf = true ↔ h.wk ≠ 1 := bne_iff_ne

theorem ld_wf_iff {sp : Space} {sgn : Bool} {size : Fin 4} {a : XReg} {b : CReg} {c : XReg} {imm : BitVec 32} :
    (Instr.ld sp sgn size a b c imm).wf = true ↔ ¬ (sgn = true ∧ size = 3) := by
  change (!(sgn && size == 3)) = true ↔ _
  rw [Bool.not_eq_true', ← Bool.not_eq_true, Bool.and_eq_true, beq_iff_eq]

theorem slotrd_wf_iff {a : XReg} {slot : Fin 16} : (Instr.slotrd a slot).wf = true ↔ slot ≠ 0 := bne_iff_ne

theorem dq_wf_iff {a : XReg} {b : CReg} {imm : BitVec 32} : (Instr.dq a b imm).wf = true ↔ a.val % 2 = 0 := beq_iff_eq

/-! ## Operands inside a field -/

theorem part_eq_of_digits {n lo m : Nat} [NeZero m] {x : Fin m} (h : n / 2 ^ lo % m = x.val) : (part n lo m = x) = True :=
  eq_true (Fin.ext h)

theorem testBit_eq_of_digit {n k : Nat} {b : Bool} (h : n / 2 ^ k % 2 = b.toNat % 2) : (n.testBit k = b) = True := by
  refine eq_true ?_
  rw [Nat.testBit_eq_decide_div_mod_eq, h]
  cases b <;> rfl

/-- The flag in bit 0. -/
@[simp] theorem decide_toNat_mod_two (b : Bool) : decide (b.toNat % 2 = 1) = b := by
  cases b <;> rfl

/-! ## Sequencer words (02 R39 to R46) -/

@[simp] theorem imn_eq_part (f : SeqFields) (lo m : Nat) [NeZero m] : f.imn lo m = part f.imm.toNat lo m := rfl

@[simp] theorem imb_eq_testBit (f : SeqFields) (k : Nat) : f.imb k = f.imm.toNat.testBit k := rfl

theorem Eng.code_lt (e : Eng) : e.code < 4 := by cases e <;> decide

theorem Space.code_lt (sp : Space) : sp.code < 4 := by cases sp <;> decide

theorem Ord.toNat_lt (o : Ord) : o.toNat < 4294967296 := by
  have h1 := Bool.toNat_lt o.host
  have h2 := Bool.toNat_lt o.digest
  have h3 := Bool.toNat_lt o.global
  have h4 := Bool.toNat_lt o.stage
  have h5 := Bool.toNat_lt o.spad
  unfold Ord.toNat
  omega

/-- An ordering immediate alone in IMM. -/
@[simp] theorem Ord.ofImm_toNat_mod (o : Ord) : Ord.ofImm (o.toNat % 4294967296) = o := by
  rw [Nat.mod_eq_of_lt o.toNat_lt, Ord.ofImm_toNat]

/-- The engine in IMM[17:16], above the number of an engine CSR (02 R46). -/
@[simp] theorem Eng.ofCode_part_add (e : Eng) (x : Fin 256) :
    Eng.ofCode (part ((e.code * 65536 + x.val) % 4294967296) 16 4) = some e := by
  have h := e.code_lt
  have code : part ((e.code * 65536 + x.val) % 4294967296) 16 4 = Fin.ofNat 4 e.code :=
    of_eq_true (part_eq_of_digits (by rw [Fin.val_ofNat]; omega))
  rw [code, Eng.ofCode_code]

/-- The engine alone in IMM. -/
@[simp] theorem Eng.ofCode_part (e : Eng) : Eng.ofCode (part (e.code * 65536 % 4294967296) 16 4) = some e := by
  simpa using e.ofCode_part_add 0

/-- The digits of LD's and ST's FN: the space, the sign and the size (02 R44). -/
theorem fn_digits (sp : Space) (sgn : Bool) (size : Fin 4) :
    let n := (sp.code * 8 + sgn.toNat * 4 + size.val) % 256
    n / 8 % 8 = sp.code ∧ n.testBit 2 = sgn ∧ Fin.ofNat 4 n = size ∧ n / 64 = 0 := by
  have hsp := sp.code_lt
  have hsgn := Bool.toNat_lt sgn
  refine ⟨by omega, of_eq_true (testBit_eq_of_digit (by omega)), Fin.ext ?_, by omega⟩
  rw [Fin.val_ofNat]
  omega

theorem decodeLd_fields (maj : Fin 64) {sp : Space} {sgn : Bool} {size : Fin 4} (a : XReg) (b : CReg) (c : XReg)
    (imm : BitVec 32) (h : ¬ (sgn = true ∧ size = 3)) :
    decodeLd ⟨maj, a, wide b, c, Fin.ofNat 256 (sp.code * 8 + sgn.toNat * 4 + size.val), imm⟩ =
      some (.ld sp sgn size a b c imm) := by
  obtain ⟨space, sign, bytes, rest⟩ := fn_digits sp sgn size
  simp only [decodeLd, Fin.val_ofNat, space, sign, bytes, rest, Space.ofCode_code, creg_wide, Option.bind_eq_bind, Option.bind_some]
  exact if_neg (by simpa using h)

theorem decodeSt_fields (maj : Fin 64) (sp : Space) (size : Fin 4) (a : XReg) (b : CReg) (c : XReg) (imm : BitVec 32) :
    decodeSt ⟨maj, a, wide b, c, Fin.ofNat 256 (sp.code * 8 + size.val), imm⟩ = some (.st sp size a b c imm) := by
  obtain ⟨space, sign, bytes, rest⟩ := fn_digits sp false size
  simp only [Bool.toNat_false, Nat.zero_mul, Nat.add_zero] at space sign bytes rest
  simp only [decodeSt, Fin.val_ofNat, space, sign, bytes, rest, Space.ofCode_code, creg_wide, Option.bind_eq_bind, Option.bind_some]
  exact if_neg (by simp)

/-! The instructions with an engine operand, by the function of their group: through the whole opcode map the kernel would evaluate
the engine's code. -/

section
variable (maj : Fin 64) (a b c : XReg) (e : Eng) (k : Fin 256)

theorem decodeEng_rtail : decodeEng ⟨maj, a, b, c, 0, BitVec.ofNat 32 (e.code * 65536)⟩ = some (.rtail e b) := by
  simp [decodeEng]

theorem decodeEng_rstat : decodeEng ⟨maj, a, b, c, 1, BitVec.ofNat 32 (e.code * 65536)⟩ = some (.rstat a e) := by
  simp [decodeEng]

theorem decodeEng_ecsrr : decodeEng ⟨maj, a, b, c, 5, BitVec.ofNat 32 (e.code * 65536 + k.val)⟩ = some (.ecsrr a e k) := by
  simp (disch := omega) [decodeEng, part_eq_of_digits]

theorem decodeEng_ecsrw : decodeEng ⟨maj, a, b, c, 6, BitVec.ofNat 32 (e.code * 65536 + k.val)⟩ = some (.ecsrw e k b) := by
  simp (disch := omega) [decodeEng, part_eq_of_digits]

end

/-- The opcode map of the sequencer reads the fields of every well-formed instruction back, group by group (02 R43, R44). -/
theorem seqOf_seqFields {i : Instr} (hw : i.wf = true) (hs : isSequencer i = true) :
    ∃ f, seqFields i = some f ∧ seqOf f = some i := by
  cases i with
  | nop | halt | eret | gtime | rngnext => exact ⟨_, rfl, rfl⟩
  | trap | csrr | csrw | csrset | csrclr =>
    refine ⟨_, rfl, ?_⟩
    simp (disch := omega) [seqOf, decodeSys, part_eq_of_digits]
  | hint k => fin_cases k <;> exact ⟨_, rfl, rfl⟩
  | add | sub | and | or | xor | sll | srl | sra | mul | mulh | div | divn | rem | remn | min | max | minn | maxn | slt | sltn | clz
  | ctz | popc | clmul | clmulh => exact ⟨_, rfl, rfl⟩
  | addi | andi | ori | xori | slti | sltni | movhi => exact ⟨_, rfl, rfl⟩
  | slli | srli | srai =>
    refine ⟨_, rfl, ?_⟩
    simp (disch := omega) [seqOf, decodeAlui, part_eq_of_digits]
  | beq | bne | blt | bge | bltn | bgen | jal | jalr => exact ⟨_, rfl, rfl⟩
  | ld sp sgn size a b c imm => exact ⟨_, rfl, decodeLd_fields 5 a b c imm (ld_wf_iff.1 hw)⟩
  | st sp size a b c imm => exact ⟨_, rfl, decodeSt_fields 6 sp size a b c imm⟩
  | cderive | crestrict | csetoff | cincoff | cgetbase | cgetlen | cgetoff | cldc | cstc =>
    refine ⟨_, rfl, ?_⟩
    simp [seqOf, decodeCap]
  | fpush => exact ⟨_, rfl, rfl⟩
  | rtail e b => exact ⟨_, rfl, decodeEng_rtail 8 0 b 0 e⟩
  | rstat a e => exact ⟨_, rfl, decodeEng_rstat 8 a 0 0 e⟩
  | ecsrr a e k => exact ⟨_, rfl, decodeEng_ecsrr 8 a 0 0 e k⟩
  | ecsrw e k b => exact ⟨_, rfl, decodeEng_ecsrw 8 0 b 0 e k⟩
  | salign =>
    refine ⟨_, rfl, ?_⟩
    simp (disch := omega) [seqOf, decodeEng, part_eq_of_digits]
  | slotrd a slot =>
    have field : part (slot.val % 4294967296) 0 16 = slot := of_eq_true (part_eq_of_digits (by omega))
    refine ⟨_, rfl, ?_⟩
    simp [seqOf, decodeEng, field, slotrd_wf_iff.1 hw]
  | tretire | stgput | stgget => exact ⟨_, rfl, rfl⟩
  | dispatch | launch =>
    refine ⟨_, rfl, ?_⟩
    simp (disch := omega) [seqOf, decodeTile, part_eq_of_digits]
  | aadd | aand | aor | axor | amin | amax | aminn | amaxn | aswp | acas | fadd | lr | sc =>
    refine ⟨_, rfl, ?_⟩
    simp [seqOf, decodeAtom]
  | fence | binit | bxfer | barr | bwait | barrw | bfree | soinit | acq | rel | rbind | rmode =>
    refine ⟨_, rfl, ?_⟩
    simp (disch := omega) [seqOf, decodeSync, part_eq_of_digits]
  | dcfg | drebuild =>
    refine ⟨_, rfl, ?_⟩
    simp [seqOf, decodeDig]
  | dq a b imm =>
    refine ⟨_, rfl, ?_⟩
    simp [seqOf, decodeDig, dq_wf_iff.1 hw]
  | pgmap | pgunmap | pgfetch | sptag | spret | sptrunc | spposGet | spposSet =>
    refine ⟨_, rfl, ?_⟩
    simp (disch := omega) [seqOf, decodePage, part_eq_of_digits, testBit_eq_of_digit]
  | _ => cases hs

/-! ## Command words (02 R47 to R55) -/

section
variable {hdr : Hdr} {eop : Fin 256} (hw : hdr.wf = true) (he : eop.val < 240)
include hw he

/-- A command that is neither ALIGN nor a hint stands in the opcode map of its engine (02 R48, R50). -/
theorem cmdOf_operation (e : Eng) (opf : Fin 1099511627776) :
    cmdOf e ⟨hdr.wk, hdr.wv, hdr.sset, hdr.schk, eop, opf⟩ = match e with
    | .copy => copyOf hdr eop.val (CopyOpf.unpack opf.val)
    | .matrix => matOf hdr eop.val (MatOpf.unpack opf.val)
    | .vector => vecOf hdr eop.val (VecOpf.unpack opf.val) :=
  (if_neg (hdr.wf_iff.1 hw)).trans (if_neg (Nat.not_le.2 he))

theorem cmdOf_copy (o : CopyOpf) :
    cmdOf .copy ⟨hdr.wk, hdr.wv, hdr.sset, hdr.schk, eop, opfOf o.pack⟩ = copyOf hdr eop.val o := by
  rw [cmdOf_operation hw he, CopyOpf.unpack_pack]

theorem cmdOf_matrix (o : MatOpf) :
    cmdOf .matrix ⟨hdr.wk, hdr.wv, hdr.sset, hdr.schk, eop, opfOf o.pack⟩ = matOf hdr eop.val o := by
  rw [cmdOf_operation hw he, MatOpf.unpack_pack]

theorem cmdOf_vector (o : VecOpf) :
    cmdOf .vector ⟨hdr.wk, hdr.wv, hdr.sset, hdr.schk, eop, opfOf o.pack⟩ = vecOf hdr eop.val o := by
  rw [cmdOf_operation hw he, VecOpf.unpack_pack]

end

theorem cmdOf_hint {hdr : Hdr} (hw : hdr.wf = true) (e : Eng) (k : Fin 16) (opf : Fin 1099511627776) :
    cmdOf e ⟨hdr.wk, hdr.wv, hdr.sset, hdr.schk, Fin.ofNat 256 (240 + k.val), opf⟩ = some (.engineHint e hdr k) := by
  have code : (Fin.ofNat 256 (240 + k.val)).val = 240 + k.val := Nat.mod_eq_of_lt (by omega)
  refine (if_neg (hdr.wf_iff.1 hw)).trans ((if_pos (by dsimp only; omega)).trans ?_)
  simp only [code, Nat.add_sub_cancel_left, Fin.ofNat_val_eq_self, CmdFields.hdr]

/-- The opcode maps of the engines read the fields of every well-formed command back (02 R55). A flag below another operand is bounded
first, for `omega` does not bound `Bool.toNat`. -/
theorem cmdOf_cmdFields {i : Instr} (hw : i.wf = true) (hc : isCommand i = true) :
    (cmdFields i).bind (fun p => cmdOf p.1 p.2) = some i := by
  cases i with
  | align => rfl
  | engineHint e h k => exact cmdOf_hint hw e k 0
  | cnop => exact cmdOf_copy hw (by decide) _
  | cpy | gather | scatter | scatadd | dscan =>
    refine (cmdOf_copy hw (by decide) _).trans ?_
    simp [copyOf]
  | qld | fill | topkr | topkc | topkcTab | compact | expand | accrd | accwr | dskip | prefetch | evict =>
    refine (cmdOf_copy hw (by decide) _).trans ?_
    simp (disch := omega) [copyOf, part_eq_of_digits, testBit_eq_of_digit]
  | chkarm h qs off clr k =>
    have hoff := Bool.toNat_lt off
    refine (cmdOf_copy hw (by decide) _).trans ?_
    simp (disch := omega) [copyOf, part_eq_of_digits, testBit_eq_of_digit]
  | mnop | wload | wfree | mma | mmat | mmaz | accz | slspill | slfill | drain | drainq =>
    exact cmdOf_matrix hw (by decide) _
  | wconst | slmap | slclr | bind =>
    refine (cmdOf_matrix hw (by decide) _).trans ?_
    simp (disch := omega) [matOf, part_eq_of_digits, testBit_eq_of_digit]
  | vnop | vmin | vmax | vabs | vneg | vand | vor | vxor | vpopc | vctz | vsel | vperm =>
    exact cmdOf_vector hw (by decide) _
  | vmov | vclmul | viota | vcompr =>
    refine (cmdOf_vector hw (by decide) _).trans ?_
    simp [vecOf]
  | vadd | vsub | vmul | vfma | vdiv | vsqrt | vrsq | vrcp | vexp2 | vlog2 | vcvt | vshl | vshr | vshra | vpsum | vred | vcmp | vbcast
  | vld | vldg | vst | vstg | vmtest | mand | mor | mnot | mpop =>
    refine (cmdOf_vector hw (by decide) _).trans ?_
    simp (disch := omega) [vecOf, part_eq_of_digits, testBit_eq_of_digit]
  | vwin h wt mode wr ws =>
    have hmode := Bool.toNat_lt mode
    refine (cmdOf_vector hw (by decide) _).trans ?_
    simp (disch := omega) [vecOf, part_eq_of_digits, testBit_eq_of_digit]
  | vpxor h vd va vb m t excl seed =>
    have hexcl := Bool.toNat_lt excl
    refine (cmdOf_vector hw (by decide) _).trans ?_
    simp (disch := omega) [vecOf, testBit_eq_of_digit]
  | _ => cases hc

/-! ## What the decoders yield (02 R41 to R55) -/

/-- An operand that names nothing decodes to nothing, and any other to a well-formed instruction. -/
theorem all_wf_bind {α : Type} {o : Option α} {f : α → Option Instr} (h : ∀ a, (f a).all Instr.wf = true) :
    (o.bind f).all Instr.wf = true := by
  cases o with
  | none => rfl
  | some a => exact h a

section
variable (f : SeqFields)

theorem decodeSys_wf : (decodeSys f).all Instr.wf = true := by
  unfold decodeSys
  split <;> rfl

theorem decodeAlu_wf : (decodeAlu f).all Instr.wf = true := by
  unfold decodeAlu
  split <;> rfl

theorem decodeAlui_wf : (decodeAlui f).all Instr.wf = true := by
  unfold decodeAlui
  split <;> rfl

theorem decodeBr_wf : (decodeBr f).all Instr.wf = true := by
  unfold decodeBr
  split <;> rfl

theorem decodeJmp_wf : (decodeJmp f).all Instr.wf = true := by
  unfold decodeJmp
  split <;> rfl

theorem decodeCap_wf : (decodeCap f).all Instr.wf = true := by
  unfold decodeCap
  split
  case h_5 | h_6 | h_7 => exact all_wf_bind fun _ => rfl
  case h_10 => rfl
  all_goals exact all_wf_bind fun _ => all_wf_bind fun _ => rfl

theorem decodeEng_wf : (decodeEng f).all Instr.wf = true := by
  unfold decodeEng
  split
  case h_3 | h_4 | h_8 => rfl
  case h_5 =>
    split
    · rfl
    · next nonzero => rwa [Option.all_some, slotrd_wf_iff]
  all_goals exact all_wf_bind fun _ => rfl

theorem decodeTile_wf : (decodeTile f).all Instr.wf = true := by
  unfold decodeTile
  split
  case h_5 => exact all_wf_bind fun _ => rfl
  all_goals rfl

theorem decodeAtom_wf : (decodeAtom f).all Instr.wf = true := by
  unfold decodeAtom
  split
  case h_14 => rfl
  all_goals exact all_wf_bind fun _ => rfl

theorem decodeSync_wf : (decodeSync f).all Instr.wf = true := by
  unfold decodeSync
  split
  case h_1 | h_13 => rfl
  case h_11 => exact all_wf_bind fun _ => all_wf_bind fun _ => rfl
  all_goals exact all_wf_bind fun _ => rfl

theorem decodeDig_wf : (decodeDig f).all Instr.wf = true := by
  unfold decodeDig
  split
  case h_2 =>
    split
    · rfl
    · next even => exact all_wf_bind fun _ => by rwa [Option.all_some, dq_wf_iff, ← Nat.mod_two_ne_one]
  case h_4 => rfl
  all_goals exact all_wf_bind fun _ => rfl

theorem decodePage_wf : (decodePage f).all Instr.wf = true := by
  unfold decodePage
  split
  case h_1 => exact all_wf_bind fun _ => all_wf_bind fun _ => rfl
  case h_7 => exact all_wf_bind fun _ => by split <;> rfl
  case h_8 => rfl
  all_goals exact all_wf_bind fun _ => rfl

theorem decodeLd_wf : (decodeLd f).all Instr.wf = true := by
  refine all_wf_bind fun sp => all_wf_bind fun b => ?_
  dsimp only
  split
  · rfl
  · next legal =>
    rw [Option.all_some, ld_wf_iff]
    exact mt Or.inr legal

theorem decodeSt_wf : (decodeSt f).all Instr.wf = true := by
  refine all_wf_bind fun sp => all_wf_bind fun b => ?_
  split <;> rfl

/-- Each group of the opcode map yields well-formed instructions, and a hint is one (02 R42). -/
theorem seqOf_wf : (seqOf f).all Instr.wf = true := by
  unfold seqOf
  split
  case h_1 => exact decodeSys_wf f
  case h_2 => exact decodeAlu_wf f
  case h_3 => exact decodeAlui_wf f
  case h_4 => exact decodeBr_wf f
  case h_5 => exact decodeJmp_wf f
  case h_6 => exact decodeLd_wf f
  case h_7 => exact decodeSt_wf f
  case h_8 => exact decodeCap_wf f
  case h_9 => exact decodeEng_wf f
  case h_10 => exact decodeTile_wf f
  case h_11 => exact decodeAtom_wf f
  case h_12 => exact decodeSync_wf f
  case h_13 => exact decodeDig_wf f
  case h_14 => exact decodePage_wf f
  case h_15 => split <;> rfl

end

theorem copyOf_wf {hdr : Hdr} (hw : hdr.wf = true) (eop : Nat) (o : CopyOpf) : (copyOf hdr eop o).all Instr.wf = true := by
  unfold copyOf
  split
  case h_9 => split <;> exact hw
  case h_19 => rfl
  all_goals exact hw

theorem matOf_wf {hdr : Hdr} (hw : hdr.wf = true) (eop : Nat) (o : MatOpf) : (matOf hdr eop o).all Instr.wf = true := by
  unfold matOf
  split
  case h_16 => rfl
  all_goals exact hw

theorem vecOf_wf {hdr : Hdr} (hw : hdr.wf = true) (eop : Nat) (o : VecOpf) : (vecOf hdr eop o).all Instr.wf = true := by
  unfold vecOf
  split
  case h_46 => rfl
  all_goals exact hw

/-- A command word yields an ALIGN, or a command whose wait kind is not ALIGN's (02 R48). -/
theorem cmdOf_wf (e : Eng) (f : CmdFields) : (cmdOf e f).all Instr.wf = true := by
  unfold cmdOf
  split
  · rfl
  · next h =>
    have hw : f.hdr.wf = true := f.hdr.wf_iff.2 h
    split
    · exact hw
    · cases e with
      | copy => exact copyOf_wf hw ..
      | matrix => exact matOf_wf hw ..
      | vector => exact vecOf_wf hw ..

end Sys2Proof

/-- Settles O2: the fields come back from the word, and the instruction from the fields. -/
theorem sequencerWordsRoundTrip : Obligations.SequencerWordsRoundTrip := by
  intro i hw hs
  obtain ⟨f, hf, hi⟩ := seqOf_seqFields hw hs
  exact ⟨f.pack, by rw [encodeSeq, hf, Option.map_some], by rw [decodeSeq, SeqFields.unpack_pack, hi]⟩

/-- Settles O3: the fields come back from the word, and the command from the fields. -/
theorem commandWordsRoundTrip : Obligations.CommandWordsRoundTrip := by
  intro i hw hc
  obtain ⟨p, hp, hi⟩ := Option.bind_eq_some_iff.1 (cmdOf_cmdFields hw hc)
  exact ⟨p.1, p.2.pack, by rw [encodeCmd, hp, Option.map_some], by rw [decodeCmd, CmdFields.unpack_pack, hi]⟩

/-- Settles O4: each group of the opcode maps, and the wait kind of a command. -/
theorem decodedInstructionsAreWellFormed : Obligations.DecodedInstructionsAreWellFormed :=
  ⟨fun w i h => (Option.all_eq_true _ _).1 (seqOf_wf (SeqFields.unpack w)) i h,
    fun e w i h => (Option.all_eq_true _ _).1 (cmdOf_wf e (CmdFields.unpack w)) i h⟩
end

section
/-! Settled for words and the opcode map: the checks that a command's issue makes, in their order (02 R48, R50, 01 R16 to R28,
04 R111). -/

open Sys2Proof Sys2Proof.Machine Sys2Proof.Claims

namespace Sys2Proof.Machine

open Classical in
/-- The state in which a list of checks ends: that of the first one that fails, or `done` when all pass. -/
noncomputable def stopAtFirst (done : State) : List (Prop × State) → State
  | [] => done
  | (q, t) :: cs => if q then stopAtFirst done cs else t

section
variable {done t : State} {q : Prop} {cs : List (Prop × State)}

theorem stopAtFirst_of_passes (h : q) : stopAtFirst done ((q, t) :: cs) = stopAtFirst done cs := if_pos h

theorem stopAtFirst_of_fails (h : ¬ q) : stopAtFirst done ((q, t) :: cs) = t := if_neg h

theorem stopAtFirst_of_all_pass (h : ∀ x ∈ cs, x.1) : stopAtFirst done cs = done := by
  induction cs with
  | nil => rfl
  | cons x cs ih =>
    obtain ⟨here, later⟩ := List.forall_mem_cons.1 h
    rw [stopAtFirst_of_passes here, ih later]

theorem stopAtFirst_of_first_failure {k : Nat} (hk : cs[k]? = some (q, t)) (hq : ¬ q)
    (before : ∀ (j : Nat) (x : Prop × State), j < k → cs[j]? = some x → x.1) : stopAtFirst done cs = t := by
  induction cs generalizing k with
  | nil => cases hk
  | cons x cs ih =>
    cases k with
    | zero =>
      cases hk
      exact stopAtFirst_of_fails hq
    | succ k =>
      rw [stopAtFirst_of_passes (before 0 x k.succ_pos rfl)]
      exact ih hk (fun j y hj hy => before (j + 1) y (Nat.succ_lt_succ hj) hy)

/-- A conditional is a check: its condition is the failure, and the rest of the checks stand behind it. -/
theorem ite_eq_stopAtFirst {c : Prop} [Decidable c] {stop rest : Out} (hc : q ↔ ¬ c) (hstop : stop = .next t)
    (hrest : rest = .next (stopAtFirst done cs)) : (if c then stop else rest) = .next (stopAtFirst done ((q, t) :: cs)) := by
  by_cases h : c
  · rw [if_pos h, stopAtFirst_of_fails (mt hc.1 (not_not_intro h)), hstop]
  · rw [if_neg h, stopAtFirst_of_passes (hc.2 h), hrest]

end

theorem begin_eq_issued (s : State) (p : Prep) :
    begin s p = p.eff (issued s p.eng p.job p.occ p.pop) (Claims.begun s p.eng p.job) := rfl

/-- An issue runs its checks in the order of the claims, and begins its job after them. -/
theorem issue_eq_stopAtFirst (s : State) (p : Prep) : issue s p = .next (stopAtFirst (begin s p) (issueChecks s p)) := by
  unfold issue issueChecks
  dsimp only
  refine ite_eq_stopAtFirst (by simp) rfl (ite_eq_stopAtFirst ?_ (apply_ite _ _ _ _).symm (ite_eq_stopAtFirst (by simp) rfl
    (ite_eq_stopAtFirst (by simp) rfl ?_)))
  · cases fmtHead s <;> simp
  · cases p.flt with
    | some f => rw [stopAtFirst_of_fails (by simp)]; rfl
    | none =>
      rw [stopAtFirst_of_passes rfl]
      refine ite_eq_stopAtFirst (by simp) rfl ?_
      generalize room s (recUse s p.job) p.job.held (chanOf p.job.cmd) = r
      cases r with
      | ok => rw [stopAtFirst_of_all_pass (by simp)]
      | never => rw [stopAtFirst_of_fails (by simp)]; rfl
      | freeze => rw [stopAtFirst_of_passes (by simp), stopAtFirst_of_fails (by simp)]

end Sys2Proof.Machine

/-- Settles O43: an issue is the first failure of a list of checks, in the order of the claim. -/
theorem commandsIssueAfterTheirChecks : Obligations.CommandsIssueAfterTheirChecks := by
  intro s p cs
  rw [issue_eq_stopAtFirst, ← begin_eq_issued]
  exact ⟨fun all => by rw [stopAtFirst_of_all_pass all],
    fun k q t hk hq before => by rw [stopAtFirst_of_first_failure hk hq before]⟩
end

section
/-! Settled for the sequencer: timer reads and random numbers (04 R92, R107, 05 R120, R121, 22 R403, R404). -/

open Sys2Proof Sys2Proof.Machine Sys2Proof.Claims

namespace Sys2Proof.Machine

/-! ## Registers and completion in the words of the claims -/

theorem wrX_eq_put (s : State) (a : XReg) (v : Word) : wrX s a v = put s a v := by
  unfold wrX setX put
  split <;> rfl

theorem retire_eq_past (n : Nat) (s : State) : retire n s = past n s := rfl

/-! ## Timer reads -/

/-- Both instructions that read GTC write the value of a timer read. -/
theorem exec_timer {s t : State} {v : Word} (a : XReg) (h : readGtc s = (t, v)) :
    exec (.gtime a) s = .next (past 1 (put t a v)) ∧ exec (.csrr a 0x021) s = .next (past 1 (put t a v)) := by
  rw [← wrX_eq_put, ← retire_eq_past]
  constructor
  · show execGtime a s = _
    rw [execGtime, h]
  · show execCsrr a 0x021 s = _
    rw [execCsrr, if_pos (by decide), if_pos (by decide), h]

theorem readGtc_free (s : State) (h : s.core.lease = none) : readGtc s = (s, word s.gtc) := by
  unfold readGtc
  rw [h]

/-- A replay that holds the lease's next timer read gives up its recorded value. -/
theorem readGtc_replayed (s : State) (l : Lease) (r : Replay) (v : BitVec 32 × Nat × Word) (hl : s.core.lease = some l)
    (hr : s.base.replay = some r) (hv : r.timers.find? (fun t => t.1 == l.id && t.2.1 == l.tread) = some v) :
    readGtc s = (captureRec (ticked { s with base := { s.base with replay := some { r with timers := r.timers.erase v } } } l) 4
      (natBytes 8 l.id.toNat ++ natBytes 8 l.tread ++ natBytes 8 v.2.2.toNat), v.2.2) := by
  unfold readGtc
  rw [hl]
  dsimp only
  rw [hr, Option.bind_some, hv]
  dsimp only [onBase, Option.map_some, Option.getD_some, ticked]
  rw [hr, Option.map_some]

/-- Without a recorded value the read is that of GTC. -/
theorem readGtc_live (s : State) (l : Lease) (hl : s.core.lease = some l)
    (hr : ∀ r, s.base.replay = some r → r.timers.find? (fun t => t.1 == l.id && t.2.1 == l.tread) = none) :
    readGtc s = (captureRec (ticked s l) 4 (natBytes 8 l.id.toNat ++ natBytes 8 l.tread ++ natBytes 8 (s.gtc % 2 ^ 64)), word s.gtc) := by
  have hit : s.base.replay.bind (fun r => r.timers.find? (fun t => t.1 == l.id && t.2.1 == l.tread)) = none :=
    Option.bind_eq_none_iff.2 hr
  unfold readGtc
  rw [hl]
  dsimp only
  rw [hit, Option.map_none, Option.getD_none, BitVec.toNat_ofNat]
  rfl

/-! ## Random numbers -/

/-- RNGNEXT writes the generator's output and counts. -/
theorem exec_rngnext (s : State) (a : XReg) : exec (.rngnext a) s =
    .next (past 1 (onCsr (put s a (rngOut s.core.csr.rngkey s.core.csr.rngctr)) (fun r => { r with rngctr := r.rngctr + 1 }))) := by
  rw [← wrX_eq_put, ← retire_eq_past]
  rfl

@[simp] theorem put_csr (s : State) (a : XReg) (v : Word) : (put s a v).core.csr = s.core.csr := by
  unfold put
  split <;> rfl

theorem succ_eq_ofNat (v : Word) : v + 1 = BitVec.ofNat 64 (v.toNat + 1) := by
  rw [BitVec.ofNat_add, BitVec.ofNat_toNat, BitVec.setWidth_eq]
  rfl

end Sys2Proof.Machine

/-- Settles O12: a timer read by whether a lease runs and a replay holds its value; the generator's function, and its counter. -/
theorem timeAndRandomReads : Obligations.TimeAndRandomReads := by
  intro s a
  refine ⟨fun hl => exec_timer a (readGtc_free s hl), fun l r v hl hr hv => exec_timer a (readGtc_replayed s l r v hl hr hv),
    fun l hl hr => ?_, ?_⟩
  · obtain ⟨hg, hc⟩ := exec_timer a (readGtc_live s l hl hr)
    exact ⟨hg, hc, fun off => captureRec_off (s := ticked s l) off _ _⟩
  · rw [exec_rngnext, ← succ_eq_ofNat]
    simp only [onCsr, put_csr]
    rfl
end

section
/-! Settled for the sequencer: the capability check, which stops at its first failure (04 R102, R407, 12 R281). -/

open Sys2Proof Sys2Proof.Machine Sys2Proof.Claims

namespace Sys2Proof.Machine

/-! ## A list of checks, each with its trap -/

/-- `t` is the trap of the first check of the list that fails. -/
def StopsWith (cs : List (Prop × Trap)) (t : Trap) : Prop :=
  ∃ k p, cs[k]? = some (p, t) ∧ ¬ p ∧ ∀ (j : Nat) (q : Prop × Trap), j < k → cs[j]? = some q → q.1

/-- `r` is the trap of the first check that fails, or the entry that was found when none fails. -/
structure Decides (r : Except Trap ObjEnt) (found : Option ObjEnt) (cs : List (Prop × Trap)) : Prop where
  ok : ∀ o, r = .ok o ↔ found = some o ∧ ∀ x ∈ cs, x.1
  error : ∀ t, r = .error t ↔ StopsWith cs t

section
variable {p : Prop} {t u : Trap} {cs : List (Prop × Trap)} {r : Except Trap ObjEnt} {found : Option ObjEnt}

theorem not_stopsWith_nil : ¬ StopsWith [] t := by
  rintro ⟨k, p, hk, -⟩
  cases hk

theorem stopsWith_of_fails (h : ¬ p) : StopsWith ((p, u) :: cs) t ↔ u = t := by
  constructor
  · rintro ⟨k, q, hk, hq, before⟩
    cases k with
    | zero => cases hk; rfl
    | succ k => exact absurd (before 0 (p, u) k.succ_pos rfl) h
  · rintro rfl
    exact ⟨0, p, rfl, h, fun j _ hj => absurd hj j.not_lt_zero⟩

theorem stopsWith_of_passes (h : p) : StopsWith ((p, u) :: cs) t ↔ StopsWith cs t := by
  constructor
  · rintro ⟨k, q, hk, hq, before⟩
    cases k with
    | zero => cases hk; exact absurd h hq
    | succ k => exact ⟨k, q, hk, hq, fun j x hj hx => before (j + 1) x (Nat.succ_lt_succ hj) hx⟩
  · rintro ⟨k, q, hk, hq, before⟩
    refine ⟨k + 1, q, hk, hq, fun j x hj hx => ?_⟩
    cases j with
    | zero => cases hx; exact h
    | succ j => exact before j x (Nat.lt_of_succ_lt_succ hj) hx

/-- The trap with which a list stops stands in it. -/
theorem StopsWith.mem (h : StopsWith cs t) : ∃ p, (p, t) ∈ cs := by
  obtain ⟨k, p, hk, -⟩ := h
  exact ⟨p, List.mem_of_getElem? hk⟩

/-- No check is left. -/
theorem Decides.done (o : ObjEnt) : Decides (.ok o) (some o) [] :=
  ⟨fun e => by simp, fun t => by simp [not_stopsWith_nil]⟩

/-- The first check fails. -/
theorem Decides.stop (h : ¬ p) : Decides (.error t) found ((p, t) :: cs) :=
  ⟨fun o => by simp [h], fun u => by simp [stopsWith_of_fails h]⟩

/-- The first check passes. -/
theorem Decides.pass (h : p) (hr : Decides r found cs) : Decides r found ((p, t) :: cs) :=
  ⟨fun o => by simp [h, hr.ok], fun u => by rw [stopsWith_of_passes h, hr.error]⟩

/-- A conditional is a check: its condition is the failure, and the rest of the checks stand behind it. -/
theorem Decides.ite {c : Prop} [Decidable c] (hc : p ↔ ¬ c) (hr : Decides r found cs) :
    Decides (if c then .error t else r) found ((p, t) :: cs) := by
  by_cases h : c
  · rw [if_pos h]
    exact .stop (fun hp => hc.1 hp h)
  · rw [if_neg h]
    exact hr.pass (hc.2 h)

end

/-! ## The capability check (04 R102) -/

theorem offWord_eq_ofInt (off : Int) : offWord off = BitVec.ofInt 64 off := by
  refine BitVec.eq_of_toNat_eq ?_
  rw [BitVec.toNat_ofInt, offWord, BitVec.toNat_ofNat, wrapN]
  omega

/-- The check is the list of the claims, in its order. -/
theorem checkCap_decides (s : State) (b : CReg) (off : Int) (size align : Nat) (need : BitVec 8) (space : Option (Fin 8)) :
    Decides (checkCap s b off size align need space) (findObj s (capOid s.core.seq.c[b])) (capChecks s b off size align need space) := by
  have spad : ∀ c : Cap, (capOid c == BitVec.ofNat 24 Config.spadOid) = true ↔ capOid c = 0xFFFFFF := fun c => beq_iff_eq
  unfold checkCap capChecks
  simp only [trapCap, trapOperand, offWord_eq_ofInt, spad]
  refine .ite (by simp [rdC, getC]) (.ite ?_ (.ite ?_ (.ite ?_ ?_)))
  · simp only [rdC, getC]
    tauto
  · simp only [rdC, getC]
    omega
  · simp only [gt_iff_lt]
    tauto
  · show Decides _ (findObj s (capOid (rdC s b))) _
    cases hf : findObj s (capOid s.core.seq.c[b]) with
    | none =>
      simp only [rdC, getC, hf]
      exact .stop (by simp)
    | some o =>
      simp only [rdC, getC, hf, Option.some.injEq, forall_eq']
      refine .pass (Option.some_ne_none o) (.ite ?_ (.ite ?_ (.ite ?_ (.done o))))
      · simp only [Bool.and_eq_true, Bool.not_eq_true', not_and, Bool.not_eq_false]
      · cases space with
        | none => simp
        | some sp => simpa using eq_comm
      · simp only [Bool.or_eq_true, not_and, not_or, Bool.not_eq_true]

/-! ## The check of a home instruction (12 R281) -/

theorem checkHome_ok_iff (s : State) (b : CReg) (off : Int) (size align : Nat) (need : BitVec 8) (spaces : List (Fin 8)) (o : ObjEnt) :
    checkHome s b off size align need spaces = .ok o ↔ checkCap s b off size align need none = .ok o ∧ o.space ∈ spaces := by
  unfold checkHome
  cases checkCap s b off size align need none with
  | error t => simp
  | ok e =>
    dsimp only
    split
    next h =>
      have he : e.space ∈ spaces := List.contains_iff_mem.1 h
      constructor
      · intro heq
        cases heq
        exact ⟨rfl, he⟩
      · exact fun ho => ho.1
    next h =>
      have he : e.space ∉ spaces := mt List.contains_iff_mem.2 h
      constructor
      · intro heq
        cases heq
      · rintro ⟨heq, ho⟩
        cases heq
        exact absurd ho he

theorem checkHome_of_checkCap_error {s : State} {b : CReg} {off : Int} {size align : Nat} {need : BitVec 8} {t : Trap}
    (h : checkCap s b off size align need none = .error t) (spaces : List (Fin 8)) :
    checkHome s b off size align need spaces = .error t := by
  rw [checkHome, h]

theorem checkHome_of_other_space {s : State} {b : CReg} {off : Int} {size align : Nat} {need : BitVec 8} {spaces : List (Fin 8)}
    {o : ObjEnt} (h : checkCap s b off size align need none = .ok o) (ho : o.space ∉ spaces) :
    checkHome s b off size align need spaces = .error ⟨0x02, 0, 0, BitVec.ofInt 64 off⟩ := by
  rw [checkHome, h]
  dsimp only
  rw [if_neg (by simpa using ho), trapOperand, offWord_eq_ofInt]

end Sys2Proof.Machine

/-- Settles O19: the checks in the order of the claim, one conditional each. -/
theorem capabilityChecksStopAtTheFirstFailure : Obligations.CapabilityChecksStopAtTheFirstFailure := by
  intro s b off size align need space
  have d := checkCap_decides s b off size align need space
  exact ⟨d.ok, d.error, fun o spaces => checkHome_ok_iff .., fun o spaces h ho => checkHome_of_other_space h ho⟩
end

section
/-! Settled for the sequencer: the trap of a failed check, and the translation cache (04 R98, R102, R103, R407, 12 R279, 22 R393). -/

open Sys2Proof Sys2Proof.Machine Sys2Proof.Claims

namespace Sys2Proof.Machine

/-! ## The trap of a failed check (04 R98, R102) -/

/-- A precise trap, in the words of the claims, when its fields fit CAUSE. -/
theorem takeTrap_eq_trapped (s : State) {t : Trap} (hc : t.code < 256) (hs : t.sub < 256) (ha : t.aux < 65536) :
    takeTrap s t = trapped s t.code t.sub t.aux t.bad s.core.seq.pc := by
  have cause : causeWord t.code t.sub t.aux 0 false 0 = BitVec.ofNat 64 (t.code + t.sub * 2 ^ 16 + t.aux * 2 ^ 24) := by
    simp [causeWord, b2n, Nat.mod_eq_of_lt hc, Nat.mod_eq_of_lt hs, Nat.mod_eq_of_lt ha]
  unfold takeTrap takeTrapAt trapped
  rw [cause]
  rfl

/-- The traps of the checks have small fields. -/
def Trap.Small (t : Trap) : Prop := t.code < 256 ∧ t.sub < 256 ∧ t.aux < 65536

theorem small_of_checkCap_error {s : State} {b : CReg} {off : Int} {size align : Nat} {need : BitVec 8} {space : Option (Fin 8)} {t : Trap}
    (h : checkCap s b off size align need space = .error t) : t.Small := by
  obtain ⟨p, hp⟩ := (((checkCap_decides s b off size align need space).error t).1 h).mem
  have hb : b.val < 16 := b.isLt
  simp only [capChecks, List.mem_cons, List.not_mem_nil, or_false, Prod.mk.injEq] at hp
  unfold Trap.Small
  rcases hp with ⟨-, rfl⟩ | ⟨-, rfl⟩ | ⟨-, rfl⟩ | ⟨-, rfl⟩ | ⟨-, rfl⟩ | ⟨-, rfl⟩ | ⟨-, rfl⟩ | ⟨-, rfl⟩ <;> dsimp only <;> omega

theorem small_of_checkHome_error {s : State} {b : CReg} {off : Int} {size align : Nat} {need : BitVec 8} {spaces : List (Fin 8)} {t : Trap}
    (h : checkHome s b off size align need spaces = .error t) : t.Small := by
  cases hc : checkCap s b off size align need none with
  | error u =>
    cases (checkHome_of_checkCap_error hc spaces).symm.trans h
    exact small_of_checkCap_error hc
  | ok o =>
    by_cases ho : o.space ∈ spaces
    · cases ((checkHome_ok_iff ..).2 ⟨hc, ho⟩).symm.trans h
    · cases (checkHome_of_other_space hc ho).symm.trans h
      exact ⟨(by decide : 0x02 < 256), (by decide : 0 < 256), (by decide : 0 < 65536)⟩

/-- The outcome of a check and of what follows it when it passes. -/
def orTrap (s : State) (r : Except Trap ObjEnt) (f : ObjEnt → Out) : Out :=
  match r with
  | .error t => .next (takeTrap s t)
  | .ok o => f o

/-- The instruction begins with the check `r`, whose traps have small fields. -/
def BeginsWith (s : State) (i : Instr) (r : Except Trap ObjEnt) : Prop :=
  (∀ t, r = .error t → t.Small) ∧ ∃ f, exec i s = orTrap s r f

section
variable {s : State} {i : Instr} {b : CReg} {off : Int} {size align : Nat} {need : BitVec 8}

theorem BeginsWith.cap {space : Option (Fin 8)} (h : ∃ f, exec i s = orTrap s (checkCap s b off size align need space) f) :
    BeginsWith s i (checkCap s b off size align need space) :=
  ⟨fun _ => small_of_checkCap_error, h⟩

theorem BeginsWith.home {spaces : List (Fin 8)} (h : ∃ f, exec i s = orTrap s (checkHome s b off size align need spaces) f) :
    BeginsWith s i (checkHome s b off size align need spaces) :=
  ⟨fun _ => small_of_checkHome_error, h⟩

/-- A first check that fails is all of the instruction. -/
theorem BeginsWith.traps {t : Trap} (h : BeginsWith s i (.error t)) : Traps i s t.code t.sub t.aux t.bad := by
  obtain ⟨small, f, hf⟩ := h
  obtain ⟨hc, hs, ha⟩ := small t rfl
  exact hf.trans (congrArg _ (takeTrap_eq_trapped s hc hs ha))

end

/-- BWAIT and BARRW that are not registered yet begin with the check at their barrier. -/
theorem execBwait_checks {s : State} (hw : ∀ pa rel, s.core.wait ≠ .bwait pa rel) (b : CReg) (c : XReg) (ord : Ord) :
    ∃ f, exec (.bwait b c ord) s = orTrap s (checkHome s b (off1 s b) 16 16 4 [1]) f := by
  show ∃ f, execBwait b c ord s = _
  unfold execBwait
  split
  next h => exact absurd h (hw _ _)
  next h => exact absurd h (hw _ _)
  next => exact ⟨_, rfl⟩

theorem execBarrw_checks {s : State} (hw : ∀ pa g rel, s.core.wait ≠ .barrw pa g rel) (a : XReg) (b : CReg) (c : XReg) (ord : Ord) :
    ∃ f, exec (.barrw a b c ord) s = orTrap s (checkHome s b (off1 s b) 16 16 4 [1]) f := by
  show ∃ f, execBarrw a b c ord s = _
  unfold execBarrw
  split
  next h => exact absurd h (hw _ _ _)
  next h => exact absurd h (hw _ _ _)
  next => exact ⟨_, rfl⟩

/-- The first check of the claims is the one with which the instruction begins. -/
theorem beginsWith_firstCheck {s : State} {i : Instr} {r : Except Trap ObjEnt} (h : firstCheck s i = some r) : BeginsWith s i r := by
  cases i with
  | ld | st | cldc | cstc =>
    cases h
    exact .cap ⟨_, rfl⟩
  | aadd | aand | aor | axor | amin | amax | aminn | amaxn | aswp | acas | fadd | lr | sc | binit | bxfer | barr | bfree | soinit
  | acq | rel | rbind | rmode | dq | pgmap | pgunmap | pgfetch | sptag | spret | sptrunc | spposGet | spposSet | launch =>
    cases h
    exact .home ⟨_, rfl⟩
  | bwait b c ord =>
    dsimp only [firstCheck] at h
    split at h
    next => cases h
    next hw =>
      cases h
      exact .home (execBwait_checks hw b c ord)
  | barrw a b c ord =>
    dsimp only [firstCheck] at h
    split at h
    next => cases h
    next hw =>
      cases h
      exact .home (execBarrw_checks hw a b c ord)
  | _ => cases h

/-! ## The translation cache (04 R103, R407, 22 R393) -/

/-- `t` is `s` but for the current core's translation cache and for pins, of objects and of launches. -/
def PinFrame (s t : State) : Prop :=
  ∃ tc objs ls, t = { s with core := { s.core with tcache := tc }, base := { s.base with objs := objs, launches := ls } } ∧
    objs.map (fun o => { o with pins := 0 }) = s.base.objs.map (fun o => { o with pins := 0 }) ∧
    ls.map (fun l => { l with pins := [] }) = s.base.launches.map (fun l => { l with pins := [] })

theorem PinFrame.refl (s : State) : PinFrame s s := ⟨_, _, _, rfl, rfl, rfl⟩

theorem PinFrame.trans {s t u : State} (h : PinFrame s t) (g : PinFrame t u) : PinFrame s u := by
  obtain ⟨tc, objs, ls, rfl, ho, hl⟩ := h
  obtain ⟨tc', objs', ls', rfl, ho', hl'⟩ := g
  exact ⟨tc', objs', ls', rfl, ho'.trans ho, hl'.trans hl⟩

theorem PinFrame.tcache (s : State) (tc : List TEnt) : PinFrame s { s with core := { s.core with tcache := tc } } :=
  ⟨tc, _, _, rfl, rfl, rfl⟩

/-- Another number of pins of an object. -/
theorem PinFrame.objPins (s : State) (oid : BitVec 24) (f : ObjEnt → Nat) :
    PinFrame s (onObj s oid (fun o => { o with pins := f o })) := by
  refine ⟨_, _, _, rfl, ?_, rfl⟩
  rw [List.map_map]
  refine List.map_congr_left (fun o _ => ?_)
  dsimp only [Function.comp_apply]
  split <;> rfl

/-- Another list of pins of a launch. -/
theorem PinFrame.launchPins (s : State) (id : BitVec 32) (f : Launch → List (BitVec 24)) :
    PinFrame s { s with base := { s.base with
      launches := s.base.launches.map (fun e => if e.id = id then { e with pins := f e } else e) } } := by
  refine ⟨_, _, _, rfl, rfl, ?_⟩
  rw [List.map_map]
  refine List.map_congr_left (fun e _ => ?_)
  dsimp only [Function.comp_apply]
  split <;> rfl

/-- An object that was not cached takes its place in the cache, pinned. -/
def tcacheAdd (s : State) (oid : BitVec 24) (long : Bool) : State :=
  onObj { s with core := { s.core with tcache := s.core.tcache ++ [⟨oid, long⟩] } } oid (fun o => { o with pins := o.pins + 1 })

theorem PinFrame.add (s : State) (oid : BitVec 24) (long : Bool) : PinFrame s (tcacheAdd s oid long) :=
  (PinFrame.tcache s _).trans (.objPins _ _ _)

theorem PinFrame.drop (s : State) (t : TEnt) : PinFrame s (tcacheDrop s t) := by
  unfold tcacheDrop
  dsimp only
  split
  · exact (PinFrame.tcache s _).trans (.launchPins _ _ _)
  · exact (PinFrame.tcache s _).trans (.objPins _ _ _)

@[simp] theorem tcacheAdd_tcache (s : State) (oid : BitVec 24) (long : Bool) :
    (tcacheAdd s oid long).core.tcache = s.core.tcache ++ [⟨oid, long⟩] := rfl

@[simp] theorem tcacheDrop_tcache (s : State) (t : TEnt) : (tcacheDrop s t).core.tcache = s.core.tcache.filter (fun u => u.oid != t.oid) := by
  unfold tcacheDrop
  dsimp only
  split <;> rfl

/-- The entry that a full cache gives up stands in it, so that there is a place after it. -/
theorem length_tcacheDrop_lt {s : State} {v : TEnt} (h : tcacheVictim s = some v) :
    (tcacheDrop s v).core.tcache.length < s.core.tcache.length := by
  rw [tcacheDrop_tcache]
  exact List.length_filter_lt_length_iff_exists.2 ⟨v, List.mem_of_find?_eq_some h, by simp⟩

/-- An entry whose object is not REVOKING can be given up. -/
theorem tcacheVictim_isSome {s : State} {e : TEnt} (he : e ∈ s.core.tcache) (h : ∀ o ∈ s.base.objs, o.oid = e.oid → o.state ≠ 2) :
    ∃ v, tcacheVictim s = some v := by
  refine Option.isSome_iff_exists.1 (List.find?_isSome.2 ⟨e, he, ?_⟩)
  simpa using h

/-- What a look-up does: nothing for the scratchpad; the entry that is there, which may become long; a new entry at a free
place or at that of the entry that is given up; and nothing in a full cache where none can be. -/
inductive Touches (s : State) (oid : BitVec 24) : State → Prop
  | spad (h : oid = 0xFFFFFF) : Touches s oid s
  | cached (f : TEnt → TEnt) (hf : ∀ t, (f t).oid = t.oid) (h : ∃ e ∈ s.core.tcache, e.oid = oid) :
    Touches s oid { s with core := { s.core with tcache := s.core.tcache.map f } }
  | room (long : Bool) (h : s.core.tcache.length < 64) : Touches s oid (tcacheAdd s oid long)
  | full (long : Bool) (v : TEnt) (h : tcacheVictim s = some v) : Touches s oid (tcacheAdd (tcacheDrop s v) oid long)
  | stuck (hs : oid ≠ 0xFFFFFF) (h : ∀ e ∈ s.core.tcache, e.oid ≠ oid) (hl : ¬ s.core.tcache.length < 64)
      (hv : tcacheVictim s = none) : Touches s oid s

theorem touches_touchObj (s : State) (oid : BitVec 24) (long : Bool) : Touches s oid (touchObj s oid long) := by
  unfold touchObj
  split
  next h => exact .spad h
  next h =>
    split
    next hc =>
      refine .cached _ (fun t => ?_) (by simpa using hc)
      split
      next ht => exact ht.symm
      next => rfl
    next hc =>
      dsimp only
      split
      next hl => exact .room long hl
      next hl =>
        split
        next v hv => exact .full long v hv
        next hv => exact .stuck h (by simpa using hc) hl hv

section
variable {s t : State} {oid : BitVec 24}

theorem Touches.pinFrame (h : Touches s oid t) : PinFrame s t := by
  cases h with
  | spad => exact .refl s
  | cached => exact .tcache s _
  | room long => exact .add s oid long
  | full long v => exact (PinFrame.drop s v).trans (.add _ oid long)
  | stuck => exact .refl s

/-- The cache holds 64 entries at most. -/
theorem Touches.length_le (h : Touches s oid t) (hl : s.core.tcache.length ≤ 64) : t.core.tcache.length ≤ 64 := by
  cases h with
  | spad => exact hl
  | cached => simpa using hl
  | room long h => simpa using h
  | full long v hv =>
    have := length_tcacheDrop_lt hv
    rw [tcacheAdd_tcache, List.length_append, List.length_singleton]
    omega
  | stuck => exact hl

/-- The object is cached after the look-up, unless it was not and the full cache could give up no entry. -/
theorem Touches.cached_after (h : Touches s oid t) (hs : oid ≠ 0xFFFFFF) (hp : s.core.tcache.length < 64 ∨
    (∃ e ∈ s.core.tcache, e.oid = oid ∨ ∀ o ∈ s.base.objs, o.oid = e.oid → o.state ≠ 2)) : ∃ e ∈ t.core.tcache, e.oid = oid := by
  cases h with
  | spad h => exact absurd h hs
  | cached f hf h =>
    obtain ⟨e, he, rfl⟩ := h
    exact ⟨f e, List.mem_map_of_mem he, hf e⟩
  | room long => exact ⟨⟨oid, long⟩, by simp, rfl⟩
  | full long v => exact ⟨⟨oid, long⟩, by simp, rfl⟩
  | stuck _ hc hl hv =>
    obtain hl' | ⟨e, he, ho | hr⟩ := hp
    · exact absurd hl' hl
    · exact absurd ho (hc e he)
    · obtain ⟨v, hv'⟩ := tcacheVictim_isSome he hr
      rw [hv] at hv'
      cases hv'

end

theorem touchCap_spad {s : State} {b : CReg} (h : capOid s.core.seq.c[b] = 0xFFFFFF) : touchCap s b = s := by
  show touchObj s (capOid s.core.seq.c[b]) _ = s
  rw [h]
  exact if_pos rfl

end Sys2Proof.Machine

/-- Settles O20: the check with which an instruction begins, and the five things that a look-up can do. -/
theorem failedChecksTrapAndLookupsPin : Obligations.FailedChecksTrapAndLookupsPin := by
  refine ⟨fun s i t h => (beginsWith_firstCheck h).traps, fun s b => ⟨touchCap_spad, fun hs => ?_⟩⟩
  have touches : Touches s (capOid s.core.seq.c[b]) (touchCap s b) := touches_touchObj s _ _
  obtain ⟨tc, objs, ls, heq, ho, hl⟩ := touches.pinFrame
  have tcache : (touchCap s b).core.tcache = tc := by rw [heq]
  exact ⟨touches.cached_after hs, tc, objs, ls, heq, fun h => tcache ▸ touches.length_le h, ho, hl⟩
end

section
/-! Settled for the sequencer: a write at a home (04 R90, 08 R192, R193, 09 R200, R208, R215, R221, 11 R256, R260). A write inside one extent
first passes the ways, which changes what `Passes` allows, and then commits. -/

open Sys2Proof Sys2Proof.Machine Sys2Proof.Claims

namespace Sys2Proof.Machine

/-! ## What passes the ways -/

/-- From `s` to `t` no byte, no tag and no reservation of the base changes, no array wakes, and no error comes. -/
structure Quiet (s t : State) : Prop where
  mem : t.base.mem = s.base.mem := by rfl
  tags : t.base.tags = s.base.tags := by rfl
  resv : t.base.resv = s.base.resv := by rfl
  wakes : t.base.wakes = s.base.wakes := by rfl
  ecc : s.base.ecc = [] → t.base.ecc = [] := by exact id

theorem Quiet.refl (s : State) : Quiet s s := {}

theorem Quiet.trans {s t u : State} (h : Quiet s t) (g : Quiet t u) : Quiet s u :=
  ⟨g.mem.trans h.mem, g.tags.trans h.tags, g.resv.trans h.resv, g.wakes.trans h.wakes, fun e => g.ecc (h.ecc e)⟩

/-- Bytes written to the array take errors away. -/
theorem Quiet.eccWritten (s : State) (pa n : Nat) : Quiet s (onBase s (fun b => eccWritten b pa n)) where
  ecc h := by simp [onBase, Machine.eccWritten, h]

theorem Quiet.serve (s : State) (g up down : Nat) (p : Fin 16) (k : PacketKind) (src : Option Nat) : Quiet s (serve s g up down p k src) := by
  have draw : ∀ (s : State) (n : Nat), Quiet s (drawBucket s g n p) := by
    intro s n
    unfold drawBucket
    dsimp only
    split
    · exact {}
    · exact {}
  unfold Machine.serve
  cases src with
  | none => exact Quiet.trans {} (draw (post s _ _ _ _ _) _)
  | some c => exact Quiet.trans {} (draw (post (post s _ _ _ _ _) _ _ _ _ _) _)

theorem Quiet.lineBack (s : State) (l : CLine) : Quiet s (lineBack s l) := by
  unfold Machine.lineBack
  split
  · exact (Quiet.serve s _ _ _ _ _ _).trans (.eccWritten _ _ _)
  · exact .refl s

theorem Quiet.useLine (s : State) (home gran kind : Nat) (pid : Fin 16) (dirty : Bool) : Quiet s (useLine s home gran kind pid dirty) := by
  unfold Machine.useLine
  dsimp only
  split
  · exact {}
  · split
    · exact {}
    · split
      · exact (Quiet.lineBack s _).trans {}
      · exact .refl s

theorem Quiet.queueOn (s : State) (v : VChan) (r : VReq) : Quiet s (queueOn s v r) := by
  unfold Machine.queueOn
  split
  · exact .refl s
  · exact {}

theorem Quiet.wayAsk (s : State) (home kind : Nat) (chan : Option (Fin 8 × Fin 16)) (gran core : Nat) (pid : Fin 16) :
    Quiet s (wayAsk s home kind chan gran core pid).1 := by
  unfold Machine.wayAsk
  split
  · exact .refl s
  · split
    · exact .refl s
    · dsimp only
      split
      · exact .refl s
      · split
        · exact .queueOn _ _ _
        · exact .refl s

/-- From `s` to `t` tags and reservations only go, and no array wakes. -/
structure Loses (s t : State) : Prop where
  wakes : t.base.wakes = s.base.wakes
  tags : ∀ g ∈ t.base.tags, g ∈ s.base.tags
  resv : ∀ r ∈ t.base.resv, r ∈ s.base.resv

theorem Loses.refl (s : State) : Loses s s := ⟨rfl, fun _ => id, fun _ => id⟩

theorem Loses.trans {s t u : State} (h : Loses s t) (g : Loses t u) : Loses s u :=
  ⟨g.wakes.trans h.wakes, fun x hx => h.tags x (g.tags x hx), fun x hx => h.resv x (g.resv x hx)⟩

/-- An entry of a log is written over whatever stands there. -/
theorem Loses.logAppend (s : State) (pa w0 w1 w2 w3 : Nat) : Loses s (logAppend s pa w0 w1 w2 w3) := by
  unfold Machine.logAppend Base.wrote
  exact ⟨rfl, fun g hg => List.mem_of_mem_filter (List.mem_of_mem_filter hg),
    fun r hr => List.mem_of_mem_filter (List.mem_of_mem_filter hr)⟩

theorem Loses.logErrors (s : State) (d : Fin 8) (ch : Fin 16) (es : List EccErr) (core : Nat) : Loses s (logErrors s d ch es core) :=
  foldl_keeps (Loses s) _ (fun _ _ h => h.trans (.logAppend ..)) es s (.refl s)

/-- What a write leaves before it commits, `P` being the addresses whose bytes may change besides the logs: tags and reservations only go,
and where the array holds no error none goes, no other byte changes, and no error comes. -/
structure Passes (P : Nat → Prop) (s t : State) : Prop where
  kept : Kept s t
  loses : Loses s t
  clean : s.base.ecc = [] → t.base.ecc = [] ∧ t.base.tags = s.base.tags ∧ t.base.resv = s.base.resv
  bytes : s.base.ecc = [] → Memory.wf s.base.mem = true → ∀ k, ¬ P k → memRead t.base.mem k = memRead s.base.mem k

section
variable {P : Nat → Prop} {s t u : State}

theorem Passes.refl (s : State) : Passes P s s := ⟨.refl s, .refl s, fun h => ⟨h, rfl, rfl⟩, fun _ _ _ _ => rfl⟩

theorem Passes.trans (h : Passes P s t) (g : Passes P t u) : Passes P s u where
  kept := h.kept.trans g.kept
  loses := h.loses.trans g.loses
  clean e := by
    obtain ⟨et, tt, rt⟩ := h.clean e
    obtain ⟨eu, tu, ru⟩ := g.clean et
    exact ⟨eu, tu.trans tt, ru.trans rt⟩
  bytes e w k hk := (g.bytes (h.clean e).1 (h.kept.2 w) k hk).trans (h.bytes e w k hk)

theorem Passes.of_quiet (k : Kept s t) (q : Quiet s t) : Passes P s t where
  kept := k
  loses := ⟨q.wakes, by simp [q.tags], by simp [q.resv]⟩
  clean e := ⟨q.ecc e, q.tags, q.resv⟩
  bytes _ _ _ _ := by rw [q.mem]

theorem Passes.foldl {β : Type} {f : State → β → State} (hf : ∀ s b, Passes P s (f s b)) (l : List β) (s : State) :
    Passes P s (l.foldl f s) :=
  foldl_keeps (Passes P s) f (fun t b h => h.trans (hf t b)) l s (.refl s)

end

section
variable {P : Nat → Prop}

/-- A log entry goes out only for an error in the array. -/
theorem Passes.logErrors {s : State} (d : Fin 8) (ch : Fin 16) (es : List EccErr) (core : Nat) (he : s.base.ecc ≠ []) :
    Passes P s (logErrors s d ch es core) where
  kept := .logErrors s d ch es core
  loses := .logErrors s d ch es core
  clean e := absurd e he
  bytes e := absurd e he

theorem Passes.arrayRead (s : State) (d : Fin 8) (ch : Fin 16) (home gran core : Nat) : Passes P s (arrayRead s d ch home gran core) := by
  by_cases he : s.base.ecc = []
  · have none : eccIn s.base (gran * 256) 256 = [] := by rw [eccIn, he, List.filter_nil]
    unfold Machine.arrayRead
    rw [none]
    exact .refl s
  · unfold Machine.arrayRead
    dsimp only
    split
    · exact .refl s
    · have serves : Passes P s (servesUntil s home gran s.gtc) := .of_quiet ⟨⟨_, _, _, _, _, _, _, _, _, _, rfl⟩, id⟩ {}
      exact serves.trans (.logErrors _ _ _ _ he)

theorem Passes.wayRead (s : State) (home kind : Nat) (chan : Option (Fin 8 × Fin 16)) (pa n core : Nat) (pid : Fin 16) :
    Passes P s (wayRead s home kind chan pa n core pid).1 := by
  have ask : Passes P s (wayAsk s home kind chan (pa / 256) core pid).1 := .of_quiet (.wayAsk ..) (.wayAsk ..)
  have line : ∀ u : State, Passes P u (useLine u home (pa / 256) kind pid false) := fun u => .of_quiet (.useLine ..) (.useLine ..)
  unfold Machine.wayRead
  dsimp only
  split
  next u hu =>
    rw [hu] at ask
    split
    · exact ask.trans (line u)
    · split
      · exact ask.trans (.arrayRead ..)
      · exact (ask.trans (.arrayRead ..)).trans (line _)
  next => exact ask

theorem Passes.wayWrite (s : State) (home kind : Nat) (chan : Option (Fin 8 × Fin 16)) (pa n core : Nat) (pid : Fin 16) :
    Passes P s (wayWrite s home kind chan pa n core pid) := by
  unfold Machine.wayWrite
  lift_lets
  extract_lets gran hit v open_ read written
  have hread : Passes P s read := by
    unfold read
    split
    · exact .refl s
    · exact .wayRead ..
  have hwritten : Passes P s written :=
    hread.trans (.of_quiet ⟨⟨_, _, _, _, _, _, _, _, _, _, rfl⟩, id⟩ (.eccWritten ..))
  split
  · exact hwritten.trans (.of_quiet (.useLine ..) (.useLine ..))
  · generalize v = w
    split
    · split
      · exact hwritten.trans (.of_quiet (.queueOn ..) (.queueOn ..))
      · exact hwritten
    · exact hwritten

/-- A home write passes the cache ways. -/
theorem Passes.dramWrite (s : State) (o : ObjEnt) (off n core : Nat) (pid : Fin 16) : Passes P s (dramWrite s o off n core pid) := by
  unfold Machine.dramWrite
  split
  · exact .refl s
  · refine .foldl (fun s g => ?_) _ s
    split
    · exact .refl s
    · exact .wayWrite ..

end

/-! ## The digest store (11 R256, R260, R267) -/

/-- The bytes of the digests and of their states. -/
def InDigStore (o : ObjEnt) (k : Nat) : Prop :=
  dcfgStore o.dcfg ≤ k ∧ k < dcfgStore o.dcfg + 16 * digBlocks o + (digBlocks o + 3) / 4

/-- A digest of a block of the region stands in the store. -/
theorem memRead_digWrite {m : Mem} {o : ObjEnt} {j k : Nat} (d : Digest) (h : Memory.wf m = true) (hj : j < digBlocks o)
    (hk : ¬ InDigStore o k) : memRead (digWrite m o j d) k = memRead m k := by
  have len : ∀ v, (natBytes 8 v).length = 8 := by simp [natBytes]
  have ha : Memory.wf (memPut m (dcfgStore o.dcfg + 16 * j) 8 d.a) = true := Memory.wf_memPut _ _ _ _ h
  have hb := Memory.wf_memPut _ (dcfgStore o.dcfg + 16 * j + 8) 8 d.b ha
  unfold InDigStore at hk
  unfold digWrite
  dsimp only
  rw [memRead_memWrite _ _ _ _ hb, if_neg (by omega)]
  unfold memPut at ha ⊢
  rw [memRead_memWriteL_outside _ _ _ _ ha (by rw [len]; omega), memRead_memWriteL_outside _ _ _ _ h (by rw [len]; omega)]

/-- Digests written one after the other. -/
theorem memRead_foldl_digWrite {α : Type} {o : ObjEnt} {k : Nat} (j : α → Nat) (d : Mem → α → Digest) (hk : ¬ InDigStore o k) (l : List α)
    (hl : ∀ x ∈ l, j x < digBlocks o) (m : Mem) (h : Memory.wf m = true) :
    memRead (l.foldl (fun m x => digWrite m o (j x) (d m x)) m) k = memRead m k := by
  induction l generalizing m with
  | nil => rfl
  | cons x l ih =>
    obtain ⟨hx, hl⟩ := List.forall_mem_cons.1 hl
    rw [List.foldl_cons, ih hl _ (Memory.wf_digWrite _ _ _ _ h), memRead_digWrite _ h hx hk]

theorem dcfgB_pos (w : Word) : 0 < dcfgB w := Nat.two_pow_pos _

/-- The block of a byte of the region is one of its blocks. -/
theorem div_dcfgB_lt_digBlocks {o : ObjEnt} {k : Nat} (h : k < o.len) : k / dcfgB o.dcfg < digBlocks o := by
  have hb := dcfgB_pos o.dcfg
  rw [digBlocks, Nat.lt_iff_add_one_le, Nat.le_div_iff_mul_le hb, Nat.add_mul, Nat.one_mul]
  have := Nat.div_mul_le_self k (dcfgB o.dcfg)
  omega

/-- The digests of written bytes of a region stand in its store. -/
theorem memRead_digAfterWrite {o : ObjEnt} {off n k : Nat} (atomic : Bool) (old : Mem) {new : Mem} (h : Memory.wf new = true)
    (hn : off + n ≤ o.len) (hk : ¬ InDigStore o k) : memRead (digAfterWrite o atomic old new off n) k = memRead new k := by
  unfold digAfterWrite
  split
  next => rfl
  next hd =>
    have hpos : 0 < n := by
      simp only [Bool.or_eq_true, decide_eq_true_eq, not_or] at hd
      omega
    have last := div_dcfgB_lt_digBlocks (o := o) (k := off + n - 1) (by omega)
    refine memRead_foldl_digWrite (fun dj => off / dcfgB o.dcfg + dj) _ hk _ (fun dj hdj => ?_) new h
    have := List.mem_range.1 hdj
    omega

/-- Where a region has no digests only its bytes are written. -/
theorem digAfterWrite_of_no_digests {o : ObjEnt} (h : dcfgEn o.dcfg = false) (atomic : Bool) (old new : Mem) (off n : Nat) :
    digAfterWrite o atomic old new off n = new := by
  simp [digAfterWrite, h]

/-- A lost line of the digest store. -/
theorem Passes.digLose (s : State) (o : ObjEnt) (home gran : Nat) (pid : Fin 16) : Passes (InDigStore o) s (digLose s o home gran pid) := by
  unfold Machine.digLose
  refine Passes.trans (t := onBase s _) ?_ (.wayWrite ..)
  refine ⟨⟨⟨_, _, _, _, _, _, _, _, _, _, rfl⟩, fun h => ?_⟩, ⟨rfl, fun _ => id, fun _ => id⟩, fun e => ⟨e, rfl, rfl⟩, fun e w k hk => ?_⟩
  · exact foldl_keeps (fun m => Memory.wf m = true) _ (fun m _ hm => Memory.wf_digWrite m o _ _ hm) _ _ h
  · exact memRead_foldl_digWrite id _ hk _ (fun j hj => List.mem_range.1 (List.mem_of_mem_filter hj)) _ w

theorem Passes.digLine (s : State) (o : ObjEnt) (home pa core : Nat) (pid : Fin 16) :
    Passes (InDigStore o) s (digLine s o home pa core pid).1 := by
  have read : Passes (InDigStore o) s (Machine.wayRead s home 2 (dramChan none pa) (pa / 256 * 256) 256 core pid).1 := .wayRead ..
  unfold Machine.digLine
  dsimp only
  split
  · exact read.trans (.digLose ..)
  · exact read

/-- The lines of a digest pass the digest ways. -/
theorem Passes.digLines (s : State) (o : ObjEnt) (j core : Nat) (pid : Fin 16) (w : Bool) :
    Passes (InDigStore o) s (digLines s o j core pid w).1 := by
  unfold Machine.digLines
  refine foldl_keeps (fun (a : State × Fetch) => Passes (InDigStore o) s a.1) _ (fun a p h => ?_) _ _ (.refl s)
  have line := h.trans (Passes.digLine a.1 o (digHome o j) p.1 core pid)
  dsimp only
  split
  · exact line.trans (.wayWrite ..)
  · exact line

/-! ## Tags and reservations after a write (04 R90, 09 R221) -/

theorem mem_tagInsert {g h : Nat} {ts : List Nat} : g ∈ tagInsert h ts ↔ g = h ∨ g ∈ ts := by
  induction ts with
  | nil => simp [tagInsert]
  | cons x ts ih =>
    unfold tagInsert
    split
    · simp
    · split
      next hx => subst hx; simp
      next => simp only [List.mem_cons, ih]; tauto

theorem mem_tagsAfter {ts : List Nat} {pa n g : Nat} {tag : Bool} :
    g ∈ tagsAfter ts pa n tag ↔ (tag = true ∧ g = pa / 16) ∨ (g ∈ ts ∧ ¬ (pa < (g + 1) * 16 ∧ g * 16 < pa + n)) := by
  have kept : g ∈ ts.filter (fun g => (g + 1) * 16 ≤ pa || pa + n ≤ g * 16) ↔ g ∈ ts ∧ ¬ (pa < (g + 1) * 16 ∧ g * 16 < pa + n) := by
    simp only [List.mem_filter, Bool.or_eq_true, decide_eq_true_eq]
    refine and_congr_right (fun _ => ?_)
    omega
  unfold tagsAfter
  cases tag with
  | true => simp only [if_true, mem_tagInsert, kept, true_and]
  | false => simp [kept]

theorem mem_resvAfter {rs : List Resv} {pa n : Nat} {r : Resv} :
    r ∈ resvAfter rs pa n ↔ r ∈ rs ∧ ¬ (pa < r.pa + 8 ∧ r.pa < pa + n) := by
  simp only [resvAfter, List.mem_filter, Bool.or_eq_true, decide_eq_true_eq]
  refine and_congr_right (fun _ => ?_)
  omega

/-! ## The parts of a write (09 R215) -/

@[simp] theorem extParts_nil (es : List Extent) (start off : Nat) : extParts es start off [] = [] := by
  cases es <;> rfl

/-- The first part of a write ends with the extent in which it begins, and the rest goes on behind that. -/
theorem extParts_of_extFind {es : List Extent} {off i start x a : Nat} {e : Extent} (h : extFind es off i start = some (x, e, a)) :
    off < a + e.npg * 4096 ∧ ∃ rest, ∀ bs : List Byte, bs ≠ [] →
      extParts es start off bs = (off, bs.take (a + e.npg * 4096 - off)) ::
        extParts rest (a + e.npg * 4096) (a + e.npg * 4096) (bs.drop (a + e.npg * 4096 - off)) ∧
      extParts es start (a + e.npg * 4096) bs = extParts rest (a + e.npg * 4096) (a + e.npg * 4096) bs := by
  induction es generalizing i start with
  | nil => cases h
  | cons d es ih =>
    unfold extFind at h
    split at h
    next hoff =>
      cases h
      refine ⟨hoff, es, fun bs hbs => ?_⟩
      have hbs : bs.isEmpty = false := by simpa using hbs
      simp [extParts, hbs, hoff]
    next hoff =>
      obtain ⟨hlt, rest, ih⟩ := ih h
      refine ⟨hlt, rest, fun bs hbs => ?_⟩
      have empty : bs.isEmpty = false := by simpa using hbs
      rw [← (ih bs hbs).1, ← (ih bs hbs).2]
      have skip : ∀ k, off ≤ k → extParts (d :: es) start k bs = extParts es (start + d.npg * 4096) k bs := by
        intro k hk
        simp only [extParts, empty, Bool.false_eq_true, if_false]
        rw [if_pos (by omega)]
      exact ⟨skip off le_rfl, skip _ hlt.le⟩

theorem isCapTable_eq_false {o : ObjEnt} (h : ∀ p, o.role ≠ .capTable p) : isCapTable o = false := by
  unfold isCapTable
  split
  next p hp => exact absurd hp (h p)
  next => rfl

theorem putBytes_of_no_table {o : ObjEnt} (h : ∀ p, o.role ≠ .capTable p) (off : Nat) (bs : List Byte) : putBytes o off bs = bs := by
  simp [putBytes, isCapTable_eq_false h]

section
variable {o : ObjEnt} {off x a : Nat} {e : Extent} {bs : List Byte}

/-- A write that reaches over the end of its extent is the two writes of its parts. -/
theorem homePut_split (s : State) (tag atomic : Bool) (pid : Fin 16) (he : extOf o off = some (x, e, a)) (ho : ∀ p, o.role ≠ .capTable p)
    {k : Nat} (hk : k = a + e.npg * 4096 - off) (hlen : k < bs.length) : homePut s o off bs tag atomic pid =
      homePut (homePut s o off (bs.take k) tag atomic pid) o (off + k) (bs.drop k) tag atomic pid := by
  obtain ⟨hlt, rest, parts⟩ := extParts_of_extFind he
  have hend : off + k = a + e.npg * 4096 := by omega
  have hfirst : bs.take k ≠ [] := List.ne_nil_of_length_pos (by rw [List.length_take]; omega)
  have hlast : bs.drop k ≠ [] := List.ne_nil_of_length_pos (by rw [List.length_drop]; omega)
  have hall : bs ≠ [] := List.ne_nil_of_length_pos (by omega)
  simp only [homePut, putBytes_of_no_table ho]
  rw [(parts bs hall).1, (parts _ hfirst).1, hend, (parts _ hlast).2, ← hk, List.take_take, min_self, List.drop_take, Nat.sub_self,
    List.take_zero, extParts_nil]
  rfl

/-- A write inside one extent. -/
theorem homePut_within (s : State) (tag atomic : Bool) (pid : Fin 16) (he : extOf o off = some (x, e, a)) (ho : ∀ p, o.role ≠ .capTable p)
    (hbs : bs ≠ []) (hlen : off + bs.length ≤ a + e.npg * 4096) : homePut s o off bs tag atomic pid = homePutAt s o tag atomic pid off bs := by
  obtain ⟨hlt, rest, parts⟩ := extParts_of_extFind he
  simp only [homePut, putBytes_of_no_table ho]
  rw [(parts bs hbs).1, List.take_of_length_le (by omega), List.drop_of_length_le (by omega), extParts_nil]
  rfl

end

/-! ## The commit (09 R215, R221, 11 R260) -/

theorem tagsAfter_nothing (ts : List Nat) : tagsAfter ts 0 0 false = ts := by
  simp [tagsAfter]

theorem resvAfter_nothing (rs : List Resv) : resvAfter rs 0 0 = rs := by
  simp [resvAfter]

/-- The state in which a write has passed the ways and not yet committed. -/
def passed (s : State) (o : ObjEnt) (off n : Nat) (pid : Fin 16) : State :=
  (digBlocksOf o off n).foldl (fun s j => (digLines s o j 0x3FF pid true).1) (dramWrite s o off n 0x3FF pid)

/-- Before the commit bytes change in the digest store only. -/
theorem passes_passed (s : State) (o : ObjEnt) (off n : Nat) (pid : Fin 16) :
    Passes (fun k => dcfgEn o.dcfg = true ∧ InDigStore o k) s (passed s o off n pid) := by
  unfold passed
  cases hd : dcfgEn o.dcfg with
  | false =>
    have none : digBlocksOf o off n = [] := by simp [digBlocksOf, hd]
    rw [none]
    exact .dramWrite ..
  | true =>
    simp only [true_and]
    exact (Passes.dramWrite ..).trans (.foldl (fun _ _ => .digLines ..) _ _)

/-- The commit of `bs` at `pa` in `u`, which has passed the ways, by an object that is no capacity table. -/
def committed (u : State) (o : ObjEnt) (tag atomic : Bool) (pa off : Nat) (bs : List Byte) : State :=
  { u with base := { u.base with
    mem := digAfterWrite o atomic u.base.mem (memWriteL u.base.mem pa bs) off bs.length
    tags := tagsAfter u.base.tags pa bs.length tag
    resv := resvAfter u.base.resv pa bs.length } }

theorem homePutAt_eq_committed (s : State) {o : ObjEnt} (tag atomic : Bool) (pid : Fin 16) {off pa : Nat} (bs : List Byte)
    (hpa : paOf o off = some pa) (ho : ∀ p, o.role ≠ .capTable p) :
    homePutAt s o tag atomic pid off bs = committed (passed s o off bs.length pid) o tag atomic pa off bs := by
  simp only [homePutAt, hpa, commitMem, epochWords, isCapTable_eq_false ho, Bool.false_and, Bool.false_eq_true, if_false,
    tagsAfter_nothing, resvAfter_nothing]
  rfl

section
variable {s u : State} {o : ObjEnt} {off pa : Nat} {bs : List Byte} {tag : Bool}
  (pass : Passes (fun k => dcfgEn o.dcfg = true ∧ InDigStore o k) s u) (hwf : Memory.wf s.base.mem = true) (hecc : s.base.ecc = [])
include pass

/-- After the commit a tag is new at the first granule, or it was there and no written byte is in its granule. -/
theorem Passes.tag_committed {g : Nat} (hg : g ∈ tagsAfter u.base.tags pa bs.length tag) :
    (tag = true ∧ g = pa / 16) ∨ (g ∈ s.base.tags ∧ ¬ (pa < (g + 1) * 16 ∧ g * 16 < pa + bs.length)) :=
  (mem_tagsAfter.1 hg).imp_right (fun h => ⟨pass.loses.tags g h.1, h.2⟩)

theorem Passes.resv_committed {r : Resv} (hr : r ∈ resvAfter u.base.resv pa bs.length) :
    r ∈ s.base.resv ∧ ¬ (pa < r.pa + 8 ∧ r.pa < pa + bs.length) :=
  ⟨pass.loses.resv r (mem_resvAfter.1 hr).1, (mem_resvAfter.1 hr).2⟩

include hwf hecc

/-- Outside the digest store the bytes of `u` with `bs` written are those of `s` with `bs` written. -/
theorem Passes.overwrites {k : Nat} (hk : ¬ (dcfgEn o.dcfg = true ∧ InDigStore o k)) : memRead (memWriteL u.base.mem pa bs) k =
    if pa ≤ k ∧ k < pa + bs.length then bs.getD (k - pa) 0 else memRead s.base.mem k := by
  rw [memRead_memWriteL _ _ _ _ (pass.kept.2 hwf), pass.bytes hecc hwf k hk]

theorem Passes.bytes_committed_plain (hd : dcfgEn o.dcfg = false) (atomic : Bool) :
    Overwrites (digAfterWrite o atomic u.base.mem (memWriteL u.base.mem pa bs) off bs.length) s.base.mem pa bs := by
  intro k
  rw [digAfterWrite_of_no_digests hd]
  exact pass.overwrites hwf hecc (by simp [hd])

theorem Passes.bytes_committed {k : Nat} (hlast : off + bs.length ≤ o.len) (hk : ¬ InDigStore o k) (atomic : Bool) :
    memRead (digAfterWrite o atomic u.base.mem (memWriteL u.base.mem pa bs) off bs.length) k =
      if pa ≤ k ∧ k < pa + bs.length then bs.getD (k - pa) 0 else memRead s.base.mem k := by
  rw [memRead_digAfterWrite atomic _ (Memory.wf_memWriteL _ _ _ (pass.kept.2 hwf)) hlast hk]
  exact pass.overwrites hwf hecc (fun h => hk h.2)

end

theorem dcfgStore_eq (w : Word) : dcfgStore w = w.toNat / 2 ^ 35 * 4096 := by
  have := w.isLt
  rw [dcfgStore, bitsOf, Nat.mod_eq_of_lt (by omega)]

end Sys2Proof.Machine

/-- Settles O25: a write splits where its extent ends; inside one extent it passes the ways and then commits. -/
theorem homeWritesTouchOnlyTheirBytes : Obligations.HomeWritesTouchOnlyTheirBytes := by
  intro s o off x a e bs tag atomic he ho hbs
  refine ⟨fun k hk hlen => by rw [homePut_split s tag atomic _ he ho hk hlen, homePut_core], fun hlen hwf => ?_⟩
  have hpa : paOf o off = some (e.pa + (off - a)) := by rw [paOf, he]; rfl
  rw [homePut_within s tag atomic _ he ho hbs hlen, homePutAt_eq_committed s tag atomic _ bs hpa ho]
  have pass := passes_passed s o off bs.length s.core.csr.pid
  generalize passed s o off bs.length s.core.csr.pid = u at pass ⊢
  obtain ⟨⟨m, ts, rs, ls, es, lv, ps, vb, fs, ws, rfl⟩, -⟩ := pass.kept
  have hws : ws = s.base.wakes := pass.loses.wakes
  subst hws
  refine ⟨_, _, _, _, _, _, _, _, _, rfl, fun hd hecc => pass.bytes_committed_plain hwf hecc hd atomic, fun hlast hecc k hk => ?_,
    fun g hg => ?_, fun ht => mem_tagsAfter.2 (.inl ⟨ht, rfl⟩), fun r => pass.resv_committed, fun hecc => ?_⟩
  · exact pass.bytes_committed hwf hecc hlast (by rw [InDigStore, dcfgStore_eq]; exact hk) atomic
  · rcases pass.tag_committed hg with ⟨ht, rfl⟩ | ⟨hin, hout⟩
    · rw [if_pos ⟨rfl, ht⟩]
      trivial
    · rw [if_neg hout]
      split
      · trivial
      · exact hin
  · obtain ⟨-, tags, resv⟩ := pass.clean hecc
    exact ⟨fun g hg hout => mem_tagsAfter.2 (.inr ⟨tags ▸ hg, hout⟩), fun r hr hout => mem_resvAfter.2 ⟨resv ▸ hr, hout⟩⟩
end

section
/-! Settled for the sequencer: NOP, hints and TRAP (05 R115, R117, 02 R42). -/

open Sys2Proof Sys2Proof.Machine Sys2Proof.Claims

namespace Sys2Proof.Machine

/-- A sequencer trap at any EPC, in the words of the claims, when its fields fit CAUSE. -/
theorem takeTrapAt_eq_trapped (s : State) {t : Trap} (epc : Word) (small : t.Small) :
    takeTrapAt s t epc 0 = trapped s t.code t.sub t.aux t.bad epc := by
  obtain ⟨hc, hs, ha⟩ := small
  have cause : causeWord t.code t.sub t.aux 0 false 0 = BitVec.ofNat 64 (t.code + t.sub * 2 ^ 16 + t.aux * 2 ^ 24) := by
    simp [causeWord, b2n, Nat.mod_eq_of_lt hc, Nat.mod_eq_of_lt hs, Nat.mod_eq_of_lt ha]
  rw [takeTrapAt, cause]
  rfl

/-- An instruction that takes a trap with small fields traps. -/
theorem traps_of_takeTrap {i : Instr} {s : State} {t : Trap} (h : exec i s = .next (takeTrap s t)) (small : t.Small) :
    Traps i s t.code t.sub t.aux t.bad :=
  h.trans (congrArg _ (takeTrapAt_eq_trapped s s.core.seq.pc small))

theorem trapIllegal_small : trapIllegal.Small := by simp [Trap.Small, trapIllegal]

theorem trapKernelOnly_small : trapKernelOnly.Small := by simp [Trap.Small, trapKernelOnly]

theorem trapOperand_small {sub : Nat} (bad : Word) (h : sub < 256) : (trapOperand sub bad).Small := by
  simp [Trap.Small, trapOperand, h]

theorem trapCap_small {sub : Nat} (b : CReg) (bad : Word) (h : sub < 256) : (trapCap sub b bad).Small := by
  have hb : b.val < 65536 := b.isLt.trans (by decide)
  simp [Trap.Small, trapCap, h, hb]

theorem trapUnresolved_small {sub : Nat} (b : CReg) (bad : Word) (h : sub < 256) : (trapUnresolved sub b bad).Small := by
  have hb : b.val < 65536 := b.isLt.trans (by decide)
  simp [Trap.Small, trapUnresolved, h, hb]

theorem trapFetch_small (off : Word) : (trapFetch off).Small := by simp [Trap.Small, trapFetch]

theorem trapFetchError_small (off : Word) : (trapFetchError off).Small := by simp [Trap.Small, trapFetchError]

/-! ## Fields of a word -/

/-- A field of the word, whose value is known. -/
theorem Fin.ofNat_eq_of_mod {m n k : Nat} [NeZero m] (hk : k < m) (h : n % m = k) : Fin.ofNat m n = ⟨k, hk⟩ := Fin.ext h

theorem imn_zero_unpack (w : Word) (m : Nat) [NeZero m] (hm : m ∣ 2 ^ 32) : (SeqFields.unpack w).imn 0 m = Fin.ofNat m w.toNat := by
  refine Fin.ext ?_
  show (BitVec.ofNat 32 w.toNat).toNat / 2 ^ 0 % m = w.toNat % m
  rw [BitVec.toNat_ofNat, pow_zero, Nat.div_one, Nat.mod_mod_of_dvd _ hm]

end Sys2Proof.Machine

/-- Settles O6: both retire. -/
theorem nopAndHintsOnlyAdvance : Obligations.NopAndHintsOnlyAdvance := fun _ => ⟨rfl, fun _ => rfl⟩

/-- Settles O7: the trap by its cause word, the word by its fields. -/
theorem trapEntersTheHandler : Obligations.TrapEntersTheHandler := by
  refine ⟨fun s code => ?_, fun w hmaj hfn => ?_⟩
  · have small : (⟨0x04, 0, code.toNat, 0⟩ : Trap).Small := ⟨(by decide : 0x04 < 256), (by decide : 0 < 256), code.isLt⟩
    rw [← takeTrapAt_eq_trapped s (s.core.seq.pc + 8) small]
    rfl
  · have maj : (SeqFields.unpack w).maj = 0 := Fin.ofNat_eq_of_mod (by decide) (by rw [hmaj])
    have fn : (SeqFields.unpack w).fn = 2 := Fin.ofNat_eq_of_mod (by decide) hfn
    have code : (SeqFields.unpack w).imm.setWidth 16 = BitVec.ofNat 16 w.toNat := by
      simp [SeqFields.unpack]
    simp only [decodeSeq, seqOf, maj, decodeSys, fn, ← code]
    rfl
end

section
/-! Settled for the sequencer: arithmetic, bit counts, immediate forms, branches and jumps (05 R122 to R127). -/

open Sys2Proof Sys2Proof.Machine Sys2Proof.Claims

namespace Sys2Proof.Machine

/-! ## Instructions that write one register -/

theorem rdX_eq_reg (s : State) (r : XReg) : rdX s r = reg s r := rfl

/-- An instruction that completes with `w` in x[A] writes every spelling of `w`. -/
theorem writes_of_retire {i : Instr} {s : State} {a : XReg} {v w : Word} {n : Nat} (h : exec i s = .next (retire n (wrX s a w)))
    (hv : w = v) : Writes i s a v n := by
  subst hv
  rw [wrX_eq_put] at h
  exact h

theorem writesBits_of_retire {i : Instr} {s : State} {a : XReg} {f : Nat → Bool} {w : Word} {n : Nat}
    (h : exec i s = .next (retire n (wrX s a w))) (hw : ∀ k, k < 64 → w.getLsbD k = f k) : WritesBits i s a f n :=
  ⟨w, hw, writes_of_retire h rfl⟩

/-! ## Sums and shifts (05 R122) -/

theorem add_eq_ofNat (x y : Word) : x + y = BitVec.ofNat 64 (x.toNat + y.toNat) := by
  simp [BitVec.ofNat_add]

theorem sub_eq_ofInt (x y : Word) : x - y = BitVec.ofInt 64 (x.toNat - y.toNat) := by
  refine BitVec.eq_of_toNat_eq ?_
  rw [BitVec.toNat_sub, BitVec.toNat_ofInt]
  omega

theorem add_eq_ofInt (x y : Word) : x + y = BitVec.ofInt 64 (x.toInt + y.toInt) := by
  rw [BitVec.ofInt_add, BitVec.ofInt_toInt, BitVec.ofInt_toInt]

theorem shiftLeft_eq_ofNat (x : Word) (n : Nat) : x <<< n = BitVec.ofNat 64 (x.toNat * 2 ^ n) := by
  simp [BitVec.toNat_eq, Nat.shiftLeft_eq]

theorem ushiftRight_eq_ofNat (x : Word) (n : Nat) : x >>> n = BitVec.ofNat 64 (x.toNat / 2 ^ n) := by
  have := Nat.div_le_self x.toNat (2 ^ n)
  refine BitVec.eq_of_toNat_eq ?_
  rw [BitVec.toNat_ushiftRight, Nat.shiftRight_eq_div_pow, BitVec.toNat_ofNat, Nat.mod_eq_of_lt (by omega)]

theorem sshiftRight_eq_ofInt (x : Word) (n : Nat) : x.sshiftRight n = BitVec.ofInt 64 (x.toInt / 2 ^ n) := by
  rw [BitVec.sshiftRight, Int.shiftRight_eq_div_pow]
  norm_cast

/-! ## Products (05 R122) -/

theorem mul_eq_ofNat (x y : Word) : x * y = BitVec.ofNat 64 (x.toNat * y.toNat) := by
  simp [BitVec.ofNat_mul]

/-- The high half of a 128-bit number. -/
theorem extractLsb'_ofInt (z : Int) : (BitVec.ofInt 128 z).extractLsb' 64 64 = BitVec.ofInt 64 (z / 2 ^ 64) := by
  refine BitVec.eq_of_toNat_eq ?_
  rw [BitVec.extractLsb'_toNat, BitVec.toNat_ofInt, BitVec.toNat_ofInt, Nat.shiftRight_eq_div_pow]
  omega

theorem mulHigh_eq_ofInt (x y : Word) : mulHigh x y = BitVec.ofInt 64 (x.toInt * y.toInt / 2 ^ 64) := by
  rw [mulHigh, BitVec.signExtend, BitVec.signExtend, ← BitVec.ofInt_mul, extractLsb'_ofInt]

/-- The parity of the pairs of one bits, the one in the lowest `n` bits of `a`, that meet at bit `k`. -/
def meetOdd (a b n k : Nat) : Bool := (List.range n).countP (fun j => decide (j ≤ k) && a.testBit j && b.testBit (k - j)) % 2 == 1

theorem meetOdd_succ (a b n k : Nat) :
    meetOdd a b (n + 1) k = (meetOdd a b n k ^^ (decide (n ≤ k) && a.testBit n && b.testBit (k - n))) := by
  unfold meetOdd
  rw [List.range_succ, List.countP_append, List.countP_singleton]
  generalize List.countP _ _ = c
  split
  next h => rw [h]; rcases Nat.mod_two_eq_zero_or_one c with hc | hc <;> simp [Nat.add_mod, hc]
  next h => simp [h]

theorem testBit_clmulN (w a b k : Nat) : (clmulN w a b).testBit k = meetOdd a b w k := by
  induction w with
  | zero => simp [clmulN, meetOdd]
  | succ w ih =>
    have step : clmulN (w + 1) a b = if a.testBit w then clmulN w a b ^^^ (b * 2 ^ w) else clmulN w a b := by
      rw [clmulN, List.range_succ, List.foldl_append]
      rfl
    rw [step, meetOdd_succ, ← ih]
    cases h : a.testBit w with
    | true => simp [Nat.testBit_xor, Nat.testBit_mul_two_pow]
    | false => simp

/-! ## Quotients (05 R122, R123) -/

theorem sdiv_eq_ofInt (x y : Word) : x.sdiv y = BitVec.ofInt 64 (x.toInt.tdiv y.toInt) := by
  refine BitVec.eq_of_toInt_eq ?_
  rw [BitVec.toInt_sdiv, BitVec.toInt_ofInt]

theorem srem_eq_ofInt (x y : Word) : x.srem y = BitVec.ofInt 64 (x.toInt.tmod y.toInt) := by
  rw [← BitVec.toInt_srem, BitVec.ofInt_toInt]

theorem udiv_eq_ofNat (x y : Word) : x / y = BitVec.ofNat 64 (x.toNat / y.toNat) := by
  rw [← BitVec.toNat_udiv, BitVec.ofNat_toNat, BitVec.setWidth_eq]

theorem umod_eq_ofNat (x y : Word) : x % y = BitVec.ofNat 64 (x.toNat % y.toNat) := by
  rw [← BitVec.toNat_umod, BitVec.ofNat_toNat, BitVec.setWidth_eq]

/-! ## Comparisons and bit counts (05 R122) -/

theorem slt_ite {α : Type} (x y : Word) (p q : α) : (if x.slt y then p else q) = if x.toInt < y.toInt then p else q := by
  simp [BitVec.slt]

theorem ult_ite {α : Type} (x y : Word) (p q : α) : (if x.ult y then p else q) = if x.toNat < y.toNat then p else q := by
  simp [BitVec.ult]

theorem not_slt (x y : Word) : (!x.slt y) = decide (y.toInt ≤ x.toInt) :=
  (decide_not ..).symm.trans (decide_eq_decide.2 not_lt)

theorem not_ult (x y : Word) : (!x.ult y) = decide (y.toNat ≤ x.toNat) :=
  (decide_not ..).symm.trans (decide_eq_decide.2 not_lt)

/-- CLZ's count: the bits above the highest one bit. -/
theorem clzN_spec (x : Word) : clzN 64 x.toNat ≤ 64 ∧ (∀ i, 64 - clzN 64 x.toNat ≤ i → x.getLsbD i = false) ∧
    (clzN 64 x.toNat < 64 → x.getLsbD (63 - clzN 64 x.toNat) = true) := by
  unfold clzN
  split
  next h =>
    have zero : x = 0 := BitVec.eq_of_toNat_eq h
    subst zero
    simp
  next h =>
    have log : Nat.log2 x.toNat < 64 := (Nat.log2_lt h).2 x.isLt
    have last : 63 - (64 - 1 - Nat.log2 x.toNat) = Nat.log2 x.toNat := by omega
    refine ⟨by omega, fun i hi => ?_, fun _ => ?_⟩
    · exact Nat.testBit_lt_two_pow ((Nat.log2_lt h).1 (by omega))
    · rw [last]
      exact Nat.testBit_log2 h

/-- CTZ's count: the bits below the lowest one bit. -/
theorem ctzN_spec (x : Word) : ctzN 64 x.toNat ≤ 64 ∧ (∀ i, i < ctzN 64 x.toNat → x.getLsbD i = false) ∧
    (ctzN 64 x.toNat < 64 → x.getLsbD (ctzN 64 x.toNat) = true) := by
  unfold ctzN
  cases h : (List.range 64).find? (fun i => x.toNat.testBit i) with
  | none =>
    rw [List.find?_eq_none] at h
    refine ⟨le_rfl, fun i hi => by simpa [BitVec.getLsbD] using h i (List.mem_range.2 hi), fun hlt => absurd hlt (lt_irrefl _)⟩
  | some n =>
    rw [List.find?_range_eq_some] at h
    obtain ⟨bit, hn, before⟩ := h
    exact ⟨(List.mem_range.1 hn).le, fun i hi => by simpa [BitVec.getLsbD] using before i hi, fun _ => bit⟩

/-! ## Immediates and targets (05 R124 to R127) -/

theorem sext32_eq_ofInt (imm : BitVec 32) : sext32 imm = BitVec.ofInt 64 imm.toInt := rfl

theorem toInt_sext32 (imm : BitVec 32) : (sext32 imm).toInt = imm.toInt := BitVec.toInt_signExtend_of_le (by decide)

theorem add_sext32_eq_ofInt (x : Word) (imm : BitVec 32) : x + sext32 imm = BitVec.ofInt 64 (x.toInt + imm.toInt) := by
  rw [add_eq_ofInt, toInt_sext32]

/-- A number in the high half above the low half of a word. -/
theorem append_eq_ofNat (imm : BitVec 32) (x : Word) :
    imm ++ x.setWidth 32 = BitVec.ofNat 64 (imm.toNat * 2 ^ 32 + x.toNat % 2 ^ 32) := by
  have low : x.toNat % 2 ^ 32 < 2 ^ 32 := Nat.mod_lt _ (by decide)
  have high := imm.isLt
  refine BitVec.eq_of_toNat_eq ?_
  rw [BitVec.toNat_append, BitVec.toNat_setWidth, BitVec.toNat_ofNat, ← Nat.shiftLeft_add_eq_or_of_lt low, Nat.shiftLeft_eq]
  omega

theorem brTarget_eq_ofInt (s : State) (imm : BitVec 32) :
    brTarget s imm = BitVec.ofInt 64 (s.core.seq.pc.toNat + 8 * imm.toInt) := by
  have eight : sext32 imm <<< 3 = BitVec.ofInt 64 (8 * imm.toInt) := by
    rw [BitVec.ofInt_mul, ← sext32_eq_ofInt, BitVec.shiftLeft_eq_mul_twoPow, BitVec.mul_comm]
    rfl
  rw [brTarget, eight, BitVec.ofInt_add, BitVec.ofInt_natCast, BitVec.ofNat_toNat, BitVec.setWidth_eq]

/-- The bits 2:0 of a target. -/
theorem and_seven_eq_zero_iff (t : Word) : t &&& 7 = 0 ↔ t.toNat % 8 = 0 := by
  have h : (t &&& 7).toNat = t.toNat % 8 := by
    rw [BitVec.toNat_and]
    exact Nat.and_two_pow_sub_one_eq_mod _ 3
  rw [← h, BitVec.toNat_eq]
  rfl

end Sys2Proof.Machine

/-- Settles O13: each value in the arithmetic of the claim. -/
theorem sumsBitwiseOperationsAndShifts : Obligations.SumsBitwiseOperationsAndShifts := by
  intro s a b c n
  refine ⟨writes_of_retire rfl (shiftLeft_eq_ofNat ..), writes_of_retire rfl (ushiftRight_eq_ofNat ..),
    writes_of_retire rfl (sshiftRight_eq_ofInt ..), writes_of_retire rfl (add_eq_ofNat ..), writes_of_retire rfl (sub_eq_ofInt ..),
    writesBits_of_retire rfl fun k _ => ?_, writesBits_of_retire rfl fun k _ => ?_, writesBits_of_retire rfl fun k _ => ?_⟩
  · exact BitVec.getLsbD_and
  · exact BitVec.getLsbD_or
  · exact BitVec.getLsbD_xor

/-- Settles O14: the halves of the products, the carry-less one by the parity of its bits. -/
theorem productsAndCarrylessProducts : Obligations.ProductsAndCarrylessProducts := by
  intro s a b c bit
  have product (k : Nat) : (clmulN 64 (reg s b).toNat (reg s c).toNat).testBit k = bit k := testBit_clmulN ..
  refine ⟨writes_of_retire rfl (mul_eq_ofNat ..), writes_of_retire rfl (mulHigh_eq_ofInt ..),
    writesBits_of_retire rfl fun k hk => ?_, writesBits_of_retire rfl fun k hk => ?_⟩
  · rw [BitVec.getLsbD_ofNat, rdX_eq_reg, rdX_eq_reg, product]
    simp [hk]
  · rw [BitVec.getLsbD_ofNat, rdX_eq_reg, rdX_eq_reg, Nat.testBit_div_two_pow, product]
    simp [hk, Nat.add_comm]

/-- Settles O15: the divisor 0, and the quotients of the integers that the operands stand for. -/
theorem divisionHandlesItsCorners : Obligations.DivisionHandlesItsCorners := by
  intro s a b c x y
  refine ⟨fun h => ?_, fun h => ?_⟩
  · exact ⟨writes_of_retire rfl (if_pos h), writes_of_retire rfl (if_pos h), writes_of_retire rfl (if_pos h),
      writes_of_retire rfl (if_pos h)⟩
  · exact ⟨writes_of_retire rfl ((if_neg h).trans (sdiv_eq_ofInt ..)), writes_of_retire rfl ((if_neg h).trans (udiv_eq_ofNat ..)),
      writes_of_retire rfl ((if_neg h).trans (srem_eq_ofInt ..)), writes_of_retire rfl ((if_neg h).trans (umod_eq_ofNat ..))⟩

/-- Settles O16: the comparisons of the integers that the operands stand for, and what the counts count. -/
theorem comparisonsAndBitCounts : Obligations.ComparisonsAndBitCounts := by
  intro s a b c x y
  obtain ⟨clz, above, high⟩ := clzN_spec x
  obtain ⟨ctz, below, low⟩ := ctzN_spec x
  exact ⟨writes_of_retire rfl (slt_ite ..), writes_of_retire rfl (slt_ite ..), writes_of_retire rfl (ult_ite ..),
    writes_of_retire rfl (ult_ite ..), writes_of_retire rfl (slt_ite ..), writes_of_retire rfl (ult_ite ..),
    ⟨_, clz, above, high, writes_of_retire rfl rfl⟩, ⟨_, ctz, below, low, writes_of_retire rfl rfl⟩, writes_of_retire rfl rfl⟩

/-- Settles O17: the words by their fields, the values in the arithmetic of the claim. -/
theorem immediateForms : Obligations.ImmediateForms := by
  refine ⟨?_, ?_⟩
  · intro w hmaj a b sh
    have maj : (SeqFields.unpack w).maj = 2 := Fin.ofNat_eq_of_mod (by decide) (by rw [hmaj])
    have count : (SeqFields.unpack w).imn 0 64 = sh := imn_zero_unpack w 64 (by decide)
    have form (n : Nat) (hn : n < 256) (h : w.toNat / 2 ^ 32 % 256 = n) :
        decodeSeq w = decodeAlui { SeqFields.unpack w with fn := ⟨n, hn⟩ } := by
      have fn : (SeqFields.unpack w).fn = ⟨n, hn⟩ := Fin.ofNat_eq_of_mod hn h
      simp only [decodeSeq, seqOf, maj, ← fn]
      rfl
    exact ⟨fun h => (form 4 (by decide) h).trans (by rw [← count]; rfl), fun h => (form 5 (by decide) h).trans (by rw [← count]; rfl),
      fun h => (form 6 (by decide) h).trans (by rw [← count]; rfl)⟩
  · intro s a b imm sh x i
    refine ⟨writes_of_retire rfl (add_sext32_eq_ofInt ..), writes_of_retire rfl rfl, writes_of_retire rfl rfl, writes_of_retire rfl rfl,
      writes_of_retire rfl (shiftLeft_eq_ofNat ..), writes_of_retire rfl (ushiftRight_eq_ofNat ..),
      writes_of_retire rfl (sshiftRight_eq_ofInt ..), writes_of_retire rfl ?_, writes_of_retire rfl (ult_ite ..),
      writes_of_retire rfl (append_eq_ofNat ..)⟩
    rw [flagW, slt_ite, toInt_sext32]
    rfl

/-- Settles O18: a branch by its condition and its target, JALR by the low bits of its target. -/
theorem branchesAndJumps : Obligations.BranchesAndJumps := by
  intro s a b c imm x y goes
  have taken (p : Bool) : branch p imm s = .next (goes p) := by
    rw [branch, brTarget_eq_ofInt]
    rfl
  have reads (i : Instr) (p q : Bool) (h : exec i s = branch p imm s) (hq : p = q) : exec i s = .next (goes q) := by
    rw [h, taken, hq]
  refine ⟨reads _ _ _ rfl rfl, reads _ _ _ rfl (decide_not ..).symm, reads _ _ _ rfl rfl,
    reads _ _ _ rfl (not_slt ..), reads _ _ _ rfl rfl, reads _ _ _ rfl (not_ult ..), ?_⟩
  intro t
  have target : rdX s b + sext32 imm = t := add_sext32_eq_ofInt ..
  refine ⟨?_, fun h => ?_, fun h => ?_⟩
  · rw [← brTarget_eq_ofInt, ← wrX_eq_put]
    rfl
  · show execJalr a b imm s = _
    rw [execJalr, target, if_neg (not_not_intro ((and_seven_eq_zero_iff t).2 h)), wrX_eq_put]
    rfl
  · refine traps_of_takeTrap (t := trapOperand 1 t) ?_ (trapOperand_small t (by decide))
    show execJalr a b imm s = _
    rw [execJalr, target, if_pos (mt (and_seven_eq_zero_iff t).1 h)]
end

section
/-! Settled for the sequencer: CSR accesses, ERET and the reads of capability registers (05 R118, R119, R134). -/

open Sys2Proof Sys2Proof.Machine Sys2Proof.Claims

namespace Sys2Proof.Machine

/-! ## The traps of the instructions, in the words of the claims (04 R97) -/

section
variable {i : Instr} {s : State}

theorem traps_illegal (h : exec i s = .next (takeTrap s trapIllegal)) : Traps i s 0x01 0 0 0 :=
  traps_of_takeTrap (t := trapIllegal) h trapIllegal_small

theorem traps_kernelOnly (h : exec i s = .next (takeTrap s trapKernelOnly)) : Traps i s 0x01 2 0 0 :=
  traps_of_takeTrap (t := trapKernelOnly) h trapKernelOnly_small

theorem traps_operand {sub : Nat} {bad : Word} (h : exec i s = .next (takeTrap s (trapOperand sub bad)))
    (small : sub < 256 := by decide) : Traps i s 0x02 sub 0 bad :=
  traps_of_takeTrap (t := trapOperand sub bad) h (trapOperand_small bad small)

theorem traps_cap {sub : Nat} {b : CReg} {bad : Word} (h : exec i s = .next (takeTrap s (trapCap sub b bad)))
    (small : sub < 256 := by decide) : Traps i s 0x03 sub b.val bad :=
  traps_of_takeTrap (t := trapCap sub b bad) h (trapCap_small b bad small)

theorem traps_unresolved {sub : Nat} {b : CReg} {bad : Word} (h : exec i s = .next (takeTrap s (trapUnresolved sub b bad)))
    (small : sub < 256 := by decide) : Traps i s 0x05 sub b.val bad :=
  traps_of_takeTrap (t := trapUnresolved sub b bad) h (trapUnresolved_small b bad small)

end

/-! ## CSRs (05 R119) -/

theorem csrDefined_iff (n : Nat) : csrDefined n = true ↔ n ∈ csrNumbers := List.contains_iff_mem

theorem csrRo_iff (n : Nat) : csrRo n = true ↔ n ∈ Claims.csrReadOnly := List.contains_iff_mem

theorem csrKernel_iff (n : Nat) : csrKernel n = true ↔ n ∈ Claims.csrKernelOnly := List.contains_iff_mem

theorem setWidth_word_eq_ofNat {w : Nat} (v : BitVec w) : v.setWidth 64 = BitVec.ofNat 64 v.toNat := (BitVec.ofNat_toNat ..).symm

/-- CSRR of a CSR of R92 but GTC. -/
theorem exec_csrr (a : XReg) {n : Fin 4096} (s : State) (defined : csrDefined n.val = true) (notGtc : n.val ≠ 0x021) :
    exec (.csrr a n) s = .next (retire 1 (wrX s a (csrGet s n.val))) :=
  (if_pos defined).trans (if_neg notGtc)

/-- The value of the CSR in the claim's words is what CSRR writes. -/
theorem writes_csrr (a : XReg) {n : Fin 4096} (s : State) {v : Word} (hv : csrGet s n.val = v)
    (defined : csrDefined n.val = true := by decide) (notGtc : n.val ≠ 0x021 := by decide) : Writes (.csrr a n) s a v 1 :=
  writes_of_retire (exec_csrr a s defined notGtc) hv

/-- A CSR that an instruction writes takes the claim's value. -/
theorem csrSet_eq_csrAfter (r : Csr) {n : Nat} (v : Word) (hn : n ∈ csrNumbers) (writable : n ∉ Claims.csrReadOnly) :
    csrSet r n v = csrAfter r n v := by
  have dist : v.extractLsb' 12 12 = BitVec.ofNat 12 (v.toNat / 2 ^ 12) := by
    rw [BitVec.extractLsb', Nat.shiftRight_eq_div_pow]
  simp only [csrNumbers, List.mem_cons, List.not_mem_nil, or_false] at hn
  rcases hn with rfl | rfl | rfl | rfl | rfl | rfl | rfl | rfl | rfl | rfl | rfl | rfl | rfl | rfl | rfl | rfl | rfl <;>
    simp [csrSet, csrAfter, causeMask, resfMask, dist, Claims.csrReadOnly] at writable ⊢

/-- The write forms of a CSR that the mode may write. -/
theorem sets_csr {i : Instr} {s : State} {n : Fin 4096} {v : Word} (h : exec i s = csrWriteForm n v s) (hn : n.val ∈ csrNumbers)
    (writable : n.val ∉ Claims.csrReadOnly) (mode : n.val ∉ Claims.csrKernelOnly ∨ s.core.csr.mode = true) :
    Sets i s n.val v := by
  have allowed : (csrRo n.val || (csrKernel n.val && !s.core.csr.mode)) = false := by
    rw [← csrRo_iff, Bool.not_eq_true] at writable
    rw [← csrKernel_iff, Bool.not_eq_true] at mode
    rcases mode with h | h <;> simp [writable, h]
  rw [csrWriteForm, if_pos ((csrDefined_iff n.val).2 hn), allowed] at h
  rw [Sets, h, ← csrSet_eq_csrAfter _ v hn writable]
  rfl

/-- The write forms of a CSR that is read-only, or kernel-only in tile mode. -/
theorem traps_refused {i : Instr} {s : State} {n : Fin 4096} {v : Word} (h : exec i s = csrWriteForm n v s) (hn : n.val ∈ csrNumbers)
    (refused : n.val ∈ Claims.csrReadOnly ∨ (n.val ∈ Claims.csrKernelOnly ∧ s.core.csr.mode = false)) :
    Traps i s 0x02 2 0 (BitVec.ofNat 64 n.val) := by
  have refuses : (csrRo n.val || (csrKernel n.val && !s.core.csr.mode)) = true := by
    rw [← csrRo_iff, ← csrKernel_iff] at refused
    simpa using refused
  rw [csrWriteForm, if_pos ((csrDefined_iff n.val).2 hn), if_pos refuses] at h
  exact traps_operand h

theorem traps_undefined {i : Instr} {s : State} {n : Fin 4096} {v : Word} (h : exec i s = csrWriteForm n v s)
    (hn : n.val ∉ csrNumbers) : Traps i s 0x01 0 0 0 :=
  traps_illegal (h.trans (if_neg (mt (csrDefined_iff n.val).1 hn)))

theorem exec_csrr_undefined (a : XReg) (s : State) {n : Fin 4096} (hn : n.val ∉ csrNumbers) :
    exec (.csrr a n) s = .next (takeTrap s trapIllegal) :=
  if_neg (mt (csrDefined_iff n.val).1 hn)

/-! ## ERET (05 R118) -/

theorem eretFault_eq_none {s : State} (h : s.core.eng.efault = none ∨ s.core.csr.pmode = true ∨ s.core.csr.epend = false) :
    eretFault s = none := by
  rcases h with h | h | h <;> simp [eretFault, h]

/-- ERET with no engine fault to take. -/
theorem doEret_returns {s : State} (h : eretFault s = none) :
    doEret s = { s with core := { s.core with
      csr := { s.core.csr with mode := s.core.csr.pmode, engt := false }
      seq := { s.core.seq with pc := s.core.csr.epc &&& ~~~7#64 }
      busy := 0
      eng := if s.core.csr.engt then thawEng s.core.eng else s.core.eng } } := by
  have mask : (0xFFFFFFFFFFFFFFF8 : Word) = ~~~7#64 := by decide
  simp only [doEret, h, mask]
  cases s.core.csr.engt <;> rfl

/-- ERET that takes the engine fault waiting for tile mode. -/
theorem doEret_takes {s : State} {f : EFault} (h : eretFault s = some f) :
    doEret s = enterEngineTrap { s with core := { s.core with
      csr := { s.core.csr with mode := s.core.csr.pmode, engt := false }
      seq := { s.core.seq with pc := s.core.csr.epc &&& ~~~7#64 }
      busy := 0 } } f s.core.csr.epc := by
  have mask : (0xFFFFFFFFFFFFFFF8 : Word) = ~~~7#64 := by decide
  simp only [doEret, h, mask]

theorem exec_eret_kernel {s : State} (mode : s.core.csr.mode = true) : exec .eret s = .next (doEret s) := if_pos mode

/-- A kernel-only instruction in tile mode traps. -/
theorem traps_of_kernelOnly {i : Instr} {s : State} {f : State → Out} (h : exec i s = kernelOnly s f) (mode : s.core.csr.mode = false) :
    Traps i s 0x01 2 0 0 :=
  traps_kernelOnly (h.trans (kernelOnly_tile s f mode))

end Sys2Proof.Machine

/-- Settles O10: what CSRR reads, register by register. -/
theorem csrrReadsEveryRegister : Obligations.CsrrReadsEveryRegister := by
  intro s a r b
  have status : csrGet s 0x000 = BitVec.ofNat 64 (r.seg.toNat * 1024 + r.pclass.toNat * 256 + b r.epend * 64 + b r.engt * 32
      + b (s.core.eng.freeze.isSome || s.core.throttled) * 16 + b r.pmode * 2 + b r.mode) := by
    have bit (x : Bool) (k : Nat) : b2n x k = b x * 2 ^ k := by cases x <;> simp [b2n, b]
    show word _ = _
    rw [word, bit, bit, bit, bit, bit, pow_zero, Nat.mul_one]
    rfl
  exact ⟨writes_csrr a s status, writes_csrr a s rfl, writes_csrr a s rfl, writes_csrr a s rfl, writes_csrr a s rfl,
    writes_csrr a s (setWidth_word_eq_ofNat _), writes_csrr a s (setWidth_word_eq_ofNat _), writes_csrr a s rfl, writes_csrr a s rfl,
    writes_csrr a s rfl, writes_csrr a s (setWidth_word_eq_ofNat _), writes_csrr a s rfl, writes_csrr a s rfl,
    writes_csrr a s (setWidth_word_eq_ofNat _), writes_csrr a s rfl, writes_csrr a s rfl⟩

/-- Settles O11: the three clauses over the CSR's number. -/
theorem csrWritesTakeEffectOrTrap : Obligations.CsrWritesTakeEffectOrTrap := by
  intro s n a b
  refine ⟨fun hn writable mode => ?_, fun hn => ?_, fun hn refused => ?_⟩
  · exact ⟨sets_csr rfl hn writable mode, sets_csr rfl hn writable mode, sets_csr rfl hn writable mode⟩
  · exact ⟨traps_illegal (exec_csrr_undefined a s hn), traps_undefined rfl hn, traps_undefined rfl hn,
      traps_undefined rfl hn⟩
  · exact ⟨traps_refused rfl hn refused, traps_refused rfl hn refused, traps_refused rfl hn refused⟩

/-- Settles O8: in kernel mode by the waiting engine fault. -/
theorem eretReturnsAndTileModeTraps : Obligations.EretReturnsAndTileModeTraps := by
  intro s
  refine ⟨fun mode => ?_, fun mode => ⟨fun h => ?_, fun f fault pmode epend => ?_⟩⟩
  · refine ⟨traps_of_kernelOnly (f := fun s => .next (faultLease s)) rfl mode,
      traps_of_kernelOnly (f := fun s => .next (doEret s)) rfl mode, fun b c => traps_kernelOnly ?_⟩
    show execDcfg b c s = _
    rw [execDcfg, kernelOnly_tile s _ mode]
  · exact (exec_eret_kernel mode).trans (congrArg Host.Outcome.next (doEret_returns (eretFault_eq_none h)))
  · have waits : eretFault s = some f := by
      simp [eretFault, pmode, epend, fault]
    exact ⟨_, (exec_eret_kernel mode).trans (congrArg Host.Outcome.next (doEret_takes waits)), rfl, pmode, rfl, rfl, rfl, rfl, rfl,
      rfl, rfl, rfl, rfl, rfl⟩

/-- Settles O27: the fields of the capability. -/
theorem capabilityReads : Obligations.CapabilityReads := by
  intro s a b k
  have lo : capLo k = k.bits.toNat / 2 ^ 48 % 2 ^ 48 := by
    rw [capLo, BitVec.extractLsb'_toNat, Nat.shiftRight_eq_div_pow]
  have len : capLen k = k.bits.toNat % 2 ^ 48 := by
    rw [capLen, BitVec.extractLsb'_toNat, Nat.shiftRight_zero]
  exact ⟨writes_of_retire rfl (congrArg _ lo), writes_of_retire rfl (congrArg _ len), writes_of_retire rfl (by
    have low : (word (capLo k)).toNat = capLo k := by
      rw [word, BitVec.toNat_ofNat, lo]
      omega
    show k.cursor - word (capLo k) = _
    rw [sub_eq_ofInt, low, ← lo])⟩
end

section
/-! Settled for the sequencer: HALT (05 R116, 04 R108, 22 R397). What the traffic of a core with the homes leaves alone. -/

open Sys2Proof Sys2Proof.Machine Sys2Proof.Claims

namespace Sys2Proof.Machine

/-! ## What comes back to the homes -/

/-- From `s` to `t` of the current core only L1 words have gone or have become clean, and no saved context has changed. -/
structure Spares (s t : State) : Prop where
  core : ∃ ws, t.core = { s.core with l1 := ws } ∧ ∀ w ∈ ws, w.dirty = true → w ∈ s.core.l1
  nextCtx : t.nextCtx = s.nextCtx
  ctxs : t.base.ctxs = s.base.ctxs

theorem Spares.trans {s t u : State} (h : Spares s t) (g : Spares t u) : Spares s u := by
  obtain ⟨ws, hc, hw⟩ := h.core
  obtain ⟨vs, gc, gw⟩ := g.core
  refine ⟨⟨vs, by rw [gc, hc], fun v hv hd => ?_⟩, g.nextCtx.trans h.nextCtx, g.ctxs.trans h.ctxs⟩
  have mem := gw v hv hd
  rw [hc] at mem
  exact hw v mem hd

/-- Besides, the launches are as they were: what the traffic with the homes does. -/
structure Recalls (s t : State) : Prop extends Spares s t where
  launches : t.base.launches = s.base.launches

theorem Spares.of_core {s t : State} (core : t.core = s.core) (nextCtx : t.nextCtx = s.nextCtx := by rfl)
    (ctxs : t.base.ctxs = s.base.ctxs := by rfl) : Spares s t :=
  ⟨⟨s.core.l1, core, fun _ hw _ => hw⟩, nextCtx, ctxs⟩

theorem Recalls.of_core {s t : State} (core : t.core = s.core) (nextCtx : t.nextCtx = s.nextCtx := by rfl)
    (ctxs : t.base.ctxs = s.base.ctxs := by rfl) (launches : t.base.launches = s.base.launches := by rfl) : Recalls s t :=
  ⟨.of_core core nextCtx ctxs, launches⟩

theorem Recalls.refl (s : State) : Recalls s s := .of_core rfl

theorem Recalls.trans {s t u : State} (h : Recalls s t) (g : Recalls t u) : Recalls s u :=
  ⟨h.toSpares.trans g.toSpares, g.launches.trans h.launches⟩

theorem Recalls.foldl {β : Type} {f : State → β → State} (hf : ∀ s b, Recalls s (f s b)) (l : List β) (s : State) : Recalls s (l.foldl f s) :=
  foldl_keeps (Recalls s) f (fun t b h => h.trans (hf t b)) l s (.refl s)

theorem Kept.recalls {s t : State} (h : Kept s t) : Recalls s t := by
  obtain ⟨⟨m, ts, rs, ls, es, lv, ps, vb, fs, ws, rfl⟩, -⟩ := h
  exact .of_core rfl

/-- A change of the L1 words of one core that adds no dirty word. -/
theorem Recalls.onCore {s : State} {id : Nat} {f : Core → Core} (hf : ∀ c, f c = { c with l1 := (f c).l1 })
    (hd : ∀ c, ∀ w ∈ (f c).l1, w.dirty = true → w ∈ c.l1) : Recalls s (onCore s id f) := by
  unfold Machine.onCore
  split
  · exact ⟨⟨⟨(f s.core).l1, hf s.core, hd s.core⟩, rfl, rfl⟩, rfl⟩
  · exact .of_core rfl

theorem Recalls.dropWords (s : State) (id : Nat) (p : L1Word → Bool) : Recalls s (dropWords s id p) :=
  .onCore (fun _ => rfl) (fun _ _ hw _ => List.mem_of_mem_filter hw)

theorem Kept.hostRecall (s : State) (pa : Nat) : Kept s (hostRecall s pa) := by
  unfold Machine.hostRecall
  split
  · exact .foldl _ (fun s l => homePutPa_changes s ..) _ s
  · exact .refl s

theorem Kept.wbUnit (id : Nat) (pid : Fin 16) (s : State) (ws : List L1Word) : Kept s (wbUnit id pid s ws) := by
  have recalled (g n pa : Nat) : Kept s (Machine.hostRecall (Machine.serve s g n 0 pid .control (some id)) pa) :=
    (Kept.serve ..).trans (.hostRecall ..)
  unfold Machine.wbUnit
  split
  · exact .refl s
  · dsimp only
    split
    · exact (recalled ..).trans (homePut_changes ..)
    · exact (recalled ..).trans (homePutPa_changes ..)

/-- Written back, the words are clean. -/
theorem Recalls.writeBack (s : State) (id : Nat) (p : L1Word → Bool) : Recalls s (writeBack s id p) := by
  unfold Machine.writeBack
  split
  · exact .refl s
  · refine (Kept.foldl _ (fun s ws => .wbUnit ..) _ s).recalls.trans (.onCore (fun _ => rfl) (fun c w hw hd => ?_))
    obtain ⟨v, hv, rfl⟩ := List.mem_map.1 hw
    split at hd
    · cases hd
    · rename_i hn
      rw [if_neg hn]
      exact hv

theorem Recalls.dirRefresh (s : State) (b : Nat) : Recalls s (dirRefresh s b) := .of_core rfl

theorem Recalls.probe (s : State) (me : Option Nat) (pa n : Nat) (read : Bool) : Recalls s (probe s me pa n read) := by
  unfold Machine.probe
  refine (Recalls.foldl (fun s c => ?_) _ s).trans (.foldl (fun s b => ?_) _ _)
  · split
    · exact .refl s
    · refine Recalls.trans ?_ ((Recalls.writeBack ..).trans (.dropWords ..))
      split
      · exact .of_core rfl
      · exact .refl s
  · split
    · exact .dirRefresh s b
    · exact .refl s

theorem Recalls.takeBack (s : State) (me : Option Nat) (o : ObjEnt) (off n : Nat) (read : Bool) : Recalls s (takeBack s me o off n read) := by
  refine .foldl (fun s g => ?_) _ s
  split
  · exact .refl s
  · split
    · exact (Kept.hostRecall ..).recalls.trans (.probe ..)
    · exact (Kept.hostRecall ..).recalls

theorem Recalls.homeGet (s : State) (me : Option Nat) (o : ObjEnt) (off n : Nat) (pid : Fin 16) (k : PacketKind) (src : Option Nat) :
    Recalls s (homeGet s me o off n pid k src).1 := by
  unfold Machine.homeGet
  split
  · exact .refl s
  · exact (Kept.serve ..).recalls.trans (.takeBack ..)

theorem Recalls.homeTake (s : State) (me : Option Nat) (o : ObjEnt) (off n : Nat) (pid : Fin 16) (k : PacketKind) (src : Option Nat) :
    Recalls s (homeTake s me o off n pid k src).1 := by
  unfold Machine.homeTake
  split
  · exact .refl s
  · exact (Kept.serve ..).recalls.trans (.takeBack ..)

theorem Recalls.homeStore (s : State) (me : Option Nat) (o : ObjEnt) (off : Nat) (bs : List Byte) (tag atomic : Bool) (pid : Fin 16)
    (k : PacketKind) (src : Option Nat) : Recalls s (homeStore s me o off bs tag atomic pid k src) := by
  unfold Machine.homeStore
  split
  · exact .refl s
  · exact (Kept.serve ..).recalls.trans ((Recalls.takeBack ..).trans (homePut_changes ..).recalls)

theorem Recalls.homePutLong (s : State) (o : ObjEnt) (off : Nat) (bs : List Byte) (pid : Fin 16) : Recalls s (homePutLong s o off bs pid) := by
  refine .foldl (fun s k => ?_) _ s
  dsimp only
  split
  · exact .refl s
  · exact .homeStore ..

theorem Recalls.landAtomic (s : State) (o : ObjEnt) (off n : Nat) (f : Nat → Nat) : Recalls s (landAtomic s o off n f).1 := by
  unfold Machine.landAtomic
  split
  · exact .refl s
  · have read := (Kept.dramRead s o off n s.core.id s.core.csr.pid).recalls
    refine read.trans ?_
    generalize (dramRead s o off n s.core.id).1 = u
    exact (Recalls.homeTake u none o off n u.core.csr.pid .bulk (some s.core.id)).trans (homePut_changes ..).recalls

theorem Recalls.landWrite (s : State) (t : Transit) : Recalls s (landWrite s t).1 := by
  unfold Machine.landWrite
  split
  · unfold landCap
    split
    · exact .refl s
    · exact .landAtomic ..
  · split
    · exact .refl s
    · exact .foldl (fun s p => .homeStore ..) _ s
  · split
    · exact .refl s
    · exact .landAtomic ..

theorem Recalls.logEvent (s : State) (kind addr die pid : Nat) : Recalls s (logEvent s kind addr die pid) := by
  unfold Machine.logEvent
  dsimp only
  generalize memNat s.base.mem eventLogPa 8 = n
  have app := (Kept.logAppend s eventLogPa s.gtc addr (kind + die * 256 + pid * 65536) (n % 2 ^ 32)).recalls
  generalize logAppend _ _ _ _ _ _ = u at app ⊢
  exact app.trans (.of_core rfl)

/-! ## What drains -/

/-- From `s` to `t` the current core has drained stores or taken words into its L1: it keeps its lease, and no context and
no launch has changed. -/
structure Drains (s t : State) : Prop where
  id : t.core.id = s.core.id := by rfl
  lease : t.core.lease = s.core.lease := by rfl
  nextCtx : t.nextCtx = s.nextCtx := by rfl
  ctxs : t.base.ctxs = s.base.ctxs := by rfl
  launches : t.base.launches = s.base.launches := by rfl

theorem Drains.refl (s : State) : Drains s s := {}

theorem Drains.trans {s t u : State} (h : Drains s t) (g : Drains t u) : Drains s u :=
  ⟨g.id.trans h.id, g.lease.trans h.lease, g.nextCtx.trans h.nextCtx, g.ctxs.trans h.ctxs, g.launches.trans h.launches⟩

theorem Drains.foldl {β : Type} {f : State → β → State} (hf : ∀ s b, Drains s (f s b)) (l : List β) (s : State) : Drains s (l.foldl f s) :=
  foldl_keeps (Drains s) f (fun t b h => h.trans (hf t b)) l s (.refl s)

theorem Recalls.drains {s t : State} (h : Recalls s t) : Drains s t := by
  obtain ⟨ws, hc, -⟩ := h.core
  exact ⟨by rw [hc], by rw [hc], h.nextCtx, h.ctxs, h.launches⟩

theorem Drains.withL1 {s t : State} (h : Drains s t) (ws : List L1Word) : Drains s { t with core := { t.core with l1 := ws } } :=
  h.trans {}

theorem Drains.withSb {s t : State} (h : Drains s t) (sb : List SbEnt) : Drains s { t with core := { t.core with sb := sb } } :=
  h.trans {}

theorem Drains.l1Room (s : State) (pa : Nat) : Drains s (l1Room s pa) := by
  unfold Machine.l1Room
  dsimp only
  split
  · exact .refl s
  · exact ((Recalls.writeBack ..).trans (.dropWords ..)).drains

theorem Drains.l1Fill (s : State) (o : ObjEnt) (off : Nat) : Drains s (l1Fill s o off) := by
  unfold Machine.l1Fill
  split
  · exact .refl s
  · split
    · exact .refl s
    · exact (Drains.l1Room ..).trans ((Recalls.homeGet ..).drains.trans {})

theorem Drains.takeOwnership (s : State) (o : ObjEnt) (pa : Nat) : Drains s (takeOwnership s o pa) := by
  unfold Machine.takeOwnership
  split
  · exact (((Kept.serve ..).trans (.hostRecall ..)).recalls.trans (.probe ..)).drains.trans {}
  · exact .refl s

theorem Drains.l1Store (s : State) (o : ObjEnt) (off : Nat) (bs : List Byte) (tag pair : Bool) : Drains s (l1Store s o off bs tag pair) := by
  unfold Machine.l1Store
  dsimp only
  split
  · exact .refl s
  · rename_i pa _
    have own := Drains.takeOwnership s o pa
    refine .withL1 ?_ _
    split
    · exact own.trans (.l1Fill ..)
    · split
      · exact own
      · exact own.trans (.l1Room ..)

theorem Kept.drainFetch (s : State) (o : ObjEnt) (e : SbEnt) : Kept s (drainFetch s o e).1 := by
  unfold Machine.drainFetch
  split
  · exact .dramRead ..
  · exact .wakeAsk ..

theorem Drains.drainOne (s : State) : Drains s (drainOne s) := by
  unfold Machine.drainOne
  split
  · exact .refl s
  · split
    · exact {}
    · dsimp only
      rename_i e rest _ _ o _
      have fetched := (Kept.drainFetch s o e).recalls.drains
      split
      · exact fetched
      · refine (fetched.withSb rest).trans ?_
        split
        · split
          · exact .l1Store ..
          · exact (Drains.l1Store ..).trans (.l1Store ..)
        · exact (Recalls.homeStore ..).drains

theorem Drains.drainAll (s : State) : Drains s (drainAll s) := .foldl (fun s _ => .drainOne s) _ s

theorem Drains.drainCore (s : State) : Drains s (drainCore s) :=
  ((Drains.drainAll s).trans (Recalls.writeBack ..).drains).withL1 _

/-! ## The end of a lease (04 R108, 22 R397) -/

theorem Recalls.unpin (s : State) (oids : List (BitVec 24)) :
    Recalls s (oids.foldl (fun s oid => onObj s oid (fun o => { o with pins := o.pins - 1 })) s) :=
  .foldl (f := fun s oid => onObj s oid (fun o => { o with pins := o.pins - 1 })) (fun _ _ => .of_core rfl) oids s

/-- The completion record of a launch is written; with it its address. -/
def recordWritten (s : State) (l : Launch) (status reason : Nat) : State × Nat :=
  match findObj s l.complOid with
  | none => (s, 0)
  | some o => (homePutLong s o l.complOff (completionBytes l s.gtc status reason) l.pid, (paOf o l.complOff).getD 0)

/-- The launch and its stage queues end. -/
def launchEnded (s : State) (l : Launch) : State :=
  { s with base := { s.base with
    launches := s.base.launches.filter (fun k => k.id != l.id), stageqs := s.base.stageqs.filter (fun q => q.launch != l.id) } }

theorem reportLaunch_eq (s : State) (l : Launch) (status reason : Nat) : reportLaunch s l status reason =
    logEvent (launchEnded (l.pins.foldl (fun s oid => onObj s oid (fun o => { o with pins := o.pins - 1 }))
      (recordWritten s l status reason).1) l) 2 (recordWritten s l status reason).2 0 l.pid.val := by
  unfold reportLaunch recordWritten
  cases findObj s l.complOid <;> rfl

/-- Reporting a launch changes no core's lease and no saved context. -/
theorem Spares.reportLaunch (s : State) (l : Launch) (status reason : Nat) : Spares s (reportLaunch s l status reason) := by
  have written : Recalls s (recordWritten s l status reason).1 := by
    unfold recordWritten
    split
    · exact .refl s
    · exact .homePutLong ..
  have ended (u : State) : Spares u (launchEnded u l) := .of_core rfl
  rw [reportLaunch_eq]
  exact (written.trans (.unpin _ l.pins)).toSpares.trans ((ended _).trans (Recalls.logEvent ..).toSpares)

theorem Spares.finishLaunch (s : State) (id : BitVec 32) : Spares s (finishLaunch s id) := by
  unfold Machine.finishLaunch
  split
  · exact .of_core rfl
  · split
    · exact .reportLaunch ..
    · exact .of_core rfl

/-- The launch after the fault of lease `l`, whose area is at `pa`. -/
def faultedLaunch (l : Lease) (pa : Nat) (k : Launch) : Launch :=
  { k with live := k.live - 1, faulted := k.faulted + 1, ents := k.ents ++ [⟨l.idx, l.stage, 2, l.id, pa⟩] }

/-- `s` once nothing of the faulted core is on its way, just before its context is saved. -/
def faultDrained (s : State) : State :=
  let here := fun (t : Transit) => ((findObj s t.oid).map (fun o => residentAt o t.off)).getD true
  onEng ((s.core.eng.transit.filter here).foldl (fun s t => (landWrite s t).1) (drainCore (leaseEnds s))) (fun e => { e with transit := [] })

theorem Drains.faultDrained (s : State) : Drains s (faultDrained s) := by
  have ends : Drains s (leaseEnds s) := {}
  exact (ends.trans ((Drains.drainCore _).trans (.foldl (fun s t => (Recalls.landWrite s t).drains) _ _))).trans {}

theorem endFaulted_eq {s : State} {l : Lease} (h : s.core.lease = some l) : endFaulted s =
    finishLaunch (onLaunch (saveContext (faultDrained s) true) l.launch (faultedLaunch l (ctxPa (faultDrained s)))) l.launch := by
  unfold endFaulted
  rw [h]
  rfl

/-- The context of a faulted lease is kept. -/
theorem saveContext_faulted {u : State} {l : Lease} (h : u.core.lease = some l) : ∃ x : Ctx, x.pa = ctxPa u ∧ x.faulted = true ∧ x.lease = l ∧
    (saveContext u true).base.ctxs = u.base.ctxs ++ [x] ∧ (saveContext u true).core.lease = none ∧
    (saveContext u true).nextCtx = u.nextCtx + 1 ∧ (saveContext u true).base.launches = u.base.launches := by
  unfold saveContext
  rw [h]
  exact ⟨{ savedCtx u l with faulted := true }, rfl, rfl, rfl, rfl, rfl, rfl, rfl⟩

/-- A launch with live leases is not finished. -/
theorem finishLaunch_onLaunch_live {s : State} {k : Launch} {f : Launch → Launch} (hk : k ∈ s.base.launches) (hf : (f k).id = k.id)
    (live : (f k).live ≠ 0) (only : ∀ k' ∈ s.base.launches, k'.id = k.id → k' = k) :
    f k ∈ (finishLaunch (onLaunch s k.id f) k.id).base.launches := by
  have mem : f k ∈ (onLaunch s k.id f).base.launches := List.mem_map.2 ⟨k, hk, if_pos rfl⟩
  obtain ⟨m, hm⟩ : ∃ m, (onLaunch s k.id f).base.launches.find? (fun l => l.id == k.id) = some m :=
    Option.isSome_iff_exists.1 (List.find?_isSome.2 ⟨f k, mem, by simpa using hf⟩)
  have found : m = f k := by
    obtain ⟨k', hk', hm'⟩ := List.mem_map.1 (List.mem_of_find?_eq_some hm)
    have id : m.id = k.id := by simpa using List.find?_some hm
    split at hm'
    next h => rw [← hm', only k' hk' h]
    next h => exact absurd (hm' ▸ id) h
  rw [finishLaunch_live (found ▸ hm) (by simp [launchDone, live])]
  exact mem

theorem exec_halt {s : State} (mode : s.core.csr.mode = true) : exec .halt s = .next (faultLease s) := if_pos mode

theorem faultLease_eq (s : State) : faultLease s =
    if (drainAll s).core.sb = [] ∧ (drainAll s).core.posted = [] ∧ ctxRoom (drainAll s) = true then endFaulted (drainAll s)
    else { drainAll s with core := { (drainAll s).core with wait := .ending } } := by
  simp only [faultLease, Bool.and_eq_true, List.isEmpty_iff, and_assoc]

end Sys2Proof.Machine

/-- Settles O9: what the core sends leaves its lease, its launch and the contexts alone, and the launch has other leases. -/
theorem haltEndsTheLease : Obligations.HaltEndsTheLease := by
  intro s mode t
  refine ⟨(exec_halt mode).trans (congrArg _ (faultLease_eq s)), fun l hl => ?_⟩
  have drained := Drains.faultDrained s
  obtain ⟨x, hpa, hfaulted, hlease, hctxs, hfree, hnext, hlaunches⟩ := saveContext_faulted (drained.lease.trans hl)
  have spared := Spares.finishLaunch (onLaunch (saveContext (faultDrained s) true) l.launch (faultedLaunch l (ctxPa (faultDrained s)))) l.launch
  obtain ⟨ws, hcore, -⟩ := spared.core
  rw [endFaulted_eq hl]
  refine ⟨by rw [hcore]; exact hfree, ?_, x, ?_, hfaulted, hlease, fun k hk hid hlive honly => ?_⟩
  · rw [spared.nextCtx, ← drained.nextCtx]
    exact hnext
  · rw [spared.ctxs]
    exact hctxs ▸ List.mem_append_right _ (List.mem_singleton_self x)
  · have same : (saveContext (faultDrained s) true).base.launches = s.base.launches := hlaunches.trans drained.launches
    rw [hpa, ← hid]
    exact finishLaunch_onLaunch_live (f := faultedLaunch l (ctxPa (faultDrained s))) (same ▸ hk) rfl
      (by show k.live - 1 ≠ 0; omega) (fun k' hk' h => honly k' (same ▸ hk') (h.trans hid))
end

section
/-! Settled for the sequencer: derivations of capabilities (05 R130 to R133). -/

open Sys2Proof Sys2Proof.Machine Sys2Proof.Claims

namespace Sys2Proof.Machine

/-! ## The fields of a derived capability (04 R89) -/

section
variable (oid : BitVec 24) (perm : BitVec 8) (lo len : Nat) (tag : Bool) (cursor : Word)

theorem toNat_capBits : (capBits oid perm lo len).toNat =
    oid.toNat * 2 ^ 104 + perm.toNat * 2 ^ 96 + lo % 2 ^ 48 * 2 ^ 48 + len % 2 ^ 48 := by
  have hl : len % 2 ^ 48 < 2 ^ 48 := Nat.mod_lt _ (by decide)
  have ho : lo % 2 ^ 48 < 2 ^ 48 := Nat.mod_lt _ (by decide)
  have hp := perm.isLt
  simp only [capBits, BitVec.toNat_append, BitVec.toNat_ofNat]
  rw [← Nat.shiftLeft_add_eq_or_of_lt hp, ← Nat.shiftLeft_add_eq_or_of_lt ho, ← Nat.shiftLeft_add_eq_or_of_lt hl]
  simp only [Nat.shiftLeft_eq]
  omega

theorem capOid_capBits : capOid ⟨capBits oid perm lo len, tag, cursor⟩ = oid := by
  have := oid.isLt
  have := perm.isLt
  refine BitVec.eq_of_toNat_eq ?_
  rw [capOid, BitVec.extractLsb'_toNat, toNat_capBits, Nat.shiftRight_eq_div_pow]
  omega

theorem capPerm_capBits : capPerm ⟨capBits oid perm lo len, tag, cursor⟩ = perm := by
  have := perm.isLt
  refine BitVec.eq_of_toNat_eq ?_
  rw [capPerm, BitVec.extractLsb'_toNat, toNat_capBits, Nat.shiftRight_eq_div_pow]
  omega

theorem capLo_capBits (h : lo < 2 ^ 48) : capLo ⟨capBits oid perm lo len, tag, cursor⟩ = lo := by
  rw [capLo, BitVec.extractLsb'_toNat, toNat_capBits, Nat.shiftRight_eq_div_pow]
  omega

theorem capLen_capBits (h : len < 2 ^ 48) : capLen ⟨capBits oid perm lo len, tag, cursor⟩ = len := by
  rw [capLen, BitVec.extractLsb'_toNat, toNat_capBits, Nat.shiftRight_zero]
  omega

end

theorem capLo_lt (k : Cap) : capLo k < 2 ^ 48 := (k.bits.extractLsb' 48 48).isLt

theorem capLen_lt (k : Cap) : capLen k < 2 ^ 48 := (k.bits.extractLsb' 0 48).isLt

/-! ## The lookup (05 R130) -/

theorem rdC_eq (s : State) (b : CReg) : rdC s b = s.core.seq.c[b] := rfl

section
variable {s : State} {a b : CReg} {c : XReg} {perm : BitVec 8}

theorem deriveLookup_ok (h : Derives s b) : ∃ o, deriveLookup s b = .ok o := by
  obtain ⟨o, ho, hs⟩ := h
  exact ⟨o, by simp only [deriveLookup, rdC_eq, ho, hs, if_false]⟩

theorem deriveLookup_absent (h : findObj s (capOid s.core.seq.c[b]) = none) :
    deriveLookup s b = .error (trapCap 6 b s.core.seq.c[b].cursor) := by
  simp only [deriveLookup, rdC_eq, h]

theorem deriveLookup_revoking {o : ObjEnt} (h : findObj s (capOid s.core.seq.c[b]) = some o) (hs : o.state = 2) :
    deriveLookup s b = .error (trapCap 5 b s.core.seq.c[b].cursor) := by
  simp only [deriveLookup, rdC_eq, h, hs, if_true]

/-! ## The instructions (05 R131 to R133) -/

/-- The range of CDERIVE is not inside the source's (05 R131). -/
def Outside (s : State) (b : CReg) (c : XReg) : Prop :=
  s.core.seq.c[b].cursor.toNat < capLo s.core.seq.c[b] ∨
    capLo s.core.seq.c[b] + capLen s.core.seq.c[b] < s.core.seq.c[b].cursor.toNat + (reg s c).toNat ∨ 2 ^ 48 ≤ (reg s c).toNat

theorem exec_cderive_untagged (tag : s.core.seq.c[b].tag = false) :
    exec (.cderive a b c) s = .next (takeTrap s (trapCap 1 b s.core.seq.c[b].cursor)) := by
  show execCderive a b c s = _
  simp only [execCderive, rdC_eq, tag, Bool.not_false, if_true]

theorem exec_cderive_outside (tag : s.core.seq.c[b].tag = true) (out : Outside s b c) :
    exec (.cderive a b c) s = .next (takeTrap s (trapCap 2 b s.core.seq.c[b].cursor)) := by
  show execCderive a b c s = _
  simp only [execCderive, rdC_eq, tag, Bool.not_true, Bool.false_eq_true, if_false]
  exact if_pos out

theorem exec_cderive_inside (tag : s.core.seq.c[b].tag = true) (inside : ¬ Outside s b c) :
    exec (.cderive a b c) s = withCap s b (deriveLookup s b) (fun t _ => .next (past 1 (putCap t a
      ⟨capBits (capOid s.core.seq.c[b]) (capPerm s.core.seq.c[b]) s.core.seq.c[b].cursor.toNat (reg s c).toNat, true,
        s.core.seq.c[b].cursor⟩))) := by
  have cursor (v : Word) : word v.toNat = v := BitVec.ofNat_toNat ..
  show execCderive a b c s = _
  simp only [execCderive, rdC_eq, tag, Bool.not_true, Bool.false_eq_true, if_false, cursor]
  exact if_neg inside

theorem exec_crestrict_untagged (tag : s.core.seq.c[b].tag = false) :
    exec (.crestrict a b perm) s = .next (takeTrap s (trapCap 1 b s.core.seq.c[b].cursor)) := by
  show execCrestrict a b perm s = _
  simp only [execCrestrict, rdC_eq, tag, Bool.not_false, if_true]

theorem exec_crestrict_tagged (tag : s.core.seq.c[b].tag = true) :
    exec (.crestrict a b perm) s = withCap s b (deriveLookup s b) (fun t _ => .next (past 1 (putCap t a
      ⟨capBits (capOid s.core.seq.c[b]) (capPerm s.core.seq.c[b] &&& perm) (capLo s.core.seq.c[b]) (capLen s.core.seq.c[b]), true,
        s.core.seq.c[b].cursor⟩))) := by
  show execCrestrict a b perm s = _
  simp only [execCrestrict, rdC_eq, tag, Bool.not_true, Bool.false_eq_true, if_false]
  rfl

theorem moveCursor_untagged (v : Word) (tag : s.core.seq.c[b].tag = false) :
    moveCursor a b v s = .next (past 1 (putCap s a { s.core.seq.c[b] with cursor := v })) := by
  simp only [moveCursor, rdC_eq, tag, Bool.false_eq_true, if_false]
  rfl

theorem moveCursor_tagged (v : Word) (tag : s.core.seq.c[b].tag = true) : moveCursor a b v s =
    withCap s b (deriveLookup s b) (fun t _ => .next (past 1 (putCap t a { s.core.seq.c[b] with cursor := v }))) := by
  simp only [moveCursor, rdC_eq, tag, if_true]
  rfl

/-- A derivation from a tagged source, but for a CDERIVE out of bounds, begins with the lookup. -/
theorem derivation_looks_up {i : Instr} {imm : BitVec 32} (tag : s.core.seq.c[b].tag = true) (hi : i ∈ derivations a b c imm)
    (inside : i ≠ .cderive a b c ∨ ¬ Outside s b c) : ∃ k, exec i s = withCap s b (deriveLookup s b) k := by
  simp only [derivations, List.mem_cons, List.not_mem_nil, or_false] at hi
  rcases hi with rfl | rfl | rfl | rfl
  · exact ⟨_, exec_cderive_inside tag (inside.resolve_left (fun h => h rfl))⟩
  · exact ⟨_, exec_crestrict_tagged tag⟩
  · exact ⟨_, moveCursor_tagged _ tag⟩
  · exact ⟨_, moveCursor_tagged _ tag⟩

/-- A derivation whose lookup fails faults. -/
theorem capFault_of_lookup {i : Instr} {k : State → ObjEnt → Out} {sub : Nat} (h : exec i s = withCap s b (deriveLookup s b) k)
    (fails : deriveLookup s b = .error (trapCap sub b s.core.seq.c[b].cursor)) (small : sub < 256) : CapFault i s b sub :=
  traps_cap (by rw [h, fails]; rfl) small

end

theorem ofNat_add_toNat (n : Nat) (v : Word) : word n + v = BitVec.ofNat 64 (n + v.toNat) := by
  rw [BitVec.ofNat_add, BitVec.ofNat_toNat, BitVec.setWidth_eq]

theorem add_sext32_eq_ofInt_toNat (v : Word) (imm : BitVec 32) : v + sext32 imm = BitVec.ofInt 64 (v.toNat + imm.toInt) := by
  rw [BitVec.ofInt_add, BitVec.ofInt_natCast, BitVec.ofNat_toNat, BitVec.setWidth_eq, sext32_eq_ofInt]

end Sys2Proof.Machine

/-- Settles O26: each derivation by its tag, its bounds and its lookup. -/
theorem derivationsNeverGrow : Obligations.DerivationsNeverGrow := by
  intro s a b c perm imm k lo len moved outside
  have moves (v w : Word) (h : v = w) : moveCursor a b v s = moveCursor a b w s := by rw [h]
  have setoff := moves _ _ (ofNat_add_toNat (capLo k) (reg s c))
  have incoff := moves _ _ (add_sext32_eq_ofInt_toNat k.cursor imm)
  refine ⟨fun tag derives => ?_, fun tag => ?_, fun tag out => traps_cap (exec_cderive_outside tag out), fun tag i hi inside => ?_⟩
  · obtain ⟨o, ho⟩ := deriveLookup_ok derives
    refine ⟨fun low high hlen hlo => ?_, ?_, ?_, ?_⟩
    · have inside : ¬ Outside s b c := by
        rintro (h | h | h)
        · exact absurd low (not_le.2 h)
        · exact absurd high (not_le.2 h)
        · exact absurd hlen (not_lt.2 h)
      refine ⟨⟨capBits (capOid k) (capPerm k) lo len, true, k.cursor⟩, rfl, capOid_capBits .., capPerm_capBits .., capLo_capBits _ _ _ _ _ _ hlo,
        capLen_capBits _ _ _ _ _ _ hlen, rfl, ?_⟩
      rw [exec_cderive_inside tag inside, ho]
      rfl
    · refine ⟨⟨capBits (capOid k) (capPerm k &&& perm) (capLo k) (capLen k), true, k.cursor⟩, rfl, capOid_capBits .., capPerm_capBits ..,
        capLo_capBits _ _ _ _ _ _ (capLo_lt k), capLen_capBits _ _ _ _ _ _ (capLen_lt k), rfl, ?_⟩
      rw [exec_crestrict_tagged tag, ho]
      rfl
    · exact setoff.trans ((moveCursor_tagged _ tag).trans (by rw [ho]; rfl))
    · exact incoff.trans ((moveCursor_tagged _ tag).trans (by rw [ho]; rfl))
  · exact ⟨setoff.trans (moveCursor_untagged _ tag), incoff.trans (moveCursor_untagged _ tag), traps_cap (exec_cderive_untagged tag),
      traps_cap (exec_crestrict_untagged tag)⟩
  · obtain ⟨f, hf⟩ := derivation_looks_up tag hi inside
    exact ⟨fun h => capFault_of_lookup hf (deriveLookup_absent h) (by decide),
      fun o ho hs => capFault_of_lookup hf (deriveLookup_revoking ho hs) (by decide)⟩
end

section
/-! Settled for the sequencer: loads and stores of checked accesses (05 R128, R129, R135, 04 R90, R105). -/

open Sys2Proof Sys2Proof.Machine Sys2Proof.Claims

namespace Sys2Proof.Machine

/-! ## Loaded values -/

theorem little_succ (f : Nat → Byte) (n : Nat) : little f (n + 1) = (f 0).toNat + 256 * little (fun i => f (i + 1)) n := by
  induction n with
  | zero => simp [little]
  | succ n ih =>
    rw [little, ih, little, Nat.mul_add 8 n 1, Nat.pow_add, ← Nat.mul_assoc]
    omega

theorem bytesNat_eq_little (bs : List Byte) : bytesNat bs = little (fun i => bs.getD i 0) bs.length := by
  induction bs with
  | nil => rfl
  | cons b bs ih =>
    rw [bytesNat, ih, List.length_cons, little_succ]
    rfl

theorem bytesNat_lt (bs : List Byte) : bytesNat bs < 2 ^ (8 * bs.length) := by
  induction bs with
  | nil => simp [bytesNat]
  | cons b bs ih =>
    have hb := b.isLt
    rw [bytesNat, List.length_cons, Nat.mul_add, Nat.mul_one, Nat.pow_add]
    omega

theorem bytesNat_memReadN (m : Mem) (a n : Nat) : bytesNat (memReadN m a n) = little (fun i => memRead m (a + i)) n := by
  induction n generalizing a with
  | zero => rfl
  | succ n ih =>
    have next : memReadN m a (n + 1) = memRead m a :: memReadN m (a + 1) n := by
      rw [memReadN, List.range_succ_eq_map, List.map_cons, List.map_map, memReadN]
      simp only [Nat.add_zero, Function.comp_def, Nat.succ_eq_add_one, Nat.add_assoc, Nat.add_comm 1]
    rw [next, bytesNat, ih, little_succ]
    simp only [Nat.add_zero, Nat.add_assoc, Nat.add_comm 1]

theorem length_spadBytes (s : State) (off n : Nat) : (spadBytes s off n).length = n := by simp [spadBytes, memReadN]

theorem word_wrapN (z : Int) : word (wrapN 64 z) = BitVec.ofInt 64 z := offWord_eq_ofInt z

/-- The extension of loaded bytes, in the claim's words. -/
theorem extendLoad_eq_loaded (sgn : Bool) {bs : List Byte} {n : Nat} (hl : bs.length = n) (hn : 0 < n) :
    extendLoad sgn bs = loaded sgn n (bytesNat bs) := by
  subst hl
  have half : 2 ^ (8 * bs.length) = 2 * 2 ^ (8 * bs.length - 1) := by
    rw [← Nat.pow_succ']
    congr 1
    omega
  have whole : bytesNat bs % 2 ^ (8 * bs.length) = bytesNat bs := Nat.mod_eq_of_lt (bytesNat_lt bs)
  cases sgn with
  | false => simp [extendLoad, loaded, word]
  | true =>
    simp only [extendLoad, loaded, if_true, true_and, word_wrapN, sextN, whole]
    by_cases h : bytesNat bs < 2 ^ (8 * bs.length - 1)
    · rw [if_pos h, if_neg (not_le.2 h), BitVec.ofInt_natCast]
    · rw [if_neg h, if_pos (not_lt.1 h)]
      push_cast
      rfl

theorem loadedCap_eq_capOf {bs : List Byte} {tag : Bool} {m : Nat} (h : bytesNat bs = m) : loadedCap bs tag = capOf m tag := by
  subst h
  have lo : (BitVec.ofNat 128 (bytesNat bs)).extractLsb' 48 48 = BitVec.ofNat 48 (bytesNat bs / 2 ^ 48) := by
    refine BitVec.eq_of_toNat_eq ?_
    rw [BitVec.extractLsb'_toNat, BitVec.toNat_ofNat, BitVec.toNat_ofNat, Nat.shiftRight_eq_div_pow]
    omega
  rw [loadedCap, capOf, lo, setWidth_word_eq_ofNat, BitVec.toNat_ofNat]

/-! ## What a lookup leaves -/

section
variable (s : State) (b : CReg)

/-- A look-up changes of the current core its translation cache only. -/
theorem core_at' : ∃ tc, (at' s b).core = { s.core with tcache := tc } := by
  obtain ⟨tc, objs, ls, heq, -, -⟩ := (touches_touchObj s (capOid (rdC s b)) ((rdC s b).bits.getLsbD 103)).pinFrame
  exact ⟨tc, congrArg State.core heq⟩

theorem seq_at' : (at' s b).core.seq = s.core.seq := by
  obtain ⟨tc, h⟩ := core_at' s b
  rw [h]

theorem eng_at' : (at' s b).core.eng = s.core.eng := by
  obtain ⟨tc, h⟩ := core_at' s b
  rw [h]

theorem reg_at' (r : XReg) : reg (at' s b) r = reg s r := by
  unfold reg
  rw [seq_at']

end

/-! ## LD and CLDC (05 R128, R135) -/

section
variable {s : State} {sp : Space} {sgn : Bool} {size : Fin 4} {a : XReg} {ca b : CReg} {c : XReg} {imm : BitVec 32} {o : ObjEnt}

/-- What a checked LD goes on with. -/
theorem exec_ld (h : checkCap s b (off3 s b c imm) (2 ^ size.val) (2 ^ size.val) 1 (some (spaceNo sp)) = .ok o) :
    exec (.ld sp sgn size a b c imm) s =
      if o.space = 0 then .next (retire 4 (wrX (at' s b) a (extendLoad sgn (spadBytes (at' s b) (off3 s b c imm).toNat (2 ^ size.val)))))
      else if o.role = .baseConfig then
        if 2 ^ size.val = 8 then .next (retire 1 (wrX (at' s b) a (configRead (at' s b) (off3 s b c imm).toNat)))
        else .next (takeTrap (at' s b) (trapOperand 1 (word (off3 s b c imm).toNat)))
      else finish (baseLoad (at' s b) b o (off3 s b c imm).toNat (2 ^ size.val)) (fun s v => .next (retire 1 (wrX s a (extendLoad sgn v.1)))) := by
  have checked : checkCap s b (effOff s b c imm) (2 ^ size.val) (2 ^ size.val) permR (some (spaceOf sp)) = .ok o := h
  show execLd sp sgn size a b c imm s = _
  simp only [execLd, checked, withCap_ok]
  rfl

theorem exec_cldc (h : checkCap s b (off3 s b c imm) 16 16 1 none = .ok o) :
    exec (.cldc ca b c imm) s =
      if o.space = 0 then .next (retire 4 (wrC (at' s b) ca (loadedCap (spadBytes (at' s b) (off3 s b c imm).toNat 16) false)))
      else if o.role = .baseConfig then .next (takeTrap (at' s b) (trapOperand 1 (word (off3 s b c imm).toNat)))
      else finish (baseLoad (at' s b) b o (off3 s b c imm).toNat 16) (fun s v => .next (retire 1 (wrC s ca (loadedCap v.1 v.2)))) := by
  have checked : checkCap s b (effOff s b c imm) 16 16 permR none = .ok o := h
  show execCldc ca b c imm s = _
  simp only [execCldc, checked, withCap_ok]
  rfl

/-- What a checked ST goes on with. -/
theorem exec_st (h : checkCap s b (off3 s b c imm) (2 ^ size.val) (2 ^ size.val) 2 (some (spaceNo sp)) = .ok o) :
    exec (.st sp size a b c imm) s =
      if o.space = 0 then .next (retire 1 (spadStore (at' s b) (off3 s b c imm).toNat (bytesOf (reg s a).toNat (2 ^ size.val))))
      else if o.role = .baseConfig then
        if 2 ^ size.val = 8 then storeConfig (at' s b) (off3 s b c imm).toNat (reg (at' s b) a)
        else .next (takeTrap (at' s b) (trapOperand 1 (word (off3 s b c imm).toNat)))
      else finish (baseStore (at' s b) b o (off3 s b c imm).toNat (bytesOf (reg s a).toNat (2 ^ size.val)) none) (fun t _ => .next (retire 1
        (if o.role = .kernelCmd ∧ (off3 s b c imm).toNat ≤ 0x40 ∧ 0x40 < (off3 s b c imm).toNat + 2 ^ size.val ∧ (reg t a).getLsbD 0 then
          { t with base := { t.base with kbell := t.base.kbell ++ [t.core.csr.pid] } } else t))) := by
  have checked : checkCap s b (effOff s b c imm) (2 ^ size.val) (2 ^ size.val) permW (some (spaceOf sp)) = .ok o := h
  show execSt sp size a b c imm s = _
  simp only [execSt, checked, withCap_ok]
  rfl

theorem exec_cstc (h : checkCap s b (off3 s b c imm) 16 16 2 none = .ok o) :
    exec (.cstc ca b c imm) s =
      if o.space = 0 then .next (retire 1 (spadStore (at' s b) (off3 s b c imm).toNat (bytesOf s.core.seq.c[ca].bits.toNat 16)))
      else if o.role = .baseConfig then .next (takeTrap (at' s b) (trapOperand 1 (word (off3 s b c imm).toNat)))
      else finish (baseStore (at' s b) b o (off3 s b c imm).toNat (bytesOf s.core.seq.c[ca].bits.toNat 16) (some s.core.seq.c[ca].tag))
        (fun t _ => .next (retire 1 t)) := by
  have checked : checkCap s b (effOff s b c imm) 16 16 permW none = .ok o := h
  show execCstc ca b c imm s = _
  simp only [execCstc, checked, withCap_ok]
  rfl

/-- An access of the base's registers of another size than 8 bytes traps. -/
theorem takeTrap_at'_operand (k : Nat) :
    takeTrap (at' s b) (trapOperand 1 (word k)) = trapped (at' s b) 0x02 1 0 (BitVec.ofNat 64 k) s.core.seq.pc := by
  have pc : s.core.seq.pc = (at' s b).core.seq.pc := by rw [seq_at']
  rw [pc]
  exact takeTrapAt_eq_trapped (at' s b) (t := trapOperand 1 (word k)) _ (trapOperand_small _ (by decide))

/-- A store to the scratchpad changes just its bytes. -/
theorem spadStore_at' (k : Nat) {bs : List Byte} (wf : Memory.wf s.core.eng.spad = true) : ∃ m, Overwrites m s.core.eng.spad k bs ∧
    spadStore (at' s b) k bs = withSpad (at' s b) m := by
  refine ⟨memWriteL (at' s b).core.eng.spad k bs, fun j => ?_, rfl⟩
  rw [eng_at']
  exact memRead_memWriteL _ _ _ _ wf

/-- A register write that leaves no lines to drain completes. -/
theorem storeConfig_done {k : Nat} {v : Word} (idle : ∀ g, s.core.wait ≠ .config g) (done : (configWrite s k v).base.slpend = s.base.slpend) :
    storeConfig s k v = .next (past 1 (configWrite s k v)) := by
  unfold storeConfig
  dsimp only
  split
  · rename_i g hg
    exact absurd hg (idle g)
  · exact if_neg (fun h => h.2.2 done)

end

end Sys2Proof.Machine

/-- Settles O21: the space of the object, then the value of the bytes. -/
theorem loadsDeliverTheirBytes : Obligations.LoadsDeliverTheirBytes := by
  intro s sp sgn size a ca b c imm o n k
  have spad (n : Nat) : bytesNat (spadBytes (at' s b) k n) = little (fun i => memRead s.core.eng.spad (k + i)) n := by
    rw [spadBytes, eng_at', bytesNat_memReadN]
  refine ⟨fun h => ⟨fun h0 => ?_, fun h0 hr => ?_, fun h0 hr t bs tag hb hl => ?_⟩, fun h => ⟨fun h0 => ?_, fun h0 hr => ?_, fun h0 hr t bs tag hb hl => ?_⟩⟩
  · rw [exec_ld h, if_pos h0, extendLoad_eq_loaded sgn (length_spadBytes ..) (Nat.two_pow_pos _), spad, wrX_eq_put]
    rfl
  · rw [exec_ld h, if_neg h0, if_pos hr, takeTrap_at'_operand, wrX_eq_put]
    exact (apply_ite Host.Outcome.next _ _ _).symm
  · rw [exec_ld h, if_neg h0, if_neg hr, hb]
    show Host.Outcome.next (retire 1 (wrX t a (extendLoad sgn bs))) = _
    rw [extendLoad_eq_loaded sgn hl (Nat.two_pow_pos _), bytesNat_eq_little, hl, wrX_eq_put]
    rfl
  · rw [exec_cldc h, if_pos h0, loadedCap_eq_capOf (spad 16)]
    rfl
  · rw [exec_cldc h, if_neg h0, if_pos hr, takeTrap_at'_operand]
  · rw [exec_cldc h, if_neg h0, if_neg hr, hb]
    show Host.Outcome.next (retire 1 (wrC t ca (loadedCap bs tag))) = _
    rw [loadedCap_eq_capOf (bytesNat_eq_little bs), hl]
    rfl

/-- Settles O23: the space of the object, then the base's answer. -/
theorem storesGoWhereTheirObjectIs : Obligations.StoresGoWhereTheirObjectIs := by
  intro s sp size a ca b c imm o n k bs cap cs
  refine ⟨fun h => ⟨fun h0 wf => ?_, fun h0 hr => ?_, fun v => storeConfig_done, fun h0 hr t hb => ?_⟩,
    fun h => ⟨fun h0 wf => ?_, fun h0 hr => ?_, fun h0 hr t hb => ?_⟩⟩
  · obtain ⟨m, hm, heq⟩ := spadStore_at' (b := b) k (bs := bs) wf
    exact ⟨m, hm, by rw [exec_st h, if_pos h0, heq]; rfl⟩
  · rw [exec_st h, if_neg h0, if_pos hr, takeTrap_at'_operand, reg_at']
  · rw [exec_st h, if_neg h0, if_neg hr, hb]
    rfl
  · obtain ⟨m, hm, heq⟩ := spadStore_at' (b := b) k (bs := cs) wf
    exact ⟨m, hm, by rw [exec_cstc h, if_pos h0, heq]; rfl⟩
  · rw [exec_cstc h, if_neg h0, if_pos hr, takeTrap_at'_operand]
  · rw [exec_cstc h, if_neg h0, if_neg hr, hb]
    rfl
end

section
/-! Settled for the sequencer: what the base answers to loads and stores (05 R128, R129, 04 R97, R106, 08 R192, 10 R232, R233). -/

open Sys2Proof Sys2Proof.Machine Sys2Proof.Claims

namespace Sys2Proof.Machine

/-! ## Stores (05 R129) -/

section
variable {s : State} {b : CReg} {o : ObjEnt} {k : Nat} {bs : List Byte} {tag : Option Bool}

theorem residentAt_none (h : extOf o k = none) : residentAt o k = false := by
  simp only [residentAt, h]

theorem residentAt_some {x a : Nat} {e : Extent} (h : extOf o k = some (x, e, a)) : residentAt o k = e.res := by
  simp only [residentAt, h]

theorem baseStore_away (h : residentAt o k = false) : baseStore s b o k bs tag = residencyWait s b o k := by
  simp only [baseStore, h, Bool.not_false, if_true]

theorem baseStore_stage (h : residentAt o k = true) (hs : o.space = 1) {pa : Nat} (hpa : paOf o k = some pa) :
    baseStore s b o k bs tag = if tagged s.base pa bs.length then .trap (setWait s .none) ⟨0x16, 0, 0, word k⟩
      else .ok (homeStore (setWait s .none) (some s.core.id) o k bs (tag == some true) false) () := by
  simp only [baseStore, h, Bool.not_true, Bool.false_eq_true, if_false, hs, if_true, hpa]
  rfl

theorem baseStore_buffer (h : residentAt o k = true) (hs : o.space ≠ 1) :
    baseStore s b o k bs tag = if s.core.sb.length < 16 then
      .ok { waits s .none with core := { (waits s .none).core with sb := s.core.sb ++ [⟨o.oid, k, bs, tag⟩] } } ()
      else .stall (waits s .none) := by
  simp only [baseStore, h, Bool.not_true, Bool.false_eq_true, if_false, hs]
  rfl

theorem residencyWait_uncovered (h : extOf o k = none) :
    residencyWait s b o k = .trap (setWait s .none) (trapUnresolved 1 b (word k)) := by
  simp only [residencyWait, h]

/-- The wait of an instruction at an extent that the host has still to bring. -/
theorem residencyWait_waiting {x a : Nat} {e : Extent} {failed : Bool} (h : extOf o k = some (x, e, a))
    (hw : s.core.wait = .resid o.oid x failed) :
    residencyWait s b o k = if failed then .trap (setWait s .none) (trapUnresolved 3 b (word k)) else .stall s := by
  simp only [residencyWait, h, hw, and_self, if_true]

theorem residencyWait_asks {x a : Nat} {e : Extent} (h : extOf o k = some (x, e, a)) (hw : s.core.wait = .none) :
    residencyWait s b o k = .stall (setWait (askExtent s o k) (.resid o.oid x false)) := by
  simp only [residencyWait, h, hw]

end

/-! ## What the store buffer has (10 R232) -/

section
variable {s : State} {b : CReg} {o : ObjEnt} {k n : Nat}

/-- No byte of the access is buffered, or the object's stores are not. -/
def Unbuffered (s : State) (o : ObjEnt) (k n : Nat) : Prop := o.space = 1 ∨ ∀ i, i < n → sbByte s.core.sb o.oid (k + i) = none

theorem baseLoad_buffered (hs : o.space ≠ 1) (h : ∀ i, i < n → sbByte s.core.sb o.oid (k + i) ≠ none) :
    ∃ tag, baseLoad s b o k n = .ok s ((List.range n).map (fun i => (sbByte s.core.sb o.oid (k + i)).getD 0), tag) := by
  have all : ((List.range n).map (fun i => sbByte s.core.sb o.oid (k + i))).all (fun h => h.isSome) = true := by
    simpa [Option.isSome_iff_ne_none] using h
  unfold baseLoad
  dsimp only
  rw [if_pos ⟨hs, all⟩, List.map_map]
  exact ⟨_, rfl⟩

theorem baseLoad_partly (hs : o.space ≠ 1) (some' : ∃ i, i < n ∧ sbByte s.core.sb o.oid (k + i) ≠ none)
    (none' : ∃ i, i < n ∧ sbByte s.core.sb o.oid (k + i) = none) : baseLoad s b o k n = .stall s := by
  have all : ¬ ((List.range n).map (fun i => sbByte s.core.sb o.oid (k + i))).all (fun h => h.isSome) = true := by
    simpa [Option.isSome_iff_ne_none] using none'
  have any : ((List.range n).map (fun i => sbByte s.core.sb o.oid (k + i))).any (fun h => h.isSome) = true := by
    simpa [Option.isSome_iff_ne_none] using some'
  exact (if_neg (fun h => all h.2)).trans (if_pos ⟨hs, any⟩)

/-- Whether the L1 holds every word that an access of a GLOBAL object reaches. -/
def served (s : State) (o : ObjEnt) (k n : Nat) : Bool :=
  o.space = 2 && (List.range ((k + n - 1) / 8 + 1 - k / 8)).all (fun j => ((paOf o (8 * (k / 8 + j))).map (l1Has s)).getD true)

/-- A load of no buffered byte reads the L1 or the home, at a resident extent. -/
theorem baseLoad_unbuffered (hn : 0 < n) (h : Unbuffered s o k n) : baseLoad s b o k n =
    if !residentAt o k then
      .ok (onCsr s (fun r => { r with resf := resfMiss r.resf k b })) (List.replicate n 0, false)
    else
      match (if served s o k n then (s, Fetch.ok) else dramRead s o k n s.core.id) with
      | (s, .busy) => .stall s
      | (s, .bad) => .trap s (trapUnresolved 2 b (word k))
      | (s, .ok) =>
        if o.space = 2 then .ok (l1Read s o k n).1 (l1Read s o k n).2
        else .ok (homeGet s (some s.core.id) o k n).1
          ((homeGet s (some s.core.id) o k n).2, ((paOf o k).map (tagAt (homeGet s (some s.core.id) o k n).1.base)).getD false) := by
  have all : ¬ (o.space ≠ 1 ∧ ((List.range n).map (fun i => sbByte s.core.sb o.oid (k + i))).all (fun h => h.isSome) = true) := by
    rintro ⟨hs, hall⟩
    have first : (sbByte s.core.sb o.oid (k + 0)).isSome = true := by
      rw [List.all_map, List.all_eq_true] at hall
      exact hall 0 (List.mem_range.2 hn)
    rw [h.resolve_left hs 0 hn] at first
    cases first
  have any : ¬ (o.space ≠ 1 ∧ ((List.range n).map (fun i => sbByte s.core.sb o.oid (k + i))).any (fun h => h.isSome) = true) := by
    rintro ⟨hs, hany⟩
    rw [List.any_map, List.any_eq_true] at hany
    obtain ⟨i, hi, hsome⟩ := hany
    rw [Function.comp_apply, h.resolve_left hs i (List.mem_range.1 hi)] at hsome
    cases hsome
  exact (if_neg all).trans (if_neg any)

/-- RESF after a load of bytes that are not resident, in the claim's words (04 R106). -/
theorem resfMiss_eq (r : Word) (off : Nat) (cr : CReg) : resfMiss r off cr = if r.getLsbD 0 then r ||| 2
    else BitVec.ofNat 64 (off % 2 ^ 48 * 2 ^ 16 + cr.val * 2 ^ 12 + (if r.getLsbD 1 then 2 else 0) + 1) := by
  unfold resfMiss
  refine if_congr Iff.rfl rfl ?_
  have two : r &&& 2 = if r.getLsbD 1 then 2 else 0 := BitVec.and_twoPow r 1
  have lowBits (m : Nat) : 2 ||| (m * 2 ^ 12 + 1) = m * 2 ^ 12 + 2 + 1 := by
    have h := Nat.two_pow_add_eq_or_of_lt (i := 12) (b := 1) (by decide) m
    have h3 := Nat.two_pow_add_eq_or_of_lt (i := 12) (b := 3) (by decide) m
    rw [Nat.mul_comm] at h h3
    rw [h, Nat.lor_comm, Nat.lor_assoc, Nat.add_assoc, h3]
    rfl
  rw [two]
  split
  · have sum : off % 2 ^ 48 * 2 ^ 16 + cr.val * 2 ^ 12 = (off % 2 ^ 48 * 16 + cr.val) * 2 ^ 12 := by omega
    rw [sum, ← lowBits, BitVec.ofNat_or]
    rfl
  · simp [word]

/-! ## The L1's words (10 R233) -/

theorem l1Fill_has {off pa : Nat} (hpa : paOf o off = some pa) (h : l1Has s pa = true) : l1Fill s o off = s := by
  simp only [l1Fill, hpa, h, if_true]

/-- A word that has been fetched is there. -/
theorem l1Fill_finds (s : State) {off pa : Nat} (hpa : paOf o off = some pa) :
    ∃ w, (l1Fill s o off).core.l1.find? (fun w => w.pa == pa) = some w := by
  refine Option.isSome_iff_exists.1 (List.find?_isSome.2 ?_)
  cases h : l1Has s pa with
  | true =>
    rw [l1Fill_has hpa h]
    exact List.any_eq_true.1 h
  | false =>
    simp only [l1Fill, hpa, h, Bool.false_eq_true, if_false]
    exact ⟨_, List.mem_append_right _ (List.mem_singleton_self _), beq_self_eq_true pa⟩

/-- The bytes of an access inside one aligned word. -/
def partOf (w : L1Word) (k n : Nat) : List Byte := ((wordBytes w.val).drop (k % 8)).take n

theorem length_partOf (w : L1Word) (fits : k % 8 + n ≤ 8) : (partOf w k n).length = n := by
  simp only [partOf, wordBytes, List.length_take, List.length_drop, List.length_map, List.length_range]
  omega

theorem getD_partOf (w : L1Word) (fits : k % 8 + n ≤ 8) {i : Nat} (hi : i < n) :
    (partOf w k n).getD i 0 = BitVec.ofNat 8 (w.val.toNat / 2 ^ (8 * (k % 8 + i))) := by
  have h8 : k % 8 + i < 8 := by omega
  simp [partOf, wordBytes, List.getD_eq_getElem?_getD, hi, List.getElem?_drop, h8]

/-- An access inside one aligned word reaches one word. -/
theorem one_word (hn : 0 < n) (fits : k % 8 + n ≤ 8) : List.range ((k + n - 1) / 8 + 1 - k / 8) = [0] := by
  have one : (k + n - 1) / 8 + 1 - k / 8 = 1 := by omega
  rw [one]
  rfl

theorem l1Read_word {pa : Nat} {w : L1Word} (hn : 0 < n) (fits : k % 8 + n ≤ 8) (hpa : paOf o (8 * (k / 8)) = some pa)
    (hw : (l1Fill s o (8 * (k / 8))).core.l1.find? (fun w => w.pa == pa) = some w) :
    l1Read s o k n = (l1Fill s o (8 * (k / 8)), partOf w k n, w.tag) := by
  have low : k - 8 * (k / 8) = k % 8 := by omega
  simp [l1Read, one_word hn fits, hpa, hw, low, partOf]

theorem served_word {pa : Nat} (hn : 0 < n) (fits : k % 8 + n ≤ 8) (hs : o.space = 2) (hpa : paOf o (8 * (k / 8)) = some pa) :
    served s o k n = l1Has s pa := by
  simp [served, one_word hn fits, hs, hpa]

/-- A load of a GLOBAL word: the array first where the L1 does not hold it, then the L1. -/
theorem baseLoad_global {pa : Nat} (hn : 0 < n) (h : Unbuffered s o k n) (res : residentAt o k = true) (fits : k % 8 + n ≤ 8)
    (hs : o.space = 2) (hpa : paOf o (8 * (k / 8)) = some pa) : baseLoad s b o k n =
      match (if l1Has s pa then (s, Fetch.ok) else dramRead s o k n s.core.id) with
      | (s, .busy) => .stall s
      | (s, .bad) => .trap s (trapUnresolved 2 b (word k))
      | (s, .ok) => .ok (l1Read s o k n).1 (l1Read s o k n).2 := by
  rw [baseLoad_unbuffered hn h, served_word hn fits hs hpa, res]
  simp only [Bool.not_true, Bool.false_eq_true, if_false, hs, if_true]

/-- A load of a STAGE or HOST object that the array delivers reads the home. -/
theorem baseLoad_home {pa : Nat} {t : State} (hn : 0 < n) (h : Unbuffered s o k n) (res : residentAt o k = true) (hs : o.space ≠ 2)
    (hpa : paOf o k = some pa) (read : dramRead s o k n s.core.id = (t, .ok)) : baseLoad s b o k n =
      .ok (homeGet t (some t.core.id) o k n).1
        ((homeGet t (some t.core.id) o k n).2, tagAt (homeGet t (some t.core.id) o k n).1.base pa) := by
  have not : served s o k n = false := by simp [served, hs]
  rw [baseLoad_unbuffered hn h, not, res]
  simp only [Bool.not_true, Bool.false_eq_true, if_false, read, hs, hpa, Option.map_some, Option.getD_some]

end

/-! ## Reads of the array (08 R191, 09 R219) -/

section
variable {s : State} {o : ObjEnt} {k n pa : Nat}

/-- An access inside one granule reaches one. -/
theorem granules_one (hn : 0 < n) (fits : k % 256 + n ≤ 256) : granules k n = [(k, 0, n)] := by
  have one : (k % 256 + n + 255) / 256 = 1 := by omega
  have lo : max k (k / 256 * 256) = k := by omega
  have hi : min (k + n) ((k / 256 + 1) * 256) - k = n := by omega
  simp [granules, one, lo, hi]

theorem eachGranule_one (f : State → Nat → Nat → State × Fetch) (hn : 0 < n) (fits : k % 256 + n ≤ 256) (hpa : paOf o k = some pa) :
    eachGranule s o k n f = ((f s pa n).1, Fetch.ok.and (f s pa n).2) := by
  simp [eachGranule, granules_one hn fits, hpa]

theorem Fetch.ok_and (r : Fetch) : Fetch.ok.and r = r := by cases r <;> rfl

/-- No core sleeps: nothing is woken. -/
theorem wakeAsk_awake (hn : 0 < n) (fits : k % 256 + n ≤ 256) (hpa : paOf o k = some pa) (awake : ∀ c ∈ s.core :: s.others, c.gated = false) :
    wakeAsk s o k n = (s, .ok) := by
  have none : (s.core :: s.others).filter (retains s pa n) = [] := by
    rw [List.filter_eq_nil_iff]
    intro c hc
    simp [retains, awake c hc]
  unfold wakeAsk
  split
  · rw [eachGranule_one _ hn fits hpa, none]
    rfl
  · rfl

/-- Bytes without an array behind them pass the cache ways. -/
theorem wayRead_no_channel (s : State) (home kind pa n core : Nat) (pid : Fin 16) :
    wayRead s home kind none pa n core pid = (useLine s home (pa / 256) kind pid false, .ok) := by
  have ask : wayAsk s home kind none (pa / 256) core pid = (s, .ok) := by
    unfold wayAsk
    split <;> rfl
  simp only [wayRead, ask, ite_self]

theorem dramRead_stage (hs : o.space = 1) (core : Nat) (pid : Fin 16) : dramRead s o k n core pid = (s, .ok) := if_pos hs

theorem dramRead_no_channel (hn : 0 < n) (fits : k % 256 + n ≤ 256) (hs : o.space ≠ 1) (hpa : paOf o k = some pa)
    (chan : dramChan (some o) pa = none) (awake : ∀ c ∈ s.core :: s.others, c.gated = false) (core : Nat) (pid : Fin 16) :
    dramRead s o k n core pid = (useLine s (homeOf o pa) (pa / 256) 1 pid false, .ok) := by
  simp only [dramRead, hs, if_false, wakeAsk_awake hn fits hpa awake, eachGranule_one _ hn fits hpa, chan, wayRead_no_channel]
  rfl

/-! ## Reads at the home (10 R236, R251) -/

/-- Granules of an access begin inside it. -/
theorem granule_inside {g : Nat × Nat × Nat} (hn : 0 < n) (hg : g ∈ granules k n) : ∃ i, i < n ∧ g.1 = k + i := by
  obtain ⟨j, hj, rfl⟩ := List.mem_map.1 hg
  have := List.mem_range.1 hj
  refine ⟨max k ((k / 256 + j) * 256) - k, ?_, ?_⟩
  · omega
  · show max k ((k / 256 + j) * 256) = _
    omega

theorem hostRecall_unbiased {pa : Nat} (h : pa / 4096 ∉ s.base.bias) : hostRecall s pa = s := by
  simp [hostRecall, h]

/-- A fold whose steps change nothing. -/
theorem foldl_eq_self {α β : Type} {f : α → β → α} {a : α} {l : List β} (h : ∀ b ∈ l, f a b = a) : l.foldl f a = a := by
  induction l with
  | nil => rfl
  | cons b l ih =>
    rw [List.foldl_cons, h b (List.mem_cons_self ..)]
    exact ih (fun c hc => h c (List.mem_cons_of_mem _ hc))

/-- Outside host bias nothing comes back of a region without L1 copies. -/
theorem takeBack_nothing (me : Option Nat) (read : Bool) (hn : 0 < n) (coh : o.coh = false)
    (free : ∀ i, i < n → ∀ pa, paOf o (k + i) = some pa → pa / 4096 ∉ s.base.bias) : takeBack s me o k n read = s := by
  refine foldl_eq_self (fun g hg => ?_)
  obtain ⟨i, hi, hgi⟩ := granule_inside hn hg
  rw [hgi]
  cases hpa : paOf o (k + i) with
  | none => rfl
  | some pa =>
    simp only [coh, Bool.false_eq_true, if_false]
    exact hostRecall_unbiased (free i hi pa hpa)

/-- A request at a slice draws bucket levels and sends packets. -/
theorem serve_levels_ports (s : State) (g up down : Nat) (p : Fin 16) (kd : PacketKind) (src : Option Nat) :
    ∃ lv ps, serve s g up down p kd src = { s with base := { s.base with plvl := lv, ports := ps } } := by
  have draw (u : State) (n : Nat) : ∃ lv ps, drawBucket u g n p = { u with base := { u.base with plvl := lv, ports := ps } } := by
    unfold drawBucket
    dsimp only
    split
    · exact ⟨_, _, rfl⟩
    · exact ⟨_, _, rfl⟩
  unfold serve
  dsimp only
  obtain ⟨lv, ps, h⟩ := draw _ (requestBytes up down)
  rw [h]
  cases src <;> exact ⟨_, _, rfl⟩

theorem objBytes_congr {s t : State} (h : t.base.mem = s.base.mem) (o : ObjEnt) (k n : Nat) : objBytes t o k n = objBytes s o k n := by
  unfold objBytes
  rw [h]

/-- A home read outside host bias of a region without L1 copies. -/
theorem homeGet_plain (me : Option Nat) (pid : Fin 16) (kd : PacketKind) (src : Option Nat) (hn : 0 < n) (coh : o.coh = false)
    (free : ∀ i, i < n → ∀ pa, paOf o (k + i) = some pa → pa / 4096 ∉ s.base.bias) :
    (homeGet s me o k n pid kd src).2 = objBytes s o k n ∧
      ∃ lv ps, (homeGet s me o k n pid kd src).1 = { s with base := { s.base with plvl := lv, ports := ps } } := by
  unfold homeGet
  cases hpa : paOf o k with
  | none => exact ⟨rfl, _, _, rfl⟩
  | some pa =>
    obtain ⟨lv, ps, served⟩ := serve_levels_ports s (homeOf o pa) 0 n pid kd src
    have back : takeBack (serve s (homeOf o pa) 0 n pid kd src) me o k n = serve s (homeOf o pa) 0 n pid kd src := by
      refine takeBack_nothing me true hn coh ?_
      rw [served]
      exact free
    simp only [back]
    rw [served]
    exact ⟨objBytes_congr rfl o k n, lv, ps, rfl⟩

end

end Sys2Proof.Machine

/-- Settles O24: residency first, then the space of the object. -/
theorem baseStoresCommitBufferOrWait : Obligations.BaseStoresCommitBufferOrWait := by
  intro s b o k bs tag s0
  refine ⟨fun h hs pa hpa => baseStore_stage h hs hpa, fun h hs => baseStore_buffer h hs, fun h => ?_, fun x e a h hres => ?_⟩
  · exact (baseStore_away (residentAt_none h)).trans (residencyWait_uncovered h)
  · have away := baseStore_away (s := s) (b := b) (bs := bs) (tag := tag) ((residentAt_some h).trans hres)
    exact ⟨fun hw => away.trans (residencyWait_asks h hw), fun hw => away.trans (residencyWait_waiting h hw),
      fun hw => away.trans (residencyWait_waiting h hw)⟩

/-- Settles O22: the store buffer, residency, and then the L1 or the home. -/
theorem baseLoadsForwardMissOrRead : Obligations.BaseLoadsForwardMissOrRead := by
  intro s b o k n hn hit none'
  refine ⟨baseLoad_buffered, baseLoad_partly, fun free res => ?_, fun free hs res _ fits pa w hpa hw => ?_,
    fun free hs res _ fits pa hpa hw => ?_, fun hs res pa hpa => ?_, fun free hs res pa hpa chan fits awake => ?_, fun coh bias => ?_⟩
  · rw [baseLoad_unbuffered hn free, res]
    simp only [Bool.not_false, if_true, resfMiss_eq]
    rfl
  · have has : l1Has s pa = true := List.any_eq_true.2 ⟨w, List.mem_of_find?_eq_some hw, by simpa using List.find?_some hw⟩
    have fill := l1Fill_has hpa has
    refine ⟨partOf w k n, length_partOf w fits, fun i => getD_partOf w fits, ?_⟩
    rw [baseLoad_global hn (.inr free) res fits hs hpa, has]
    simp only [if_true]
    rw [l1Read_word hn fits hpa (fill.symm ▸ hw), fill]
  · have has : l1Has s pa = false := by simpa [l1Has] using hw
    have load := baseLoad_global (b := b) hn (.inr free) res fits hs hpa
    rw [has] at load
    simp only [Bool.false_eq_true, if_false] at load
    generalize dramRead s o k n s.core.id = d at load ⊢
    obtain ⟨t, r⟩ := d
    refine ⟨fun h => ?_, fun h => ?_, fun h => ?_⟩
    · subst h
      exact load
    · subst h
      exact load
    · subst h
      obtain ⟨w, found⟩ := l1Fill_finds t hpa
      refine ⟨w, found, partOf w k n, length_partOf w fits, fun i => getD_partOf w fits, load.trans ?_⟩
      show Res.ok (l1Read t o k n).1 (l1Read t o k n).2 = _
      rw [l1Read_word hn fits hpa found]
  · exact baseLoad_home hn (.inl hs) res (by rw [hs]; decide) hpa (dramRead_stage hs ..)
  · have read := dramRead_no_channel (s := s) hn fits (by rw [hs]; decide) hpa chan awake s.core.id s.core.csr.pid
    have core := (Kept.useLine s (homeOf o pa) (pa / 256) 1 s.core.csr.pid false).core
    rw [baseLoad_home hn (.inr free) res (by rw [hs]; decide) hpa read]
    dsimp only
    rw [core]
  · exact homeGet_plain _ _ _ _ hn coh bias
end

section
/-! Settled for the sequencer: rings and engine registers (05 R136, R137, R139 to R141, 01 R6 to R8, 06 R151, R159). -/

open Sys2Proof Sys2Proof.Machine Sys2Proof.Claims

namespace Sys2Proof.Machine

/-! ## The numbers of the engine CSRs (05 R141) -/

section
variable {s : State} {e : Eng} {a b : XReg} {n : Fin 256}

theorem ecsrOf_zero (e : Eng) : ecsrOf e 0 = some .rgcfg := rfl

theorem ecsrOf_one (e : Eng) : ecsrOf e 1 = some .rgptr := rfl

/-- A number of the claim's list names a CSR, which has the value there. -/
theorem ecsrOf_of_mem (s : State) {p : Nat × Word} (hp : p ∈ engineCsrs s.core.eng e) :
    ∃ r, ecsrOf e p.1 = some r ∧ ecsrGet s e r = p.2 := by
  have rings (q : Nat × Word) (hq : q ∈ [(0, rgcfgWord s.core.eng.rings[engIdx e]), (1, rgptrWord s.core.eng.rings[engIdx e])]) :
      ∃ r, ecsrOf e q.1 = some r ∧ ecsrGet s e r = q.2 := by
    simp only [List.mem_cons, List.not_mem_nil, or_false] at hq
    rcases hq with rfl | rfl
    · exact ⟨_, ecsrOf_zero e, rfl⟩
    · exact ⟨_, ecsrOf_one e, rfl⟩
  rcases List.mem_append.1 hp with h | h
  · exact rings p h
  cases e with
  | copy =>
    obtain ⟨k, -, hk⟩ := List.mem_flatMap.1 h
    simp only [List.mem_cons, List.not_mem_nil, or_false] at hk
    rcases hk with rfl | rfl | rfl
    · exact ⟨.chst k, by fin_cases k <;> rfl, rfl⟩
    · exact ⟨.chkCfg k, by fin_cases k <;> rfl, rfl⟩
    · exact ⟨.chkHit k, by fin_cases k <;> rfl, rfl⟩
  | matrix =>
    rw [List.mem_singleton] at h
    subst h
    exact ⟨.mxspill, rfl, rfl⟩
  | vector =>
    rcases List.mem_append.1 h with h | h
    · simp only [List.mem_cons, List.not_mem_nil, or_false] at h
      rcases h with rfl | rfl
      · exact ⟨.vfcr, rfl, rfl⟩
      · exact ⟨.vwst, rfl, rfl⟩
    · obtain ⟨k, -, hk⟩ := List.mem_flatMap.1 h
      simp only [List.mem_cons, List.not_mem_nil, or_false] at hk
      rcases hk with rfl | rfl
      · exact ⟨.gctl k, by fin_cases k <;> rfl, rfl⟩
      · exact ⟨.gbase k, by fin_cases k <;> rfl, rfl⟩

/-- Every CSR that a number names is in the claim's list. -/
theorem mem_of_ecsrOf (g : Engines) {m : Nat} {r : Ecsr} (h : ecsrOf e m = some r) : ∃ p ∈ engineCsrs g e, m = p.1 := by
  have range {lo : Nat} (hm : lo ≤ m ∧ m < lo + 4) : ∃ k : Fin 4, m = lo + k.val := ⟨⟨m - lo, by omega⟩, by simp only; omega⟩
  unfold engineCsrs
  by_cases h0 : m = 0
  · exact ⟨_, List.mem_append_left _ (List.mem_cons_self ..), h0⟩
  by_cases h1 : m = 1
  · exact ⟨_, List.mem_append_left _ (List.mem_cons_of_mem _ (List.mem_cons_self ..)), h1⟩
  simp only [ecsrOf, h0, h1, if_false] at h
  cases e with
  | copy =>
    have hm : (4 ≤ m ∧ m < 4 + 4) ∨ (8 ≤ m ∧ m < 8 + 4) ∨ (12 ≤ m ∧ m < 12 + 4) := by
      by_contra hno
      simp only at h
      rw [if_neg (by omega), if_neg (by omega), if_neg (by omega)] at h
      cases h
    rcases hm with hm | hm | hm
    · obtain ⟨k, hk⟩ := range hm
      exact ⟨(4 + k.val, chstWord g k), List.mem_append_right _ (List.mem_flatMap.2 ⟨k, List.mem_finRange k, by simp⟩), hk⟩
    · obtain ⟨k, hk⟩ := range hm
      exact ⟨(8 + k.val, g.chkCfg[k]), List.mem_append_right _ (List.mem_flatMap.2 ⟨k, List.mem_finRange k, by simp⟩), hk⟩
    · obtain ⟨k, hk⟩ := range hm
      exact ⟨(12 + k.val, g.chkHit[k]), List.mem_append_right _ (List.mem_flatMap.2 ⟨k, List.mem_finRange k, by simp⟩), hk⟩
  | matrix =>
    have hm : m = 2 := by
      by_contra hno
      simp only [hno, if_false] at h
      cases h
    exact ⟨(2, g.mxspill), List.mem_append_right _ (List.mem_singleton_self _), hm⟩
  | vector =>
    have hm : m = 2 ∨ m = 3 ∨ (4 ≤ m ∧ m < 4 + 4) ∨ (8 ≤ m ∧ m < 8 + 4) := by
      by_contra hno
      simp only at h
      rw [if_neg (by omega), if_neg (by omega), if_neg (by omega), if_neg (by omega)] at h
      cases h
    rcases hm with hm | hm | hm | hm
    · exact ⟨(2, g.vfcr), by simp, hm⟩
    · exact ⟨(3, g.vwst), by simp, hm⟩
    · obtain ⟨k, hk⟩ := range hm
      exact ⟨(4 + k.val, g.gctl[k]),
        List.mem_append_right _ (List.mem_append_right _ (List.mem_flatMap.2 ⟨k, List.mem_finRange k, by simp⟩)), hk⟩
    · obtain ⟨k, hk⟩ := range hm
      exact ⟨(8 + k.val, g.gbase[k]),
        List.mem_append_right _ (List.mem_append_right _ (List.mem_flatMap.2 ⟨k, List.mem_finRange k, by simp⟩)), hk⟩

/-! ## ECSRR and ECSRW -/

theorem exec_ecsrr {r : Ecsr} (h : ecsrOf e n.val = some r) : exec (.ecsrr a e n) s = .next (retire 1 (wrX s a (ecsrGet s e r))) := by
  show execEcsrr a e n s = _
  simp only [execEcsrr, h]

theorem exec_ecsrr_undefined (h : ecsrOf e n.val = none) : exec (.ecsrr a e n) s = .next (takeTrap s trapIllegal) := by
  show execEcsrr a e n s = _
  simp only [execEcsrr, h]

theorem exec_ecsrw {r : Ecsr} (h : ecsrOf e n.val = some r) :
    exec (.ecsrw e n b) s = finish (ecsrSet s e r (reg s b)) (fun s _ => .next (past 1 s)) := by
  show execEcsrw e n b s = _
  simp only [execEcsrw, h]
  rfl

theorem exec_ecsrw_undefined (h : ecsrOf e n.val = none) : exec (.ecsrw e n b) s = .next (takeTrap s trapIllegal) := by
  show execEcsrw e n b s = _
  simp only [execEcsrw, h]

/-- A plain engine CSR takes the claim's value. -/
theorem ecsrSet_of_mem (s : State) (v : Word) {p : Eng × Nat × Engines} (hp : p ∈ engineWrites s.core.eng v) :
    ∃ r, ecsrOf p.1 p.2.1 = some r ∧ ecsrSet s p.1 r v = .ok (withEng s p.2.2) () := by
  rcases List.mem_append.1 hp with h | h
  · obtain ⟨k, -, hk⟩ := List.mem_flatMap.1 h
    simp only [List.mem_cons, List.not_mem_nil, or_false] at hk
    rcases hk with rfl | rfl | rfl | rfl
    · exact ⟨.chkCfg k, by fin_cases k <;> rfl, rfl⟩
    · exact ⟨.chkHit k, by fin_cases k <;> rfl, rfl⟩
    · exact ⟨.gctl k, by fin_cases k <;> rfl, rfl⟩
    · exact ⟨.gbase k, by fin_cases k <;> rfl, rfl⟩
  · simp only [List.mem_cons, List.not_mem_nil, or_false] at h
    rcases h with rfl | rfl | rfl
    · exact ⟨.mxspill, rfl, rfl⟩
    · exact ⟨.vfcr, rfl, rfl⟩
    · exact ⟨.vwst, rfl, rfl⟩

/-! ## RGCFG (01 R8) -/

theorem ringDrained_iff (s : State) (e : Eng) : ringDrained s e = true ↔ Drained s e := by
  simp only [ringDrained, Drained, Bool.and_eq_true, Bool.not_eq_true', List.any_eq_false, Bool.or_eq_true, beq_iff_eq, not_and, Bool.not_eq_false]
  refine and_congr_right (fun _ => ?_)
  cases (s.core.eng.rings[engIdx e]).en <;> simp

/-- The ring that a write of RGCFG makes. -/
theorem ringOf_eq (v : Word) :
    ringOf v = ⟨v.getLsbD 31, max 4 (v.toNat / 2 ^ 24 % 16), v.toNat / 8 % 2 ^ 19 * 8, 0, 0, 0, true, 0, none⟩ := rfl

theorem ecsrSet_rgcfg (s : State) (e : Eng) (v : Word) :
    ecsrSet s e .rgcfg v = if ringDrained s e then .ok (withRing s e (ringOf v)) () else .stall s := rfl

theorem exec_rgcfgWrite (s : State) (e : Eng) (v : Word) :
    exec (.rgcfgWrite e v) s = if ringDrained s e then .next (withRing s e (ringOf v)) else .next s := rfl

/-! ## CMD of CHST (06 R151, R159) -/

theorem cmdAllowed_iff (s : State) : cmdAllowed s = true ↔ s.core.csr.mode = true ∧ s.core.csr.engt = true := Bool.and_eq_true_iff

theorem ecsrOf_chst (ch : Fin 4) (h : n.val = 4 + ch.val) : ecsrOf .copy n.val = some (.chst ch) := by
  rw [h]
  fin_cases ch <;> rfl

theorem ecsrSet_chst (s : State) (ch : Fin 4) (v : Word) : ecsrSet s .copy (.chst ch) v =
    if v.toNat / 2 ^ 60 % 4 = 0 ∨ v.toNat / 2 ^ 60 % 4 = 3 then .ok s ()
    else if !cmdAllowed s then .trap s (trapOperand 2 v)
    else .ok (if v.toNat / 2 ^ 60 % 4 = 1 then restartOp s ch else discardOp s ch) () := rfl

/-! ## TAIL, slots and the format queue (05 R136, R137, R139, R140) -/

/-- What a write of TAIL may publish: not beyond the ring, and back in a kernel engine trap only. -/
def Publishes (s : State) (e : Eng) (v : Word) : Prop :=
  let r := s.core.eng.rings[engIdx e]
  let cnt := (BitVec.ofNat 16 v.toNat - r.head).toNat
  cnt ≤ 2 ^ r.lgsz ∧ ((r.tail - r.head).toNat ≤ cnt ∨ (s.core.csr.mode = true ∧ s.core.csr.engt = true))

/-- The ring after a write of TAIL. -/
def publishedRing (s : State) (e : Eng) (v : Word) : Ring :=
  let r := s.core.eng.rings[engIdx e]
  let new := BitVec.ofNat 16 v.toNat
  { r with tail := new, vis := if (new - r.head).toNat < (r.vis - r.head).toNat then new else r.vis }

theorem publish_eq (s : State) (e : Eng) (v : Word) : publish s e v =
    if 2 ^ (s.core.eng.rings[engIdx e]).lgsz < (BitVec.ofNat 16 v.toNat - (s.core.eng.rings[engIdx e]).head).toNat ∨
      ((BitVec.ofNat 16 v.toNat - (s.core.eng.rings[engIdx e]).head).toNat <
        ((s.core.eng.rings[engIdx e]).tail - (s.core.eng.rings[engIdx e]).head).toNat ∧ !(s.core.csr.mode && s.core.csr.engt))
    then .error (trapOperand 0 v) else .ok (withRing s e (publishedRing s e v)) := rfl

theorem publish_ok {v : Word} (h : Publishes s e v) : publish s e v = .ok (withRing s e (publishedRing s e v)) := by
  obtain ⟨fits, back⟩ := h
  rw [publish_eq, if_neg]
  rintro (h | ⟨h, hk⟩)
  · exact absurd fits (not_le.2 h)
  · rcases back with hb | ⟨hm, ht⟩
    · exact absurd hb (not_le.2 h)
    · rw [hm, ht] at hk
      cases hk

theorem publish_error {v : Word} (h : ¬ Publishes s e v) : publish s e v = .error (trapOperand 0 v) := by
  rw [publish_eq, if_pos]
  by_contra hno
  obtain ⟨fits, back⟩ := not_or.1 hno
  refine h ⟨not_lt.1 fits, (not_and_or.1 back).imp not_lt.1 (fun hk => ?_)⟩
  simpa using hk

/-- The two instructions that write TAIL. -/
theorem exec_publish {i : Instr} (hi : i ∈ [Instr.rtail e b, .ecsrw e 1 b]) :
    exec i s = match publish s e (reg s b) with
      | .error t => .next (takeTrap s t)
      | .ok t => .next (past 1 t) := by
  simp only [List.mem_cons, List.not_mem_nil, or_false] at hi
  rcases hi with rfl | rfl
  · show execRtail e b s = _
    unfold execRtail
    rw [rdX_eq_reg]
    cases publish s e (reg s b) <;> rfl
  · rw [exec_ecsrw (ecsrOf_one e)]
    show finish (match publish s e (reg s b) with
      | .error t => .trap s t
      | .ok s => .ok s ()) _ = _
    cases publish s e (reg s b) <;> rfl

theorem exec_fpush_full (h : 32 ≤ s.core.eng.fq.length) : exec (.fpush b) s = .next s := if_pos h

theorem exec_fpush (h : s.core.eng.fq.length < 32) : exec (.fpush b) s = .next (past 1 (withEng s { s.core.eng with
    fq := s.core.eng.fq ++ [(reg s b, s.core.csr.scc + (if standing s then 0 else 1))] })) := by
  refine (if_neg (not_le.2 h)).trans ?_
  cases standing s <;> rfl

end

end Sys2Proof.Machine

/-- Settles O38: what TAIL may publish, and the words that the cycles before left. -/
theorem ringsPublishAndReport : Obligations.RingsPublishAndReport := by
  intro s e a b slot r new cnt legal vis
  refine ⟨fun i hi => ⟨fun h => ?_, fun h => traps_operand ?_⟩, writes_of_retire rfl rfl, fun h => writes_of_retire (if_neg h) rfl,
    traps_illegal rfl, exec_fpush, exec_fpush_full⟩
  · rw [exec_publish hi, publish_ok h]
    rfl
  · rw [exec_publish hi, publish_error h]

/-- Settles O39: the CSR that a number names, and what each takes. -/
theorem engineRegistersReadAndWrite : Obligations.EngineRegistersReadAndWrite := by
  intro s e n a b ch v g trapOpen cfg
  refine ⟨fun p hp hn => ?_, fun h => ?_, fun p hp hn => ?_, fun h => ?_, fun h => ?_, fun hn => ?_, fun h => ?_, fun h => ?_⟩
  · obtain ⟨r, hr, hv⟩ := ecsrOf_of_mem s hp
    exact writes_of_retire (exec_ecsrr (hn ▸ hr)) hv
  · have none : ecsrOf e n.val = none := by
      cases hr : ecsrOf e n.val with
      | none => rfl
      | some r =>
        obtain ⟨p, hp, hn⟩ := mem_of_ecsrOf g hr
        exact absurd hn (h p hp)
    exact ⟨traps_illegal (exec_ecsrr_undefined none), traps_illegal (exec_ecsrw_undefined none)⟩
  · obtain ⟨r, hr, hset⟩ := ecsrSet_of_mem s (reg s b) hp
    rw [exec_ecsrw (hn ▸ hr), hset]
    rfl
  · have drained := (ringDrained_iff s e).2 h
    rw [exec_ecsrw (ecsrOf_zero e), ecsrSet_rgcfg, exec_rgcfgWrite, if_pos drained, if_pos drained]
    exact ⟨rfl, rfl⟩
  · have running := mt (ringDrained_iff s e).1 h
    rw [exec_ecsrw (ecsrOf_zero e), ecsrSet_rgcfg, exec_rgcfgWrite, if_neg running, if_neg running]
    exact ⟨rfl, rfl⟩
  · have write := exec_ecsrw (s := s) (b := b) (ecsrOf_chst ch hn)
    rw [ecsrSet_chst] at write
    intro cmd
    refine ⟨fun hc => ?_, fun ho hc => ?_, fun ho hc => ?_, fun ho hc => traps_operand ?_⟩
    · rw [write, if_pos hc]
      rfl
    · rw [write, if_neg (by omega), (cmdAllowed_iff s).2 ho, if_pos hc]
      rfl
    · have discards : ¬ (reg s b).toNat / 2 ^ 60 % 4 = 1 := by omega
      rw [write, if_neg (by omega), (cmdAllowed_iff s).2 ho, if_neg discards]
      rfl
    · have no : cmdAllowed s = false := Bool.eq_false_iff.2 (mt (cmdAllowed_iff s).1 ho)
      rw [write, if_neg (by omega), no]
      rfl
  · have yes := (cmdAllowed_iff s).2 h
    exact ⟨congrArg Host.Outcome.next (if_pos yes), congrArg Host.Outcome.next (if_pos yes)⟩
  · have no := mt (cmdAllowed_iff s).1 h
    exact ⟨congrArg Host.Outcome.next (if_neg no), congrArg Host.Outcome.next (if_neg no)⟩
end

section
/-! Settled for the sequencer: segments and power leave (05 R138, 01 R13, 22 R399). -/

open Sys2Proof Sys2Proof.Machine Sys2Proof.Claims

namespace Sys2Proof.Machine

/-- The first place of `Fin n` where a function answers. -/
theorem findSome?_finRange {β : Type} {n : Nat} {f : Fin n → Option β} {k : Fin n} {b : β} (hk : f k = some b)
    (before : ∀ j < k, f j = none) : (List.finRange n).findSome? f = some b := by
  induction n with
  | zero => exact k.elim0
  | succ n ih =>
    rw [List.finRange_succ, List.findSome?_cons]
    cases k using Fin.cases with
    | zero => rw [hk]
    | succ k =>
      rw [before 0 (Fin.succ_pos k), List.findSome?_map]
      exact ih hk (fun j hj => before j.succ (Fin.succ_lt_succ_iff.2 hj))

section
variable {s : State} {n : Fin 64} {c : Fin 4}

/-! ## SALIGN and its release (05 R138, 01 R13) -/

/-- What a ring's head says against the number of the SALIGN. -/
theorem alignMismatch_eq (s : State) (n : Fin 64) : alignMismatch s n =
    (List.finRange 3).findSome? (fun k => (ringAlign s.core.eng k).bind (fun m => if m = n then none else some (k, m))) := by
  refine congrArg (fun f => (List.finRange 3).findSome? f) (funext fun k => ?_)
  cases ringAlign s.core.eng k <;> rfl

theorem alignMismatch_of_mismatch {k : Fin 3} {m : Fin 64} (h : Mismatch s n k m) : alignMismatch s n = some (k, m) := by
  obtain ⟨head, other, before⟩ := h
  rw [alignMismatch_eq]
  refine findSome?_finRange (by rw [head, Option.bind_some, if_neg other]) (fun j hj => ?_)
  cases hq : ringAlign s.core.eng j with
  | none => rfl
  | some q => rw [Option.bind_some, if_pos (before j hj q hq)]

theorem alignMismatch_of_aligned (h : ∀ k m, ringAlign s.core.eng k = some m → m = n) : alignMismatch s n = none := by
  rw [alignMismatch_eq, List.findSome?_eq_none_iff]
  intro k _
  cases hm : ringAlign s.core.eng k with
  | none => rfl
  | some m => rw [Option.bind_some, if_pos (h k m hm)]

/-- The trap of a mismatch, named by its ring. -/
theorem mismatchTrap_eq (s : State) (k : Fin 3) (m : Fin 64) : mismatchTrap s k m =
    let t := inHandler (dropPower s s.core.id) s.core.seq.pc (BitVec.ofNat 64 (0x13 + k.val * 2 ^ 10)) (BitVec.ofNat 64 m.val)
    if s.core.csr.mode then faultLease t else t := by
  have cause : causeWord 0x13 0 0 k.val false 0 = BitVec.ofNat 64 (0x13 + k.val * 2 ^ 10) := by
    have ring : k.val % 4 = k.val := Nat.mod_eq_of_lt (by omega)
    simp [causeWord, b2n, ring]
  rw [mismatchTrap, takeTrapAt, cause]
  rfl

theorem releaseSegment_eq (s : State) (n : Fin 64) (c : Fin 4) : releaseSegment s n c = segment s n c := by
  have goes (j : Job) : (j.npos != 0) = decide (j.npos ≠ 0) := by
    rw [Bool.eq_iff_iff]
    simp
  unfold releaseSegment Claims.segment
  simp only [goes]
  rfl

theorem askPower_eq (s : State) (c : Fin 4) : askPower s c = askedPower s c := by
  have other (p : Nat × Fin 4) : (p.1 != s.core.id) = decide (p.1 ≠ s.core.id) := by
    rw [Bool.eq_iff_iff]
    simp
  simp only [askPower, askedPower, other]

theorem releaseDue_iff {d : Fin 4} {g : Option Nat} (h : s.core.wait = .salign d g) :
    releaseDue s = true ↔ ∃ x, g = some x ∧ x < s.gtc ∧ s.gtc % 16 = 0 := by
  unfold releaseDue
  rw [h]
  cases g with
  | none => simp
  | some x => simp

theorem exec_salign (ok : s.core.csr.engt = false ∧ s.core.csr.epend = false) : exec (.salign n c) s =
    match alignMismatch s n with
    | some (k, m) => .next (mismatchTrap s k m)
    | none => match s.core.wait with
      | .salign d _ => if releaseDue s then .next (releaseSegment s n d) else .next s
      | _ => .next (setWait (askPower s c) (.salign c none)) := by
  refine if_neg ?_
  rw [ok.1, ok.2]
  decide

theorem exec_salign_refused (h : ¬ (s.core.csr.engt = false ∧ s.core.csr.epend = false)) :
    exec (.salign n c) s = .next (takeTrap s (trapOperand 0 0)) := by
  refine if_pos ?_
  rw [not_and_or, Bool.not_eq_false, Bool.not_eq_false] at h
  exact Bool.or_eq_true_iff.2 h

/-- SALIGN goes on waiting until its release. -/
theorem exec_salign_waiting (ok : s.core.csr.engt = false ∧ s.core.csr.epend = false)
    (aligned : ∀ k m, ringAlign s.core.eng k = some m → m = n) {d : Fin 4} {g : Option Nat} (wait : s.core.wait = .salign d g) :
    exec (.salign n c) s = if releaseDue s then .next (segment s n d) else .next s := by
  rw [exec_salign ok, alignMismatch_of_aligned aligned, ← releaseSegment_eq]
  simp only [wait]

theorem exec_segmentRelease_early (h : releaseDue s = false) : exec .segmentRelease s = .next s := by
  show execSegmentRelease s = _
  simp only [execSegmentRelease, h, Bool.false_eq_true, if_false]

theorem exec_segmentRelease (due : releaseDue s = true) (aligned : ∀ k m, ringAlign s.core.eng k = some m → m = n) {d : Fin 4}
    {g : Option Nat} (wait : s.core.wait = .salign d g) {w : Word} (hw : codeWord s s.core.seq.pc.toNat = some w)
    (hi : decodeSeq w = some (.salign n c)) : exec .segmentRelease s = .next (segment s n d) := by
  show execSegmentRelease s = _
  simp only [execSegmentRelease, due, if_true, wait, hw, Option.bind_some, hi, alignMismatch_of_aligned aligned, releaseSegment_eq]

/-! ## The leave manager (22 R399) -/

theorem grantable_iff {d : Fin 8} {core : Nat} {p : Fin 4} : grantable s d = some (core, p) ↔ Grants s d core p := by
  unfold grantable Grants
  dsimp only
  cases (s.base.dies[d]).waiting with
  | nil => simp
  | cons q t =>
    obtain ⟨x, k⟩ := q
    simp only [Option.ite_none_right_eq_some, Bool.and_eq_true, decide_eq_true_eq, Option.some.injEq, Prod.mk.injEq, List.cons.injEq]
    constructor
    · rintro ⟨h, rfl, rfl⟩
      exact ⟨⟨t, ⟨rfl, rfl⟩, rfl⟩, h⟩
    · rintro ⟨⟨_, ⟨rfl, rfl⟩, -⟩, h⟩
      exact ⟨h, rfl, rfl⟩

theorem grantable_none {d : Fin 8} (h : ∀ x q, ¬ Grants s d x q) : grantable s d = none := by
  cases hg : grantable s d with
  | none => rfl
  | some p => exact absurd (grantable_iff.1 hg) (h p.1 p.2)

theorem exec_powerLeaveGrant {d : Fin 8} {core : Nat} {p : Fin 4} (h : Grants s d core p) (before : ∀ f < d, ∀ x q, ¬ Grants s f x q) :
    exec .powerLeaveGrant s = .next (onCore (onBase s (fun b => { b with dies := b.dies.set d { b.dies[d] with
      waiting := (b.dies[d]).waiting.drop 1 } })) core (fun x => { x with power := some p })) := by
  have first : (List.finRange 8).findSome? (fun d => (grantable s d).map (fun p => (d, p))) = some (d, core, p) :=
    findSome?_finRange (by rw [grantable_iff.2 h]; rfl) (fun f hf => by rw [grantable_none (before f hf)]; rfl)
  show execPowerLeaveGrant s = _
  simp only [execPowerLeaveGrant, first]

end

end Sys2Proof.Machine

/-- Settles O40: the tests of SALIGN in their order, and the first die that can grant. -/
theorem segmentsOpenTogether : Obligations.SegmentsOpenTogether := by
  intro s n c e ok aligned
  refine ⟨fun h => traps_operand (exec_salign_refused h), fun h k m hm => ?_, fun h ha hw => ?_, fun h ha d g hw hg hgtc => ?_,
    fun h ha d g hw early => ?_, rfl, fun d core p h before => exec_powerLeaveGrant h before⟩
  · rw [exec_salign h, alignMismatch_of_mismatch hm]
    exact congrArg Host.Outcome.next (mismatchTrap_eq s k m)
  · rw [exec_salign h, alignMismatch_of_aligned ha]
    simp only [hw, askPower_eq]
    rfl
  · have due := (releaseDue_iff hw).2 ⟨g, rfl, hg, hgtc⟩
    refine ⟨(exec_salign_waiting h ha hw).trans (if_pos due), fun w hcode hi => exec_segmentRelease due ha hw hcode hi⟩
  · have not : ¬ releaseDue s = true := by
      rw [releaseDue_iff hw]
      rintro ⟨x, hx, due⟩
      exact early x hx due
    exact ⟨(exec_salign_waiting h ha hw).trans (if_neg not), exec_segmentRelease_early (Bool.eq_false_iff.2 not)⟩
end

section
/-! Settled for the sequencer: the end of a lease and stage messages (05 R142 to R144). -/

open Sys2Proof Sys2Proof.Machine Sys2Proof.Claims

namespace Sys2Proof.Machine

section
variable {s : State} {l : Lease} {b : XReg}

/-! ## TRETIRE (05 R142) -/

theorem exec_tretire_refused (h : s.core.csr.engt = true ∨ ∃ k, (ringAlign s.core.eng k).isSome = true) :
    exec .tretire s = .next (takeTrap s (trapOperand 0 0)) := by
  show execTretire s = _
  unfold execTretire
  split
  · rfl
  next engt =>
    refine if_pos (List.any_eq_true.2 ?_)
    obtain ⟨k, hk⟩ := h.resolve_left engt
    exact ⟨k, List.mem_finRange k, hk⟩

/-- The core has nothing left in flight. -/
theorem quiet_iff (s : State) :
    (enginesQuiet s.core.eng && s.core.sb.isEmpty && s.core.posted.isEmpty) = true ↔ Claims.Quiet s := by
  have rings : (List.finRange 3).all (fun k => !(s.core.eng.rings[k]).en || ((s.core.eng.rings[k]).idle &&
      (s.core.eng.rings[k]).head == (s.core.eng.rings[k]).tail)) = true ↔
      ∀ r ∈ s.core.eng.rings.toList, r.en = true → r.idle = true ∧ r.head = r.tail := by
    rw [List.all_eq_true]
    constructor
    · intro h r hr en
      obtain ⟨i, hi, rfl⟩ := List.mem_iff_getElem.1 hr
      have hi3 : i < 3 := by simpa using hi
      rw [Vector.getElem_toList] at en ⊢
      simpa [en] using h ⟨i, hi3⟩ (List.mem_finRange _)
    · intro h k _
      have ring := h s.core.eng.rings[k] (by simp)
      cases en : (s.core.eng.rings[k]).en with
      | false => rfl
      | true => simpa using ring en
  unfold enginesQuiet Claims.Quiet
  rw [Bool.and_eq_true, Bool.and_eq_true, Bool.and_eq_true, Bool.and_eq_true, Bool.and_eq_true, rings]
  simp only [List.all_eq_true, List.isEmpty_iff, and_assoc]

theorem exec_tretire (engt : s.core.csr.engt = false) (heads : ∀ k, ringAlign s.core.eng k = none) : exec .tretire s =
    if enginesQuiet s.core.eng && s.core.sb.isEmpty && s.core.posted.isEmpty then
      .next (endRetired (writeBack s s.core.id (fun _ => true)))
    else .next s := by
  have none : (List.finRange 3).any (fun k => (ringAlign s.core.eng k).isSome) = false := by
    rw [List.any_eq_false]
    intro k _
    rw [heads k]
    decide
  show execTretire s = _
  simp only [execTretire, engt, none, Bool.false_eq_true, if_false]

/-- After its write-back a core has no dirty word. -/
theorem writeBack_clean (s : State) : ∀ w ∈ (writeBack s s.core.id (fun _ => true)).core.l1, w.dirty = false := by
  have found : findCore s s.core.id = some s.core := if_pos rfl
  have kept (us : List (List L1Word)) : (us.foldl (wbUnit s.core.id s.core.csr.pid) s).core = s.core :=
    (Kept.foldl _ (fun s ws => .wbUnit ..) us s).core
  intro w hw
  simp only [writeBack, found, onCore, kept, if_true] at hw
  obtain ⟨v, -, rfl⟩ := List.mem_map.1 hw
  split
  · rfl
  next h => simpa [wbTakes] using h

theorem Spares.releasePins (s : State) (pins : List TEnt) (launch : BitVec 32) : Spares s (releasePins s pins launch) := by
  have unpinned : Recalls s (pins.foldl (fun s t => if t.long then s else onObj s t.oid (fun o => { o with pins := o.pins - 1 })) s) := by
    refine .foldl (f := fun s t => if t.long then s else onObj s t.oid (fun o => { o with pins := o.pins - 1 })) (fun s t => ?_) pins s
    split
    · exact .refl s
    · exact .of_core rfl
  exact unpinned.toSpares.trans (.of_core rfl)

/-- A retired lease leaves its core as it starts, with clean words. -/
theorem endRetired_core {u : State} (hl : u.core.lease = some l) (clean : ∀ w ∈ u.core.l1, w.dirty = false) :
    ∃ ws, (∀ w ∈ ws, w.dirty = false) ∧
      (endRetired u).core = { Core.free u.core.id with resvSeq := u.core.resvSeq, gated := u.core.gated, l1 := ws } := by
  have told : Spares u (leaseEnds u) := .of_core rfl
  have ended := told.trans (.releasePins (leaseEnds u) u.core.tcache l.launch)
  obtain ⟨ws, hc, hw⟩ := ended.core
  unfold endRetired
  simp only [hl]
  obtain ⟨vs, gc, gw⟩ := (Spares.finishLaunch (onLaunch
    { releasePins (leaseEnds u) u.core.tcache l.launch with
      core := { freeCore (releasePins (leaseEnds u) u.core.tcache l.launch).core with
        l1 := (releasePins (leaseEnds u) u.core.tcache l.launch).core.l1 } } l.launch
    (fun k => { k with live := k.live - 1, retired := k.retired + 1 })) l.launch).core
  refine ⟨vs, fun v hv => ?_, ?_⟩
  · cases hd : v.dirty with
    | false => rfl
    | true =>
      have mem : v ∈ (releasePins (leaseEnds u) u.core.tcache l.launch).core.l1 := gw v hv hd
      rw [hc] at mem
      rw [← hd]
      exact clean v (hw v mem hd)
  · rw [gc]
    simp only [onLaunch, hc]
    rfl

/-! ## Stage messages (05 R143, R144) -/

theorem stageOffset_ok {v : Word} (h : MsgOffset v) : stageOffset v = none := by
  obtain ⟨aligned, inside⟩ := h
  rw [stageOffset, if_neg (not_not_intro aligned), if_neg (not_lt.2 inside)]

theorem stageOffset_misaligned {v : Word} (h : v.toNat % 64 ≠ 0) : stageOffset v = some (trapOperand 1 v) := if_pos h

theorem stageOffset_beyond {v : Word} (h : v.toNat % 64 = 0) (beyond : 0x3FFFC0 < v.toNat) : stageOffset v = some (trapOperand 0 v) :=
  (if_neg (not_not_intro h)).trans (if_pos beyond)

theorem exec_stgput_offset {t : Trap} (h : stageOffset (reg s b) = some t) : exec (.stgput b) s = .next (takeTrap s t) := by
  show execStgput b s = _
  simp only [execStgput, rdX_eq_reg, h]

theorem exec_stgget_offset {t : Trap} (h : stageOffset (reg s b) = some t) : exec (.stgget b) s = .next (takeTrap s t) := by
  show execStgget b s = _
  simp only [execStgget, rdX_eq_reg, h]

theorem putStageQueue_eq (s : State) (q : StageQ) : putStageQueue s q = withStage s q := by
  have same (p : StageQ) : (!(p.launch == q.launch && p.stage == q.stage)) = decide (¬ (p.launch = q.launch ∧ p.stage = q.stage)) := by
    rw [Bool.eq_iff_iff]
    simp
  simp only [putStageQueue, withStage, onBase, same]

/-- A lease counts one message more. -/
def countsPut (s : State) (l : Lease) : State := past 1 (withLease s { l with puts := l.puts + 1 })

section
variable (hl : s.core.lease = some l) (hv : MsgOffset (reg s b))
include hl hv

theorem exec_stgput_last (last : lastStage s l = true) : exec (.stgput b) s = .next (takeTrap s (trapOperand 0 (reg s b))) := by
  show execStgput b s = _
  simp only [execStgput, rdX_eq_reg, stageOffset_ok hv, hl, last, if_true]

/-- STGPUT before the last stage: a message held already only counts, and a full queue stalls. -/
theorem exec_stgput (notLast : lastStage s l = false) : exec (.stgput b) s =
    if (stageQueue s l.launch l.stage.val).seen.contains (l.id, l.puts) then .next (countsPut s l)
    else if 256 ≤ (stageQueue s l.launch l.stage.val).msgs.length then .next s
    else .next (countsPut (withStage s { stageQueue s l.launch l.stage.val with
      msgs := (stageQueue s l.launch l.stage.val).msgs ++ [⟨l.id, l.puts, memReadN s.core.eng.spad (reg s b).toNat 64⟩]
      seen := (stageQueue s l.launch l.stage.val).seen ++ [(l.id, l.puts)] }) l) := by
  have counts (u : State) (hu : u.core.lease = some l) :
      retire 1 (onMyLease u (fun l => { l with puts := l.puts + 1 })) = countsPut u l := by
    rw [onMyLease, hu]
    rfl
  show execStgput b s = _
  simp only [execStgput, rdX_eq_reg, stageOffset_ok hv, hl, notLast, Bool.false_eq_true, if_false, putStageQueue_eq]
  rw [counts s hl, counts (withStage s _) hl]
  rfl

theorem exec_stgget_first (first : l.stage.val = 0) : exec (.stgget b) s = .next (takeTrap s (trapOperand 0 (reg s b))) := by
  have zero : l.stage = 0 := Fin.ext first
  show execStgget b s = _
  simp only [execStgget, rdX_eq_reg, stageOffset_ok hv, hl, zero, if_true]

/-- STGGET takes a message that the lease held, else the oldest of its queue. -/
theorem exec_stgget (later : l.stage.val ≠ 0) : exec (.stgget b) s =
    let took (t : State) (m : Msg) (l' : Lease) := past 1 (withSpad (withLease t { l' with held := l.held ++ [m] })
      (memWriteL s.core.eng.spad (reg s b).toNat m.data))
    match l.redo with
    | m :: rest => .next (took s m { l with redo := rest })
    | [] => match (stageQueue s l.launch (l.stage.val - 1)).msgs with
      | m :: rest => .next (took (withStage s { stageQueue s l.launch (l.stage.val - 1) with msgs := rest }) m l)
      | [] => .next s := by
  have notZero : l.stage ≠ 0 := fun h => later (congrArg Fin.val h)
  have takes (u : State) (l' : Lease) (m : Msg) (hu : u.core.lease = some l') (spad : u.core.eng.spad = s.core.eng.spad) (k : Nat) :
      retire 1 (spadStore (onMyLease u (fun l => { l with held := l.held ++ [m] })) k m.data) =
        past 1 (withSpad (withLease u { l' with held := l'.held ++ [m] }) (memWriteL s.core.eng.spad k m.data)) := by
    rw [← spad, onMyLease, hu]
    rfl
  have redone (rest : List Msg) : onMyLease s (fun l => { l with redo := rest }) = withLease s { l with redo := rest } := by
    rw [onMyLease, hl]
    rfl
  show execStgget b s = _
  simp only [execStgget, rdX_eq_reg, stageOffset_ok hv, hl, notZero, if_false, putStageQueue_eq, redone]
  cases hr : l.redo with
  | cons m rest => exact congrArg Host.Outcome.next (takes (withLease s { l with redo := rest }) _ m rfl rfl _)
  | nil =>
    have none : l = { l with redo := [] } := by rw [← hr]
    cases (stageQueue s l.launch (l.stage.val - 1)).msgs with
    | nil => rfl
    | cons m rest =>
      exact congrArg Host.Outcome.next (takes (withStage s _) { l with redo := [] } m (hl.trans (congrArg some none)) rfl _)

end

end

end Sys2Proof.Machine

/-- Settles O41: the tests of each instruction in their order; a retired core keeps clean words only. -/
theorem leasesRetireAndPassMessages : Obligations.LeasesRetireAndPassMessages := by
  intro s b l hl v n q u counted
  refine ⟨fun h => traps_operand (exec_tretire_refused h), fun engt heads => ⟨fun quiet => ?_, fun busy => ?_⟩, fun hv notLast => ?_,
    fun hv later => ?_, fun h => ?_, fun h beyond => ?_, fun hv => ⟨fun last => ?_, fun first => ?_⟩⟩
  · refine ⟨(exec_tretire engt heads).trans (if_pos ((quiet_iff s).2 quiet)), ?_⟩
    obtain ⟨ws, hc, -⟩ := (Recalls.writeBack s s.core.id (fun _ => true)).core
    have lease : u.core.lease = some l := (congrArg Core.lease hc : _).trans hl
    obtain ⟨vs, clean, core⟩ := endRetired_core lease (writeBack_clean s)
    refine ⟨vs, clean, core.trans ?_⟩
    show Core.mk .. = _
    simp only [u, hc]
  · exact (exec_tretire engt heads).trans (if_neg (mt (quiet_iff s).1 busy))
  · have put := exec_stgput hl hv notLast
    refine ⟨fun seen => ?_, fun seen room => ?_, fun seen full => ?_⟩
    · exact put.trans (if_pos (List.contains_iff_mem.2 seen))
    · exact put.trans ((if_neg (mt List.contains_iff_mem.1 seen)).trans (if_neg (not_le.2 room)))
    · exact put.trans ((if_neg (mt List.contains_iff_mem.1 seen)).trans (if_pos full))
  · have get := exec_stgget hl hv later
    refine ⟨fun m rest h => ?_, fun m rest h hm => ?_, fun h hm => ?_⟩
    · rw [get, h]
    · have msgs : (stageQueue s l.launch (l.stage.val - 1)).msgs = m :: rest := hm
      rw [get, h]
      simp only [msgs]
      rfl
    · have msgs : (stageQueue s l.launch (l.stage.val - 1)).msgs = [] := hm
      rw [get, h]
      simp only [msgs]
  · exact ⟨traps_operand (exec_stgput_offset (stageOffset_misaligned h)), traps_operand (exec_stgget_offset (stageOffset_misaligned h))⟩
  · exact ⟨traps_operand (exec_stgput_offset (stageOffset_beyond h beyond)), traps_operand (exec_stgget_offset (stageOffset_beyond h beyond))⟩
  · exact traps_operand (exec_stgput_last hl hv last)
  · exact traps_operand (exec_stgget_first hl hv first)
end

section
/-! Settled for the sequencer: DISPATCH and LAUNCH (05 R145, R147, 04 R91, 08 R192, 22 R397). -/

open Sys2Proof Sys2Proof.Machine Sys2Proof.Claims

namespace Sys2Proof.Machine

/-! ## Code reads (04 R91, 10 R236) -/

section
variable {s t : State} {o : ObjEnt}

/-- A word of a STAGE code object without L1 copies comes at once, no page being in host bias. -/
theorem codeRead_stage (hc : codeObj s = some o) (hs : o.space = 1) (coh : o.coh = false) (bias : s.base.bias = []) (off : Nat) :
    codeRead s off = (s, .ok, codeWord s off) := by
  have back : takeBack s none o off 8 = s := takeBack_nothing none true (by decide) coh (fun i _ pa _ => by simp [bias])
  unfold codeRead codeWord
  rw [hc]
  simp only [Option.bind_some]
  by_cases h : off + 8 ≤ o.len
  · rw [if_pos h, dramRead_stage hs]
    simp only [if_true, back]
  · rw [if_neg h, wordIn, if_neg h]

section
variable {α : Type} {off : Nat} {k : State → Word → α} {go : State → α}

theorem withCode_reads {w : Word} (h : Reads s off w t) : withCode s off k go = k t w := by
  have read : codeRead s off = (t, .ok, some w) := h
  simp only [withCode, read]

theorem withCode_beyond (h : codeRead s off = (t, .ok, none)) : withCode s off k go = go (takeTrap t (trapFetch (word off))) := by
  simp only [withCode, h]

theorem withCode_busy {w : Option Word} (h : codeRead s off = (t, .busy, w)) : withCode s off k go = go t := by
  simp only [withCode, h]

end

/-! ## DISPATCH (05 R145) -/

/-- Buckets that are too small are passed. -/
theorem bucket_passes {table n : Nat} {cnt : Word} {k : State → Word → Out} {u : Nat → State}
    (passed : ∀ j < n, ∃ w, Reads (u j) (table + 8 + 8 * j) w (u (j + 1)) ∧ w.toNat % 2 ^ 32 < cnt.toNat) (rest : Nat) :
    bucket table cnt k (n + rest) 0 (u 0) = bucket table cnt k rest n (u n) := by
  induction n generalizing rest with
  | zero => rw [Nat.zero_add]
  | succ n ih =>
    obtain ⟨w, read, small⟩ := passed n (Nat.lt_succ_self n)
    have shift : n + 1 + rest = n + (rest + 1) := by omega
    rw [shift, ih (fun j hj => passed j (Nat.lt_succ_of_lt hj)) (rest + 1), bucket, withCode_reads read, if_neg (not_le.2 small)]

theorem bucket_holds {table n rest : Nat} {cnt e : Word} {k : State → Word → Out} {u : State} (read : Reads u (table + 8 + 8 * n) e t)
    (holds : cnt.toNat ≤ e.toNat % 2 ^ 32) : bucket table cnt k (rest + 1) n u = k t e := by
  rw [bucket, withCode_reads read, if_pos holds]

section
variable {b : XReg} {table : Fin 4194304}

/-- What DISPATCH does at the bucket that holds its count. -/
def dispatchTo (b : XReg) (s : State) (e : Word) : Out :=
  if (word (e.toNat / 2 ^ 32)).toNat % 8 ≠ 0 then .next (takeTrap s (trapOperand 1 (word (e.toNat / 2 ^ 32))))
  else .next (jumpTo 4 (word (e.toNat / 2 ^ 32)) (wrX s b (word (e.toNat % 2 ^ 32))))

theorem exec_dispatch_misaligned (h : table.val % 8 ≠ 0) : exec (.dispatch b table) s = .next (takeTrap s (trapOperand 1 (word table.val))) :=
  if_pos h

theorem exec_dispatch (h : table.val % 8 = 0) : exec (.dispatch b table) s = withCode s table.val (fun s' h =>
    if h.toNat % 128 = 0 ∨ 64 < h.toNat % 128 then .next (takeTrap s' (trapOperand 0 (word table.val)))
    else bucket table.val (reg s b) (dispatchTo b) (h.toNat % 128) 0 s') .next :=
  if_neg (not_not_intro h)

end

/-! ## LAUNCH (05 R147) -/

section
variable {b : CReg} {off n : Nat} {k : State → List Byte → Out} (res : nonResident o off n = none)
include res

/-- A record's bytes that are resident, by the answer of the array. -/
theorem recordRead_resident : recordRead s b o off n k =
    match dramRead s o off n s.core.id with
    | (s, .busy) => .next s
    | (s, .bad) => .next (takeTrap s (trapUnresolved 2 b (word off)))
    | (s, .ok) => k (homeGet s (some s.core.id) o off n).1 (homeGet s (some s.core.id) o off n).2 := by
  rw [recordRead, res] <;> rfl

theorem recordRead_busy (h : (dramRead s o off n s.core.id).2 = .busy) :
    recordRead s b o off n k = .next (dramRead s o off n s.core.id).1 := by
  rw [recordRead_resident res]
  generalize dramRead s o off n s.core.id = d at h ⊢
  obtain ⟨u, r⟩ := d
  cases h
  rfl

theorem recordRead_bad (h : (dramRead s o off n s.core.id).2 = .bad) : recordRead s b o off n k =
    .next (trapped (dramRead s o off n s.core.id).1 0x05 2 b.val (BitVec.ofNat 64 off) (dramRead s o off n s.core.id).1.core.seq.pc) := by
  rw [recordRead_resident res]
  generalize dramRead s o off n s.core.id = d at h ⊢
  obtain ⟨u, r⟩ := d
  cases h
  exact congrArg Host.Outcome.next (takeTrapAt_eq_trapped u _ (trapUnresolved_small b (word off) (by decide)))

theorem recordRead_ok (h : (dramRead s o off n s.core.id).2 = .ok) : recordRead s b o off n k =
    let t := (dramRead s o off n s.core.id).1
    k (homeGet t (some t.core.id) o off n).1 (homeGet t (some t.core.id) o off n).2 := by
  rw [recordRead_resident res]
  generalize dramRead s o off n s.core.id = d at h ⊢
  obtain ⟨u, r⟩ := d
  cases h
  rfl

end

/-- The register write that ends LAUNCH. -/
def launchEnds (a : XReg) (s : State) (v : Word) : State := past 1 (put (waits s .none) a v)

/-- The base's answer to a record of the object's bytes from `k` on. -/
def launchAnswer (a : XReg) (k : Nat) (o : ObjEnt) (s : State) (data : List Byte) : Out :=
  match offer s s.core.csr.pid data (((paOf o (k + 16)).map (tagAt s.base)).getD false) with
  | .full => .next (launchEnds a s (word (2 ^ 63)))
  | .denied => .next (launchEnds a s (word (2 ^ 62)))
  | .accepted s id => .next (launchEnds a s (word id.toNat))

/-- The record with its header's size is checked, read whole and offered. -/
def launchOffers (a : XReg) (b : CReg) (k : Nat) (s : State) (hdr : List Byte) : Out :=
  withCap s b (checkHome s b k (recordSize hdr) 64 permR [1, 2]) (fun s o => recordRead s b o k (recordSize hdr) (launchAnswer a k o))

theorem exec_launch {a : XReg} {b : CReg} (h : Leaves s b (off1 s b) 128 64 1 [1, 2] o) : exec (.launch a b) s =
    recordRead (at' s b) b o (off1 s b).toNat 128 (launchOffers a b (off1 s b).toNat) := by
  obtain ⟨empty, checked⟩ := h
  obtain ⟨tc, core⟩ := core_at' s b
  have checks : checkHome s b ((rdC s b).cursor.toNat : Int) 128 64 permR [1, 2] = .ok o := checked
  have sb : (touchCap s b).core.sb.isEmpty = true := by
    have same : (at' s b).core.sb = s.core.sb := by rw [core]
    show (at' s b).core.sb.isEmpty = true
    rw [same, empty]
    rfl
  have done (u : State) (v : Word) : Host.Outcome.next (retire 1 (wrX (setWait u .none) a v)) = (.next (launchEnds a u v) : Out) := by
    rw [wrX_eq_put]
    rfl
  show execLaunch a b s = _
  simp only [execLaunch, withHome, checks, withCap_ok, leaving, sb, if_true, done]
  rfl

end

end Sys2Proof.Machine

/-- Settles O42: the code reads in the table's order; the record's two reads. -/
theorem dispatchAndLaunch : Obligations.DispatchAndLaunch := by
  intro s a b cb table k h e o u t x size bound passed target
  refine ⟨fun off hc hs coh bias => codeRead_stage hc hs coh bias off, fun ht => traps_operand (exec_dispatch_misaligned ht),
    fun ht v => ⟨fun hv => ?_, fun w hv => ?_⟩, fun ht hread => ⟨fun bad => ?_, fun one most hk hp he hx => ?_, fun one most hp => ?_⟩,
    fun leaves => ?_⟩
  · rw [exec_dispatch ht, withCode_beyond hv]
    exact congrArg Host.Outcome.next (takeTrapAt_eq_trapped v _ (trapFetch_small (word t)))
  · rw [exec_dispatch ht, withCode_busy hv]
  · rw [exec_dispatch ht, withCode_reads hread, if_pos bad]
    exact congrArg Host.Outcome.next (takeTrapAt_eq_trapped (u 0) _ (trapOperand_small (word t) (by decide)))
  · obtain ⟨rest, hrest⟩ : ∃ rest, h.toNat % 128 = k + (rest + 1) := ⟨h.toNat % 128 - k - 1, by omega⟩
    rw [exec_dispatch ht, withCode_reads hread, if_neg (by omega), hrest, bucket_passes hp, bucket_holds he hx]
    intro v
    by_cases aligned : target.toNat % 8 = 0
    · rw [if_pos aligned]
      refine (if_neg (not_not_intro aligned)).trans ?_
      rw [wrX_eq_put]
      rfl
    · rw [if_neg aligned]
      refine (if_pos aligned).trans ?_
      exact congrArg Host.Outcome.next (takeTrapAt_eq_trapped v _ (trapOperand_small target (by decide)))
  · have last := bucket_passes (table := table.val) (k := dispatchTo b) hp 0
    rw [Nat.add_zero] at last
    rw [exec_dispatch ht, withCode_reads hread, if_neg (by omega)]
    exact last.trans (congrArg Host.Outcome.next (takeTrapAt_eq_trapped (u size) _ (trapOperand_small x (by decide))))
  · intro k d r n res
    have launch := exec_launch (a := a) leaves
    refine ⟨fun hd => launch.trans (recordRead_busy res hd), fun hd => launch.trans (recordRead_bad res hd), fun hd p hp hoff hres => ?_⟩
    intro f g tag hf
    have header := launch.trans (recordRead_ok res hd)
    have offset : (k : Int) = off1 r.1 cb := by
      rw [hoff]
      exact Int.toNat_of_nonneg (Int.natCast_nonneg _)
    have checked : checkHome r.1 cb k n 64 permR [1, 2] = .ok p := by
      rw [offset]
      exact hp
    have whole : launchOffers a cb k r.1 r.2 = launchAnswer a k p g.1 g.2 :=
      (congrArg (withCap r.1 cb · (fun s o => recordRead s cb o k n (launchAnswer a k o))) checked).trans (recordRead_ok hres hf)
    refine header.trans (whole.trans ?_)
    show (match offer g.1 g.1.core.csr.pid g.2 tag with
      | .full => .next (launchEnds a g.1 (word (2 ^ 63)))
      | .denied => .next (launchEnds a g.1 (word (2 ^ 62)))
      | .accepted u id => .next (launchEnds a u (word id.toNat)) : Out) = _
    cases offer g.1 g.1.core.csr.pid g.2 tag <;> rfl
end

section
/-! Settled for the sequencer: worked words, and the step that runs the instruction at the pc (05 R113, R114, 02 R42, R50, 01 R8 to R11). -/

open Sys2Proof Sys2Proof.Machine Sys2Proof.Claims

namespace Sys2Proof.Machine

/-! ## The sequencer's fetch (05 R113) -/

section
variable {s : State} {o : ObjEnt}

theorem codeObj_turned (h : Code s o) : codeObj (turned s) = some o := by
  obtain ⟨oid, hoid, ho⟩ := h
  have named : codeOid (turned s) = some oid := hoid
  rw [codeObj, named, Option.bind_some]
  exact ho

/-- At an instruction boundary with nothing else to do the sequencer fetches. -/
theorem step_fetches (h : Fetches s) : nextAction s = fetchAct (turned s) := by
  obtain ⟨phase, lease, busy, saving, ending, fault, refusal, due, released⟩ := h
  have leased : (turned s).core.lease.isNone = false := by
    rw [← Option.not_isSome]
    exact congrArg (! ·) lease
  have noFault : ((turned s).core.eng.efault.isSome && !(turned s).core.csr.mode && !answering (turned s).core.wait) = false := by
    show (s.core.eng.efault.isSome && !s.core.csr.mode && !answering s.core.wait) = false
    rcases fault with h | h | h <;> simp [h]
  have noRefusal : ((turned s).core.refusal.map (fun r => r.2 == (turned s).core.csr.mode)).getD false = false := by
    show (s.core.refusal.map (fun r => r.2 == s.core.csr.mode)).getD false = false
    cases hr : s.core.refusal with
    | none => rfl
    | some r => simpa using refusal r hr
  have idle : ((turned s).core.lease.isNone || decide ((turned s).core.busy ≠ 0) || (turned s).core.saving) = false := by
    show (_ || decide (s.core.busy ≠ 0) || s.core.saving) = false
    rw [leased, busy, saving]
    rfl
  have notDue : ¬ releaseDue (turned s) = true := by
    show ¬ releaseDue s = true
    simp [due]
  have notOver : ¬ waitOver (turned s).core.wait = true := by
    show ¬ waitOver s.core.wait = true
    simp [released]
  have notEnding : ¬ (turned s).core.wait = .ending := ending
  unfold nextAction
  rw [phase]
  show seqAct (turned s) = _
  rw [seqAct, idle, if_neg Bool.false_ne_true, if_neg notEnding, noFault, if_neg Bool.false_ne_true, noRefusal, if_neg Bool.false_ne_true,
    if_neg notDue, if_neg notOver]

/-- The code read of a fetch inside the code object. -/
theorem codeRead_turned (h : Code s o) (inside : s.core.seq.pc.toNat + 8 ≤ o.len) :
    codeRead (turned s) s.core.seq.pc.toNat = ((Claims.fetched s o).1, (Claims.fetched s o).2, wordIn (Claims.fetched s o).1 o s.core.seq.pc.toNat) := by
  rw [codeRead, codeObj_turned h]
  exact if_pos inside

theorem codeRead_turned_beyond (h : Code s o) (beyond : ¬ s.core.seq.pc.toNat + 8 ≤ o.len) :
    codeRead (turned s) s.core.seq.pc.toNat = (turned s, .ok, none) := by
  rw [codeRead, codeObj_turned h]
  exact if_neg beyond

theorem wordIn_eq {off pa : Nat} (inside : off + 8 ≤ o.len) (hpa : paOf o off = some pa) : wordIn s o off = some (memWord s.base.mem pa) := by
  rw [wordIn, if_pos inside, hpa]
  rfl

/-- A step that fetches, by what the code read delivers. -/
theorem step_eq_of_fetch (h : Fetches s) : step s =
    match withCode (turned s) s.core.seq.pc.toNat (fun s w => match decodeSeq w with
      | some i => Action.run s i
      | none => .go (takeTrap s trapIllegal)) .go with
    | .run t i => exec i t
    | .go t => .next t := by
  unfold step
  rw [step_fetches h]
  rfl

theorem step_run {t : State} {w : Word} {i : Instr} (h : Fetches s) (read : Reads (turned s) s.core.seq.pc.toNat w t)
    (hi : decodeSeq w = some i) : step s = exec i t := by
  rw [step_eq_of_fetch h, withCode_reads read, hi]

theorem step_undecoded {t : State} {w : Word} (h : Fetches s) (read : Reads (turned s) s.core.seq.pc.toNat w t)
    (hi : decodeSeq w = none) : step s = .next (trapped t 0x01 0 0 0 t.core.seq.pc) := by
  rw [step_eq_of_fetch h, withCode_reads read, hi]
  exact congrArg Host.Outcome.next (takeTrapAt_eq_trapped t _ trapIllegal_small)

theorem step_stands {t : State} {w : Option Word} (h : Fetches s) (read : codeRead (turned s) s.core.seq.pc.toNat = (t, .busy, w)) :
    step s = .next t := by
  rw [step_eq_of_fetch h, withCode_busy read]

theorem word_toNat (v : Word) : word v.toNat = v := BitVec.ofNat_toNat ..

theorem step_beyond {t : State} (h : Fetches s) (read : codeRead (turned s) s.core.seq.pc.toNat = (t, .ok, none)) :
    step s = .next (trapped t 0x03 2 0xFFFF s.core.seq.pc t.core.seq.pc) := by
  rw [step_eq_of_fetch h, withCode_beyond read, word_toNat]
  exact congrArg Host.Outcome.next (takeTrapAt_eq_trapped t _ (trapFetch_small _))

theorem step_uncorrected {t : State} {w : Option Word} (h : Fetches s) (read : codeRead (turned s) s.core.seq.pc.toNat = (t, .bad, w)) :
    step s = .next (trapped t 0x05 2 0xFFFF s.core.seq.pc t.core.seq.pc) := by
  have failed : withCode (turned s) s.core.seq.pc.toNat (fun s w => match decodeSeq w with
      | some i => Action.run s i
      | none => .go (takeTrap s trapIllegal)) .go = .go (takeTrap t (trapFetchError (word s.core.seq.pc.toNat))) := by
    simp only [withCode, read]
  rw [step_eq_of_fetch h, failed, word_toNat]
  exact congrArg Host.Outcome.next (takeTrapAt_eq_trapped t _ (trapFetchError_small _))

theorem fetched_stage (hs : o.space = 1) (coh : o.coh = false) (bias : s.base.bias = []) : Claims.fetched s o = (turned s, .ok) := by
  have back : takeBack (turned s) none o s.core.seq.pc.toNat 8 = turned s :=
    takeBack_nothing none true (by decide) coh (fun i _ pa _ => by simp [turned, bias])
  simp only [Claims.fetched, dramRead_stage hs, if_true, back]

/-! ## A ring's head (01 R8 to R11) -/

/-- The first engine that acts. -/
theorem engAct_first {e : Eng} {a : Action} (before : ∀ d : Eng, d.code < e.code → engineAct s d = none) (acts : engineAct s e = some a) :
    [Eng.copy, Eng.matrix, Eng.vector].findSome? (engineAct s) = some a := by
  cases e with
  | copy => simp [acts]
  | matrix =>
    have copy := before .copy (by decide)
    simp [copy, acts]
  | vector =>
    have copy := before .copy (by decide)
    have matrix := before .matrix (by decide)
    simp [copy, matrix, acts]

/-- The engines of a core that nothing holds. -/
theorem nextAction_eng {e : Eng} {a : Action} (phase : s.phase = .eng) (lease : s.core.lease.isSome = true) (late : lateAct s = none)
    (saving : s.core.saving = false) (freeze : s.core.eng.freeze = none) (throttled : s.core.throttled = false)
    (reports : ∀ r ∈ s.core.eng.reports, r.sent = false) (before : ∀ d : Eng, d.code < e.code → engineAct s d = none)
    (acts : engineAct s e = some a) : nextAction s = a := by
  have leased : s.core.lease.isNone = false := by
    rw [← Option.not_isSome, lease]
    rfl
  have unsent : s.core.eng.reports.any (fun r => r.sent) = false := List.any_eq_false.2 (fun r hr => by simp [reports r hr])
  have act : engAct s = some a := by
    simp only [engAct, leased, late, saving, freeze, throttled, unsent, Bool.false_eq_true, if_false, engAct_first before acts]
  unfold nextAction
  rw [phase]
  simp only [act, Option.getD_some]

/-- What the ring does with a head that its engine may issue. -/
theorem ringAct_head {e : Eng} {w : Word} (hw : ringWord s.core.eng (engIdx e) = some w) (kind : w.toNat / 2 ^ 62 ≠ 1)
    (idle : (s.core.eng.rings[engIdx e]).idle = false)
    (cycle : (s.core.eng.rings[engIdx e]).nextIss + idleCount (CmdFields.unpack w).hdr ≤ s.core.csr.scc) :
    ringAct s e = match decodeCmd e w with
      | some i => .cmd i
      | none => .illegal := by
  have notAlign : ¬ (CmdFields.unpack w).wk = 1 := by
    intro h
    have field : w.toNat / 2 ^ 62 % 4 = 1 := congrArg Fin.val h
    have := w.isLt
    omega
  simp only [ringAct, hw, notAlign, if_false, idle, Bool.false_eq_true, cycle, if_true] <;> cases decodeCmd e w <;> rfl

end

end Sys2Proof.Machine

/-- Settles O1: each word by its fields. -/
theorem workedWordsDecode : Obligations.WorkedWordsDecode := by
  refine ⟨?_, ?_, ?_, ?_, ?_, ?_, ?_, ?_, ?_, ?_, ?_, ?_, ?_, ?_, ?_, ?_, ?_, ?_⟩ <;> decide

/-- Settles O5: the schedule comes to the fetch, or to the engine whose ring's head may issue. -/
theorem stepRunsTheDecodedInstruction : Obligations.StepRunsTheDecodedInstruction := by
  refine ⟨fun s o fetches code => ⟨fun pa inside hpa => ?_, fun beyond => ?_⟩, fun s e w phase lease freeze throttled saving reports late
    before due hw kind idle cycle => ?_⟩
  · intro t
    have read := codeRead_turned code inside
    rw [wordIn_eq inside hpa] at read
    refine ⟨fetched_stage, fun ok => ?_, fun busy => ?_, fun bad => ?_⟩
    · rw [ok] at read
      exact ⟨fun i hi => step_run fetches read hi, fun hi => step_undecoded fetches read hi⟩
    · rw [busy] at read
      exact step_stands fetches read
    · rw [bad] at read
      exact step_uncorrected fetches read
  · exact step_beyond fetches (codeRead_turned_beyond code (by omega))
  · have acts : engineAct s e = ringStep s e := by
      rw [engineAct, due]
      rfl
    have head := ringAct_head hw kind idle cycle
    refine ⟨fun i hi => ?_, fun hi => ?_⟩
    · have act : engineAct s e = some (.run s i) := by
        simp only [acts, ringStep, head, hi]
      rw [step, nextAction_eng phase lease late saving freeze throttled reports before act]
    · have act : engineAct s e = some (.go (ringFault s e 0x10 0)) := by
        simp only [acts, ringStep, head, hi]
      rw [step, nextAction_eng phase lease late saving freeze throttled reports before act]
      rfl
end

section
/-! Settled for the sequencer: what the homes send a core, and what its store buffer sends them (09 R216 to R225, 10 R232, 12 R279). -/

open Sys2Proof Sys2Proof.Machine Sys2Proof.Claims

namespace Sys2Proof.Machine

/-! ## Releases and refusals (12 R279, R290, R291) -/

section
variable {s : State}

theorem exec_homeResponse_bwait {q : Nat} {b : CReg} {x : XReg} {ord : Ord} (wait : s.core.wait = .bwait q true)
    (here : Machine.atPc s = some (.bwait b x ord)) :
    exec .homeResponse s = .next (past 1 (waits (acquireHalf s ord) .none)) := by
  show execHomeResponse s = _
  rw [execHomeResponse, wait, here]
  rfl

theorem exec_homeResponse_barrw {q h : Nat} {a : XReg} {b : CReg} {x : XReg} {ord : Ord} (wait : s.core.wait = .barrw q h true)
    (here : Machine.atPc s = some (.barrw a b x ord)) :
    exec .homeResponse s = .next (past 1 (put (waits (acquireHalf s ord) .none) a (BitVec.ofNat 64 h))) := by
  show execHomeResponse s = _
  rw [execHomeResponse, wait, here]
  exact congrArg (fun t => Host.Outcome.next (past 1 t)) (wrX_eq_put _ _ _)

theorem exec_postedBarrRefusal {off : Word} {mode : Bool} (refusal : s.core.refusal = some (off, mode)) :
    exec .postedBarrRefusal s =
      .next (trapped { s with core := { s.core with refusal := none } } 0x15 0 0xFFFE off s.core.seq.pc) := by
  have small : (Trap.mk 0x15 0 0xFFFE off).Small := by simp [Trap.Small]
  show execPostedBarrRefusal s = _
  rw [execPostedBarrRefusal, refusal]
  exact congrArg Host.Outcome.next (takeTrapAt_eq_trapped _ _ small)

/-- The core once the release of the wait at `pa` has come. -/
def Core.freed (pa : Nat) (k : Core) : Core := { k with wait := freeWait k.wait pa }

/-- The state once the oldest release has come. -/
def releaseArrives (s : State) (c pa : Nat) (rest : List (Nat × Nat)) : State :=
  onCore (onBase s (fun b => { b with releases := rest })) c (Core.freed pa)

theorem exec_barrierRelease {c pa : Nat} {rest : List (Nat × Nat)} (oldest : s.base.releases = (c, pa) :: rest) :
    exec .barrierRelease s = .next (releaseArrives s c pa rest) := by
  show execBarrierRelease s = _
  rw [execBarrierRelease, oldest]
  rfl

theorem releaseArrives_base (s : State) (c pa : Nat) (rest : List (Nat × Nat)) :
    (releaseArrives s c pa rest).base = { s.base with releases := rest } := by
  unfold releaseArrives onCore
  split <;> rfl

theorem findCore_releaseArrives (s : State) (c pa : Nat) (rest : List (Nat × Nat)) (n : Nat) :
    findCore (releaseArrives s c pa rest) n = if n = c then (findCore s n).map (Core.freed pa) else findCore s n :=
  findCore_onCore (onBase s (fun b => { b with releases := rest })) c (g := Core.freed pa) (fun _ => rfl) n

theorem Core.freed_of_wait {k : Core} {pa : Nat} {w : Wait} (h : freeWait k.wait pa = w) : k.freed pa = { k with wait := w } :=
  congrArg (fun w => { k with wait := w }) h

/-- A core whose wait another release ends stays. -/
theorem Core.freed_other {k : Core} {pa p : Nat} (other : p ≠ pa) (h : k.wait = .bwait p false ∨ ∃ g, k.wait = .barrw p g false) :
    k.freed pa = k := by
  have stays : freeWait k.wait pa = k.wait := by
    rcases h with h | ⟨g, h⟩ <;> simp [h, freeWait, other]
  exact Core.freed_of_wait stays

theorem mem_young_resv (s : State) (r : Resv) :
    r ∈ s.base.resv.filter (fun r => !resvOld s r) ↔ r ∈ s.base.resv ∧ s.gtc < r.gtc + 4096 := by
  have young : (!resvOld s r) = true ↔ s.gtc < r.gtc + 4096 := by
    rw [Bool.not_eq_true', ← Bool.not_eq_true, resvOld, decide_eq_true_eq]
    exact not_le
  rw [List.mem_filter, young]

/-! ## The store buffer (10 R232) -/

/-- What the drain asks for is the claim's word read. -/
theorem drainFetch_eq_wordRead (s : State) (o : ObjEnt) (e : SbEnt) : drainFetch s o e = wordRead s o e := by
  have held : ((paOf o (e.off / 8 * 8)).map (l1Has s)).getD true = true ↔
      ∀ pa, paOf o (e.off / 8 * 8) = some pa → ∃ w ∈ s.core.l1, w.pa = pa := by
    cases paOf o (e.off / 8 * 8) with
    | none => simp
    | some pa => simp [l1Has]
  unfold drainFetch wordRead
  refine if_congr ?_ rfl rfl
  rw [← held]
  simp [and_assoc]

/-- The oldest store of the buffer, which is fetched for first. -/
theorem drainOne_cons {e : SbEnt} {rest : List SbEnt} {o : ObjEnt} (oldest : s.core.sb = e :: rest) (obj : findObj s e.oid = some o) :
    drainOne s =
      let f := wordRead s o e
      if f.2 = .busy then f.1
      else
        let t := { f.1 with core := { f.1.core with sb := rest } }
        if o.space = 2 then
          match e.tag with
          | none => l1Store t o e.off e.data false
          | some g => l1Store (l1Store t o e.off (e.data.take 8) g true) o (e.off + 8) (e.data.drop 8) g true
        else homeStore t (some t.core.id) o e.off e.data (e.tag == some true) false := by
  rw [drainOne, oldest]
  simp only [obj]
  rw [drainFetch_eq_wordRead] <;> rfl

/-! ## Probes (09 R217 to R219) -/

/-- The words of COHERENT regions that a probe of bytes `lo` to `hi - 1` takes. -/
def probeHit (s : State) (lo hi : Nat) (w : L1Word) : Bool := decide (w.pa < hi ∧ lo < w.pa + 8) && cohWord s w

theorem overlaps_coh (s : State) {a n hi : Nat} (span : a + n = hi) :
    (fun w => overlaps w a n && cohWord s w) = probeHit s a hi := by
  funext w
  simp [overlaps, probeHit, span]

theorem wake_eq_asleep (s : State) (c a n : Nat) : wake s c a n = asleep s c a n := by
  have known : s.base.wakes.any (fun w => w.1 == c && decide (w.2.1 ≤ a) && decide (a + n ≤ w.2.1 + w.2.2.1)) = true ↔
      ∃ p ∈ s.base.wakes, p.1 = c ∧ p.2.1 ≤ a ∧ a + n ≤ p.2.1 + p.2.2.1 := by
    simp [and_assoc]
  exact if_congr known rfl rfl

theorem retains_iff (s : State) (a n : Nat) (c : Core) :
    retains s a n c = true ↔ c.gated = true ∧ ∃ w ∈ c.l1, (overlaps w a n && cohWord s w) = true ∧ w.dirty = true := by
  simp only [retains, Bool.and_eq_true, List.any_eq_true, and_assoc]
  exact and_congr_right fun _ => exists_congr fun w => and_congr_right fun _ => by tauto

theorem exec_directoryProbe {core block : Nat} {first last : Fin 16} {c : Core} (listed : findCore s core = some c) :
    exec (.directoryProbe core block first last) s =
      let a := 128 * block + 8 * first.val
      let n := 8 * (last.val + 1 - first.val)
      let hit := fun w => overlaps w a n && cohWord s w
      if retains s a n c then .next (dirRefresh (wake (dropWords s core (fun w => !w.dirty && hit w)) core a n) block)
      else .next (dirRefresh (dropWords (writeBack s core hit) core hit) block) := by
  show execDirectoryProbe core block first last s = _
  simp only [execDirectoryProbe, probeSpan, listed]
  rfl

/-- The wakes of a core that are due, and those that stay. -/
theorem wakes_due (s : State) (core : Nat) : s.base.wakes.filter (fun p => p.1 == core && wokenProbe s p) =
    s.base.wakes.filter (fun p => decide (p.1 = core ∧ p.2.2.2 + 128 ≤ s.gtc)) := by
  refine List.filter_congr fun p _ => ?_
  simp [wokenProbe, beq_eq_decide]

/-- Every wake that is not due stays. -/
theorem wakes_stay (l : List (Nat × Nat × Nat × Nat)) (due : Nat × Nat × Nat × Nat → Prop) [DecidablePred due] :
    l.filter (fun p => !(l.filter (fun p => decide (due p))).contains p) = l.filter (fun p => decide (¬ due p)) := by
  refine List.filter_congr fun p hp => ?_
  simp [hp]

theorem exec_retentionWakeWriteback (s : State) (core : Nat) : exec (.retentionWakeWriteback core) s =
    let due := s.base.wakes.filter (fun p => p.1 == core && wokenProbe s p)
    let u := { s with base := { s.base with wakes := s.base.wakes.filter (fun p => !due.contains p) } }
    let woken := fun (w : L1Word) => due.any (fun p => overlaps w p.2.1 p.2.2.1) && cohWord s w
    .next ((due.flatMap (fun p => blocksOf p.2.1 p.2.2.1)).foldl dirRefresh (dropWords (writeBack u core woken) core woken)) := rfl

/-! ## A home access to what a power-gated core holds dirty (09 R219) -/

theorem wakeAsk_retained {o : ObjEnt} {k n pa : Nat} (coh : o.coh = true) (hn : 0 < n) (fits : k % 256 + n ≤ 256)
    (hpa : paOf o k = some pa) (held : ∃ c ∈ s.core :: s.others, retains s pa n c = true) : (wakeAsk s o k n).2 ≠ .ok := by
  rw [wakeAsk, coh, if_pos rfl, eachGranule_one _ hn fits hpa]
  obtain ⟨c, hc, holds⟩ := held
  cases hcs : (s.core :: s.others).filter (retains s pa n) with
  | nil => exact absurd holds (List.filter_eq_nil_iff.1 hcs c hc)
  | cons d ds => simp [Fetch.ok_and]

theorem dramRead_retained {o : ObjEnt} {k n core : Nat} (space : o.space ≠ 1) (asks : (wakeAsk s o k n).2 ≠ .ok) :
    (dramRead s o k n core).2 ≠ .ok ∧ (dramAsk s o k n core).2 ≠ .ok := by
  constructor <;> intro ok
  · rw [dramRead, if_neg space] at ok
    exact asks ((Fetch.and_ok _ _).1 ok).1
  · rw [dramAsk, if_neg space] at ok
    exact asks ((Fetch.and_ok _ _).1 ok).1

end

end Sys2Proof.Machine

/-- Settles O52: each home's message by what its event does, and the drain by what it fetches first. -/
theorem homesReachTheCores : Obligations.HomesReachTheCores := by
  intro s core block first last
  refine ⟨fun a b x ord => ⟨fun q => exec_homeResponse_bwait, fun q h => exec_homeResponse_barrw⟩, fun off mode => exec_postedBarrRefusal,
    fun c pa rest oldest => ?_, ⟨_, rfl, mem_young_resv s⟩, fun empty => ?_, fun e rest o oldest obj => ?_, ?_, ?_,
    fun o k n pa space coh hn fits hpa held => dramRead_retained space (wakeAsk_retained coh hn fits hpa held)⟩
  · refine ⟨_, exec_barrierRelease oldest, releaseArrives_base s c pa rest, fun n other => ?_, fun k listed => ?_⟩
    · rw [findCore_releaseArrives, if_neg other]
    · have arrives : findCore (releaseArrives s c pa rest) c = some (k.freed pa) := by
        rw [findCore_releaseArrives, if_pos rfl, listed, Option.map_some]
      rw [arrives]
      refine ⟨fun wait => congrArg some (Core.freed_of_wait ?_), fun g wait => congrArg some (Core.freed_of_wait ?_),
        fun p other wait => congrArg some (Core.freed_other other wait)⟩
      · simp [wait, freeWait]
      · simp [wait, freeWait]
  · show Host.Outcome.next (drainOne s) = _
    rw [drainOne, empty]
  · have drains : exec .storeBufferDrain s = .next (drainOne s) := rfl
    rw [drains, drainOne_cons oldest obj]
    refine ⟨fun busy => ?_, fun free space => ?_, fun free space tag => ?_, fun g free space tag => ?_⟩
    · exact congrArg _ (if_pos busy)
    · exact congrArg _ ((if_neg free).trans (if_neg space))
    · simp only [if_neg free, if_pos space, tag]
    · simp only [if_neg free, if_pos space, tag]
  · intro c listed lo hi hit order
    have width : 8 * (last.val + 1 - first.val) = hi - lo := by omega
    have hits : (fun w => overlaps w lo (hi - lo) && cohWord s w) = hit := overlaps_coh s (by omega)
    rw [exec_directoryProbe listed, width]
    refine ⟨fun clean => ?_, fun gated dirty => ?_⟩
    · have answers : ¬ retains s lo (hi - lo) c = true := by
        rw [retains_iff]
        rintro ⟨gated, w, hw, hhit, dirty⟩
        rw [congrFun hits w] at hhit
        rcases clean with awake | clean
        · simp [gated] at awake
        · simp [clean w hw hhit] at dirty
      exact (if_neg answers).trans (by rw [hits])
    · have sleeps : retains s lo (hi - lo) c = true := by
        rw [retains_iff]
        obtain ⟨w, hw, hhit, dirty⟩ := dirty
        exact ⟨gated, w, hw, (congrFun hits w).trans hhit, dirty⟩
      refine (if_pos sleeps).trans ?_
      have clean : (fun w => !w.dirty && (overlaps w lo (hi - lo) && cohWord s w)) = fun w => !w.dirty && hit w :=
        funext fun w => congrArg (!w.dirty && ·) (congrFun hits w)
      rw [wake_eq_asleep, clean]
  · rw [exec_retentionWakeWriteback, wakes_due]
    dsimp only
    rw [wakes_stay]
end

section
/-! What the model does at the issue of the copies, of PREFETCH, EVICT and CHKARM, and at the completion of EVICT (07 R169 to R190, 06 R153 to
R164, 04 R103, 08 R192). -/

open Sys2Proof Sys2Proof.Machine Sys2Proof.Claims

namespace Sys2Proof.Machine

/-! ## The checks of an issue (07 R171) -/

section
variable {s : State} {i : Instr}

/-- A command that is legal, pops no format word and has no capability fault issues when it is admitted. -/
theorem issue_of_admitted {p : Prep} (legal : p.bad = false) (unpopped : p.pop = false) (legal2 : p.bad2 = false) (allowed : p.flt = none)
    (admitted : Admitted s p.job) : issue s p = .next (p.eff (issued s p.eng p.job p.occ false) (Claims.begun s p.eng p.job)) := by
  obtain ⟨slot, checked, port, space⟩ := admitted
  have passes : ∀ x ∈ issueChecks s p, x.1 := by
    simpa [issueChecks, legal, unpopped, legal2, allowed, slot, port, space] using checked
  rw [(commandsIssueAfterTheirChecks s p).1 passes, unpopped]

/-- A copy issues when its operands are legal, its capabilities and the barrier that it names pass, and it is admitted; its base objects then
enter the translation cache. -/
theorem copyIssue_of_admitted {n : Snap} {k : Nat} {ok : Bool} {flts : List (Option CmdFault)} (legal : ok = true)
    (allowed : flts.Forall (· = none)) (bar : jobBc i = true → (strm n.qd).bval = true ∧ checkBar s (job0 .copy i n k) = none)
    (admitted : Admitted s (job0 .copy i n k)) :
    copyIssue s i n k (!ok) flts =
      .next (touchEnds (issued s .copy (job0 .copy i n k) 1 false) (Claims.begun s .copy (job0 .copy i n k))) := by
  have barrier : checkBar s (job0 .copy i n k) = none := by
    by_cases hb : jobBc i = true
    · exact (bar hb).2
    · exact if_neg hb
  refine issue_of_admitted ?_ rfl rfl ?_ admitted
  · have named : (jobBc i && !(strm n.qd).bval) = false := by
      cases hb : jobBc i with
      | false => rfl
      | true => rw [(bar hb).1]; rfl
    show (!ok || (jobBc i && !(strm n.qd).bval)) = false
    rw [legal, named]
    rfl
  · show (flts ++ [checkBar s (job0 .copy i n k)]).findSome? id = none
    rw [List.forall_iff_forall_mem] at allowed
    rw [barrier, List.findSome?_eq_none_iff]
    intro f hf
    obtain hf | hf := List.mem_append.1 hf
    · exact allowed f hf
    · exact List.mem_singleton.1 hf

end

/-! ## The copies (07 R169 to R187) -/

/-- The claim about one entry of `copies`, whose destination is the stream `d`. -/
def CopyIssues (s : State) (d : Strm) (bc : Bool) (x : Instr × Snap × Nat × Prop) : Prop :=
  let j := job0 .copy x.1 x.2.1 x.2.2.1
  x.2.2.2 → (bc = true → d.bval = true ∧ checkBar s j = none) → Admitted s j →
    exec x.1 s = .next (touchEnds (issued s .copy j 1 false) (Claims.begun s .copy j))

/-- A command that is a `copyIssue` issues under what makes its operands legal and its capabilities pass. -/
theorem CopyIssues.of_copyIssue {s : State} {d : Strm} {bc ok : Bool} {i : Instr} {n : Snap} {k : Nat} {p : Prop}
    {flts : List (Option CmdFault)} (arm : exec i s = copyIssue s i n k (!ok) flts) (counts : jobBc i = bc) (dest : strm n.qd = d)
    (checks : p → ok = true ∧ flts.Forall (· = none)) : CopyIssues s d bc (i, n, k, p) := by
  subst counts dest
  intro hp bar admitted
  exact arm.trans (copyIssue_of_admitted (checks hp).1 (checks hp).2 bar admitted)

/-- Every copy of the claim issues, and its base objects enter the translation cache. -/
theorem copies_issue (s : State) (h : Hdr) (ch : Fin 4) (qd qs qx : Fin 16) (bc : Bool) (k : Fin 65536) (e0 : Fin 4096) (kcap : Fin 512)
    (coff : Fin 524288) (z : Bool) (rm : Fin 4) (dcls : Fin 8) :
    ∀ x ∈ copies s h ch qd qs qx bc k e0 kcap coff z rm dcls, CopyIssues s (strm s.core.eng.qs[qd]) bc x := by
  unfold copies
  dsimp only [List.cons_append, List.nil_append]
  simp only [List.forall_mem_cons]
  refine ⟨?cpy, ?fill, ?gather, ?scatter, ?scatadd, ?topkr, ?topkc, ?topkcTab, ?compact, ?expand, ?accrd, ?accwr, ?dscan, ?dskip,
    List.forall_mem_nil _⟩
  case cpy =>
    refine .of_copyIssue (execCpy.eq_def ..) rfl rfl fun ⟨dst, src, dstLink, srcLink, len, reads, writes⟩ =>
      ⟨?_, And.intro reads writes⟩
    simp only [Bool.and_eq_true, beq_iff_eq]
    exact ⟨⟨⟨⟨dst, src⟩, dstLink⟩, srcLink⟩, len⟩
  case fill =>
    refine .of_copyIssue (execFill.eq_def ..) rfl rfl fun ⟨dst, link, writes⟩ => ⟨?_, writes⟩
    simp only [Bool.and_eq_true]
    exact ⟨dst, link⟩
  case gather =>
    exact .of_copyIssue ((execGather.eq_def ..).trans (rowsIssue.eq_def ..)) rfl rfl fun ⟨rows, elements, writes⟩ =>
      ⟨Bool.and_eq_true_iff.2 ⟨rows, rfl⟩, And.intro elements writes⟩
  case scatter =>
    exact .of_copyIssue ((execScatter.eq_def ..).trans (rowsIssue.eq_def ..)) rfl rfl fun ⟨rows, reads, elements⟩ =>
      ⟨Bool.and_eq_true_iff.2 ⟨rows, rfl⟩, And.intro reads elements⟩
  case scatadd =>
    refine .of_copyIssue ((execScatadd.eq_def ..).trans (rowsIssue.eq_def ..)) rfl rfl fun ⟨rows, type, adds, whole, reads, elements⟩ =>
      ⟨?_, And.intro reads elements⟩
    simp only [Bool.and_eq_true, beq_iff_eq]
    exact ⟨rows, ⟨type, adds⟩, whole⟩
  case topkr =>
    exact .of_copyIssue ((execTopkr.eq_def ..).trans (topIssue.eq_def ..)) rfl rfl fun ⟨top, reads, writes, lists⟩ =>
      ⟨Bool.and_eq_true_iff.2 ⟨top, rfl⟩, And.intro reads (And.intro writes lists)⟩
  case topkc =>
    exact .of_copyIssue ((execTopkc.eq_def ..).trans (topIssue.eq_def ..)) rfl rfl fun ⟨top, reads, writes, lists⟩ =>
      ⟨Bool.and_eq_true_iff.2 ⟨top, rfl⟩, And.intro reads (And.intro writes lists)⟩
  case topkcTab =>
    refine .of_copyIssue ((execTopkcTab.eq_def ..).trans (topIssue.eq_def ..)) rfl rfl fun ⟨top, table, reads, writes, lists⟩ =>
      ⟨?_, And.intro reads (And.intro writes lists)⟩
    exact Bool.and_eq_true_iff.2 ⟨top, decide_eq_true table⟩
  case compact =>
    exact .of_copyIssue ((execCompact.eq_def ..).trans (packIssue.eq_def ..)) rfl rfl fun ⟨packs, reads, writes⟩ =>
      ⟨packs, And.intro reads writes⟩
  case expand =>
    exact .of_copyIssue ((execExpand.eq_def ..).trans (packIssue.eq_def ..)) rfl rfl fun ⟨packs, reads, writes⟩ =>
      ⟨packs, And.intro reads writes⟩
  case accrd =>
    exact .of_copyIssue ((execAccrd.eq_def ..).trans (accIssue.eq_def ..)) rfl rfl fun ⟨acc, reads, writes⟩ =>
      ⟨acc, And.intro reads writes⟩
  case accwr =>
    exact .of_copyIssue ((execAccwr.eq_def ..).trans (accIssue.eq_def ..)) rfl rfl fun ⟨acc, reads, writes⟩ =>
      ⟨acc, And.intro reads writes⟩
  case dscan =>
    refine .of_copyIssue (execDscan.eq_def ..) rfl rfl fun ⟨digests, dst, space, len, queries⟩ => ⟨?_, queries⟩
    simp only [Bool.and_eq_true, beq_iff_eq]
    exact ⟨⟨⟨digests, dst⟩, space⟩, len⟩
  case dskip =>
    refine .of_copyIssue (execDskip.eq_def ..) rfl rfl fun ⟨digests, dst, list, space, len, cls, admits, pred, queries, writes⟩ =>
      ⟨?_, And.intro queries writes⟩
    simp only [Bool.and_eq_true, Bool.or_eq_true, beq_iff_eq, decide_eq_true_eq, Option.isNone_iff_eq_none]
    exact ⟨⟨⟨⟨⟨⟨⟨digests, dst⟩, list⟩, space⟩, len⟩, cls⟩, admits⟩, pred⟩

/-! ## What the issue leaves unchanged (04 R103, 06 R157) -/

/-- `t` has the jobs and the CSRs of `s`. -/
structure SameJobs (s t : State) : Prop where
  jobs : t.core.eng.jobs = s.core.eng.jobs
  csr : t.core.csr = s.core.csr

theorem SameJobs.refl (s : State) : SameJobs s s := ⟨rfl, rfl⟩

theorem SameJobs.trans {s t u : State} (h : SameJobs s t) (g : SameJobs t u) : SameJobs s u :=
  ⟨g.jobs.trans h.jobs, g.csr.trans h.csr⟩

theorem SameJobs.touchObj (s : State) (oid : BitVec 24) (long : Bool) : SameJobs s (touchObj s oid long) := by
  obtain ⟨tc, objs, ls, heq, -, -⟩ := (touches_touchObj s oid long).pinFrame
  rw [heq]
  exact ⟨rfl, rfl⟩

theorem SameJobs.extTouch (s : State) (j : Job) (k : Fin 20) (o : ObjEnt) (off : Nat) : SameJobs s (extTouch s j k o off) := by
  unfold Machine.extTouch
  split
  · exact .refl s
  · exact ⟨rfl, rfl⟩

theorem SameJobs.lineBack (s : State) (l : CLine) : SameJobs s (lineBack s l) := by
  have core := (Kept.lineBack s l).core
  exact ⟨by rw [core], by rw [core]⟩

theorem SameJobs.foldl {β : Type} (f : State → β → State) (hf : ∀ s b, SameJobs s (f s b)) (l : List β) (s : State) :
    SameJobs s (l.foldl f s) :=
  foldl_keeps (SameJobs s) f (fun t b h => h.trans (hf t b)) l s (.refl s)

theorem SameJobs.touchEnds (s : State) (j : Job) : SameJobs s (touchEnds s j) := by
  unfold Machine.touchEnds
  extract_lets touch u v
  have ht : ∀ t d c, SameJobs s t → SameJobs s (touch t d c) := by
    intro t d c h
    unfold touch
    split
    · exact h
    · exact h.trans (.touchObj _ _ _)
  have hu : SameJobs s u := ht _ _ _ (ht _ _ _ (.refl s))
  have hv : SameJobs s v := by
    unfold v
    split
    · exact ht _ _ _ hu
    · exact ht _ _ _ hu
    · exact ht _ _ _ hu
    · exact hu
  split
  · exact hv.trans (.touchObj _ _ _)
  · exact hv

theorem SameJobs.touchRange (s : State) (j : Job) (qs : Fin 16) : SameJobs s (touchRange s j qs) := by
  unfold Machine.touchRange
  split
  · exact .refl s
  · exact .foldl _ (fun _ _ => .extTouch _ _ _ _ _) _ _

theorem SameJobs.evictLines (s : State) (j : Job) (last : Bool) : SameJobs s (evictLines s j last) := by
  unfold Machine.evictLines
  split
  · exact (SameJobs.foldl Machine.lineBack .lineBack _ _).trans ⟨rfl, rfl⟩
  · exact .refl s

/-- Two changes of a job that agree on the jobs with its number are one. -/
theorem onJob_congr {s : State} {id : Nat} {f g : Job → Job} (h : ∀ k ∈ s.core.eng.jobs, k.id = id → f k = g k) :
    onJob s id f = onJob s id g := by
  have jobs : s.core.eng.jobs.map (fun j => if j.id = id then f j else j) = s.core.eng.jobs.map (fun j => if j.id = id then g j else j) :=
    List.map_congr_left fun k hk => ite_congr rfl (h k hk) (fun _ => rfl)
  exact congrArg (fun js => onEng s (fun e => { e with jobs := js })) jobs

/-! ## The issue of PREFETCH and EVICT (07 R189) -/

section
variable {s : State} {h : Hdr} {qs : Fin 16} {z : Bool} {i : Instr} {o : ObjEnt}

/-- The job of a PREFETCH, EVICT or CHKARM of the range in `qs`: it has no positions. -/
def rangeJob (s : State) (i : Instr) (qs : Fin 16) : Job := { job0 .copy i (copySnap s qs qs 0) 0 with npos := 0 }

/-- That job as the copy engine takes it up. -/
def rangeOwn (s : State) (i : Instr) (qs : Fin 16) : Job := Claims.begun s .copy (rangeJob s i qs)

/-- The state once a PREFETCH or EVICT is taken up and its range looked up. -/
def rangeTaken (s : State) (i : Instr) (qs : Fin 16) : State :=
  touchRange (touchEnds (issued s .copy (rangeJob s i qs) 1 false) (rangeOwn s i qs)) (rangeOwn s i qs) qs

/-- The range of a PREFETCH or EVICT is legal and its capability passes: R on bytes, Q on digests. -/
def RangePasses (s : State) (qs : Fin 16) : Prop :=
  let t := strm s.core.eng.qs[qs]
  let c := (copySnap s qs qs 0).capS
  strmOk t true false = true ∧
    (((t.space = 3 ∨ t.space = 4) ∧ checkStrm s t c permR = none) ∨ (t.space = 5 ∧ checkDigest s t c permQ = none))

theorem rangeTaken_jobs : SameJobs (issued s .copy (rangeJob s i qs) 1 false) (rangeTaken s i qs) :=
  (SameJobs.touchEnds _ _).trans (.touchRange _ _ _)

theorem rangeIssue_of_admitted (eff : State → Job → State) (passes : RangePasses s qs) (admitted : Admitted s (rangeJob s i qs)) :
    rangeIssue s i qs eff = .next (eff (rangeTaken s i qs) (rangeOwn s i qs)) := by
  obtain ⟨legal, range⟩ := passes
  refine issue_of_admitted ?_ rfl rfl ?_ admitted
  · show (!(strmOk (strm s.core.eng.qs[qs]) true false && _)) = false
    rw [legal]
    show (!((strm s.core.eng.qs[qs]).space == 3 || (strm s.core.eng.qs[qs]).space == 4 || (strm s.core.eng.qs[qs]).space == 5)) = false
    obtain ⟨space | space, -⟩ | ⟨space, -⟩ := range
    · rw [space]; rfl
    · rw [space]; rfl
    · rw [space]; rfl
  · obtain ⟨space, allowed⟩ | ⟨digests, allowed⟩ := range
    · have bytes : ¬ (strm s.core.eng.qs[qs]).space = 5 := by omega
      exact (if_neg bytes).trans ((congrArg (checkStrm s _ _ ·) (if_neg bytes)).trans allowed)
    · exact (if_pos digests).trans ((congrArg (checkDigest s _ _ ·) (if_pos digests)).trans allowed)

/-- PREFETCH fills the lines of its range and, with .res, asks for the extents that are not resident. -/
theorem exec_prefetch_issued (found : (copySnap s qs qs 0).objS = some o) (passes : RangePasses s qs)
    (admitted : Admitted s (rangeJob s (.prefetch h qs z) qs)) :
    let u := rangeTaken s (.prefetch h qs z) qs
    let v := fillRange u (strm s.core.eng.qs[qs]) o
    exec (.prefetch h qs z) s = .next (if z then askResident v (rangeOwn s (.prefetch h qs z) qs) o else v) := by
  refine (execPrefetch.eq_def ..).trans ((rangeIssue_of_admitted _ passes admitted).trans ?_)
  have own : (rangeOwn s (.prefetch h qs z) qs).snap.objS = some o := found
  rw [own]
  rfl

/-! ## EVICT, at its issue and at its completion (07 R189) -/

/-- The lines of an EVICT's range in object `o`, with the stream `t`, as the object table stands in `u`. -/
def evictRange (u : State) (t : Strm) (o : ObjEnt) (l : CLine) : Bool := (rangeLines t (objNow u o)).contains (l.home, l.gran)

/-- Those of them that the EVICT takes, as their channels carry no failing transfer. -/
def evictTakes (u : State) (t : Strm) (o : ObjEnt) (l : CLine) : Bool := evictRange u t o l && !backHeld u.base l

theorem evictLines_of_evict {u : State} {j : Job} (last : Bool) (cmd : j.cmd = .evict h qs z) (obj : j.snap.objS = some o) :
    evictLines u j last = onBase ((u.base.lines.filter (evictTakes u (jS j) o)).foldl lineBack u) (fun b => { b with
      lines := if z && last then b.lines.filter (fun l => !evictTakes u (jS j) o l)
        else b.lines.map (fun l => if evictTakes u (jS j) o l then { l with dirty := false } else l) }) := by
  unfold evictLines
  rw [cmd, obj]
  rfl

/-- EVICT writes back the lines of its range that no channel holds, and does not complete before its cycle. Every job with its number gets
a bound, of its own stream: a new number leaves the EVICT alone. -/
theorem exec_evict_issued (found : (copySnap s qs qs 0).objS = some o) (passes : RangePasses s qs)
    (admitted : Admitted s (rangeJob s (.evict h qs z) qs)) (newNumber : ∀ k ∈ s.core.eng.jobs, k.id ≠ s.core.eng.nextJob + 1) :
    let t := strm s.core.eng.qs[qs]
    let u := rangeTaken s (.evict h qs z) qs
    let v := (u.base.lines.filter (evictTakes u t o)).foldl lineBack u
    let lines := v.base.lines.map (fun l => if evictTakes u t o l then { l with dirty := false } else l)
    exec (.evict h qs z) s = .next (onJob { v with base := { v.base with lines := lines } } (s.core.eng.nextJob + 1)
      (fun j => { j with minDone := s.core.csr.scc + strmLat t + ceilDiv (strmLen t) 64 })) := by
  intro t u v lines
  have written : evictLines u (rangeOwn s (.evict h qs z) qs) false = { v with base := { v.base with lines := lines } } := by
    rw [evictLines_of_evict false rfl found, Bool.and_false]
    rfl
  obtain ⟨jobs, csr⟩ := (rangeTaken_jobs (s := s)).trans (.evictLines u (rangeOwn s (.evict h qs z) qs) false)
  rw [← written]
  refine (execEvict.eq_def ..).trans ((rangeIssue_of_admitted _ passes admitted).trans
    (congrArg _ (onJob_congr fun k listed number => ?_)))
  rw [jobs] at listed
  obtain old | new := List.mem_append.1 listed
  · exact absurd number (newNumber k old)
  · rw [List.mem_singleton.1 new, csr]
    rfl

/-- A write-back sends a request and takes errors of the array away: it leaves the lines. -/
theorem lineBack_lines (u : State) (l : CLine) : (lineBack u l).base.lines = u.base.lines := by
  unfold lineBack
  split
  · obtain ⟨lv, ps, served⟩ := serve_levels_ports u l.home 256 0 l.pid .request none
    rw [served]
    rfl
  · rfl

theorem foldl_lineBack_lines (ls : List CLine) (u : State) : (ls.foldl lineBack u).base.lines = u.base.lines :=
  foldl_keeps (fun t => t.base.lines = u.base.lines) lineBack (fun t l h => (lineBack_lines t l).trans h) ls u rfl

theorem evictHeld_of_evict {u : State} {q : Job} (cmd : q.cmd = .evict h qs z) (obj : q.snap.objS = some o) :
    evictHeld u q = u.base.lines.any (fun l => evictRange u (jS q) o l && backHeld u.base l) := by
  unfold evictHeld
  rw [cmd, obj]
  rfl

/-- The completion of an EVICT changes the lines as its second write-back does. -/
theorem completeJob_lines_of_evict {u : State} {q : Job} (cmd : q.cmd = .evict h qs z) :
    (completeJob u q).base.lines = (evictLines u q true).base.lines := by
  unfold completeJob loadAdds chkArm
  rw [cmd]
  rfl

/-- When no channel holds a write-back, EVICT leaves at its completion no dirty line of its range, and with .inv no line of it. -/
theorem evict_completes_clean {u : State} {q : Job} (cmd : q.cmd = .evict h qs z) (obj : q.snap.objS = some o)
    (free : evictHeld u q = false) :
    ∀ l ∈ (completeJob u q).base.lines, evictRange u (jS q) o l = true → z = false ∧ l.dirty = false := by
  rw [evictHeld_of_evict cmd obj, List.any_eq_false] at free
  have taken : ∀ l ∈ u.base.lines, evictRange u (jS q) o l = true → evictTakes u (jS q) o l = true := by
    intro l listed inside
    have passes := free l listed
    rw [inside, Bool.true_and, Bool.not_eq_true] at passes
    rw [evictTakes, inside, passes]
    rfl
  rw [completeJob_lines_of_evict cmd, evictLines_of_evict true cmd obj]
  show ∀ l ∈ (if z && true then _ else _), _
  rw [foldl_lineBack_lines, Bool.and_true]
  intro l listed inside
  cases z with
  | true =>
    obtain ⟨listed, left⟩ := List.mem_filter.1 listed
    rw [taken l listed inside] at left
    cases left
  | false =>
    obtain ⟨k, was, rfl⟩ := List.mem_map.1 listed
    split at inside
    next takes => exact ⟨rfl, by rw [if_pos takes]⟩
    next stays => exact absurd (taken k was inside) stays

/-! ## CHKARM (07 R190) -/

/-- CHKARM issues when it disarms or its stream is one run of a local store, and changes nothing else in its cycle. -/
theorem exec_chkarm_issued {clr : Bool} {kc : Fin 4} (legal : let t := strm s.core.eng.qs[qs]
      z = true ∨ (strmOk t false false = true ∧ t.space ≤ 1 ∧ t.cnt1 = 1 ∧ t.cnt2 = 1 ∧
        t.cnt0 ≤ (if t.space = 0 then 0x400000 else 0x200000)))
    (admitted : Admitted s (rangeJob s (.chkarm h qs z clr kc) qs)) :
    exec (.chkarm h qs z clr kc) s = .next (issued s .copy (rangeJob s (.chkarm h qs z clr kc) qs) 1 false) := by
  refine (execChkarm.eq_def ..).trans (issue_of_admitted ?_ rfl rfl rfl admitted)
  obtain disarms | ⟨stream, store, one1, one2, fits⟩ := legal
  · exact Bool.and_eq_false_iff.2 (.inl (by rw [disarms]; rfl))
  · refine Bool.and_eq_false_iff.2 (.inr ?_)
    rw [Bool.not_eq_false']
    simp only [Bool.and_eq_true, beq_iff_eq, decide_eq_true_eq]
    exact ⟨⟨⟨⟨stream, store⟩, one1⟩, one2⟩, fits⟩

end
end Sys2Proof.Machine
end

section
/-! Refuted for the copies: EVICT bounds the completion of every job with its number (01 R17, 07 R189). -/

open Sys2Proof Sys2Proof.Machine Sys2Proof.Claims

namespace Sys2Proof.Machine.SharedNumber

/-- A GLOBAL object of one page. -/
def region : ObjEnt :=
  ⟨2, 2, false, false, false, 0, false, false, 1, 0, false, 4096, 0, 0, 0, 0, [⟨0x10000, true, 1⟩], .plain⟩

/-- A capability to read it. -/
def readable : Cap := ⟨capBits 2 (permR ||| permG) 0 4096, true, 0⟩

/-- Its first 512 bytes, in timing class 4, through c0. -/
def range : Desc := #v[0, 512, 0, 0, 0, BitVec.ofNat 64 (4 * 2 ^ 47 + 3 * 2 ^ 43), 0, 0]

/-- A NOP with number 1, the number of the next job. -/
def nop : Job := { job0 .copy (.cnop ⟨0, 0, 0, 0⟩) (snap0 State.reset) 0 with id := 1, done := true }

/-- A core with the range in q0 and the NOP among its jobs. -/
def core : Core :=
  { Core.free 0 with
    seq := { (Core.free 0).seq with c := Vector.replicate 16 readable }
    eng := { Engines.start with qs := Vector.replicate 16 range, jobs := [nop] } }

def machine : State := { State.reset with core := core, base := { Base.start with objs := [region] } }

/-- EVICT of the range. -/
def evict : Instr := .evict ⟨0, 0, 0, 0⟩ 0 true

/-- The cycles before which the jobs do not complete. -/
def bounds (s : State) : List Nat := s.core.eng.jobs.map (fun j => j.minDone)

/-- The NOP, whose stream is empty, is bounded by the latency of class 0, and the EVICT by that of class 4 and its eight lines. -/
theorem bounds_after_evict : bounds (after evict machine) = [6, 56] := by decide +kernel

theorem evict_passes : RangePasses machine 0 := by
  unfold RangePasses
  decide +kernel

theorem evict_found : (copySnap machine 0 0 0).objS = some region := by decide +kernel

theorem evict_admitted : Admitted machine (rangeJob machine evict 0) := by
  unfold Admitted
  decide +kernel

end Sys2Proof.Machine.SharedNumber

/-- Refutes O46: where a job of the core has the number that an EVICT takes, the claim bounds the completion of both by the EVICT's stream,
while the model bounds each by its own. The claim does not ask that the number be new; with a new number EVICT issues as it says
(`exec_evict_issued`), and the rest of it holds of every state (`copies_issue`, `exec_prefetch_issued`, `evictHeld_of_evict`,
`evict_completes_clean`, `exec_chkarm_issued`). -/
theorem not_copyCommandsIssue : ¬ Obligations.CopyCommandsIssue := by
  intro h
  obtain ⟨legal, allowed⟩ := SharedNumber.evict_passes
  obtain ⟨-, ranges, -⟩ := h SharedNumber.machine ⟨0, 0, 0, 0⟩ 0 0 0 0 false 0 0 0 0 true false 0 0 0
  obtain ⟨⟨claim, -⟩, -⟩ := ranges legal allowed SharedNumber.region SharedNumber.evict_found
  have actual := SharedNumber.bounds_after_evict
  rw [after, SharedNumber.evict, claim SharedNumber.evict_admitted] at actual
  exact absurd actual (by decide +kernel)
end

section
/-! Settled for the read errors and the base: the sequence of a failing transfer, and the writes of the base's registers (08 R192, R195, 09
R201 to R213, 22 R389). -/

open Sys2Proof Sys2Proof.Machine Sys2Proof.Claims

namespace Sys2Proof.Machine

/-! ## The channels of the vertical buses (08 R192, R195) -/

theorem putVchan_eq_withChan (s : State) (v : VChan) : putVchan s v = withChan s v := by
  have others : s.base.vbus.filter (fun w => !(w.die == v.die && w.chan == v.chan)) =
      s.base.vbus.filter (fun w => ¬ (w.die = v.die ∧ w.chan = v.chan)) := List.filter_congr fun w _ => by simp [Bool.beq_eq_decide_eq]
  unfold putVchan withChan onBase
  simp only [others, Option.isNone_iff_eq_none]

/-- An entry of the log takes no time. -/
@[simp] theorem logVbus_gtc (s : State) (die : Fin 8) (chan : Fin 16) (event pa group attempt width : Nat) :
    (logVbus s die chan event pa group attempt width).gtc = s.gtc := by
  simp only [logVbus, logAppend]

/-- A failing transfer begins a sequence. -/
theorem exec_transferParityError_begins {s : State} {die : Fin 8} {chan : Fin 16} {v : VChan} (group : Fin 32) (pa : Nat)
    (channel : vchanOf s.base die chan = v) (open_ : v.width ≠ 3) (idle : v.vseq = none) :
    exec (.transferParityError die chan group pa) s = .next (reportGranule (withChan
      (logVbus s die chan 1 (pa / 256 * 256) group.val 0 v.width.val)
      { v with vseq := some ⟨pa / 256 * 256, group, 0, s.gtc, false, v.width ≠ 0⟩ }) (pa / 256 * 256)) := by
  have halved : (v.width != 0) = decide (v.width ≠ 0) := by simp [bne, Bool.beq_eq_decide_eq]
  change execTransferParityError die chan group pa s = _
  simp only [execTransferParityError, channel, if_neg open_, idle, putVchan_eq_withChan, halved, logVbus_gtc]

section
variable {s : State} {die : Fin 8} {chan : Fin 16} {v : VChan} {q : VSeq}

/-- The transfer is sent again for the `a`-th time. -/
def sentAgain (t : State) (v : VChan) (q : VSeq) (a gtc : Nat) : State :=
  withChan t { v with vseq := some { q with attempt := a, since := gtc } }

/-- What the third failed retry leads to: retraining, then the half of the lanes, then the end of the channel. -/
theorem exhausted_eq (t : State) (v : VChan) (q : VSeq) : exhausted t v q =
    if v.width = 0 then sentAgain t v q (if q.retrained then 4 else 3) t.gtc
    else failReports (withChan (logVbus t v.die v.chan 5 0 q.group.val 0 3) { v with width := 3, vseq := none, queue := [] }) v.die v.chan := by
  unfold exhausted sentAgain
  simp only [putVchan_eq_withChan]

/-- With nothing behind the failing transfer its pass only ends the sequence. -/
theorem sendQueued_nil (s : State) (empty : v.queue = []) : sendQueued s v = withChan s { v with vseq := none, queue := [] } := by
  rw [sendQueued, empty, List.foldl_nil, putVchan_eq_withChan]

variable (channel : vchanOf s.base die chan = v) (failing : v.vseq = some q)
include channel failing

/-- The first send after a retraining or a halving fails. -/
theorem exec_transferParityError_resent (group : Fin 32) (pa : Nat) (open_ : v.width ≠ 3) (resent : q.attempt = 5) :
    exec (.transferParityError die chan group pa) s =
      .next (sentAgain (logVbus s die chan 1 q.pa group.val 0 v.width.val) v q 0 s.gtc) := by
  change execTransferParityError die chan group pa s = _
  simp only [execTransferParityError, channel, if_neg open_, failing, resent, ne_eq, not_true_eq_false, ↓reduceIte, putVchan_eq_withChan, logVbus_gtc,
    sentAgain]

/-- A transfer that is due is sent again. -/
theorem exec_transferRetry_due (pass : Bool) (group : Fin 32) (due : (q.attempt < 3 ∧ q.since + 24 ≤ s.gtc) ∨ q.attempt = 5) :
    exec (.transferRetry die chan pass group) s =
      if pass then .next (granuleArrives (sendQueued s v) q.pa)
      else
        let a := if q.attempt = 5 then 0 else q.attempt + 1
        let t := logVbus s die chan 1 q.pa group.val a v.width.val
        .next (if a = 3 then exhausted t v q else sentAgain t v q a s.gtc) := by
  have ready : ((decide (q.attempt < 3) && decide (q.since + 24 ≤ s.gtc)) || q.attempt == 5) = true := by simpa using due
  change execTransferRetry die chan pass group s = _
  simp only [execTransferRetry, channel, failing, ready, Bool.not_true, Bool.false_eq_true, if_false, putVchan_eq_withChan, logVbus_gtc,
    sentAgain, apply_ite Host.Outcome.next]

/-- Until 24 cycles after a failure nothing is sent. -/
theorem exec_transferRetry_early (pass : Bool) (group : Fin 32) (retries : q.attempt < 3) (early : s.gtc < q.since + 24) :
    exec (.transferRetry die chan pass group) s = .next s := by
  have notReady : ((decide (q.attempt < 3) && decide (q.since + 24 ≤ s.gtc)) || q.attempt == 5) = false := by
    simp only [Bool.or_eq_false_iff, Bool.and_eq_false_iff, decide_eq_false_iff_not, beq_eq_false_iff_ne]
    omega
  change execTransferRetry die chan pass group s = _
  simp only [execTransferRetry, channel, failing, notReady, Bool.not_false, ↓reduceIte]

/-- The outcomes of a retry that fails, by the attempt. -/
theorem exec_transferRetry_fails (group : Fin 32) {a : Nat} (due : (q.attempt < 3 ∧ q.since + 24 ≤ s.gtc) ∨ q.attempt = 5)
    (next : (if q.attempt = 5 then 0 else q.attempt + 1) = a) (more : a ≠ 3) :
    exec (.transferRetry die chan false group) s = .next (sentAgain (logVbus s die chan 1 q.pa group.val a v.width.val) v q a s.gtc) := by
  rw [exec_transferRetry_due channel failing false group due]
  simp only [Bool.false_eq_true, ↓reduceIte, next, if_neg more]

theorem exec_transferRetry_exhausted (group : Fin 32) (third : q.attempt = 2) (due : q.since + 24 ≤ s.gtc) :
    exec (.transferRetry die chan false group) s = .next (exhausted (logVbus s die chan 1 q.pa group.val 3 v.width.val) v q) := by
  rw [exec_transferRetry_due channel failing false group (.inl ⟨by omega, due⟩)]
  simp only [third]
  rfl

theorem exec_channelRetrainDone (ok : Bool) (retrains : q.attempt = 3) : exec (.channelRetrainDone die chan ok) s =
    .next (withChan (logVbus s die chan (if ok then 3 else 2) 0 q.group.val 0 v.width.val)
      { v with vseq := some { q with attempt := if ok then 5 else 4, since := s.gtc, retrained := true } }) := by
  change execChannelRetrainDone die chan ok s = _
  simp only [execChannelRetrainDone, channel, failing, retrains, ne_eq, not_true_eq_false, ↓reduceIte, putVchan_eq_withChan, logVbus_gtc]

theorem exec_halfWidthDone (halves : q.attempt = 4) (ended : q.since + 256 ≤ s.gtc) : exec (.halfWidthDone die chan) s =
    (let w : Fin 4 := if q.group.val < 16 then 2 else 1
     .next (withChan (logVbus s die chan 4 0 q.group.val 0 w.val)
      { v with width := w, vseq := some { q with attempt := 5, since := s.gtc, halved := true } })) := by
  have notEarly : ¬ (q.attempt ≠ 4 ∨ s.gtc < q.since + 256) := by omega
  change execHalfWidthDone die chan s = _
  simp only [execHalfWidthDone, channel, failing, if_neg notEarly, putVchan_eq_withChan, logVbus_gtc]

end

/-! ## The registers of a slice (09 R201 to R210) -/

section
variable {s : State} {n p : Nat} {v : Word}

/-- The refusals of an SLCFG value. -/
theorem badWays_iff (s : State) (n : Nat) (v : Word) : BadWays s n v ↔
    ((List.range 24).any (fun w => slCode v w == 3) || decide (4 < (List.range 24).countP (fun w => slCode v w == 2)) ||
      (List.range 24).any (fun w => slCode (slcfgOf s.base n) w == 0 && slCode v w != 0 && wayInUse s n w)) = true := by
  have digests : (List.range 24).countP (fun w => decide (wayCode v w = 2)) = (List.range 24).countP (fun w => slCode v w == 2) :=
    List.countP_congr fun w _ => by
      rw [decide_eq_true_iff, beq_iff_eq]
      rfl
  unfold BadWays
  rw [digests]
  simp only [Bool.or_eq_true, List.any_eq_true, List.mem_range, beq_iff_eq, bne_iff_ne, Bool.and_eq_true, decide_eq_true_eq, or_assoc,
    and_assoc]
  rfl

/-- A line of a way that changes. -/
theorem slMoved_iff (b : Base) (l : CLine) : slMoved b n v l = true ↔
    l.home = n ∧ wayCode (regGet b.slcfg n 0x555500000000) l.way.val ≠ wayCode v l.way.val := by
  simp [slMoved, slCode, wayCode, slcfgOf]

/-- Whether an accepted value waits for an earlier one of its slice, or for dirty lines. -/
theorem slcfg_drains_iff (b : Base) : (b.slpend.any (fun p => p.1 == n) || b.lines.any (fun l => l.dirty && slMoved b n v l)) = true ↔
    (∃ w, (n, w) ∈ b.slpend) ∨
      ∃ l ∈ b.lines, l.dirty = true ∧ l.home = n ∧ wayCode (regGet b.slcfg n 0x555500000000) l.way.val ≠ wayCode v l.way.val := by
  have pending : (∃ p ∈ b.slpend, p.1 = n) ↔ ∃ w, (n, w) ∈ b.slpend := by
    constructor
    · rintro ⟨⟨_, w⟩, mem, rfl⟩
      exact ⟨w, mem⟩
    · rintro ⟨w, mem⟩
      exact ⟨_, mem, rfl⟩
  simp only [Bool.or_eq_true, List.any_eq_true, beq_iff_eq, Bool.and_eq_true, slMoved_iff, pending]

theorem exec_slcfgWrite (x : Word) (hn : n < 256) : exec (.slcfgWrite n x) s = .next (slcfgOp s n x) := by
  change Host.Outcome.next (if n < 256 then slcfgOp s n x else s) = _
  rw [if_pos hn]

/-- The three outcomes of a write of SLCFG. -/
theorem slcfgOp_rejects {x : Word} (bad : BadWays s n (word (x.toNat % 2 ^ 48))) : slcfgOp s n x = rejected s n :=
  if_pos ((badWays_iff ..).1 bad)

theorem slcfgOp_drains {x : Word} (new : word (x.toNat % 2 ^ 48) = v) (ok : ¬ BadWays s n v)
    (drains : (s.base.slpend.any (fun p => p.1 == n) || s.base.lines.any (fun l => l.dirty && slMoved s.base n v l)) = true) :
    slcfgOp s n x = onBase s (fun b => { b with slpend := b.slpend ++ [(n, v)] }) := by
  subst new
  exact (if_neg (mt (badWays_iff ..).2 ok)).trans (if_pos drains)

theorem slcfgOp_applies {x : Word} (new : word (x.toNat % 2 ^ 48) = v) (ok : ¬ BadWays s n v)
    (clean : ¬ (s.base.slpend.any (fun p => p.1 == n) || s.base.lines.any (fun l => l.dirty && slMoved s.base n v l)) = true) :
    slcfgOp s n x = slApply s n v := by
  subst new
  exact (if_neg (mt (badWays_iff ..).2 ok)).trans (if_neg clean)

/-- The one slice that drains. -/
theorem draining_single (hn : n < 256) (w : Word) :
    (List.range 256).filterMap (fun g => [(n, w)].find? (fun p => p.1 == g)) = [(n, w)] := by
  have found : (fun g => [(n, w)].find? (fun p => p.1 == g)) = fun g => (if g = n then some g else none).map (fun g => (g, w)) :=
    funext fun g => by
      by_cases h : g = n
      · simp [h]
      · simp [h, Ne.symm h]
  have only : (List.range 256).filterMap (fun g => if g = n then some g else none) = [n] := by
    have guarded : (fun g => if g = n then some g else none) = Option.guard (fun g => decide (g = n)) := by
      funext g
      simp [Option.guard]
    rw [guarded, List.filterMap_eq_filter, List.filter_eq, List.count_eq_one_of_mem List.nodup_range (List.mem_range.2 hn)]
    rfl
  rw [found, ← List.map_filterMap, only]
  rfl

theorem slDrain_clean {w : Word} (hn : n < 256) (pending : s.base.slpend = [(n, w)])
    (clean : ∀ l ∈ s.base.lines, ¬ (l.dirty = true ∧ slMoved s.base n w l = true)) :
    slDrain s = onBase (slApply s n w) (fun b => { b with slpend := [] }) := by
  have none_ : s.base.lines.find? (fun l => l.dirty && slMoved s.base n w l) = none :=
    List.find?_eq_none.2 fun l hl => by simpa using clean l hl
  have erased : (slApply s n w).base.slpend.erase (n, w) = [] := by
    rw [show (slApply s n w).base.slpend = [(n, w)] from pending, List.erase_cons_head]
  rw [slDrain, pending, draining_single hn, List.foldl_cons, List.foldl_nil, slStep, none_]
  show onBase (slApply s n w) _ = _
  unfold onBase
  dsimp only
  rw [erased]

theorem exec_pbktWrite (x : Word) (hn : n < 256) (hp : p < 16) : exec (.pbktWrite n p x) s = .next (pbktOp s n p x) := by
  change Host.Outcome.next (if n < 256 ∧ p < 16 then pbktOp s n p x else s) = _
  rw [if_pos ⟨hn, hp⟩]

end

end Sys2Proof.Machine

/-- Settles O53: the outcomes of a channel's events by the attempt that its sequence stands at, and each register by its write. -/
theorem channelsAndRegistersOfTheBase : Obligations.ChannelsAndRegistersOfTheBase := by
  intro s die chan group pa
  refine ⟨exec_transferParityError_begins group pa rfl, fun q failing => ⟨?_, fun due => ?_, sendQueued_nil s, fun resent => ?_,
    fun early due => ?_, fun third due => ?_, fun retries early pass => ?_, fun ok retrains => ?_, fun halves ended => ?_⟩,
    fun n p x hn hp => ⟨fun bad => ?_, fun ok drains => ?_, fun ok clean => ?_, fun w pending clean => ?_, fun excess => ?_,
      fun fits => ?_, rfl, rfl, rfl, rfl⟩⟩
  · exact exec_transferParityError_resent rfl failing group pa
  · exact exec_transferRetry_due rfl failing true group due
  · exact exec_transferRetry_fails rfl failing group (.inr resent) (if_pos resent) (by decide)
  · exact exec_transferRetry_fails rfl failing group (.inl ⟨by omega, due⟩) (if_neg (by omega)) (by omega)
  · rw [exec_transferRetry_exhausted rfl failing group third due, exhausted_eq, logVbus_gtc]
    rfl
  · exact exec_transferRetry_early rfl failing pass group retries early
  · exact exec_channelRetrainDone rfl failing ok retrains
  · exact exec_halfWidthDone rfl failing halves ended
  · rw [exec_slcfgWrite x hn, slcfgOp_rejects bad]
  · rw [exec_slcfgWrite x hn, slcfgOp_drains rfl ok ((slcfg_drains_iff _).2 drains)]
    rfl
  · rw [exec_slcfgWrite x hn, slcfgOp_applies rfl ok (mt (slcfg_drains_iff _).1 clean)]
    rfl
  · rw [slDrain_clean hn pending (fun l hl => by simpa only [slMoved_iff] using clean l hl)]
    rfl
  · rw [exec_pbktWrite x hn hp]
    exact congrArg _ (if_pos (lt_of_lt_of_eq excess List.sum_eq_foldl))
  · rw [exec_pbktWrite x hn hp]
    exact congrArg _ (if_neg (not_lt.2 (le_of_eq_of_le List.sum_eq_foldl.symm fits)))
end

section
/-! Settled for the host: its reads, writes and atomics at the homes, BAR0, and the arrival of commands (08 R192, 09 R223, 10 R250, 11 R260,
22 R388 to R390, R400, R403). -/

open Sys2Proof Sys2Proof.Machine Sys2Proof.Claims

namespace Sys2Proof.Machine

/-! ## Reads (10 R250, 08 R191) -/

section
variable {s : State} {pa n : Nat}

/-- The bytes of a range are the pieces of its granules. -/
theorem readPieces_eq_foldl (pid : Fin 16) (l : List (Nat × Nat × Nat)) (s : State) (bs : Option (List Byte)) :
    readPieces s pid l bs = l.foldl (fun acc g =>
      ((readPa acc.1 pid g.1 g.2.2).1, acc.2.bind (fun a => (readPa acc.1 pid g.1 g.2.2).2.map (a ++ ·)))) (s, bs) := by
  induction l generalizing s bs with
  | nil => rfl
  | cons g t ih =>
    have step : readPieces s pid (g :: t) bs =
        readPieces (readPa s pid g.1 g.2.2).1 pid t (bs.bind (fun a => (readPa s pid g.1 g.2.2).2.map (a ++ ·))) := by
      cases bs <;> cases h : (readPa s pid g.1 g.2.2).2 <;> simp [readPieces, h]
    rw [step, ih, List.foldl_cons]

theorem readRange_eq_readPieces (s : State) (pid : Fin 16) (pa n : Nat) : readRange s pid pa n = readPieces s pid (granules pa n) (some []) :=
  (readPieces_eq_foldl ..).symm

theorem exec_hostRead_unmapped (h : hdmMapped pa n = false) : exec (.hostRead pa n) s = .next s := by
  change execHostRead pa n s = _
  rw [execHostRead, h]
  rfl

theorem exec_hostRead_mapped (h : hdmMapped pa n = true) : exec (.hostRead pa n) s =
    .next (match (readRange s s.base.hpid pa n).2 with
      | none => waitingHost (readRange s s.base.hpid pa n).1 (.hostRead pa n)
      | some bs => withBase (readRange s s.base.hpid pa n).1 (fun b => { b with hostData := bs })) := by
  change execHostRead pa n s = _
  simp only [execHostRead, h, Bool.not_true, Bool.false_eq_true, if_false]
  generalize readRange s s.base.hpid pa n = r
  obtain ⟨t, _ | bs⟩ := r <;> rfl

/-- Where no word is in error and no channel has left its reset state a read through the ways gives its bytes. -/
theorem wayRead_open (clean : s.base.ecc = []) (quiet : s.base.vbus = []) (home kind pa n core : Nat) (chan : Option (Fin 8 × Fin 16))
    (pid : Fin 16) : wayRead s home kind chan pa n core pid = (useLine s home (pa / 256) kind pid false, .ok) := by
  have width (d : Fin 8) (ch : Fin 16) : vchanOf s.base d ch = ⟨d, ch, 0, none, []⟩ := by
    rw [vchanOf, quiet]
    rfl
  have ask : wayAsk s home kind chan (pa / 256) core pid = (s, .ok) := by
    unfold wayAsk
    split
    · rfl
    · cases chan with
      | none => rfl
      | some c =>
        simp only [width]
        rfl
  have words (a k : Nat) : eccIn s.base a k = [] := by rw [eccIn, clean, List.filter_nil]
  have array (d : Fin 8) (ch : Fin 16) : arrayRead s d ch home (pa / 256) core = s := by
    simp [arrayRead, words]
  have correct (a k : Nat) : uncorrectable s.base a k = false := by
    simp [uncorrectable, words]
  simp only [wayRead, ask]
  split
  · rfl
  · simp only [array, correct, Bool.false_eq_true, if_false]

/-- What passes the ways changes no object and no page's bias. -/
theorem Kept.objAtPa {t : State} (h : Kept s t) (pa : Nat) : objAtPa t pa = objAtPa s pa := by
  obtain ⟨⟨m, ts, rs, ls, es, lv, ps, vb, fs, ws, rfl⟩, -⟩ := h
  rfl

theorem Kept.bias {t : State} (h : Kept s t) : t.base.bias = s.base.bias := by
  obtain ⟨⟨m, ts, rs, ls, es, lv, ps, vb, fs, ws, rfl⟩, -⟩ := h
  rfl

/-- A read of memory that no object covers, outside host bias, on an array without errors, gives the committed bytes. -/
theorem readPa_plain (pid : Fin 16) (free : objAtPa s pa = none) (device : pa / 4096 ∉ s.base.bias) (clean : s.base.ecc = [])
    (quiet : s.base.vbus = []) : (readPa s pid pa n).2 = some (memReadN s.base.mem pa n) := by
  have fetch : ∃ t, fetchAt s pid pa n = (t, .ok) ∧ Kept s t ∧ Quiet s t := by
    unfold fetchAt
    rw [free]
    cases paKind pa with
    | stage g o => exact ⟨s, rfl, .refl s, .refl s⟩
    | _ => exact ⟨_, wayRead_open clean quiet .., .useLine .., .useLine ..⟩
  obtain ⟨t, ht, kept, same⟩ := fetch
  have served := Kept.serve t (homeOfPa pa) 0 n pid .request none
  have reach : reachAt t pid pa n 0 n true = serve t (homeOfPa pa) 0 n pid .request none := by
    rw [reachAt, kept.objAtPa, free]
    exact hostRecall_unbiased (by rwa [served.bias, kept.bias])
  have mem : (serve t (homeOfPa pa) 0 n pid .request none).base.mem = s.base.mem := (Quiet.serve ..).mem.trans same.mem
  unfold readPa
  rw [ht]
  show some (memReadN (reachAt t pid pa n 0 n true).base.mem pa n) = _
  rw [reach, mem]

/-- A read inside one granule is one piece. -/
theorem readRange_one (pid : Fin 16) (hn : 0 < n) (fits : pa % 256 + n ≤ 256) : readRange s pid pa n = readPa s pid pa n := by
  have empty : (fun b : List Byte => [] ++ b) = id := rfl
  unfold readRange
  rw [granules_one hn fits, List.foldl_cons, List.foldl_nil]
  show ((readPa s pid pa n).1, (readPa s pid pa n).2.map (fun b => [] ++ b)) = _
  rw [empty, Option.map_id_fun, id]

end

/-! ## Writes and atomics (09 R209, R217, R219, 10 R250, R251, 12 R283) -/

section
variable {s : State} {pa n : Nat} {bs : List Byte}

theorem putPa_eq_committed (s : State) (pid : Fin 16) (pa : Nat) (bs : List Byte) (atomic : Bool) :
    putPa s pid pa bs atomic = Claims.committed s pid pa bs atomic := by
  have stay (k : Nat) : (fun l : CLine => decide (l.gran * 256 + 256 ≤ pa) || decide (pa + k ≤ l.gran * 256)) =
      fun l => decide (l.gran * 256 + 256 ≤ pa ∨ pa + k ≤ l.gran * 256) := funext fun l => (Bool.decide_or ..).symm
  unfold putPa Claims.committed dropHostLines
  simp only [beq_iff_eq, stay]
  rfl

theorem writePa_eq_written (s : State) (pid : Fin 16) (pa : Nat) (bs : List Byte) : writePa s pid pa bs false = written s pid pa bs :=
  putPa_eq_committed ..

/-- Bytes inside one `w`-byte piece are cut into one. -/
theorem cutAt_one {w : Nat} (some_ : 0 < bs.length) (fits : pa % w + bs.length ≤ w) : cutAt w (bs.length + 1) pa bs = [(pa, bs)] := by
  have rest (fuel a : Nat) : cutAt w fuel a [] = [] := by
    cases fuel <;> rfl
  match bs with
  | [] => exact absurd some_ (Nat.lt_irrefl 0)
  | b :: t =>
    have all : (b :: t).length ≤ w - pa % w := by omega
    rw [cutAt, List.take_of_length_le all, List.drop_of_length_le all, rest]
    exact fun h => nomatch h

/-- A write wakes no core for bytes that it does not write. -/
theorem wakeAt_unwritten (h : hostDrops s pa n = true ∨ hdmMapped pa n = false) : wakeAt s pa n = (s, .ok) := by
  have skip : (hostDrops s pa n || !hdmMapped pa n) = true := by
    rcases h with h | h <;> simp [h]
  unfold wakeAt
  split
  · rw [if_pos skip]
  · rfl

/-- A write of one piece: it waits while cores wake for it, else it commits where the host may write. -/
theorem exec_hostWrite_one (some_ : 0 < bs.length) (fits : pa % 64 + bs.length ≤ 64) : exec (.hostWrite pa bs) s =
    if (wakeAt s pa bs.length).2 = .busy then .next (waitingHost (wakeAt s pa bs.length).1 (.hostWrite pa bs))
    else .next (if hostDrops s pa bs.length || hdmMapped pa bs.length then hostWriteBlock s pa bs else s) := by
  change execHostWrite pa bs s = _
  simp only [execHostWrite, cutAt_one some_ fits, List.foldl_cons, List.foldl_nil, Fetch.ok_and]
  generalize wakeAt s pa bs.length = r
  obtain ⟨t, _ | _ | _⟩ := r <;> rfl

theorem exec_hostWrite_dropped (some_ : 0 < bs.length) (fits : pa % 64 + bs.length ≤ 64) (drops : hostDrops s pa bs.length = true) :
    exec (.hostWrite pa bs) s = .next (logEvent s 3 pa 0 s.base.hpid.val) := by
  rw [exec_hostWrite_one some_ fits, wakeAt_unwritten (.inl drops), drops]
  simp only [reduceCtorEq, if_false, Bool.true_or, if_true, hostWriteBlock, drops]

theorem exec_hostWrite_unmapped (some_ : 0 < bs.length) (fits : pa % 64 + bs.length ≤ 64) (stays : hostDrops s pa bs.length = false)
    (outside : hdmMapped pa bs.length = false) : exec (.hostWrite pa bs) s = .next s := by
  rw [exec_hostWrite_one some_ fits, wakeAt_unwritten (.inr outside), stays, outside]
  rfl

theorem exec_hostWrite_commits (some_ : 0 < bs.length) (fits : pa % 64 + bs.length ≤ 64) (stays : hostDrops s pa bs.length = false)
    (mapped : hdmMapped pa bs.length = true) (awake : (wakeAt s pa bs.length).2 ≠ .busy) :
    exec (.hostWrite pa bs) s = .next (captureWrite (written s s.base.hpid pa bs) pa bs) := by
  rw [exec_hostWrite_one some_ fits, if_neg awake, stays, mapped]
  simp only [Bool.or_true, if_true, hostWriteBlock, stays, Bool.false_eq_true, if_false, writePa_eq_written]

/-- The smaller and the greater of two values, whichever of two equal ones is named. -/
theorem min_max_of_lt_of_le {α β : Type} [LinearOrder β] {f : α → β} (inj : Function.Injective f) (x y : α) :
    (if f x < f y then x else y) = (if f x ≤ f y then x else y) ∧ (if f x < f y then y else x) = (if f x ≤ f y then y else x) := by
  rcases lt_trichotomy (f x) (f y) with h | h | h
  · simp only [h, h.le, ↓reduceIte, and_self]
  · simp only [inj h, ite_self, and_self]
  · simp only [h.not_gt, h.not_ge, ↓reduceIte, and_self]

/-- What an atomic of the host writes, by its number. -/
theorem atomicValue_of_mem {old v e : Word} {p : Fin 11 × Option Word} (hp : p ∈ atomics old v e) : atomicValue p.1 old v e = p.2 := by
  have signed := min_max_of_lt_of_le (fun (x y : Word) => BitVec.eq_of_toInt_eq (x := x) (y := y)) old v
  have unsigned := min_max_of_lt_of_le (fun (x y : Word) => BitVec.eq_of_toNat_eq (x := x) (y := y)) old v
  simp only [atomics, List.mem_cons, List.not_mem_nil, or_false] at hp
  rcases hp with rfl | rfl | rfl | rfl | rfl | rfl | rfl | rfl | rfl | rfl | rfl
  case inr.inr.inr.inr.inl => exact congrArg some ((slt_ite ..).trans signed.1)
  case inr.inr.inr.inr.inr.inl => exact congrArg some ((slt_ite ..).trans signed.2)
  case inr.inr.inr.inr.inr.inr.inl => exact congrArg some ((ult_ite ..).trans unsigned.1)
  case inr.inr.inr.inr.inr.inr.inr.inl => exact congrArg some ((ult_ite ..).trans unsigned.2)
  all_goals rfl

section
variable {op : Fin 11} {v e : Word}

theorem exec_hostAtomic_dropped (drops : hostDrops s (pa / 8 * 8) 8 = true) :
    exec (.hostAtomic op pa v e) s = .next (logEvent s 3 (pa / 8 * 8) 0 s.base.hpid.val) := if_pos drops

theorem exec_hostAtomic_unmapped (stays : hostDrops s (pa / 8 * 8) 8 = false) (outside : hdmMapped (pa / 8 * 8) 8 = false) :
    exec (.hostAtomic op pa v e) s = .next s := by
  change execHostAtomic op pa v e s = _
  rw [execHostAtomic, stays, outside]
  rfl

/-- An atomic that reaches its home waits there, or reads its word and may write it. -/
theorem exec_hostAtomic_mapped (stays : hostDrops s (pa / 8 * 8) 8 = false) (mapped : hdmMapped (pa / 8 * 8) 8 = true) :
    exec (.hostAtomic op pa v e) s =
      (let a := pa / 8 * 8
       let r := readPa s s.base.hpid a 8 true
       .next (match r.2 with
        | none => waitingHost r.1 (.hostAtomic op pa v e)
        | some bs =>
          let t := withBase r.1 (fun b => { b with hostData := bs })
          match atomicValue op (word (bytesNat bs)) v e with
          | none => t
          | some w => captureWrite (Claims.committed t t.base.hpid a (wordBytes w) true) a (wordBytes w))) := by
  change execHostAtomic op pa v e s = _
  simp only [execHostAtomic, stays, mapped, Bool.false_eq_true, if_false, Bool.not_true]
  generalize readPa s s.base.hpid (pa / 8 * 8) 8 true = r
  obtain ⟨t, _ | bs⟩ := r
  · rfl
  · dsimp only
    cases atomicValue op (word (bytesNat bs)) v e with
    | none => rfl
    | some w =>
      dsimp only
      rw [putPa_eq_committed]
      rfl

end

/-- Host memory is the host's own. -/
theorem exec_hostLineInvalidate (s : State) (pa : Nat) (bs : List Byte) : exec (.hostLineInvalidate pa bs) s =
    .next (if paRangeOk pa bs.length = true ∧ paKind pa = .host then writeRange s s.base.hpid pa bs else s) := by
  change Host.Outcome.next (if (paRangeOk pa bs.length && paKind pa == .host) = true then _ else _) = _
  simp only [Bool.and_eq_true, beq_iff_eq]

theorem writeRange_one (pid : Fin 16) (some_ : 0 < bs.length) (fits : pa % 256 + bs.length ≤ 256) :
    writeRange s pid pa bs = written s pid pa bs := by
  rw [writeRange, granules_one some_ fits, List.foldl_cons, List.foldl_nil, List.drop_zero, List.take_length, writePa_eq_written]

end

/-! ## The arrival of commands (22 R389, R390) -/

section
variable {s : State} {v : Word}

/-- Records that the host takes back go from the end of the queue, and no other command does. -/
theorem unpost_sublist (n : Nat) (l : List CmdArr) : (unpost n l).Sublist l := by
  induction l generalizing n with
  | nil => cases n <;> exact .slnil
  | cons c t ih =>
    cases n with
    | zero => exact .refl _
    | succ n =>
      unfold unpost
      split
      · exact (ih n).cons c
      · exact (ih (n + 1)).cons_cons c

theorem unpost_countP (n : Nat) (l : List CmdArr) :
    (unpost n l).countP (fun c => c.src = .host) = l.countP (fun c => c.src = .host) - n := by
  induction l generalizing n with
  | nil => cases n <;> simp [unpost]
  | cons c t ih =>
    cases n with
    | zero => rfl
    | succ n =>
      unfold unpost
      split
      next h => rw [ih, List.countP_cons_of_pos (by simpa using h), Nat.add_sub_add_right]
      next h => rw [List.countP_cons_of_neg (by simpa using h), List.countP_cons_of_neg (by simpa using h), ih]

theorem unpost_filter (n : Nat) (l : List CmdArr) :
    (unpost n l).filter (fun c => c.src ≠ .host) = l.filter (fun c => c.src ≠ .host) := by
  induction l generalizing n with
  | nil => cases n <;> rfl
  | cons c t ih =>
    cases n with
    | zero => rfl
    | succ n =>
      unfold unpost
      split
      next h => rw [ih, List.filter_cons_of_neg (by simpa using h)]
      next h => rw [List.filter_cons_of_pos (by simpa using h), List.filter_cons_of_pos (by simpa using h), ih]

/-- The host's commands that are neither queued nor executed. -/
theorem hostRunning_eq (s : State) : hostRunning s =
    s.base.cmdWaits.countP (fun w => w.c.src = .host) + (if ∃ r, s.base.replay = some r ∧ r.c.src = .host then 1 else 0) +
      s.inputs.countP (fun p => (heldCmd p.2).any (fun c => c.src == .host)) := by
  have waits : s.base.cmdWaits.countP (fun w => w.c.src == .host) = s.base.cmdWaits.countP (fun w => w.c.src = .host) :=
    List.countP_congr fun w _ => by simp
  have replay : s.base.replay.toList.countP (fun r => r.c.src == .host) = if ∃ r, s.base.replay = some r ∧ r.c.src = .host then 1 else 0 := by
    cases s.base.replay with
    | none => simp
    | some r => simp [List.countP_cons]
  rw [hostRunning, waits, replay]

theorem hostQueued_eq (s : State) : hostQueued s = s.base.cmdq.countP (fun c => c.src = .host) :=
  List.countP_congr fun c _ => by simp

/-- The queue after a write of HCQTAIL that leaves `want` of the host's commands to come. -/
def posted (s : State) (want : Nat) : List CmdArr :=
  if hostQueued s ≤ want then s.base.cmdq ++ List.replicate (want - hostQueued s) ⟨.host, 0, Vector.replicate 8 0⟩
  else (unpost (hostQueued s - want) s.base.cmdq.reverse).reverse

theorem exec_hcqtailWrite_excess (excess : 256 < (BitVec.ofNat 9 v.toNat - s.base.hcqhead).toNat) : exec (.hcqtailWrite v) s = .next s :=
  if_pos excess

theorem exec_hcqtailWrite_posted (fits : (BitVec.ofNat 9 v.toNat - s.base.hcqhead).toNat ≤ 256) : exec (.hcqtailWrite v) s =
    .next { s with base := { s.base with
      hcqtail := BitVec.ofNat 9 v.toNat
      cmdq := posted s ((BitVec.ofNat 9 v.toNat - s.base.hcqhead).toNat - hostRunning s) } } := if_neg (not_lt.2 fits)

/-- More records than are queued and under way join the queue. -/
theorem posted_more {want : Nat} (more : hostQueued s ≤ want) :
    posted s want = s.base.cmdq ++ List.replicate (want - hostQueued s) ⟨.host, 0, Vector.replicate 8 0⟩ := if_pos more

/-- Fewer records than are queued and under way: the last ones of the queue go. -/
theorem posted_fewer {want : Nat} (fewer : want ≤ hostQueued s) : (posted s want).Sublist s.base.cmdq ∧
    (posted s want).countP (fun c => c.src = .host) = want ∧
    (posted s want).filter (fun c => c.src ≠ .host) = s.base.cmdq.filter (fun c => c.src ≠ .host) := by
  unfold posted
  split
  next h =>
    have all : hostQueued s = want := le_antisymm h fewer
    rw [← all, Nat.sub_self, List.replicate_zero, List.append_nil]
    exact ⟨.refl _, (hostQueued_eq s).symm, rfl⟩
  next h =>
    refine ⟨?_, ?_, ?_⟩
    · simpa using (unpost_sublist (hostQueued s - want) s.base.cmdq.reverse).reverse
    · rw [List.countP_reverse, unpost_countP, List.countP_reverse, ← hostQueued_eq]
      omega
    · rw [List.filter_reverse, unpost_filter, List.filter_reverse, List.reverse_reverse]

/-- HCQBASE's bits 11:0 read 0. -/
theorem page_mask (v : Word) : word (v.toNat / 4096 * 4096) = v &&& ~~~0xFFF#64 := by
  have shifted : v.toNat / 4096 * 4096 = (v.toNat >>> 12) <<< 12 := by
    rw [Nat.shiftLeft_eq, Nat.shiftRight_eq_div_pow]
  have low (i : Nat) : (0xFFF#64).getLsbD i = (decide (i < 64) && decide (i < 12)) := by
    rw [BitVec.getLsbD_ofNat, show 0xFFF = 2 ^ 12 - 1 from rfl, Nat.testBit_two_pow_sub_one]
  refine BitVec.eq_of_getLsbD_eq fun i hi => ?_
  rw [word, BitVec.getLsbD_ofNat, shifted, Nat.testBit_shiftLeft, Nat.testBit_shiftRight, BitVec.getLsbD_and, BitVec.getLsbD_not, low]
  by_cases page : 12 ≤ i
  · simp [hi, page, not_lt.2 page, BitVec.getLsbD]
  · simp [hi, page, not_le.1 page]

theorem exec_hcqbaseWrite (s : State) (v : Word) : exec (.hcqbaseWrite v) s =
    if s.base.hcqhead = s.base.hcqtail then .next { s with base := { s.base with hcqbase := v &&& ~~~0xFFF#64 } } else .next s := by
  rw [← page_mask]
  rfl

/-! ## BAR0 (22 R389) -/

theorem bar0_of_mem (b : Base) (v : Word) : ∀ r ∈ bar0Map b v, bar0Read b r.1 = r.2.1 ∧ bar0Write r.1 v = r.2.2 := by
  simp only [bar0Map, List.forall_mem_cons, List.not_mem_nil, false_imp_iff, implies_true, and_true]
  exact ⟨⟨rfl, rfl⟩, ⟨(BitVec.ofNat_toNat ..).symm, rfl⟩, ⟨(BitVec.ofNat_toNat ..).symm, rfl⟩, ⟨rfl, rfl⟩, ⟨rfl, rfl⟩,
    (BitVec.ofNat_toNat ..).symm, rfl⟩

/-- Another offset reads 0 and ignores writes. -/
theorem bar0_unlisted {b : Base} {off : Nat} (h : ∀ r ∈ bar0Map b v, r.1 ≠ off) : bar0Read b off = 0 ∧ bar0Write off v = none := by
  simp only [bar0Map, List.forall_mem_cons, List.not_mem_nil, false_imp_iff, implies_true, and_true] at h
  obtain ⟨h0, h1, h2, h3, h4, h5⟩ := h
  constructor
  · unfold bar0Read
    split
    case h_7 => rfl
    all_goals contradiction
  · unfold bar0Write
    split
    case h_4 => rfl
    all_goals contradiction

end

end Sys2Proof.Machine

/-- Settles O54: the host's requests by what their homes do with them, and the command queue by what HCQTAIL leaves to come. -/
theorem hostRequestsActAtTheHomes : Obligations.HostRequestsActAtTheHomes := by
  intro s pa len data v e
  refine ⟨⟨fun bs mapped got => ?_, fun mapped waits => ?_, exec_hostRead_unmapped, fun mapped some_ fits free device clean quiet => ?_⟩,
    fun some_ fits => ⟨exec_hostWrite_dropped some_ fits, fun t asleep => ?_, exec_hostWrite_commits some_ fits, exec_hostWrite_unmapped some_ fits⟩,
    fun p hp => ⟨exec_hostAtomic_dropped, exec_hostAtomic_unmapped, fun stays mapped waits => ?_, fun stays mapped got => ?_⟩,
    ⟨fun own some_ fits => ?_, fun own => ?_, fun other => ?_⟩,
    fun excess => ?_, fun fits more => ?_, fun fits fewer => ?_, fun idle => ?_, fun pending => ?_, bar0_of_mem s.base v,
    fun off => bar0_unlisted, fun p rest bell => ?_, fun w => rfl, fun log => rfl⟩
  · rw [exec_hostRead_mapped mapped, readRange_eq_readPieces, got]
  · rw [exec_hostRead_mapped mapped, readRange_eq_readPieces, waits]
  · rw [exec_hostRead_mapped mapped, readRange_one _ some_ fits, readPa_plain _ free device clean quiet]
    exact ⟨_, rfl, rfl⟩
  · rw [exec_hostWrite_one some_ fits, asleep, if_pos rfl]
  · rw [exec_hostAtomic_mapped stays mapped]
    dsimp only
    rw [waits]
  · rw [exec_hostAtomic_mapped stays mapped]
    obtain ⟨bs, hbs⟩ := Option.ne_none_iff_exists'.1 got
    dsimp only at hp ⊢
    rw [hbs] at hp ⊢
    dsimp only [Option.getD_some] at hp ⊢
    rw [atomicValue_of_mem hp]
    rfl
  · rw [exec_hostLineInvalidate, if_pos own, writeRange_one _ some_ fits]
  · rw [exec_hostLineInvalidate, if_pos own]
  · rw [exec_hostLineInvalidate, if_neg other]
  · exact exec_hcqtailWrite_excess excess
  · rw [← hostQueued_eq, ← hostRunning_eq] at more ⊢
    rw [exec_hcqtailWrite_posted fits, posted_more (by omega)]
  · rw [← hostQueued_eq, ← hostRunning_eq] at fewer
    rw [← hostRunning_eq]
    exact ⟨_, exec_hcqtailWrite_posted fits, posted_fewer (by omega)⟩
  · rw [exec_hcqbaseWrite, if_pos idle]
  · rw [exec_hcqbaseWrite, if_neg pending]
  · change execKernelDoorbell s = _
    rw [execKernelDoorbell, bell]
    rfl
end

section
/-! Settled for the base: the commands of the object table, of capabilities, bias, launches and queues (10 R251, 11 R268, R269, 22 R390 to
R397). -/

open Sys2Proof Sys2Proof.Machine Sys2Proof.Claims

namespace Sys2Proof.Machine

/-! ## What commands share (22 R390, R391) -/

section
variable {s : State} {c : CmdCtx} {pa n : Nat} {i : Instr}

theorem powered_off {k : State → Out} (off : s.base.rail = false) : powered s c k = .next (respond s c 3 0) := by
  rw [powered, off]
  rfl

theorem powered_on {k : State → Out} (on : s.base.rail = true) : powered s c k = k s := if_pos on

theorem named_outside {k : State → Out} (outside : paRangeOk pa n = false) : named s c pa n k = .next (respond s c 1 0) := by
  rw [named, outside]
  rfl

theorem named_inside {k : State → Out} (inside : paRangeOk pa n = true) : named s c pa n k = k s := if_pos inside

/-- A command that reads is tried again at the next cycle, or goes on with the bytes. -/
theorem fetched_waits {k : State → List Byte → Out} (waits : (readRange s c.pid pa n).2 = none) :
    fetched s c pa n i k = .next (later (readRange s c.pid pa n).1 i) := by
  unfold fetched
  generalize readRange s c.pid pa n = r at waits ⊢
  obtain ⟨t, _ | bs⟩ := r
  · rfl
  · cases waits

theorem fetched_reads {k : State → List Byte → Out} (reads : (readRange s c.pid pa n).2 ≠ none) :
    fetched s c pa n i k = k (readRange s c.pid pa n).1 ((readRange s c.pid pa n).2.getD []) := by
  unfold fetched
  generalize readRange s c.pid pa n = r at reads ⊢
  obtain ⟨t, _ | bs⟩ := r
  · exact absurd rfl reads
  · rfl

/-- One that names bytes outside every memory is refused. -/
theorem answers_outside {k : State → Out} (on : s.base.rail = true) (outside : paRangeOk pa n = false)
    (command : exec i s = powered s c (fun s => named s c pa n k)) : Answers i s c s 1 0 :=
  command.trans ((powered_on on).trans (named_outside outside))

theorem mainCommands_powered (s : State) (c : CmdCtx) (oid : BitVec 24) (pa pb n : Nat) (v w : Word) (q : BitVec 16) (ok : Bool)
    (ls : List (Nat × List Byte)) : ∀ i ∈ mainCommands c oid pa pb n v w q ok ls, ∃ k, exec i s = powered s c k := by
  simp only [mainCommands, List.forall_mem_cons, List.not_mem_nil, false_imp_iff, implies_true, and_true]
  repeat' constructor

theorem dueInput_none {g : Nat} {ps : List (Nat × Instr)} (h : ∀ p ∈ ps, g < p.1) : dueInput g ps = none := by
  induction ps with
  | nil => rfl
  | cons p t ih =>
    obtain ⟨later_, rest⟩ := List.forall_mem_cons.1 h
    rw [dueInput, if_neg (not_le.2 later_), ih rest]
    rfl

/-- Without the main rail the oldest command that waits answers NOPOWER. -/
theorem step_noPower {x : CmdWait} {rest : List CmdWait} (off : s.base.rail = false) (turn : s.phase = .base) (idle : ∀ p ∈ s.inputs, s.gtc < p.1)
    (waits : s.base.cmdWaits = x :: rest) : step s = .next (respond (withBase s (fun b => { b with cmdWaits := rest })) x.c 3 0) := by
  have dropped : dropWait s x = withBase s (fun b => { b with cmdWaits := rest }) := by
    have rest_ : s.base.cmdWaits.erase x = rest := by
      rw [waits, List.erase_cons_head]
    unfold dropWait withBase onBase
    dsimp only
    rw [rest_]
  have act : nextAction s = .go (respond (dropWait s x) x.c 3 0) := by
    simp only [nextAction, turn, baseAct, dueInput_none idle, off, railAct, waits]
    rfl
  rw [step, act, dropped]

end

/-! ## The object table (22 R392, R394, R395) -/

section
variable {s : State} {c : CmdCtx} {oid : BitVec 24} {pa n : Nat}

/-- The pages of an image. -/
theorem pagesOf_eq_sum (es : List Extent) : pagesOf es = (es.map (fun x => x.npg)).sum := by
  rw [pagesOf, List.sum_eq_foldl, List.foldl_map]

/-- The refusals of OBJSET. -/
theorem badImage_iff (u : State) (e : ObjEnt) : BadImage u e ↔
    ((findObj u e.oid).isSome || e.space.val == 0 || decide (3 < e.space.val) || !e.exts.all (extentOk u e.space.val e.dielocal e.die) ||
      decide (pagesOf e.exts * 4096 < e.len)) = true := by
  simp only [BadImage, pagesOf_eq_sum, Bool.or_eq_true, beq_iff_eq, decide_eq_true_eq, Bool.not_eq_true', List.all_eq_false, or_assoc,
    Bool.not_eq_true]

theorem exec_objset_waits (on : s.base.rail = true) (inside : paRangeOk pa 128 = true) (waits : (readRange s c.pid pa 128).2 = none) :
    exec (.objset c pa) s = .next (later (readRange s c.pid pa 128).1 (.objset c pa)) := by
  change execObjset c pa s = _
  rw [execObjset, powered_on on, named_inside inside, fetched_waits waits]

section
variable {u : State} {e : ObjEnt} (on : s.base.rail = true) (inside : paRangeOk pa 128 = true) (reads : (readRange s c.pid pa 128).2 ≠ none)
  (after_ : (readRange s c.pid pa 128).1 = u) (image : entryOf ((readRange s c.pid pa 128).2.getD []) = e)
include on inside reads after_ image

theorem exec_objset_refuses (bad : BadImage u e) : exec (.objset c pa) s = .next (respond u c 1 0) := by
  change execObjset c pa s = _
  rw [execObjset, powered_on on, named_inside inside, fetched_reads reads, after_, image]
  exact if_pos ((badImage_iff u e).1 bad)

theorem exec_objset_makes (ok : ¬ BadImage u e) :
    exec (.objset c pa) s = .next (respond (withBase u (fun b => { b with objs := b.objs ++ [e] })) c 0 0) := by
  change execObjset c pa s = _
  rw [execObjset, powered_on on, named_inside inside, fetched_reads reads, after_, image]
  exact if_neg (mt (badImage_iff u e).2 ok)

end

theorem exec_objrd (inside : paRangeOk pa 128 = true) : exec (.objrd c oid pa) s =
    .next (respond (basePut s c.pid pa (match s.base.objs.find? (fun o => o.oid == oid) with
      | some o => entryBytes o
      | none => bytesOf (oid.toNat * 2 ^ 40) 8 ++ List.replicate 120 0)) c 0 0) := by
  change execObjrd c oid pa s = _
  rw [execObjrd, named_inside inside]
  rfl

theorem answered_eq (k : Core) (oid : BitVec 24) (x : Nat) : answered k oid x = answered' oid x k := by
  have stay : k.posted.filter (fun p => p != (oid, x)) = k.posted.filter (fun p => decide (p ≠ (oid, x))) :=
    List.filter_congr fun p _ => by simp [bne, Bool.beq_eq_decide_eq]
  unfold answered answered'
  rw [stay]

theorem exec_objextResolve_none (on : s.base.rail = true) (v : Word) (resident : missingExtent s oid n = none) :
    exec (.objextResolve c oid n v) s = .next (respond s c 1 0) := by
  change execObjextResolve c oid n v s = _
  rw [execObjextResolve, powered_on on, resident]

theorem exec_objextResolve_some (on : s.base.rail = true) (v : Word) {o : ObjEnt} {x : Extent} (missing : missingExtent s oid n = some (o, x)) :
    exec (.objextResolve c oid n v) s =
      (let x' : Extent := ⟨bitsOf v.toNat 55 12 * 4096, true, x.npg⟩
       if extentOk s o.space.val o.dielocal o.die x' = true then
        .next (respond (onCores (withEntry s oid (fun o => { o with exts := o.exts.set n x' })) (answered' oid n)) c 0 0)
       else .next (respond s c 1 0)) := by
  change execObjextResolve c oid n v s = _
  rw [execObjextResolve, powered_on on, missing]
  simp only [answered_eq, Bool.not_eq_true']
  cases extentOk s o.space.val o.dielocal o.die ⟨bitsOf v.toNat 55 12 * 4096, true, x.npg⟩ <;> rfl

theorem exec_objextFail_none (on : s.base.rail = true) (resident : missingExtent s oid n = none) :
    exec (.objextFail c oid n) s = .next (respond s c 1 0) := by
  change execObjextFail c oid n s = _
  rw [execObjextFail, powered_on on, resident]

theorem exec_objextFail_some (on : s.base.rail = true) {p : ObjEnt × Extent} (missing : missingExtent s oid n = some p) :
    exec (.objextFail c oid n) s = .next (respond (onCores
      (withBase s (fun b => { b with ctxs := b.ctxs.map (fun y => { y with reports := failReps s oid n y.reports }) }))
      (fun k => failExtent s oid n (answered' oid n k))) c 0 0) := by
  change execObjextFail c oid n s = _
  rw [execObjextFail, powered_on on, missing]
  simp only [answered_eq]
  rfl

theorem exec_objinv_none (on : s.base.rail = true) (absent : s.base.objs.find? (fun o => o.oid == oid) = none) :
    exec (.objinv c oid n) s = .next (respond s c 0 0) := by
  change execObjinv c oid n s = _
  rw [execObjinv, powered_on on, absent]

theorem exec_objinv_some (on : s.base.rail = true) {o : ObjEnt} (entry : s.base.objs.find? (fun o => o.oid == oid) = some o) :
    exec (.objinv c oid n) s =
      (let t := withEntry s oid (fun o => { o with state := 2 })
       if o.pins = 0 then .next (respond (dropEntry t o) c 0 0)
       else .next (withBase t (fun b => { b with cmdWaits := b.cmdWaits ++ [⟨c, some oid, 0, s.gtc + n⟩] }))) := by
  change execObjinv c oid n s = _
  rw [execObjinv, powered_on on, entry]
  rfl

theorem exec_objinvTimeout {x : CmdWait} (waits : s.base.cmdWaits.find? (fun y => y.oid == some oid) = some x) :
    exec (.objinvTimeout oid) s = if x.deadline ≤ s.gtc then
      .next (respond (withBase s (fun b => { b with cmdWaits := b.cmdWaits.erase x })) x.c 2 0) else .next s := by
  change execObjinvTimeout oid s = _
  rw [execObjinvTimeout, invWait, waits]
  rfl

/-! ## Span tables and capabilities (11 R268, R269, 22 R391) -/

theorem exec_spcreate_none (on : s.base.rail = true) (absent : s.base.objs.find? (fun o => o.oid == oid) = none) :
    exec (.spcreate c oid n) s = .next (respond s c 1 0) := by
  change execSpcreate c oid n s = _
  rw [execSpcreate, powered_on on, absent]

/-- A span table is made of a STAGE object in one slice, with a length that its entries fill. -/
theorem exec_spcreate_some (on : s.base.rail = true) {o : ObjEnt} (entry : s.base.objs.find? (fun o => o.oid == oid) = some o) :
    exec (.spcreate c oid n) s =
      (let ncap := (o.len - 64) / 16
       let legal := o.space = 1 ∧ oneSlice o = true ∧ o.len = 64 + 16 * ncap ∧ 0 < ncap ∧ ncap ≤ 65535 ∧ 0 < n ∧ n ≤ 4096
       let bare := bytesOf 0 8 ++ bytesOf (n + 0xFFFF * 2 ^ 32) 8 ++ List.replicate (o.len - 16) 0
       if legal then .next (respond (withEntry (homePutLong (withEntry s oid (fun o => { o with span := false })) o 0 bare c.pid) oid
          (fun o => { o with span := true })) c 0 0)
       else .next (respond s c 1 0)) := by
  change execSpcreate c oid n s = _
  rw [execSpcreate, powered_on on, entry]
  dsimp only
  generalize hcap : (o.len - 64) / 16 = ncap
  have illegal : (o.space != 1 || !oneSlice o || decide (o.len ≠ 64 + 16 * ncap) || decide (ncap = 0) || decide (65535 < ncap) ||
      decide (n = 0) || decide (4096 < n)) = true ↔
      ¬ (o.space = 1 ∧ oneSlice o = true ∧ o.len = 64 + 16 * ncap ∧ 0 < ncap ∧ ncap ≤ 65535 ∧ 0 < n ∧ n ≤ 4096) := by
    simp only [Bool.or_eq_true, bne_iff_ne, Bool.not_eq_true', decide_eq_true_eq, not_and_or, not_lt, not_le, Bool.not_eq_true, or_assoc,
      Nat.le_zero, ne_eq]
  simp only [illegal, ite_not]
  rfl

theorem exec_capstore (on : s.base.rail = true) (inside : paRangeOk pa 16 = true) (v w : Word) : exec (.capstore c pa v w) s =
    (let bs := bytesOf v.toNat 8 ++ bytesOf w.toNat 8
     if pa % 16 ≠ 0 ∨ tagged s.base pa 16 = true ∨ ∃ p, objAtPa s pa = some p ∧ p.1.span = true then .next (respond s c 1 0)
     else .next (respond (match objAtPa s pa with
      | some p => homeStore s none p.1 p.2 bs true false c.pid
      | none => homePutPa s pa bs true false c.pid) c 0 0)) := by
  have span : ((objAtPa s pa).map (fun o => o.1.span)).getD false = true ↔ ∃ p, objAtPa s pa = some p ∧ p.1.span = true := by
    cases objAtPa s pa <;> simp
  change execCapstore c pa v w s = _
  rw [execCapstore, powered_on on, named_inside inside]
  simp only [Bool.or_eq_true, decide_eq_true_eq, span, or_assoc]
  refine ite_congr rfl (fun _ => rfl) (fun _ => ?_)
  cases objAtPa s pa <;> rfl

/-! ## Page bias (10 R251) -/

theorem biasPage_iff (p : Nat) : biasPage p = true ↔ paRangeOk (p * 4096) 4096 = true ∧ paKind (p * 4096) ≠ .host := by
  simp [biasPage]

/-- The words of a page, core by core, go home and leave the L1s. -/
def wordsHome (s : State) (p : Nat) : State :=
  ((allCores s).map (fun c => c.id)).foldl (fun s k => dropWords (writeBack s k (fun w => w.pa / 4096 == p)) k (fun w => w.pa / 4096 == p)) s

theorem exec_biasToHost (on : s.base.rail = true) (inside : paRangeOk pa 1 = true) : exec (.biasToHost c pa) s =
    (let p := pa / 4096
     let home := ((wordsHome s p).base.lines.filter (fun l => l.gran * 256 / 4096 == p)).foldl lineBack (wordsHome s p)
     if biasPage p = false then .next (respond s c 1 0)
     else if p ∈ s.base.bias then .next (respond s c 0 0)
     else .next (respond (withBase home (fun b => { b with
        dir := b.dir.filter (fun d => decide (d.block * 128 / 4096 ≠ p))
        lines := b.lines.filter (fun l => decide (l.gran * 256 / 4096 ≠ p))
        bias := b.bias ++ [p] })) c 0 0)) := by
  have bneDecide (a b : Nat) : (a != b) = decide (a ≠ b) := by simp [bne, Bool.beq_eq_decide_eq]
  change execBiasToHost c pa s = _
  rw [execBiasToHost, powered_on on, named_inside inside]
  simp only [Bool.not_eq_true', List.contains_iff_mem, bneDecide, wordsHome, List.foldl_map]
  rfl

theorem exec_biasToDevice (on : s.base.rail = true) (inside : paRangeOk pa 1 = true) (ls : List (Nat × List Byte)) :
    exec (.biasToDevice c pa ls) s =
    (let p := pa / 4096
     let inPage := ls.filter (fun l => decide (l.1 / 4096 = p ∧ (l.1 + l.2.length - 1) / 4096 = p) && hostMapped l.1)
     if p ∈ s.base.bias then .next (respond (withBase (inPage.foldl (fun s l => writeRange s s.base.hpid l.1 l.2) s)
        (fun b => { b with bias := b.bias.filter (fun x => decide (x ≠ p)) })) c 0 0)
     else .next (respond s c 0 0)) := by
  have bneDecide (a b : Nat) : (a != b) = decide (a ≠ b) := by simp [bne, Bool.beq_eq_decide_eq]
  have mine : ls.filter (fun l => hostMapped l.1 && l.1 / 4096 == pa / 4096 && (l.1 + l.2.length - 1) / 4096 == pa / 4096) =
      ls.filter (fun l => decide (l.1 / 4096 = pa / 4096 ∧ (l.1 + l.2.length - 1) / 4096 = pa / 4096) && hostMapped l.1) :=
    List.filter_congr fun l _ => by
      rw [Bool.and_assoc, Bool.and_comm, Bool.decide_and, Bool.beq_eq_decide_eq, Bool.beq_eq_decide_eq]
  change execBiasToDevice c pa ls s = _
  rw [execBiasToDevice, powered_on on, named_inside inside]
  simp only [List.contains_iff_mem, mine, bneDecide]
  rfl

/-! ## Launches and queues (22 R391, R397) -/

theorem recordPlace_iff (pa : Nat) : recordPlace pa = true ↔ pa % 64 = 0 ∧ paKind pa ≠ .host := by
  simp [recordPlace]

section
variable (on : s.base.rail = true) (inside : paRangeOk pa 128 = true)
include on inside

theorem exec_launchq_misplaced (bad : ¬ (pa % 64 = 0 ∧ paKind pa ≠ .host)) : exec (.launchq c pa n) s = .next (respond s c 1 0) := by
  change execLaunchq c pa n s = _
  rw [execLaunchq, powered_on on, named_inside inside]
  exact if_pos (by simpa using mt (recordPlace_iff pa).1 bad)

variable (aligned : pa % 64 = 0) (device : paKind pa ≠ .host)
include aligned device

theorem exec_launchq_waits (waits : (readRange s c.pid pa 128).2 = none) :
    exec (.launchq c pa n) s = .next (later (readRange s c.pid pa 128).1 (.launchq c pa n)) := by
  change execLaunchq c pa n s = _
  rw [execLaunchq, powered_on on, named_inside inside, (recordPlace_iff pa).2 ⟨aligned, device⟩, fetched_waits waits]
  rfl

variable {u : State} {hdr : List Byte} (header : (readRange s c.pid pa 128).2 ≠ none) (after_ : (readRange s c.pid pa 128).1 = u)
  (bytes : (readRange s c.pid pa 128).2.getD [] = hdr)
include header after_ bytes

theorem exec_launchq_otherQueue (other : (recordQueue hdr).map (fun k => k.val) ≠ some n) :
    exec (.launchq c pa n) s = .next (respond u c 1 0) := by
  change execLaunchq c pa n s = _
  rw [execLaunchq, powered_on on, named_inside inside, (recordPlace_iff pa).2 ⟨aligned, device⟩, fetched_reads header, after_, bytes]
  exact if_pos other

/-- A header of its queue: the whole record is read, and offered to the walker. -/
theorem exec_launchq_mine (mine : (recordQueue hdr).map (fun k => k.val) = some n) : exec (.launchq c pa n) s =
    named u c pa (recordSize hdr) (fun s => fetched s c pa (recordSize hdr) (.launchq c pa n) (fun s d =>
      match offer s c.pid d (tagAt s.base (pa + 16)) with
      | .accepted s id => .next (respond s c 0 id.toNat)
      | .full => .next (respond s c 1 0)
      | .denied => .next (respond s c 1 0))) := by
  change execLaunchq c pa n s = _
  rw [execLaunchq, powered_on on, named_inside inside, (recordPlace_iff pa).2 ⟨aligned, device⟩, fetched_reads header, after_, bytes]
  exact if_neg (not_not.2 mine)

end

theorem exec_qcfg (on : s.base.rail = true) (k : Fin 16) (q : BitVec 16) :
    exec (.qcfg c k.val q) s = .next (respond (withBase s (fun b => { b with qcfg := b.qcfg.set k q })) c 0 0) := by
  change execQcfg c k.val q s = _
  rw [execQcfg, powered_on on]
  exact dif_pos k.isLt

theorem exec_qcfg_beyond (on : s.base.rail = true) (q : BitVec 16) (beyond : 16 ≤ n) : exec (.qcfg c n q) s = .next (respond s c 1 0) := by
  change execQcfg c n q s = _
  rw [execQcfg, powered_on on]
  exact dif_neg (not_lt.2 beyond)

end

end Sys2Proof.Machine

/-- Settles O55: each command by the outcome that its operands and the table give. -/
theorem tableCommandsActAndAnswer : Obligations.TableCommandsActAndAnswer := by
  intro s c oid pa pb n v w q ok ls
  refine ⟨fun off i hi => ?_, fun x rest off turn idle waits => step_noPower off turn idle waits, exec_objrd, fun outside => ?_, fun on => ?_,
    fun x waits => ⟨fun due => ?_, fun early => ?_⟩⟩
  · obtain ⟨k, hk⟩ := mainCommands_powered s c oid pa pb n v w q ok ls i hi
    exact hk.trans (powered_off off)
  · change execObjrd c oid pa s = _
    rw [execObjrd, named_outside outside]
  · refine ⟨fun outside => ?_, fun outside => ?_, fun outside => ?_,
      fun inside => ⟨exec_objset_waits on inside, fun reads => exec_objset_refuses on inside reads rfl rfl,
        fun reads => exec_objset_makes on inside reads rfl rfl⟩,
      ⟨fun resident => ⟨exec_objextResolve_none on v resident, exec_objextFail_none on resident⟩,
        fun o x missing => ⟨fun bad => ?_, fun fits => ?_, exec_objextFail_some on missing⟩⟩,
      fun absent => ⟨exec_objinv_none on absent, exec_spcreate_none on absent⟩,
      fun o entry => ⟨fun free => ?_, fun pinned => ?_, fun illegal => ?_, fun legal => ?_⟩,
      fun inside => ⟨fun refused => ?_, fun stores => ?_⟩,
      fun inside => ⟨fun other => ?_, fun device host => ?_, fun device own => ?_, fun own => ?_, fun host => ?_⟩,
      fun inside bad => exec_launchq_misplaced on inside bad,
      fun inside aligned device => ⟨exec_launchq_waits on inside aligned device,
        fun header other => exec_launchq_otherQueue on inside aligned device header rfl rfl other,
        fun header mine reaches waits => ?_, fun header mine reaches reads => ⟨fun t id accepted => ?_, fun refused => ?_⟩,
        fun header mine outside => ?_⟩,
      fun k => exec_qcfg on k q, exec_qcfg_beyond on q⟩
    · simp only [List.forall_mem_cons, List.not_mem_nil, false_imp_iff, implies_true, and_true]
      exact ⟨answers_outside on outside rfl, answers_outside on outside rfl⟩
    · exact answers_outside on outside rfl
    · simp only [List.forall_mem_cons, List.not_mem_nil, false_imp_iff, implies_true, and_true]
      exact ⟨answers_outside on outside rfl, answers_outside on outside rfl⟩
    · exact (exec_objextResolve_some on v missing).trans (if_neg (by simpa using bad))
    · exact (exec_objextResolve_some on v missing).trans (if_pos fits)
    · exact (exec_objinv_some on entry).trans (if_pos free)
    · exact (exec_objinv_some on entry).trans (if_neg pinned)
    · exact (exec_spcreate_some on entry).trans (if_neg illegal)
    · exact (exec_spcreate_some on entry).trans (if_pos legal)
    · exact (exec_capstore on inside v w).trans (if_pos refused)
    · exact (exec_capstore on inside v w).trans (if_neg stores)
    · exact (exec_biasToHost on inside).trans (if_pos (by simpa using mt (biasPage_iff _).1 other))
    · exact (exec_biasToHost on inside).trans ((if_neg (by simpa using (biasPage_iff _).2 device)).trans (if_pos host))
    · exact (exec_biasToHost on inside).trans ((if_neg (by simpa using (biasPage_iff _).2 device)).trans (if_neg own))
    · exact (exec_biasToDevice on inside ls).trans (if_neg own)
    · exact (exec_biasToDevice on inside ls).trans (if_pos host)
    · rw [exec_launchq_mine on inside aligned device header rfl rfl mine, named_inside reaches, fetched_waits waits]
    · unfold Answers
      rw [exec_launchq_mine on inside aligned device header rfl rfl mine, named_inside reaches, fetched_reads reads, accepted]
    · unfold Answers
      rw [exec_launchq_mine on inside aligned device header rfl rfl mine, named_inside reaches, fetched_reads reads]
      rcases refused with full | denied
      · rw [full]
      · rw [denied]
    · exact (exec_launchq_mine on inside aligned device header rfl rfl mine).trans (named_outside outside)
  · exact (exec_objinvTimeout waits).trans (if_pos due)
  · exact (exec_objinvTimeout waits).trans (if_neg (not_le.2 early))
end

section
/-! Signatures and encoded messages (22 R401, R402): an encoding has the form that its check takes, and a signature of zeros recovers zeros,
whose last octet is no trailer. -/

open Sys2Proof Sys2Proof.Machine Sys2Proof.Claims

namespace Sys2Proof.Machine

theorem sha512_length (m : List Byte) : (sha512 m).length = 64 := by
  simp [sha512, wordBytes]

theorem mgf1_length (seed : List Byte) (n : Nat) : (mgf1 seed n).length = n := by
  have blocks : n ≤ (n + 63) / 64 * 64 := by omega
  simpa [mgf1, List.length_flatMap, sha512_length] using blocks

theorem octetXor_cancels : ∀ a b : List Byte, a.length = b.length → octetXor (octetXor a b) b = a
  | [], _, _ => rfl
  | x :: a, [], h => by cases h
  | x :: a, y :: b, h => by
    have tail := octetXor_cancels a b (Nat.succ.inj h)
    unfold octetXor at tail ⊢
    rw [List.zipWith_cons_cons, List.zipWith_cons_cons, tail, BitVec.xor_assoc, BitVec.xor_self, BitVec.xor_zero]

theorem clearTop_idem (bs : List Byte) : clearTop (clearTop bs) = clearTop bs := by
  cases bs with
  | nil => rfl
  | cons b t =>
    have masks : (b &&& 0x7F) &&& 0x7F = b &&& 0x7F := by rw [BitVec.and_assoc, BitVec.and_self]
    exact congrArg (· :: t) masks

theorem clearTop_length (bs : List Byte) : (clearTop bs).length = bs.length := by
  cases bs with
  | nil => rfl
  | cons b t => rfl

/-- A block whose first octet is zero comes back from its masked form, although the mask's top bit is cleared. -/
theorem unmask_masked (t mask : List Byte) (same : (0 :: t).length = mask.length) :
    clearTop (octetXor (clearTop (octetXor (0 :: t) mask)) mask) = 0 :: t := by
  cases mask with
  | nil => cases same
  | cons y b =>
    have tail : octetXor (octetXor t b) b = t := octetXor_cancels t b (Nat.succ.inj same)
    have head : ((0 ^^^ y) &&& 0x7F ^^^ y) &&& 0x7F = (0 : Byte) := by
      ext k hk
      cases hy : y[k] <;> simp [hy]
    exact congrArg₂ List.cons head tail

theorem pssBlock_cons (salt : List Byte) : pssBlock salt = 0 :: (List.replicate 381 0 ++ 1 :: salt) := rfl

theorem pssBlock_eq_append (salt : List Byte) : pssBlock salt = (List.replicate 382 0 ++ [1]) ++ salt :=
  (List.append_assoc (List.replicate 382 0) [1] salt).symm

theorem pssLead_length : (List.replicate 382 (0 : Byte) ++ [1]).length = 383 := by
  rw [List.length_append, List.length_replicate]
  rfl

theorem pssBlock_length (salt : List Byte) : (pssBlock salt).length = 383 + salt.length := by
  rw [pssBlock_eq_append, List.length_append, pssLead_length]

theorem pssMatches_pssEncode (m salt : List Byte) (long : salt.length = 64) : pssMatches m (pssEncode m salt) = true := by
  have hashed : (pssHash m salt).length = 64 := sha512_length _
  unfold pssEncode
  generalize hh : pssHash m salt = h at hashed
  have mask := mgf1_length h 447
  have block : (pssBlock salt).length = 447 := by rw [pssBlock_length, long]
  have unmasked : clearTop (octetXor (clearTop (octetXor (pssBlock salt) (mgf1 h 447))) (mgf1 h 447)) = pssBlock salt :=
    unmask_masked _ _ (block.trans mask.symm)
  have masked : (clearTop (octetXor (pssBlock salt) (mgf1 h 447))).length = 447 := by
    rw [clearTop_length, octetXor, List.length_zipWith, block, mask, Nat.min_self]
  have fixed := clearTop_idem (octetXor (pssBlock salt) (mgf1 h 447))
  dsimp only
  generalize clearTop (octetXor (pssBlock salt) (mgf1 h 447)) = e at unmasked masked fixed
  have first : (e ++ h ++ [0xBC]).take 447 = e := by rw [List.append_assoc, List.take_left' masked]
  have second : ((e ++ h ++ [0xBC]).drop 447).take 64 = h := by rw [List.append_assoc, List.drop_left' masked, List.take_left' hashed]
  have trailer : (e ++ h ++ [0xBC]).getLast? = some (0xBC : Byte) := List.getLast?_concat
  unfold pssMatches
  rw [first, second]
  dsimp only
  rw [unmasked, fixed, trailer, pssBlock_eq_append, List.take_left' pssLead_length, List.drop_left' pssLead_length, hh, beq_self_eq_true,
    beq_self_eq_true, beq_self_eq_true, beq_self_eq_true]
  rfl

theorem octetsNat_zeros (n : Nat) : octetsNat (List.replicate n 0) = 0 := by
  rw [octetsNat, List.reverse_replicate]
  induction n with
  | zero => rfl
  | succ n ih => rw [List.replicate_succ, bytesNat, ih]; rfl

theorem natOctets_zero_getLast (n : Nat) : (natOctets (n + 1) 0).getLast? = some 0 := by
  simp [natOctets, natBytes, List.range_succ_eq_map]

theorem romExponent_odd : romExponent % 2 = 1 := by
  unfold romExponent
  omega

theorem imageVerifies_zeros (m : List Byte) : imageVerifies (m ++ List.replicate 512 0) = false := by
  have cut : (m ++ List.replicate 512 (0 : Byte)).length - pssLen = m.length := by
    rw [List.length_append, List.length_replicate]
    exact Nat.add_sub_cancel ..
  have recovered : powMod romModulus 4096 (octetsNat (List.replicate 512 0)) romExponent = 0 := by
    rw [octetsNat_zeros]
    exact powMod_zero _ 4095 _ romExponent_odd
  have last : (natOctets pssLen 0).getLast? = some 0 := natOctets_zero_getLast 511
  have refused (em : List Byte) (l : em.getLast? = some 0) : pssMatches m em = false := by
    unfold pssMatches
    rw [l]
    rfl
  unfold imageVerifies
  dsimp only
  rw [cut, List.take_left, List.drop_left, pssVerify, recovered, refused _ last, Bool.and_false]

end Sys2Proof.Machine
end

section
/-! A fence takes no time: what the base does for the cores of a die keeps GTC, the requests that it applies for them too (01 R38, 09 R227,
log entry 86). -/

open Sys2Proof Sys2Proof.Machine Sys2Proof.Claims

namespace Sys2Proof.Machine

/-- GTC stands at `g`. -/
def AtGtc (g : Nat) (s : State) : Prop := s.gtc = g

/-- Where an outcome goes on, GTC stands at `g`. -/
def OutAtGtc (g : Nat) : Out → Prop
  | .next t => AtGtc g t
  | _ => True

/-- Whatever an operation of the sequencer results in, GTC stands at `g`. -/
def ResAtGtc {α : Type} (g : Nat) : Res α → Prop
  | .ok s _ => AtGtc g s
  | .stall s => AtGtc g s
  | .trap s _ => AtGtc g s

section
variable {g : Nat} {s t : State}

theorem AtGtc.of_settled (h : AtGtc g s) (same : settled t = settled s) : AtGtc g t := (congrArg Prod.fst same).trans h

theorem AtGtc.of_kept (h : AtGtc g s) (kept : Kept s t) : AtGtc g t := h.of_settled kept.settled

/-- A change that leaves GTC as it is. -/
theorem AtGtc.frame (h : AtGtc g s) (same : t.gtc = s.gtc := by rfl) : AtGtc g t := same.trans h

theorem AtGtc.ite {c : Prop} [Decidable c] (hs : AtGtc g s) (ht : AtGtc g t) : AtGtc g (if c then s else t) := by
  split
  · exact hs
  · exact ht

theorem AtGtc.of_eq {α : Type} {r : State × α} {v : α} (h : AtGtc g r.1) (hr : r = (t, v)) : AtGtc g t := by
  subst hr
  exact h

theorem AtGtc.foldl {β : Type} {f : State → β → State} (h : AtGtc g s) (hf : ∀ s b, AtGtc g s → AtGtc g (f s b)) (l : List β) :
    AtGtc g (l.foldl f s) := foldl_keeps (AtGtc g) f hf l s h

theorem AtGtc.foldl_fst {α β : Type} {f : State × α → β → State × α} (h : AtGtc g s) (hf : ∀ a b, AtGtc g a.1 → AtGtc g (f a b).1) (a : α)
    (l : List β) : AtGtc g (l.foldl f (s, a)).1 := foldl_keeps (fun p : State × α => AtGtc g p.1) f hf l (s, a) h

theorem OutAtGtc.next {o : Out} (h : OutAtGtc g o) (ho : o = .next t) : AtGtc g t := by
  subst ho
  exact h

theorem OutAtGtc.ite {c : Prop} [Decidable c] {o p : Out} (ho : OutAtGtc g o) (hp : OutAtGtc g p) : OutAtGtc g (if c then o else p) := by
  split
  · exact ho
  · exact hp

/-! ## The homes (09 R217, 10 R233, R251) -/

section
variable {o : ObjEnt} {off n pa id : Nat} {bs : List Byte} {me src : Option Nat} {pid : Fin 16} {k : PacketKind}

theorem AtGtc.dropWords (h : AtGtc g s) {p : L1Word → Bool} : AtGtc g (dropWords s id p) := h.of_settled (settled_onCore ..)

theorem AtGtc.writeBack (h : AtGtc g s) {p : L1Word → Bool} : AtGtc g (writeBack s id p) := h.of_settled (settled_writeBack ..)

theorem AtGtc.takeBack (h : AtGtc g s) {read : Bool} : AtGtc g (takeBack s me o off n read) := by
  refine h.foldl (fun s b h => ?_) _
  split
  · exact h
  · have recalled {pa : Nat} : AtGtc g (hostRecall s pa) := h.of_settled (settled_hostRecall ..)
    exact AtGtc.ite (recalled.of_settled (settled_probe ..)) recalled

theorem AtGtc.serve (h : AtGtc g s) {home up down : Nat} : AtGtc g (serve s home up down pid k src) := h.of_kept (.serve ..)

theorem AtGtc.homePut (h : AtGtc g s) {tag atomic : Bool} : AtGtc g (homePut s o off bs tag atomic pid) := h.of_kept (homePut_changes ..)

theorem AtGtc.homeGet (h : AtGtc g s) : AtGtc g (homeGet s me o off n pid k src).1 := by
  unfold Machine.homeGet
  split
  · exact h
  · exact h.serve.takeBack

theorem AtGtc.homeTake (h : AtGtc g s) : AtGtc g (homeTake s me o off n pid k src).1 := by
  unfold Machine.homeTake
  split
  · exact h
  · exact h.serve.takeBack

theorem AtGtc.homeStore (h : AtGtc g s) {tag atomic : Bool} : AtGtc g (homeStore s me o off bs tag atomic pid k src) := by
  unfold Machine.homeStore
  split
  · exact h
  · exact h.serve.takeBack.homePut

theorem AtGtc.homePutLong (h : AtGtc g s) : AtGtc g (homePutLong s o off bs pid) := h.foldl (fun _ _ h => h.ite h.homeStore) _

theorem AtGtc.dramRead (h : AtGtc g s) {core : Nat} : AtGtc g (dramRead s o off n core pid).1 := h.of_kept (.dramRead ..)

theorem AtGtc.logEvent (h : AtGtc g s) {kind addr die pid : Nat} : AtGtc g (logEvent s kind addr die pid) := by
  unfold Machine.logEvent
  dsimp only
  generalize memNat s.base.mem eventLogPa 8 = n
  have app := h.of_kept (.logAppend s eventLogPa s.gtc addr (kind + die * 256 + pid * 65536) (n % 2 ^ 32))
  generalize logAppend _ _ _ _ _ _ = u at app ⊢
  exact app

/-! ## The store buffer (10 R232) -/

theorem AtGtc.l1Room (h : AtGtc g s) : AtGtc g (l1Room s pa) := h.ite h.writeBack.dropWords

theorem AtGtc.l1Fill (h : AtGtc g s) : AtGtc g (l1Fill s o off) := by
  unfold Machine.l1Fill
  split
  · exact h
  · split
    · exact h
    · exact h.l1Room.homeGet.frame

theorem AtGtc.takeOwnership (h : AtGtc g s) : AtGtc g (takeOwnership s o pa) := by
  unfold Machine.takeOwnership
  split
  · exact ((h.serve.of_settled (settled_hostRecall ..)).of_settled (settled_probe ..)).frame
  · exact h

theorem AtGtc.l1Store (h : AtGtc g s) {tag pair : Bool} : AtGtc g (l1Store s o off bs tag pair) := by
  unfold Machine.l1Store
  dsimp only
  split
  · exact h
  · exact AtGtc.frame (h.takeOwnership.l1Fill.ite (h.takeOwnership.ite h.takeOwnership.l1Room))

theorem AtGtc.drainOne (h : AtGtc g s) : AtGtc g (drainOne s) := by
  unfold Machine.drainOne
  split
  · exact h
  · split
    · exact h.frame
    · rename_i e rest _ _ o _
      have fetched : AtGtc g (drainFetch s o e).1 := h.of_kept (.drainFetch s o e)
      have left : AtGtc g { (drainFetch s o e).1 with core := { (drainFetch s o e).1.core with sb := rest } } := fetched.frame
      dsimp only
      split
      · exact fetched
      · split
        · split
          · exact left.l1Store
          · exact left.l1Store.l1Store
        · exact left.homeStore

theorem AtGtc.drainAll (h : AtGtc g s) : AtGtc g (drainAll s) := h.foldl (fun _ _ h => h.drainOne) _

end

/-! ## The end of a lease (04 R108, 09 R227, 22 R397) -/

section
variable {o : ObjEnt} {off n pa : Nat} {bs : List Byte} {l : Lease} {pins : List TEnt} {la : BitVec 32}

theorem AtGtc.releasePins (h : AtGtc g s) : AtGtc g (releasePins s pins la) :=
  AtGtc.frame (h.foldl (f := fun s t => if t.long then s else onObj s t.oid (fun o => { o with pins := o.pins - 1 }))
    (fun _ _ h => h.ite h.frame) pins)

theorem AtGtc.reportLaunch (h : AtGtc g s) {l : Launch} {status reason : Nat} : AtGtc g (reportLaunch s l status reason) := by
  have unpinned {u : State} (h : AtGtc g u) (ids : List (BitVec 24)) :
      AtGtc g (ids.foldl (fun s oid => onObj s oid (fun o => { o with pins := o.pins - 1 })) u) := h.foldl (fun _ _ h => h.frame) ids
  unfold Machine.reportLaunch
  cases findObj s l.complOid with
  | none => exact AtGtc.logEvent (unpinned h _).frame
  | some o => exact AtGtc.logEvent (unpinned h.homePutLong _).frame

theorem AtGtc.finishLaunch (h : AtGtc g s) : AtGtc g (finishLaunch s la) := by
  unfold Machine.finishLaunch
  split
  · exact h
  · exact h.reportLaunch.ite h

theorem AtGtc.landAtomic (h : AtGtc g s) {f : Nat → Nat} : AtGtc g (landAtomic s o off n f).1 := by
  unfold Machine.landAtomic
  split
  · exact h
  · exact h.dramRead.homeTake.homePut

theorem AtGtc.landWrite (h : AtGtc g s) (t : Transit) : AtGtc g (landWrite s t).1 := by
  unfold Machine.landWrite
  split
  · unfold landCap
    split
    · exact h
    · exact h.landAtomic
  · split
    · exact h
    · exact h.foldl (fun _ _ h => h.homeStore) _
  · split
    · exact h
    · exact h.landAtomic

theorem AtGtc.saveContext (h : AtGtc g s) {faulted : Bool} : AtGtc g (saveContext s faulted) := by
  unfold Machine.saveContext
  split
  · exact h
  · exact h.frame

theorem AtGtc.drainCore (h : AtGtc g s) : AtGtc g (drainCore s) := by
  unfold Machine.drainCore
  exact h.drainAll.writeBack.frame

theorem AtGtc.onLaunch (h : AtGtc g s) {f : Launch → Launch} : AtGtc g (onLaunch s la f) := h

theorem AtGtc.endFaulted (h : AtGtc g s) : AtGtc g (endFaulted s) := by
  have told : AtGtc g (leaseEnds s) := h.frame
  unfold Machine.endFaulted
  split
  · exact h.frame
  · have landed := told.drainCore.foldl (f := fun s t => (Machine.landWrite s t).1) (fun _ t h => h.landWrite t)
    exact ((landed _).frame (t := onEng _ _)).saveContext.onLaunch.finishLaunch

theorem AtGtc.endInterrupted (h : AtGtc g s) : AtGtc g (endInterrupted s l pins) :=
  h.releasePins.onLaunch.finishLaunch

end

/-! ## Traps and checks (04 R97 to R102) -/

section
variable {o : ObjEnt} {off n : Nat} {b : CReg}

theorem AtGtc.faultLease (h : AtGtc g s) : AtGtc g (faultLease s) := h.drainAll.endFaulted.ite h.drainAll.frame

theorem AtGtc.takeTrap (h : AtGtc g s) {x : Trap} : AtGtc g (takeTrap s x) := by
  have entered {cause : Word} : AtGtc g (enterTrap s s.core.seq.pc cause x.bad) := h.frame
  exact entered.faultLease.ite entered

theorem AtGtc.takeEFault (h : AtGtc g s) {f : EFault} : AtGtc g (takeEFault s f) := by
  have given : AtGtc g (giveUpWait s) := by
    unfold giveUpWait
    split
    · exact h.frame
    · exact h.frame
  exact given.frame

theorem AtGtc.responseTrap (h : AtGtc g s) {x : Trap} : AtGtc g (responseTrap s x) := by
  unfold Machine.responseTrap
  split
  · exact h.takeTrap.ite h.takeEFault
  · exact h.takeTrap

theorem AtGtc.touchCap (h : AtGtc g s) : AtGtc g (touchCap s b) := by
  obtain ⟨tc, objs, ls, heq, -, -⟩ := (touches_touchObj s (capOid (rdC s b)) ((rdC s b).bits.getLsbD 103)).pinFrame
  unfold Machine.touchCap
  rw [heq]
  exact h

theorem ResAtGtc.finish {α : Type} {r : Res α} (h : ResAtGtc g r) {k : State → α → Out} (hk : ∀ u v, AtGtc g u → OutAtGtc g (k u v)) :
    OutAtGtc g (finish r k) := by
  cases r with
  | ok u v => exact hk u v h
  | stall u => exact h
  | trap u x => exact AtGtc.takeTrap h

theorem AtGtc.setWait (h : AtGtc g s) {w : Wait} : AtGtc g (setWait s w) := h

theorem AtGtc.askExtent (h : AtGtc g s) : AtGtc g (askExtent s o off) := h.logEvent

theorem ResAtGtc.ite {α : Type} {c : Prop} [Decidable c] {r q : Res α} (hr : ResAtGtc g r) (hq : ResAtGtc g q) : ResAtGtc g (if c then r else q) := by
  split
  · exact hr
  · exact hq

theorem AtGtc.residencyWait (h : AtGtc g s) : ResAtGtc g (residencyWait s b o off) := by
  unfold Machine.residencyWait
  split
  · exact h.setWait
  · split
    · exact ResAtGtc.ite (ResAtGtc.ite h.setWait h) h.askExtent.setWait
    · exact h.askExtent.setWait

theorem AtGtc.withHome (h : AtGtc g s) {x : Int} {size align : Nat} {need : BitVec 8} {spaces : List (Fin 8)}
    {k : State → ObjEnt → Nat → Out} (hk : ∀ u o off, AtGtc g u → OutAtGtc g (k u o off)) :
    OutAtGtc g (withHome s b x size align need spaces k) := by
  unfold Machine.withHome
  cases checkHome s b x size align need spaces with
  | error t => exact h.takeTrap
  | ok o => exact OutAtGtc.ite (hk _ _ _ h.touchCap) h.touchCap

end

/-! ## Requests that wait at their homes (12 R283 to R285, R299) -/

section
variable {o : ObjEnt} {off n pa j id : Nat} {a c : XReg} {b : CReg} {imm : BitVec 32}

theorem AtGtc.wrX (h : AtGtc g s) {v : Word} : AtGtc g (wrX s a v) := (wrX_gtc ..).trans h

theorem AtGtc.retire (h : AtGtc g s) : AtGtc g (retire n s) := h

theorem AtGtc.atomAccess (h : AtGtc g s) {k : State → ObjEnt → Nat → Nat → Out} (hk : ∀ u o off pa, AtGtc g u → OutAtGtc g (k u o off pa)) :
    OutAtGtc g (atomAccess b imm s k) := by
  refine h.withHome (fun u o off h => ?_)
  split
  · exact h.takeTrap
  · split
    · exact h.residencyWait.finish (fun _ _ h => h)
    · have none_ : AtGtc g (Machine.setWait u .none) := h.setWait
      have own {pa : Nat} : AtGtc g (if o.space = 2 then ownWord (Machine.setWait u .none) pa else Machine.setWait u .none) :=
        (none_.writeBack.dropWords).ite none_
      dsimp only
      split
      · exact none_
      · split
        all_goals rename_i hu
        · exact (own.dramRead.of_eq hu).frame
        · exact (own.dramRead.of_eq hu).responseTrap
        · exact hk _ _ _ _ (own.dramRead.of_eq hu)

theorem AtGtc.valueAtomic (h : AtGtc g s) {f : Word → Option Word} : OutAtGtc g (valueAtomic f a b imm s) := by
  refine h.atomAccess (fun u o off pa h => ?_)
  split
  · exact h.responseTrap
  · dsimp only
    split
    · exact h.homeTake.wrX.retire
    · exact h.homeTake.homePut.wrX.retire

theorem AtGtc.execSc (h : AtGtc g s) : OutAtGtc g (execSc a b c imm s) := by
  refine h.atomAccess (fun u o off pa h => ?_)
  dsimp only
  split
  · split
    · exact h.serve.takeBack.responseTrap
    · exact (AtGtc.frame h.serve.takeBack.takeBack.homePut).wrX.retire
  · exact (AtGtc.frame h.serve.takeBack).wrX.retire

theorem AtGtc.digLines (h : AtGtc g s) {core : Nat} {pid : Fin 16} {write : Bool} : AtGtc g (digLines s o j core pid write).1 :=
  h.of_kept (.digLines ..)

theorem AtGtc.digRecall (h : AtGtc g s) : AtGtc g (digRecall s o j) := by
  refine h.foldl (fun s b h => ?_) _
  cases paOf o b.1 with
  | none => exact h
  | some pa => exact h.of_settled (settled_hostRecall ..)

theorem AtGtc.rebuildRead (h : AtGtc g s) : AtGtc g (rebuildRead s o j).1 := by
  unfold Machine.rebuildRead
  dsimp only
  exact h.digRecall.dramRead.digLines

theorem AtGtc.onBase (h : AtGtc g s) {f : Base → Base} : AtGtc g (onBase s f) := h

theorem AtGtc.rebuildBlock (h : AtGtc g s) : AtGtc g (rebuildBlock s o j) := by
  unfold Machine.rebuildBlock
  dsimp only
  exact h.serve.digLines.onBase

theorem AtGtc.rebuildBlocks (h : AtGtc g s) {js : List Nat} : ResAtGtc g (rebuildBlocks b o off js s) := by
  have read := h.foldl_fst (f := fun (acc : State × Fetch) j =>
    ((Machine.rebuildRead acc.1 o j).1, acc.2.and (Machine.rebuildRead acc.1 o j).2)) (fun a j h => by
      dsimp only
      exact h.rebuildRead) .ok js
  unfold Machine.rebuildBlocks
  dsimp only
  split
  all_goals rename_i hu
  · exact (read.of_eq hu).setWait
  · exact (read.of_eq hu).responseTrap
  · exact (read.of_eq hu).foldl (fun _ _ h => h.rebuildBlock) _

theorem AtGtc.execDrebuild (h : AtGtc g s) : OutAtGtc g (execDrebuild b c s) := by
  refine OutAtGtc.ite h.retire (h.withHome (fun u o off h => ?_))
  dsimp only
  split
  · split
    · exact h.residencyWait.finish (fun _ _ h => h)
    · exact h.setWait.rebuildBlocks.finish (fun _ _ h => h.retire)
  · exact h.takeTrap

theorem AtGtc.heldRequest (h : AtGtc g s) {i : Instr} {run : State → Out} (held : heldRequest i = some run) : OutAtGtc g (run s) := by
  unfold Machine.heldRequest at held
  split at held <;> cases held
  case h_12 => exact h.execSc
  case h_13 => exact h.execDrebuild
  all_goals exact h.valueAtomic

/-! ## The fence (09 R227) -/

theorem AtGtc.atCore (h : AtGtc g s) {f : State → State} (hf : ∀ u, AtGtc g u → AtGtc g (f u)) : AtGtc g (atCore s id f) := by
  unfold Machine.atCore
  split
  · exact hf s h
  · split
    · exact h
    · dsimp only
      split
      · exact hf _ h
      · exact hf _ h

theorem AtGtc.applyHeld (h : AtGtc g s) : AtGtc g (applyHeld s id) := by
  refine h.atCore (fun u h => ?_)
  split
  · rename_i at_
    obtain ⟨i, -, held⟩ := Option.bind_eq_some_iff.1 at_
    split
    · rename_i ran
      have open_ : AtGtc g (onCores (Machine.onBase u (fun b => { b with vbus := [] })) (fun c => { c with gated := false })) := h.frame
      exact ((open_.heldRequest held).next ran).frame
    · exact h
  · exact h

theorem AtGtc.fenceCore (h : AtGtc g s) : AtGtc g (fenceCore s id) := by
  have freed {u : State} (h : AtGtc g u) {f : Core → Core} : AtGtc g (onCore u id f) := h.of_settled (settled_onCore ..)
  have out : AtGtc g (dropPower (withdraw (Machine.applyHeld s id) id) id) := h.applyHeld.frame
  unfold Machine.fenceCore
  dsimp only
  split
  · exact out
  · split
    · exact (freed out).endInterrupted
    · exact freed out

theorem AtGtc.fenceDie (h : AtGtc g s) {d : Fin 8} : AtGtc g (fenceDie s d) := by
  have lost := h.foldl (f := fun s (c : Core) => Machine.fenceCore s c.id) (fun _ _ h => h.fenceCore)
    ((allCores s).filter (fun c => dieOf c.id == d))
  exact AtGtc.frame (lost.foldl (f := dirRefresh) (fun _ _ h => h.frame) _)

end

end

theorem fenceDie_gtc (s : State) (d : Fin 8) : (fenceDie s d).gtc = s.gtc := AtGtc.fenceDie (g := s.gtc) rfl

theorem logEvent_gtc (s : State) (kind addr die pid : Nat) : (logEvent s kind addr die pid).gtc = s.gtc := AtGtc.logEvent (g := s.gtc) rfl

end Sys2Proof.Machine
end

section
/-! The commands on dies, channels, power, captures, replays, quotes and firmware (22 R391, R396, R399, R401 to R404): each command by the
outcome that its operands give. -/

open Sys2Proof Sys2Proof.Machine Sys2Proof.Claims

namespace Sys2Proof.Machine

section
variable {s : State} {c : CmdCtx} {pa pb n : Nat} {v w : Word} {d : Fin 8}

/-! ## Dies, channels and power (08 R195, 09 R227, 22 R396, R399) -/

theorem exec_diefence_beyond (on : s.base.rail = true) (beyond : 8 ≤ n) : exec (.diefence c n) s = .next (respond s c 1 0) := by
  change execDiefence c n s = _
  rw [execDiefence, powered_on on, dif_neg (not_lt.2 beyond)]

theorem exec_diereset_beyond (on : s.base.rail = true) (beyond : 8 ≤ n) : exec (.diereset c n) s = .next (respond s c 1 0) := by
  change execDiereset c n s = _
  rw [execDiereset, powered_on on, dif_neg (not_lt.2 beyond)]

theorem exec_vbtrain_beyond (on : s.base.rail = true) {ok : Bool} (beyond : 8 ≤ n ∨ 16 ≤ pb) :
    exec (.vbtrain c n pb ok) s = .next (respond s c 1 0) := by
  change execVbtrain c n pb ok s = _
  rw [execVbtrain, powered_on on, dif_neg (by omega)]

theorem exec_lvcfg_beyond (on : s.base.rail = true) (beyond : 8 ≤ n) : exec (.lvcfg c n v w) s = .next (respond s c 1 0) := by
  change execLvcfg c n v w s = _
  rw [execLvcfg, powered_on on, dif_neg (not_lt.2 beyond)]

theorem exec_diefence (on : s.base.rail = true) (d : Fin 8) :
    exec (.diefence c d.val) s = .next (respond (logEvent (fenceDie s d) 4 0 d.val c.pid.val) c 0 0) := by
  change execDiefence c d.val s = _
  rw [execDiefence, powered_on on, dif_pos d.isLt]

theorem exec_diereset (on : s.base.rail = true) (d : Fin 8) :
    exec (.diereset c d.val) s = .next (withBase (logEvent (if (s.base.dies[d]).fenced then s else fenceDie s d) 4 0 d.val c.pid.val) (fun b =>
      { b with
        dies := b.dies.set d { b.dies[d] with resetting := true }
        cmdWaits := b.cmdWaits ++ [⟨c, none, d, s.gtc + 2 ^ 21⟩] })) := by
  have now : (if (s.base.dies[d]).fenced then s else fenceDie s d).gtc = s.gtc := by
    split
    · rfl
    · exact fenceDie_gtc s d
  change execDiereset c d.val s = _
  rw [execDiereset, powered_on on, dif_pos d.isLt]
  dsimp only
  rw [logEvent_gtc, now]
  rfl

theorem exec_vbtrain (on : s.base.rail = true) (d : Fin 8) (k : Fin 16) (ok : Bool) :
    exec (.vbtrain c d.val k.val ok) s =
      (let x := vchanOf s.base d k
       let wd := if ok then 0 else x.width
       .next (respond (withChan (logVbus s x.die x.chan (if ok then 3 else 2) 0 0 0 wd.val) { x with width := wd }) c 0 wd.val)) := by
  change execVbtrain c d.val k.val ok s = _
  rw [execVbtrain, powered_on on, dif_pos ⟨d.isLt, k.isLt⟩]
  dsimp only
  rw [putVchan_eq_withChan]

theorem costOf_eq_bitsOf (w : Word) (i : Nat) : bitsOf w.toNat (8 * i + 7) (8 * i) = costOf w i := by
  have width : 8 * i + 7 + 1 - 8 * i = 8 := by omega
  rw [bitsOf, width]
  rfl

/-- The capacity of the other dies, added up. -/
theorem foldl_others {α : Type} [DecidableEq α] (d : α) (f : α → Nat) (l : List α) (t : Nat) :
    l.foldl (fun t e => if e = d then t else t + f e) t = t + ((l.filter (fun e => e ≠ d)).map f).sum := by
  induction l generalizing t with
  | nil => rfl
  | cons e l ih =>
    rw [List.foldl_cons, ih]
    by_cases same : e = d
    · simp [same]
    · simp [same, Nat.add_assoc]

theorem badPower_iff {cap k0 k1 k2 : Nat} : BadPower s d cap k0 k1 k2 ↔ cap < max k0 (max k1 k2) ∨
    2400 < cap + (List.finRange 8).foldl (fun t e => if e = d then t else t + (s.base.dies[e]).cap) 0 := by
  rw [foldl_others, Nat.zero_add, BadPower, lt_max_iff, lt_max_iff, or_assoc, or_assoc]

theorem exec_lvcfg_refuses (on : s.base.rail = true) (bad : BadPower s d (v.toNat % 65536) (costOf w 0) (costOf w 1) (costOf w 2)) :
    exec (.lvcfg c d.val v w) s = .next (respond s c 1 0) := by
  change execLvcfg c d.val v w s = _
  rw [execLvcfg, powered_on on, dif_pos d.isLt]
  simp only [costOf_eq_bitsOf]
  exact if_pos (badPower_iff.1 bad)

theorem exec_lvcfg_sets (on : s.base.rail = true) (good : ¬ BadPower s d (v.toNat % 65536) (costOf w 0) (costOf w 1) (costOf w 2)) :
    exec (.lvcfg c d.val v w) s = .next (respond (withBase s (fun b => { b with
      dies := b.dies.set d { b.dies[d] with cap := v.toNat % 65536, costs := #v[0, costOf w 0, costOf w 1, costOf w 2] } })) c 0 0) := by
  change execLvcfg c d.val v w s = _
  rw [execLvcfg, powered_on on, dif_pos d.isLt]
  simp only [costOf_eq_bitsOf]
  exact if_neg (mt badPower_iff.2 good)

theorem overheat_eq_afterHeat (s : State) : overheat s = afterHeat s := by
  have standing : (List.finRange 8).filter (fun d => !(s.base.dies[d]).fenced) = (List.finRange 8).filter (fun d => (s.base.dies[d]).fenced = false) :=
    List.filter_congr fun d _ => by simp
  unfold overheat afterHeat
  rw [standing]

theorem exec_dieresetResponse {x : CmdWait} (waits : s.base.cmdWaits.find? (fun y => y.oid.isNone && y.die == d) = some x) :
    exec (.dieresetResponse d) s = .next (afterHeat (respond (withBase s (fun b => { b with
      cmdWaits := b.cmdWaits.erase x
      dies := b.dies.set d { b.dies[d] with fenced := false, resetting := false } })) x.c 0 0)) := by
  change execDieresetResponse d s = _
  rw [execDieresetResponse, waits]
  dsimp only
  rw [overheat_eq_afterHeat]
  rfl

/-! ## Captures and replays (22 R403, R404) -/

theorem exec_capcfgStop (on : s.base.rail = true) : exec (.capcfgStop c pa n) s =
    .next (respond (withBase s (fun b => { b with capture := { b.capture with mode := 0 } })) c 0 0) := by
  change execCapcfgStop c pa n s = _
  rw [execCapcfgStop, powered_on on]
  rfl

theorem capStart_refuses (on : s.base.rail = true) (inside : paRangeOk pa n = true) (ragged : n % 64 ≠ 0) (m : Fin 3) :
    capStart c pa n m s = .next (respond s c 1 0) := by
  rw [capStart, powered_on on, named_inside inside, if_pos ragged]

theorem capStart_starts (on : s.base.rail = true) (inside : paRangeOk pa n = true) (whole : n % 64 = 0) (m : Fin 3) :
    capStart c pa n m s = .next (respond (withBase s (fun b => { b with capture := ⟨m, pa, n, 0, 0⟩ })) c 0 0) := by
  rw [capStart, powered_on on, named_inside inside, if_neg (not_not.2 whole)]
  rfl

theorem exec_replay_refuses (on : s.base.rail = true) (inside : paRangeOk pa n = true) (ragged : n % 64 ≠ 0) :
    exec (.replay c pa n) s = .next (respond s c 1 0) := by
  change execReplay c pa n s = _
  rw [execReplay, powered_on on, named_inside inside, if_pos ragged]

theorem exec_replay_waits (on : s.base.rail = true) (inside : paRangeOk pa n = true) (whole : n % 64 = 0)
    (waits : (readRange s c.pid pa n).2 = none) : exec (.replay c pa n) s = .next (later (readRange s c.pid pa n).1 (.replay c pa n)) := by
  change execReplay c pa n s = _
  rw [execReplay, powered_on on, named_inside inside, if_neg (not_not.2 whole), fetched_waits waits]

theorem exec_replay_begins (on : s.base.rail = true) (inside : paRangeOk pa n = true) (whole : n % 64 = 0) (reads : (readRange s c.pid pa n).2 ≠ none) :
    exec (.replay c pa n) s =
      (let got := readRange s c.pid pa n
       let bs := got.2.getD []
       let recs := recordOrder (((List.range (n / 64)).map (fun k => (bs.drop (64 * k)).take 64)).filter (fun r => 1 ≤ capType r ∧ capType r ≤ 4))
       let times := recs.filter (fun r => capType r == 4)
       let rest := recs.filter (fun r => capType r != 4)
       .next (withBase got.1 (fun b => { b with replay := some ⟨c, pa, rest, lostStarts rest,
         times.map (fun r => (BitVec.ofNat 32 (recNat r 16 8), recNat r 24 8, BitVec.ofNat 64 (recNat r 32 8))), []⟩ }))) := by
  have typed : (fun r => decide (1 ≤ capType r ∧ capType r ≤ 4)) = fun r => decide (1 ≤ capType r) && decide (capType r ≤ 4) :=
    funext fun _ => Bool.decide_and ..
  change execReplay c pa n s = _
  rw [execReplay, powered_on on, named_inside inside, if_neg (not_not.2 whole), fetched_reads reads]
  dsimp only
  rw [typed]
  rfl

/-! ## Quotes and firmware (22 R401, R402) -/

theorem allZero_iff (bs : List Byte) : bs.all (· == 0) = true ↔ ∀ b ∈ bs, b = 0 := by
  simp

theorem exec_attest_refuses (outside : paRangeOk pa 64 = false ∨ paRangeOk pb 1728 = false) : exec (.attest c pa pb) s = .next (respond s c 1 0) := by
  change execAttest c pa pb s = _
  rw [execAttest]
  cases nonce : paRangeOk pa 64 with
  | false => exact named_outside nonce
  | true => exact (named_inside nonce).trans (named_outside (outside.resolve_left (by simp [nonce])))

section
variable (nonce : paRangeOk pa 64 = true) (quote : paRangeOk pb 1728 = true)
include nonce quote

theorem exec_attest_waits (waits : (readRange s c.pid pa 64).2 = none) :
    exec (.attest c pa pb) s = .next (later (readRange s c.pid pa 64).1 (.attest c pa pb)) := by
  change execAttest c pa pb s = _
  rw [execAttest, named_inside nonce, named_inside quote, fetched_waits waits]

theorem exec_attest_quotes {bs : List Byte} (reads : (readRange s c.pid pa 64).2 = some bs) : exec (.attest c pa pb) s =
    .next (respond (basePut (readRange s c.pid pa 64).1 c.pid pb (quoteOf (readRange s c.pid pa 64).1 bs)) c 0 0) := by
  change execAttest c pa pb s = _
  rw [execAttest, named_inside nonce, named_inside quote, fetched_reads (by simp [reads]), reads, Option.getD_some, quoteOf]
  simp only [allZero_iff]
  rfl

end

theorem exec_fwload_outside (outside : paRangeOk pa Config.imageSize = false) : exec (.fwload c pa) s = .next (respond s c 1 0) := by
  change execFwload c pa s = _
  rw [execFwload, named_outside outside]

section
variable (inside : paRangeOk pa Config.imageSize = true)
include inside

theorem exec_fwload_waits (waits : (readRange s c.pid pa Config.imageSize).2 = none) :
    exec (.fwload c pa) s = .next (later (readRange s c.pid pa Config.imageSize).1 (.fwload c pa)) := by
  change execFwload c pa s = _
  rw [execFwload, named_inside inside, fetched_waits waits]

theorem exec_fwload_stores {i : List Byte} (reads : (readRange s c.pid pa Config.imageSize).2 = some i) (good : imageVerifies i = true) :
    exec (.fwload c pa) s =
      .next (respond (withBase (readRange s c.pid pa Config.imageSize).1 (fun b => { b with image := some i })) c 0 0) := by
  change execFwload c pa s = _
  rw [execFwload, named_inside inside, fetched_reads (by simp [reads]), reads, Option.getD_some, if_pos good]
  rfl

theorem exec_fwload_refuses {i : List Byte} (reads : (readRange s c.pid pa Config.imageSize).2 = some i) (bad : imageVerifies i = false) :
    exec (.fwload c pa) s = .next (respond (readRange s c.pid pa Config.imageSize).1 c 1 0) := by
  change execFwload c pa s = _
  rw [execFwload, named_inside inside, fetched_reads (by simp [reads]), reads, Option.getD_some, bad]
  rfl

end

end

end Sys2Proof.Machine

/-- Settles O56: each command by the outcome that its operands give, and the two facts about encoded messages. -/
theorem moduleCommandsActAndAnswer : Obligations.ModuleCommandsActAndAnswer := by
  intro s c pa pb n v w ok
  refine ⟨fun on => ⟨fun beyond => ?_, fun d => ⟨exec_diefence on d, exec_diereset on d, fun wide => exec_vbtrain_beyond on (.inr wide),
      fun k => exec_vbtrain on d k ok, exec_lvcfg_refuses on, exec_lvcfg_sets on⟩,
      exec_capcfgStop on, fun outside => ?_, fun inside => ⟨fun ragged => ?_, fun whole => ⟨capStart_starts on inside whole 1,
        capStart_starts on inside whole 2, exec_replay_waits on inside whole, exec_replay_begins on inside whole⟩⟩⟩,
    fun nonce quote => ⟨fun bs => exec_attest_quotes nonce quote, exec_attest_waits nonce quote⟩, exec_attest_refuses, exec_fwload_outside,
    fun inside => ⟨fun i => exec_fwload_stores inside, fun i => exec_fwload_refuses inside,
      fun m reads => exec_fwload_refuses inside reads (imageVerifies_zeros m), exec_fwload_waits inside⟩,
    pssMatches_pssEncode, fun d x => exec_dieresetResponse⟩
  all_goals simp only [List.forall_mem_cons, List.not_mem_nil, false_imp_iff, implies_true, and_true]
  · exact ⟨exec_diefence_beyond on beyond, exec_diereset_beyond on beyond, exec_vbtrain_beyond on (.inl beyond), exec_lvcfg_beyond on beyond⟩
  · exact ⟨answers_outside on outside rfl, answers_outside on outside rfl, answers_outside on outside rfl⟩
  · exact ⟨capStart_refuses on inside ragged 1, capStart_refuses on inside ragged 2, exec_replay_refuses on inside ragged⟩
end

section
/-! Settled for the homes: the completion of a barrier phase (09 R222 to R225, 12 R288). -/

open Sys2Proof Sys2Proof.Machine Sys2Proof.Claims

namespace Sys2Proof.Machine

/-! ## Numbers in memory (00 R2) -/

theorem memWriteL_append (m : Mem) (a : Nat) (bs cs : List Byte) :
    memWriteL m a (bs ++ cs) = memWriteL (memWriteL m a bs) (a + bs.length) cs := by
  induction bs generalizing m a with
  | nil => rfl
  | cons b bs ih =>
    rw [List.cons_append, memWriteL, ih, List.length_cons, Nat.add_comm bs.length, ← Nat.add_assoc]
    rfl

theorem memReadN_memWriteL {m : Mem} (a : Nat) (bs : List Byte) (wf : Memory.wf m = true) :
    memReadN (memWriteL m a bs) a bs.length = bs := by
  refine List.ext_getElem (by simp [memReadN]) (fun i _ hi => ?_)
  simp [memReadN, memRead_memWriteL m a _ bs wf, hi]

theorem natBytes_succ (n v : Nat) : natBytes (n + 1) v = BitVec.ofNat 8 v :: natBytes n (v / 256) := by
  have next (k : Nat) : v / 2 ^ (8 * (k + 1)) = v / 256 / 2 ^ (8 * k) := by
    rw [Nat.div_div_eq_div_mul, Nat.mul_succ, Nat.add_comm, Nat.pow_add]
  simp [natBytes, List.range_succ_eq_map, Function.comp_def, next]

theorem bytesNat_natBytes (n v : Nat) : bytesNat (natBytes n v) = v % 2 ^ (8 * n) := by
  induction n generalizing v with
  | zero => simp [natBytes, bytesNat, Nat.mod_one]
  | succ n ih =>
    rw [natBytes_succ, bytesNat, ih, BitVec.toNat_ofNat, Nat.mul_succ, Nat.add_comm, Nat.add_comm (8 * n), Nat.pow_add, Nat.mod_mul]
    exact Nat.add_comm ..

/-- A number reads back from where it was written. -/
theorem memNat_memWriteL_natBytes {m : Mem} (a n v : Nat) (wf : Memory.wf m = true) :
    memNat (memWriteL m a (natBytes n v)) a n = v % 2 ^ (8 * n) := by
  have len : (natBytes n v).length = n := by simp [natBytes]
  have bytes := memReadN_memWriteL a (natBytes n v) wf
  rw [len] at bytes
  rw [memNat, bytes, bytesNat_natBytes]

/-! ## Writes of STAGE (09 R200, R215) -/

section
variable {s : State} {o : ObjEnt} {tag atomic : Bool} {pid : Fin 16} (stage : o.space = 1) (plain : dcfgEn o.dcfg = false)
  (ho : ∀ p, o.role ≠ .capTable p)
include stage plain

/-- STAGE is its own ways: a write of an object without digests passes none. -/
theorem passed_stage (off n : Nat) : passed s o off n pid = s := by
  simp [passed, digBlocksOf, plain, dramWrite, stage]

include ho

theorem mem_homePutAt_stage {off pa : Nat} (bs : List Byte) (hpa : paOf o off = some pa) :
    (homePutAt s o tag atomic pid off bs).base.mem = memWriteL s.base.mem pa bs := by
  rw [homePutAt_eq_committed s tag atomic pid bs hpa ho, passed_stage stage plain]
  exact digAfterWrite_of_no_digests plain ..

/-- Where the addresses run on from one extent to the next, a write of STAGE is one write of the memory. -/
theorem mem_homePut_stage {off pa : Nat} (bs : List Byte) (run : ∀ i, i < bs.length → paOf o (off + i) = some (pa + i)) :
    (homePut s o off bs tag atomic pid).base.mem = memWriteL s.base.mem pa bs := by
  induction hn : bs.length using Nat.strong_induction_on generalizing s off pa bs with
  | _ n ih =>
    by_cases empty : bs = []
    · subst empty
      simp [homePut, putBytes_of_no_table ho, memWriteL]
    · have first : paOf o off = some pa := run 0 (List.length_pos_iff.2 empty)
      obtain ⟨⟨x, e, a⟩, he, -⟩ := Option.map_eq_some_iff.1 first
      have inside := (extParts_of_extFind he).1
      by_cases fits : off + bs.length ≤ a + e.npg * 4096
      · rw [homePut_within s tag atomic pid he ho empty fits, mem_homePutAt_stage stage plain ho bs first]
      · obtain ⟨k, hk⟩ : ∃ k, k = a + e.npg * 4096 - off := ⟨_, rfl⟩
        have taken : (bs.take k).length = k := by rw [List.length_take]; omega
        have left : (bs.drop k).length = bs.length - k := List.length_drop
        rw [homePut_split s tag atomic pid he ho hk (by omega),
          ih _ (by omega) (pa := pa + k) (bs.drop k) (fun i hi => by rw [Nat.add_assoc, run _ (by omega), Nat.add_assoc]) rfl,
          ih _ (by omega) (bs.take k) (fun i hi => run i (by omega)) rfl]
        have joined := memWriteL_append s.base.mem pa (bs.take k) (bs.drop k)
        rw [List.take_append_drop, taken] at joined
        exact joined.symm

end

/-- The 16 bytes at `pa` are those of one object of STAGE, plain and without digests. -/
structure PlainStage16 (s : State) (pa : Nat) (o : ObjEnt) (off : Nat) : Prop where
  found : objAtPa s pa = some (o, off)
  run : ∀ i, i < 16 → paOf o (off + i) = some (pa + i)
  stage : o.space = 1
  undigested : dcfgEn o.dcfg = false
  role : o.role = .plain

theorem PlainStage16.mem_homePutPa {s : State} {pa off : Nat} {o : ObjEnt} (h : PlainStage16 s pa o off) {tag atomic : Bool} {pid : Fin 16}
    (bs : List Byte) (len : bs.length = 16) : (homePutPa s pa bs tag atomic pid).base.mem = memWriteL s.base.mem pa bs := by
  rw [homePutPa, h.found]
  exact mem_homePut_stage h.stage h.undigested (by simp [h.role]) bs (by rw [len]; exact h.run)

/-! ## The fields of a barrier (09 R222) -/

/-- Each field fits its bits. -/
structure Bar.Fits (b : Bar) : Prop where
  gen : b.gen < 2 ^ 4
  pend : b.pend < 2 ^ 20
  expect : b.expect < 2 ^ 20
  inb : b.inb < 2 ^ 32
  outb : b.outb < 2 ^ 32
  kind : b.kind < 2 ^ 8

theorem bitsOf_lt (n hi lo : Nat) : bitsOf n hi lo < 2 ^ (hi + 1 - lo) := Nat.mod_lt _ (Nat.two_pow_pos _)

theorem barRead_fits (s : State) (pa : Nat) : (barRead s pa).Fits :=
  ⟨bitsOf_lt .., bitsOf_lt .., bitsOf_lt .., bitsOf_lt .., bitsOf_lt .., bitsOf_lt ..⟩

theorem Bar.Fits.barWrite_eq {b : Bar} (fits : b.Fits) (s : State) (pa : Nat) :
    barWrite s pa b = homePutPa s pa (natBytes 16 (barNat b.gen b.pend b.expect b.inb b.outb b.kind)) false false := by
  have gen : b.gen % 16 = b.gen := Nat.mod_eq_of_lt fits.gen
  have kind : b.kind % 256 = b.kind := Nat.mod_eq_of_lt fits.kind
  rw [barWrite, gen, kind, Nat.mod_eq_of_lt fits.pend, Nat.mod_eq_of_lt fits.expect, Nat.mod_eq_of_lt fits.inb, Nat.mod_eq_of_lt fits.outb]
  rfl

/-- A barrier is its 16 bytes. -/
theorem Bar.Fits.barRead_eq {b : Bar} (fits : b.Fits) {s : State} {pa : Nat}
    (bytes : memNat s.base.mem pa 16 = barNat b.gen b.pend b.expect b.inb b.outb b.kind % 2 ^ 128) : barRead s pa = b := by
  obtain ⟨gen, pend, expect, inb, outb, kind⟩ := b
  obtain ⟨hgen, hpend, hexpect, hinb, houtb, hkind⟩ := fits
  simp only [barRead, bytes, barNat, bitsOf, Bar.mk.injEq]
  dsimp only at hgen hpend hexpect hinb houtb hkind
  refine ⟨?_, ?_, ?_, ?_, ?_, ?_⟩ <;> omega

theorem PlainStage16.barRead_barWrite {s : State} {pa off : Nat} {o : ObjEnt} (h : PlainStage16 s pa o off)
    (wf : Memory.wf s.base.mem = true) {b : Bar} (fits : b.Fits) : barRead (barWrite s pa b) pa = b := by
  refine fits.barRead_eq ?_
  rw [fits.barWrite_eq, h.mem_homePutPa _ (by simp [natBytes]), memNat_memWriteL_natBytes pa 16 _ wf]

/-! ## Live objects and releases (09 R223, R225) -/

theorem Kept.live {s t : State} (h : Kept s t) : t.base.live = s.base.live := by
  obtain ⟨⟨m, ts, rs, ls, es, lv, ps, vb, fs, ws, rfl⟩, -⟩ := h
  rfl

theorem Kept.releases {s t : State} (h : Kept s t) : t.base.releases = s.base.releases := by
  obtain ⟨⟨m, ts, rs, ls, es, lv, ps, vb, fs, ws, rfl⟩, -⟩ := h
  rfl

theorem Kept.barWrite (s : State) (pa : Nat) (b : Bar) : Kept s (barWrite s pa b) := homePutPa_changes ..

theorem liveObj_onLive (s : State) (pa : Nat) {f : LiveObj → LiveObj} (hf : ∀ l, (f l).pa = l.pa) :
    liveObj (onLive s pa f) pa = (liveObj s pa).map f := by
  have same : (fun l : LiveObj => l.pa == pa) ∘ (fun l => if l.pa = pa then f l else l) = fun l => l.pa == pa := by
    funext l
    by_cases h : l.pa = pa <;> simp [h, hf]
  unfold liveObj onLive
  rw [List.find?_map, same]
  refine Option.map_congr (fun l hl => if_pos ?_)
  simpa using List.find?_some hl

/-- The messages to the waiters of a barrier pass the ports only. -/
theorem sendReleases_keeps (s : State) (pa : Nat) (cs : List Nat) :
    Kept s (cs.foldl (fun s c => sendRelease s pa c) s) ∧ Quiet s (cs.foldl (fun s c => sendRelease s pa c) s) :=
  foldl_keeps (fun t => Kept s t ∧ Quiet s t) _ (fun _ _ h => ⟨h.1.trans (.post ..), h.2.trans {}⟩) cs s ⟨.refl s, .refl s⟩

/-! ## The completion of a phase (09 R224, R225, 12 R288) -/

/-- The barrier `v` of the live object `l` as its next phase begins. -/
def nextPhase (v : Bar) (l : LiveObj) : Bar :=
  { v with gen := (v.gen + 1) % 16, pend := v.expect, inb := l.xin.toNat, outb := l.xout.toNat }

theorem Bar.Fits.nextPhase {v : Bar} (fits : v.Fits) (l : LiveObj) : (nextPhase v l).Fits :=
  ⟨Nat.mod_lt _ (by decide), fits.expect, fits.expect, l.xin.isLt, l.xout.isLt, fits.kind⟩

/-- The live object of a barrier whose phase is fresh and waited for by none. -/
def refreshed (l : LiveObj) : LiveObj := { l with waiters := [], fresh := true }

/-- Every waiter of `l` is to be released, and its message has left the home. -/
def waitersReleased (s : State) (pa : Nat) (l : LiveObj) : State :=
  l.waiters.foldl (fun s c => sendRelease s pa c)
    { s with base := { s.base with releases := s.base.releases ++ l.waiters.map (fun c => (c, pa)) } }

section
variable {s : State} {pa : Nat}

theorem tryComplete_of_pending (more : (barRead s pa).pend ≠ 0 ∨ (barRead s pa).inb ≠ 0 ∨ (barRead s pa).outb ≠ 0) :
    tryComplete s pa = s := by
  refine if_neg ?_
  rintro ⟨pend, inb, outb⟩
  exact more.elim (· pend) (Or.elim · (· inb) (· outb))

theorem tryComplete_of_zero {l : LiveObj} (live : liveObj s pa = some l) (pend : (barRead s pa).pend = 0) (inb : (barRead s pa).inb = 0)
    (outb : (barRead s pa).outb = 0) :
    tryComplete s pa = onLive (waitersReleased (barWrite s pa (nextPhase (barRead s pa) l)) pa l) pa refreshed := by
  simp only [tryComplete, pend, inb, outb, and_self, if_true, live]
  rfl

end

section
variable (s : State) (pa : Nat) (l : LiveObj)

@[simp] theorem waitersReleased_mem : (waitersReleased s pa l).base.mem = s.base.mem := (sendReleases_keeps ..).2.mem

@[simp] theorem waitersReleased_live : (waitersReleased s pa l).base.live = s.base.live := (sendReleases_keeps ..).1.live

@[simp] theorem waitersReleased_releases :
    (waitersReleased s pa l).base.releases = s.base.releases ++ l.waiters.map (fun c => (c, pa)) := (sendReleases_keeps ..).1.releases

@[simp] theorem waitersReleased_core : (waitersReleased s pa l).core = s.core := (sendReleases_keeps ..).1.core

@[simp] theorem waitersReleased_others : (waitersReleased s pa l).others = s.others := (sendReleases_keeps ..).1.others

end

/-- What the writes of a completion leave: the barrier as `b` is written, its waiters released and its phase fresh, and the
cores as they were. -/
theorem completed_phase (s : State) (pa : Nat) (b : Bar) (l : LiveObj) (live : liveObj s pa = some l) :
    let t := onLive (waitersReleased (barWrite s pa b) pa l) pa refreshed
    barRead t pa = barRead (barWrite s pa b) pa ∧
      t.base.releases = s.base.releases ++ l.waiters.map (fun c => (c, pa)) ∧
      liveObj t pa = some (refreshed l) ∧ t.core = s.core ∧ t.others = s.others := by
  have kept := Kept.barWrite s pa b
  have still : liveObj (waitersReleased (barWrite s pa b) pa l) pa = some l := by
    rw [← live, liveObj, waitersReleased_live, kept.live]
    rfl
  refine ⟨?_, ?_, ?_, ?_, ?_⟩
  · show barRead (waitersReleased (barWrite s pa b) pa l) pa = _
    simp only [barRead, waitersReleased_mem]
  · exact (waitersReleased_releases ..).trans (by rw [kept.releases])
  · exact (liveObj_onLive (f := refreshed) _ pa (fun _ => rfl)).trans (congrArg (Option.map refreshed) still)
  · exact (waitersReleased_core ..).trans kept.core
  · exact (waitersReleased_others ..).trans kept.others

end Sys2Proof.Machine

/-- Settles O33: at 0 the barrier is written as its next phase begins, and reads back so; else nothing is done. -/
theorem phasesCompleteAtZero : Obligations.PhasesCompleteAtZero := by
  intro s pa off o l wf found run stage undigested role live
  have at16 : PlainStage16 s pa o off := ⟨found, run, stage, undigested, role⟩
  refine ⟨fun pend inb outb => ?_, tryComplete_of_pending⟩
  obtain ⟨bar, rest⟩ := completed_phase s pa (nextPhase (barRead s pa) l) l live
  rw [tryComplete_of_zero live pend inb outb]
  exact ⟨bar.trans (at16.barRead_barWrite wf ((barRead_fits s pa).nextPhase l)), rest⟩
end

section
/-! Settled for the span tables: mapping, unmapping, truncating and positioning (11 R274, R275, R277). -/

open Sys2Proof Sys2Proof.Machine Sys2Proof.Claims

namespace Sys2Proof.Machine

/-! ## Mapping and releasing a page (11 R274) -/

/-- The lowest EMPTY entry below NENT. -/
def Span.emptyBelow (t : Span) : Option Nat := (t.es.take t.h.nent).findIdx? (fun e => e.state == 0)

section
variable {t : Span}

theorem Span.emptyBelow_eq_some {k : Nat} (below : k < t.h.nent) (empty : (t.es[k]?.map (fun e => e.state)) = some 0)
    (lowest : ∀ j, j < k → (t.es[j]?.map (fun e => e.state)) ≠ some 0) :
    t.emptyBelow = some k := by
  obtain ⟨e, found, zero⟩ := Option.map_eq_some_iff.1 empty
  obtain ⟨inside, rfl⟩ := List.getElem?_eq_some_iff.1 found
  refine List.findIdx?_eq_some_iff_getElem.2 ⟨by simp [below, inside], by simpa using zero, fun j hj => ?_⟩
  simpa [hj.trans inside] using lowest j hj

theorem Span.emptyBelow_eq_none (full : ∀ j, j < t.h.nent → (t.es[j]?.map (fun e => e.state)) ≠ some 0) :
    t.emptyBelow = none := by
  refine List.findIdx?_eq_none_iff.2 (fun e mem => ?_)
  obtain ⟨j, inside, rfl⟩ := List.mem_take_iff_getElem.1 mem
  obtain ⟨below, inside⟩ := Nat.lt_min.1 inside
  simpa [inside] using full j below

/-- What mapping makes of the entry it takes, the lowest EMPTY one or else entry NENT. -/
theorem spanMap_of_room {oid pgno tag i : Nat} (taken : t.emptyBelow.getD t.h.nent = i) (room : i < t.es.length) :
    (spanMap t oid pgno tag).2 = (0, i) ∧ (spanMap t oid pgno tag).1.es = t.es.set i ⟨0, 0, tag, 1, pgno⟩ ∧
      (spanMap t oid pgno tag).1.h.nent = max t.h.nent (i + 1) := by
  subst taken
  have mapped : spanMap t oid pgno tag = _ := if_neg (Nat.not_le.2 room)
  rw [mapped]
  exact ⟨rfl, rfl, rfl⟩

theorem spanMap_of_no_room {oid pgno tag : Nat} (beyond : t.es.length ≤ t.emptyBelow.getD t.h.nent) :
    spanMap t oid pgno tag = (t, 1, 0) := if_pos beyond

variable {i : Nat} {e : SpanEnt} (found : t.es[i]? = some e)
include found

theorem spanUnmap_of_free (free : e.state = 2 ∨ (e.state = 1 ∧ e.count = 0)) :
    (spanUnmap t i).2 = 0 ∧ (spanUnmap t i).1.es = t.es.set i ⟨0, 0, 0, 0, 0⟩ := by
  rw [spanUnmap, found]
  dsimp only
  rw [if_pos free]
  exact ⟨rfl, rfl⟩

theorem spanUnmap_of_used (used : ¬ (e.state = 2 ∨ (e.state = 1 ∧ e.count = 0))) : spanUnmap t i = (t, 3) := by
  simp only [spanUnmap, found, if_neg used]

end

/-! ## Truncating (11 R277) -/

/-- A MAPPED entry that holds tokens. -/
def SpanEnt.held (e : SpanEnt) : Bool := e.state == 1 && decide (0 < e.count)

/-- What truncating at `p` makes of an entry. -/
def SpanEnt.cut (p : Nat) (e : SpanEnt) : SpanEnt :=
  if !e.held then e
  else if e.first < p ∧ p < e.first + e.count then { e with count := p - e.first }
  else if p ≤ e.first then { e with count := 0 } else e

/-- The entry holds the token before position `np`. -/
def SpanEnt.endsAt (np : Nat) (e : SpanEnt) : Bool := e.held && decide (e.first < np) && decide (np ≤ e.first + e.count)

/-- The tokens that truncating at `p` frees. -/
def Span.freed (t : Span) (p : Nat) : Nat := (t.es.map (fun e => e.count - (e.cut p).count)).foldl (· + ·) 0

theorem spanTrunc_eq (t : Span) (p : Nat) :
    spanTrunc t p = (⟨{ t.h with
      nextpos := min t.h.nextpos p, live := t.h.live - t.freed p,
      opened := ((t.es.map (SpanEnt.cut p)).findIdx? (SpanEnt.endsAt (min t.h.nextpos p))).getD noEntry },
      t.es.map (SpanEnt.cut p)⟩, t.freed p) := rfl

theorem SpanEnt.held_iff {e : SpanEnt} : e.held = true ↔ e.state = 1 ∧ 0 < e.count := by
  simp [SpanEnt.held]

theorem SpanEnt.endsAt_iff {np : Nat} {e : SpanEnt} :
    e.endsAt np = true ↔ (e.state = 1 ∧ 0 < e.count) ∧ e.first < np ∧ np ≤ e.first + e.count := by
  simp [SpanEnt.endsAt, SpanEnt.held_iff, and_assoc]

/-- What truncating at `p` can do to an entry: it has no tokens, or they reach beyond `p`, or all lie at or above it, or
all lie below it. -/
theorem SpanEnt.cut_cases (p : Nat) (e : SpanEnt) :
    (e.held = false ∧ e.cut p = e) ∨
    (e.held = true ∧ (e.first < p ∧ p < e.first + e.count) ∧ e.cut p = { e with count := p - e.first }) ∨
    (e.held = true ∧ p ≤ e.first ∧ e.cut p = { e with count := 0 }) ∨
    (e.held = true ∧ e.first + e.count ≤ p ∧ e.cut p = e) := by
  unfold SpanEnt.cut
  cases held : e.held with
  | false => exact .inl ⟨rfl, rfl⟩
  | true =>
    by_cases inside : e.first < p ∧ p < e.first + e.count
    · exact .inr (.inl ⟨rfl, inside, if_pos inside⟩)
    · by_cases above : p ≤ e.first
      · exact .inr (.inr (.inl ⟨rfl, above, (if_neg inside).trans (if_pos above)⟩))
      · exact .inr (.inr (.inr ⟨rfl, by omega, (if_neg inside).trans (if_neg above)⟩))

/-- A cut entry that still holds tokens holds none at the position or above it. -/
theorem SpanEnt.cut_end_le {p : Nat} {e : SpanEnt} (held : (e.cut p).held = true) : (e.cut p).first + (e.cut p).count ≤ p := by
  obtain ⟨free, cut⟩ | ⟨-, inside, cut⟩ | ⟨-, -, cut⟩ | ⟨-, below, cut⟩ := cut_cases p e <;> rw [cut] at held ⊢
  · exact absurd (free.symm.trans held) Bool.false_ne_true
  · exact (Nat.add_sub_cancel' inside.1.le).le
  · exact absurd (held_iff.1 held).2 (Nat.lt_irrefl 0)
  · exact below

/-- An entry without tokens at the position or above it is left as it is. -/
theorem SpanEnt.cut_eq_self {p : Nat} {e : SpanEnt} (below : e.held = true → e.first + e.count ≤ p) : e.cut p = e := by
  obtain ⟨-, cut⟩ | ⟨held, inside, -⟩ | ⟨held, above, -⟩ | ⟨-, -, cut⟩ := cut_cases p e
  · exact cut
  · exact absurd (below held) (Nat.not_le.2 inside.2)
  · have tokens := (held_iff.1 held).2
    have fit := below held
    omega
  · exact cut

section
variable {t : Span} {p : Nat} (below : ∀ e ∈ t.es, e.held = true → e.first + e.count ≤ p)
include below

theorem Span.map_cut_eq_self : t.es.map (SpanEnt.cut p) = t.es :=
  (List.map_congr_left (fun e mem => SpanEnt.cut_eq_self (below e mem))).trans (List.map_id' _)

theorem Span.freed_eq_zero : t.freed p = 0 := by
  refine foldl_eq_self (fun n mem => ?_)
  obtain ⟨e, inTable, rfl⟩ := List.mem_map.1 mem
  rw [SpanEnt.cut_eq_self (below e inTable), Nat.sub_self]

end

/-- The index found is that of an entry with the property; without one, no entry has it. -/
theorem findIdx?_getD_noEntry (es : List SpanEnt) (P : SpanEnt → Bool) :
    (∃ e, es[(es.findIdx? P).getD noEntry]? = some e ∧ P e = true) ∨
      ((es.findIdx? P).getD noEntry = noEntry ∧ ∀ e ∈ es, ¬ P e = true) := by
  cases found : es.findIdx? P with
  | none => exact .inr ⟨rfl, fun e mem => Bool.not_eq_true _ ▸ List.findIdx?_eq_none_iff.1 found e mem⟩
  | some i =>
    obtain ⟨inside, holds, -⟩ := List.findIdx?_eq_some_iff_getElem.1 found
    exact .inl ⟨_, List.getElem?_eq_getElem inside, holds⟩

/-! ## Positioning (11 R275) -/

/-- Appending `n` tokens moves NEXTPOS up by `n`. -/
theorem spanAppend_nextpos {fuel n : Nat} {t t' : Span} (done : spanAppend t fuel n = some t') :
    t'.h.nextpos = t.h.nextpos + n := by
  induction fuel generalizing t n with
  | zero =>
    cases n with
    | zero => cases done; rfl
    | succ n => cases done
  | succ fuel ih =>
    cases n with
    | zero => cases done; rfl
    | succ n =>
      simp only [spanAppend] at done
      split at done
      case h_1 =>
        have moved := ih done
        dsimp only at moved
        omega
      case h_2 =>
        split at done
        case h_1 => cases done
        case h_2 =>
          have moved := ih done
          dsimp only at moved
          omega

theorem spanSetPos_of_lt {t : Span} {p : Nat} (back : p < t.h.nextpos) : spanSetPos t p = (t, 2) := if_pos (.inl back)

theorem spanSetPos_nextpos {t : Span} {p : Nat} (ok : (spanSetPos t p).2 = 0) : (spanSetPos t p).1.h.nextpos = p := by
  by_cases refused : p < t.h.nextpos ∨ 2 ^ 48 ≤ p
  · rw [spanSetPos, if_pos refused] at ok
    cases ok
  · rw [spanSetPos, if_neg refused] at ok ⊢
    cases done : spanAppend t (2 * t.es.length + 2) (p - t.h.nextpos) with
    | none =>
      rw [done] at ok
      cases ok
    | some t' =>
      have moved := spanAppend_nextpos done
      show t'.h.nextpos = p
      omega

end Sys2Proof.Machine

/-- Settles O37, operation by operation: the entry that mapping takes, the entry that unmapping frees, the entries that
truncating cuts with the OPEN it finds among them, and the NEXTPOS that appending reaches. -/
theorem spanTableArithmetic : Obligations.SpanTableArithmetic := by
  intro t oid page tag i p e
  refine ⟨fun k below inside empty lowest => ?_, fun full => ?_, spanUnmap_of_free, fun found retired spare => spanUnmap_of_used found ?_,
    ?_, spanSetPos_of_lt, spanSetPos_nextpos⟩
  · obtain ⟨answer, entries, nent⟩ := spanMap_of_room (oid := oid) (pgno := page) (tag := tag)
      (congrArg (·.getD t.h.nent) (Span.emptyBelow_eq_some below empty lowest)) inside
    exact ⟨answer, entries, nent.trans (max_eq_left below)⟩
  · have taken : t.emptyBelow.getD t.h.nent = t.h.nent := congrArg (·.getD t.h.nent) (Span.emptyBelow_eq_none full)
    refine ⟨fun room => ?_, fun beyond => spanMap_of_no_room (beyond.trans_eq taken.symm)⟩
    obtain ⟨answer, entries, nent⟩ := spanMap_of_room (oid := oid) (pgno := page) (tag := tag) taken room
    exact ⟨answer, entries, nent.trans (max_eq_right (Nat.le_succ _))⟩
  · rintro (two | ⟨one, zero⟩)
    · exact retired two
    · exact spare.elim (· one) (· zero)
  · rw [spanTrunc_eq]
    refine ⟨rfl, rfl, fun f mem mapped => ?_, fun below => ?_, ?_⟩
    · obtain ⟨e, -, rfl⟩ := List.mem_map.1 mem
      exact SpanEnt.cut_end_le (SpanEnt.held_iff.2 mapped)
    · have below : ∀ f ∈ t.es, f.held = true → f.first + f.count ≤ p := fun f mem held => below f mem (SpanEnt.held_iff.1 held)
      exact ⟨Span.map_cut_eq_self below, Span.freed_eq_zero below⟩
    · simp only [← SpanEnt.endsAt_iff]
      exact findIdx?_getD_noEntry (t.es.map (SpanEnt.cut p)) (SpanEnt.endsAt (min t.h.nextpos p))
end

section
/-! Settled for the homes: what the home instructions share, and the value atomics (12 R279, R281, R283, 04 R97, 08 R192, 09 R201, R223). -/

open Sys2Proof Sys2Proof.Machine Sys2Proof.Claims

namespace Sys2Proof.Machine

/-! ## What a lookup and a request leave of the core (04 R103, 09 R209) -/

section
variable (s : State) (b : CReg)

theorem csr_at' : (at' s b).core.csr = s.core.csr := by
  obtain ⟨tc, h⟩ := core_at' s b
  rw [h]

theorem id_at' : (at' s b).core.id = s.core.id := by
  obtain ⟨tc, h⟩ := core_at' s b
  rw [h]

theorem sb_at' : (at' s b).core.sb = s.core.sb := by
  obtain ⟨tc, h⟩ := core_at' s b
  rw [h]

theorem wait_at' : (at' s b).core.wait = s.core.wait := by
  obtain ⟨tc, h⟩ := core_at' s b
  rw [h]

theorem lease_at' : (at' s b).core.lease = s.core.lease := by
  obtain ⟨tc, h⟩ := core_at' s b
  rw [h]

end

section
variable {s : State} {b : CReg} {off : Int} {size align k pa : Nat} {need : BitVec 8} {spaces : List (Fin 8)} {o : ObjEnt}

theorem reg_eq_of_seq {t u : State} (h : t.core.seq = u.core.seq) (r : XReg) : reg t r = reg u r := by
  unfold reg
  rw [h]

/-- The request of an operation at an offset. -/
theorem sent_at' : sent (at' s b) o k = askedAt s b o k := by
  unfold sent askedAt asked
  rw [csr_at']

theorem askedAt_eq_asked (h : paOf o k = some pa) : askedAt s b o k = asked s b o pa := by
  unfold askedAt
  rw [h]

theorem kept_askedAt (s : State) (b : CReg) (o : ObjEnt) (k : Nat) : Kept (at' s b) (askedAt s b o k) := by
  unfold askedAt
  split
  · exact .serve ..
  · exact .refl _

theorem core_askedAt (s : State) (b : CReg) (o : ObjEnt) (k : Nat) : (askedAt s b o k).core = (at' s b).core := (kept_askedAt ..).core

theorem seq_askedAt (s : State) (b : CReg) (o : ObjEnt) (k : Nat) : (askedAt s b o k).core.seq = s.core.seq := by
  rw [core_askedAt, seq_at']

theorem reg_askedAt (s : State) (b : CReg) (o : ObjEnt) (k : Nat) (r : XReg) : reg (askedAt s b o k) r = reg s r :=
  reg_eq_of_seq (seq_askedAt ..) r

/-! ## Leaving (10 R234, 12 R281) -/

theorem leaving_of_empty (h : s.core.sb = []) (f : State → Out) : leaving s f = f s := by
  rw [leaving, h]
  rfl

/-- A home instruction that leaves goes on at its object, after the lookup. -/
theorem withHome_leaves (h : Leaves s b off size align need spaces o) (f : State → ObjEnt → Nat → Out) :
    withHome s b off size align need spaces f = f (at' s b) o off.toNat := by
  obtain ⟨empty, checked⟩ := h
  rw [withHome, checked, withCap_ok]
  exact leaving_of_empty ((sb_at' s b).trans empty) _

theorem withOp_leaves (h : Leaves s b off size align need spaces o) (f : State → ObjEnt → Nat → Out) :
    withOp s b off size align need spaces f = f (askedAt s b o off.toNat) o off.toNat := by
  rw [withOp, withHome_leaves h, sent_at']

/-! ## Traps at the home (04 R97 to R99, 02 R62) -/

theorem takeTrap_of_small (s : State) {t : Trap} (small : t.Small) : takeTrap s t = trapped s t.code t.sub t.aux t.bad s.core.seq.pc :=
  takeTrapAt_eq_trapped s s.core.seq.pc small

theorem takeTrap_operand (s : State) (bad : Word) : takeTrap s (trapOperand 0 bad) = trapped s 0x02 0 0 bad s.core.seq.pc :=
  takeTrap_of_small s (trapOperand_small bad (by decide))

theorem takeTrap_unresolved (s : State) (b : CReg) (bad : Word) :
    takeTrap s (trapUnresolved 1 b bad) = trapped s 0x05 1 b.val bad s.core.seq.pc :=
  takeTrap_of_small s (trapUnresolved_small b bad (by decide))

theorem clobber_small (bad : Word) : (Trap.mk 0x16 0 0 bad).Small := by simp [Trap.Small]

theorem takeTrap_clobber (s : State) (bad : Word) : takeTrap s ⟨0x16, 0, 0, bad⟩ = trapped s 0x16 0 0 bad s.core.seq.pc :=
  takeTrap_of_small s (clobber_small bad)

/-- The trap of a response, behind an engine fault that stands in tile mode. -/
theorem responseTrap_eq_answered (s : State) {t : Trap} (small : t.Small) :
    responseTrap s t = Claims.answered s t.code t.sub t.aux t.bad := by
  unfold responseTrap Claims.answered
  rw [takeTrap_of_small s small]
  cases s.core.eng.efault <;> cases s.core.csr.mode <;> rfl

/-- The offset of an instruction without an immediate is the cursor. -/
theorem word_off1 (s : State) (b : CReg) : word (off1 s b).toNat = s.core.seq.c[b].cursor := (BitVec.ofNat_toNat ..).trans (BitVec.setWidth_eq ..)

end

/-! ## Atomics at their word (12 R283 to R285) -/

section
variable {s : State} {a : XReg} {b : CReg} {c : XReg} {imm : BitVec 32} {o : ObjEnt} {pa : Nat}

theorem Recalls.ownWord (s : State) (pa : Nat) : Recalls s (ownWord s pa) := (Recalls.writeBack ..).trans (.dropWords ..)

theorem Recalls.id {s t : State} (h : Recalls s t) : t.core.id = s.core.id := h.drains.id

/-- What an atomic goes on with at a resident word. -/
theorem atomAccess_reaches (leaves : Leaves s b (off2 s b imm) 8 8 4 [1, 2, 3] o) (reaches : Claims.Reaches o (off2 s b imm).toNat pa)
    (f : State → ObjEnt → Nat → Nat → Out) : atomAccess b imm s f =
      match atWord s b o (off2 s b imm).toNat pa with
      | (t, .busy) => .next (waits t .channel)
      | (t, .bad) => .next (Claims.answered t 0x05 2 b.val (word (off2 s b imm).toNat))
      | (t, .ok) => f t o (off2 s b imm).toNat pa := by
  obtain ⟨role, resident, hpa⟩ := reaches
  have own (t : State) : (if o.space = 2 then ownWord t pa else t).core.id = t.core.id := by
    split
    · exact (Recalls.ownWord t pa).id
    · rfl
  refine (withHome_leaves leaves _).trans ?_
  simp only [role, resident, hpa, if_false, Bool.not_true, Bool.false_eq_true, own, setWait_core_id, id_at',
    responseTrap_eq_answered _ (trapUnresolved_small b _ (by decide : 2 < 256))]
  rfl

section
variable {f : State → ObjEnt → Nat → Nat → Out} (leaves : Leaves s b (off2 s b imm) 8 8 4 [1, 2, 3] o)
include leaves

/-- The base's registers take no atomic. -/
theorem atomAccess_baseConfig (role : o.role = .baseConfig) : atomAccess b imm s f =
    .next (trapped (at' s b) 0x02 1 0 (BitVec.ofNat 64 (off2 s b imm).toNat) s.core.seq.pc) := by
  refine (withHome_leaves leaves _).trans ?_
  rw [← takeTrap_at'_operand]
  exact if_pos role

variable (reaches : Claims.Reaches o (off2 s b imm).toNat pa)
include reaches

theorem atomAccess_busy (h : (atWord s b o (off2 s b imm).toNat pa).2 = .busy) :
    atomAccess b imm s f = .next (waits (atWord s b o (off2 s b imm).toNat pa).1 .channel) := by
  rw [atomAccess_reaches leaves reaches, ← Prod.mk.eta (p := atWord ..), h]

theorem atomAccess_bad (h : (atWord s b o (off2 s b imm).toNat pa).2 = .bad) : atomAccess b imm s f =
    .next (Claims.answered (atWord s b o (off2 s b imm).toNat pa).1 0x05 2 b.val (BitVec.ofNat 64 (off2 s b imm).toNat)) := by
  rw [atomAccess_reaches leaves reaches, ← Prod.mk.eta (p := atWord ..), h]

theorem atomAccess_ok (h : (atWord s b o (off2 s b imm).toNat pa).2 = .ok) :
    atomAccess b imm s f = f (atWord s b o (off2 s b imm).toNat pa).1 o (off2 s b imm).toNat pa := by
  rw [atomAccess_reaches leaves reaches, ← Prod.mk.eta (p := atWord ..), h]

end

/-- The functions of the value atomics are the claim's. -/
theorem exec_of_mem_valueAtomics {p : Instr × (Word → Option Word)} (hp : p ∈ valueAtomics s a b c imm) :
    exec p.1 s = valueAtomic p.2 a b imm s := by
  simp only [valueAtomics, List.mem_cons, List.not_mem_nil, or_false] at hp
  have signed (x y p q : Word) : (if x.toInt < y.toInt then p else q) = if x.slt y then p else q := (slt_ite x y p q).symm
  have unsigned (x y p q : Word) : (if x.toNat < y.toNat then p else q) = if x.ult y then p else q := (ult_ite x y p q).symm
  rcases hp with rfl | rfl | rfl | rfl | rfl | rfl | rfl | rfl | rfl | rfl | rfl
  all_goals simp only [signed, unsigned]; rfl

/-- What a value atomic does at a word that the array has delivered. -/
def atomicAtWord (f : Word → Option Word) (a : XReg) (t : State) (o : ObjEnt) (k pa : Nat) : Out :=
  if tagged t.base pa 8 then .next (Claims.answered t 0x16 0 0 (BitVec.ofNat 64 k))
  else .next (past 1 (put (match f (takenWord t o k).2 with
    | none => (takenWord t o k).1
    | some v => homePut (takenWord t o k).1 o k (bytesOf v.toNat 8) false true) a (takenWord t o k).2))

theorem valueAtomic_eq (f : Word → Option Word) : valueAtomic f a b imm s = atomAccess b imm s (atomicAtWord f a) := by
  refine congrArg (atomAccess b imm s) ?_
  funext t o k pa
  have clobber : responseTrap t ⟨0x16, 0, 0, word k⟩ = Claims.answered t 0x16 0 0 (BitVec.ofNat 64 k) :=
    responseTrap_eq_answered t (clobber_small _)
  rw [atomicAtWord, ← clobber, ← wrX_eq_put]
  rfl

end

end Sys2Proof.Machine

/-- Settles O28: each function is a value atomic, which the base's registers refuse, and which acts as the array answers. -/
theorem valueAtomicsReturnTheOldWord : Obligations.ValueAtomicsReturnTheOldWord := by
  intro s a b c imm o pa k
  refine ⟨fun leaves role p hp => ?_, fun leaves reaches => ⟨fun busy p hp => ?_, fun bad p hp => ?_, fun ok free p hp => ?_,
    fun ok tag p hp => ?_⟩⟩
  all_goals rw [exec_of_mem_valueAtomics hp, valueAtomic_eq]
  · exact atomAccess_baseConfig leaves role
  · exact atomAccess_busy leaves reaches busy
  · exact atomAccess_bad leaves reaches bad
  · rw [atomAccess_ok leaves reaches ok, atomicAtWord, free]
    rfl
  · rw [atomAccess_ok leaves reaches ok, atomicAtWord, tag]
    rfl
end

section
/-! Settled for the homes: LR and SC (12 R284, R285, 09 R220, R221, 10 R236, R251). -/

open Sys2Proof Sys2Proof.Machine Sys2Proof.Claims

namespace Sys2Proof.Machine

/-- The reservations of core `id` in a slice. -/
def Resv.Mine (slice id : Nat) (r : Resv) : Prop := r.slice = slice ∧ r.core = id

/-- A new reservation takes the place of the core's own in the slice; of the others some may go. -/
theorem reserve_eq {s : State} {id g : Nat} {lease : BitVec 32} (hid : s.core.id = id)
    (leased : (s.core.lease.map (fun l => l.id)).getD 0 = lease) (time : s.gtc = g) (slice pa : Nat) :
    ∃ kept : List Resv, (∀ r ∈ kept, r ∈ s.base.resv ∧ ¬ r.Mine slice id) ∧ reserve s slice pa = { s with
      core := { s.core with resvSeq := s.core.resvSeq + 1 }
      base := { s.base with resv := ⟨slice, id, lease, pa, g, s.core.resvSeq + 1⟩ :: kept } } := by
  subst hid leased time
  have others (r : Resv) (hr : r ∈ s.base.resv.filter (fun q => !(q.slice == slice && q.core == s.core.id))) :
      r ∈ s.base.resv ∧ ¬ r.Mine slice s.core.id := by
    simpa [Resv.Mine, -not_and, not_and_or] using List.mem_filter.1 hr
  refine ⟨_, ?_, rfl⟩
  split
  · exact others
  · split
    · exact fun r hr => others r (List.mem_of_mem_filter hr)
    · exact others

theorem resvMatches_iff (s : State) (slice pa : Nat) : resvMatches s slice pa = true ↔ ∃ r ∈ s.base.resv, (r.slice = slice ∧ r.core = s.core.id) ∧
    r.pa = pa ∧ r.seq = s.core.resvSeq ∧ r.lease = (s.core.lease.map (fun l => l.id)).getD 0 ∧ s.gtc < r.gtc + 4096 := by
  simp only [resvMatches, List.any_eq_true, Bool.and_eq_true, beq_iff_eq, decide_eq_true_eq, and_assoc]
  rfl

/-- `u` without the reservations of its core in the slice. -/
def unreserved (slice : Nat) (u : State) : State :=
  { u with base := { u.base with resv := u.base.resv.filter (fun r => ¬ (r.slice = slice ∧ r.core = u.core.id)) } }

/-- What LR does at a word that the array has delivered. -/
def lrAtWord (a : XReg) (t : State) (o : ObjEnt) (k pa : Nat) : Out :=
  let v := oldWord (ownWord t pa) o k
  .next (past 1 (put (reserve v.1 (homeOf o pa) pa) a v.2))

/-- The machine as SC is evaluated at its home: the word's dirty copies are back, and the host's line. -/
def scArrives (t : State) (o : ObjEnt) (k pa : Nat) : State :=
  takeBack (serve t (homeOf o pa) 8 0 t.core.csr.pid) (some t.core.id) o k 8

/-- What SC does then. -/
def scDecides (a c : XReg) (t : State) (o : ObjEnt) (k pa : Nat) : Out :=
  if resvMatches t (homeOf o pa) pa then
    if tagged t.base pa 8 then .next (Claims.answered t 0x16 0 0 (BitVec.ofNat 64 k))
    else .next (past 1 (put (unreserved (homeOf o pa)
      (homePut (takeBack t (some t.core.id) o k 8 false) o k (bytesOf (reg t c).toNat 8) false true)) a 0))
  else .next (past 1 (put (unreserved (homeOf o pa) t) a 1))

section
variable {s : State} {a : XReg} {b : CReg} {c : XReg} {imm : BitVec 32}

theorem exec_lr : exec (.lr a b imm) s = atomAccess b imm s (lrAtWord a) := by
  change execLr a b imm s = _
  refine congrArg (atomAccess b imm s) ?_
  funext t o k pa
  rw [lrAtWord, ← wrX_eq_put]
  rfl

theorem exec_sc : exec (.sc a b c imm) s = atomAccess b imm s (fun t o k pa => scDecides a c (scArrives t o k pa) o k pa) := by
  change execSc a b c imm s = _
  refine congrArg (atomAccess b imm s) ?_
  funext t o k pa
  have clobber (u : State) : responseTrap u ⟨0x16, 0, 0, word k⟩ = Claims.answered u 0x16 0 0 (BitVec.ofNat 64 k) :=
    responseTrap_eq_answered u (clobber_small _)
  have dropped (u : State) : unreserved (homeOf o pa) u =
      { u with base := { u.base with resv := u.base.resv.filter (fun r => !(r.slice == homeOf o pa && r.core == u.core.id)) } } := by
    simp only [unreserved, decide_not, Bool.decide_and, beq_eq_decide]
  simp only [scDecides, scArrives, ← clobber, ← wrX_eq_put, dropped]
  rfl

end

/-! ## What the requests leave of the core -/

section
variable (t : State) (o : ObjEnt) (k pa : Nat)

theorem recalls_scArrives : Recalls t (scArrives t o k pa) := (Kept.serve ..).recalls.trans (.takeBack ..)

theorem scArrives_gtc : (scArrives t o k pa).gtc = t.gtc :=
  (show AtGtc t.gtc t from rfl).serve.takeBack

theorem recalls_lrWord : Recalls t (oldWord (ownWord t pa) o k).1 := (Recalls.ownWord t pa).trans (.homeGet ..)

theorem lrWord_gtc : (oldWord (ownWord t pa) o k).1.gtc = t.gtc := by
  have own : AtGtc t.gtc (ownWord t pa) := (show AtGtc t.gtc t from rfl).writeBack.dropWords
  exact own.homeGet

theorem recalls_atWord (s : State) (b : CReg) : Recalls (waits (at' s b) .none) (atWord s b o k pa).1 := by
  refine Recalls.trans ?_ (Kept.dramRead ..).recalls
  split
  · exact .ownWord ..
  · exact .refl _

end

theorem Recalls.seq {s t : State} (h : Recalls s t) : t.core.seq = s.core.seq := by
  obtain ⟨ws, hc, -⟩ := h.core
  rw [hc]

theorem seq_atWord (s : State) (b : CReg) (o : ObjEnt) (k pa : Nat) : (atWord s b o k pa).1.core.seq = s.core.seq :=
  (recalls_atWord o k pa s b).seq.trans (seq_at' s b)

end Sys2Proof.Machine

/-- Settles O29: LR replaces the core's entry of the slice, SC matches and drops it. -/
theorem reservationsGuardTheStore : Obligations.ReservationsGuardTheStore := by
  intro s a b c imm o pa k leaves reaches ok w t slice mine dropped lease stands
  have sc : exec (.sc a b c imm) s = scDecides a c t o k pa := exec_sc.trans (atomAccess_ok leaves reaches ok)
  refine ⟨?_, fun holds free => ?_, fun holds tag => ?_, fun lost => ?_⟩
  · have lr : exec (.lr a b imm) s = lrAtWord a w o k pa := exec_lr.trans (atomAccess_ok leaves reaches ok)
    have there := recalls_lrWord w o k pa
    have here := recalls_scArrives w o k pa
    have id : (oldWord (ownWord w pa) o k).1.core.id = t.core.id := there.id.trans here.id.symm
    have leased : (oldWord (ownWord w pa) o k).1.core.lease = t.core.lease := there.drains.lease.trans here.drains.lease.symm
    have time : (oldWord (ownWord w pa) o k).1.gtc = t.gtc := (lrWord_gtc w o k pa).trans (scArrives_gtc w o k pa).symm
    obtain ⟨kept, others, reserved⟩ := reserve_eq (lease := lease) id (by rw [leased]) time slice pa
    refine ⟨kept, others, ?_⟩
    rw [lr, lrAtWord, ← reserved]
  · have same : reg t c = reg s c := reg_eq_of_seq ((recalls_scArrives w o k pa).seq.trans (seq_atWord s b o k pa)) c
    rw [sc, scDecides, if_pos ((resvMatches_iff ..).2 holds), free, same]
    rfl
  · rw [sc, scDecides, if_pos ((resvMatches_iff ..).2 holds), if_pos tag]
  · rw [sc, scDecides, if_neg (mt (resvMatches_iff ..).1 lost)]
    rfl
end

section
/-! Settled for the homes: FENCE, ACQ and REL (12 R286, R294, 10 R239 to R242, 09 R226). -/

open Sys2Proof Sys2Proof.Machine Sys2Proof.Claims

namespace Sys2Proof.Machine

/-! ## The halves of an ordering immediate (10 R239) -/

section
variable {s : State} {ord : Ord}

theorem Recalls.releaseWrites (s : State) (ord : Ord) : Recalls s (releaseWrites s ord) := by
  have written (c : Prop) [Decidable c] (u : State) (p : L1Word → Bool) : Recalls u (if c then Machine.writeBack u u.core.id p else u) := by
    split
    · exact .writeBack ..
    · exact .refl u
  unfold Machine.releaseWrites
  split
  · exact .refl s
  · exact (written ..).trans (written ..)

/-- The current core holds no dirty word. -/
def AllClean (s : State) : Prop := ∀ w ∈ s.core.l1, w.dirty = false

/-- No dirty word appears. -/
theorem Recalls.allClean {t : State} (h : Recalls s t) (clean : AllClean s) : AllClean t := by
  obtain ⟨ws, core, dirty⟩ := h.core
  intro w hw
  rw [core] at hw
  by_contra hd
  have hd : w.dirty = true := by simpa using hd
  exact absurd (clean w (dirty w hw hd)) (by simp [hd])

/-- A write-back leaves no dirty word that it is asked for. -/
theorem writeBack_cleans (s : State) (p : L1Word → Bool) : ∀ w ∈ (writeBack s s.core.id p).core.l1, w.dirty = true →
    ∃ v ∈ s.core.l1, v.dirty = true ∧ p v = false ∧ w = v := by
  have core (l : List (List L1Word)) : (l.foldl (wbUnit s.core.id s.core.csr.pid) s).core = s.core :=
    (Kept.foldl _ (fun s ws => .wbUnit ..) l s).core
  intro w hw dirty
  simp only [writeBack, findCore, if_true, onCore, core] at hw
  obtain ⟨v, hv, rfl⟩ := List.mem_map.1 hw
  by_cases taken : wbTakes s.core p v = true
  · rw [if_pos taken] at dirty
    cases dirty
  · rw [if_neg taken] at dirty ⊢
    refine ⟨v, hv, dirty, ?_, rfl⟩
    by_contra asked
    exact taken (by simp [wbTakes, dirty, asked])

theorem allClean_releaseWrites (ascope : ord.ascope ≠ 0) (global : ord.global = true) : AllClean (releaseWrites s ord) := by
  have all : AllClean (writeBack s s.core.id (fun _ => true)) := by
    intro w hw
    by_contra hd
    obtain ⟨v, -, -, asked, -⟩ := writeBack_cleans s _ w hw (by simpa using hd)
    cases asked
  unfold Machine.releaseWrites
  rw [if_neg ascope, if_pos global]
  dsimp only
  split
  · exact (Recalls.writeBack ..).allClean all
  · exact all

/-- The region of a word, by its current entry, has L1 copies that the directory keeps. -/
def InCoherent (s : State) (w : L1Word) : Prop := ∃ e, findObj s w.oid = some e ∧ e.coh = true

/-- The acquire half drops the clean words of SOFT regions. -/
theorem acquireHalf_keeps (ascope : ord.ascope ≠ 0) (global : ord.global = true) {w : L1Word} (hw : w ∈ (acquireHalf s ord).core.l1) :
    w ∈ s.core.l1 ∧ (w.dirty = false → InCoherent (acquireHalf s ord) w) := by
  have acts : ¬ (ord.ascope = 0 ∨ ord.global = false) := by simp [ascope, global]
  simp only [acquireHalf, if_neg acts, dropWords, onCore, if_true] at hw ⊢
  obtain ⟨mem, kept⟩ := List.mem_filter.1 hw
  refine ⟨mem, fun clean => ?_⟩
  show ∃ e, findObj s w.oid = some e ∧ e.coh = true
  cases obj : findObj s w.oid with
  | none => simp [clean, obj] at kept
  | some e => exact ⟨e, rfl, by simpa [clean, obj] using kept⟩

end

/-! ## FENCE (12 R286) -/

section
variable {s : State} {ord : Ord}

theorem exec_fence_stalls (h : releaseReady s ord = false) : exec (.fence ord) s = .next (begins s []) := by
  change (if releaseReady s ord = true then _ else _) = _
  rw [h]
  rfl

theorem exec_fence_completes (h : releaseReady s ord = true) :
    exec (.fence ord) s = .next (past 1 (acquireHalf (waits (releaseWrites s ord) .none) ord)) := if_pos h

theorem fence_leaves_coherent_clean (ascope : ord.ascope ≠ 0) (global : ord.global = true) (h : releaseReady s ord = true) {u : State}
    (ran : exec (.fence ord) s = .next u) : ∀ w ∈ u.core.l1, w.dirty = false ∧ InCoherent u w := by
  cases (exec_fence_completes h).symm.trans ran
  intro w hw
  obtain ⟨mem, coherent⟩ := acquireHalf_keeps (s := waits (releaseWrites s ord) .none) ascope global hw
  have clean := allClean_releaseWrites ascope global w mem
  exact ⟨clean, coherent clean⟩

end

/-! ## Instructions with an ordering immediate at a STAGE object (12 R279, R281, 10 R240) -/

/-- The machine as the request without data of such an instruction reaches its home. -/
def releasedAt (s : State) (b : CReg) (ord : Ord) (o : ObjEnt) (pa : Nat) : State :=
  serve (released' s b ord) (homeOf o pa) 0 0 (released' s b ord).core.csr.pid

section
variable {s : State} {b : CReg} {ord : Ord} {o : ObjEnt} {pa : Nat} {bound : State → ObjEnt → Nat → List (BitVec 24)}
  {ready : State → List (BitVec 24) → Bool} {f : State → ObjEnt → Nat → List (BitVec 24) → Out}

theorem recalls_released' (s : State) (b : CReg) (ord : Ord) : Recalls (at' s b) (released' s b ord) := .releaseWrites ..

theorem recalls_releasedAt (s : State) (b : CReg) (ord : Ord) (o : ObjEnt) (pa : Nat) : Recalls (at' s b) (releasedAt s b ord o pa) :=
  (recalls_released' ..).trans (Kept.serve ..).recalls

theorem seq_releasedAt (s : State) (b : CReg) (ord : Ord) (o : ObjEnt) (pa : Nat) : (releasedAt s b ord o pa).core.seq = s.core.seq :=
  (recalls_releasedAt ..).seq.trans (seq_at' ..)

variable (leaves : Leaves s b (off1 s b) 16 16 4 [1] o)
include leaves

/-- The instruction once it has passed its check. -/
theorem withOrd_leaves : withOrd s b ord bound ready f =
    let q := at' s b
    let bs := fixes q (bound q o (off1 s b).toNat)
    let r := released' s b ord
    if releaseReady q ord = true then
      if ready r bs = true then f (sent r o (off1 s b).toNat) o (off1 s b).toNat bs else .next (begins r bs)
    else .next (begins q bs) := by
  obtain ⟨empty, checked⟩ := leaves
  have checked : checkHome s b ((rdC s b).cursor.toNat : Int) 16 16 permA [1] = .ok o := checked
  have sb : (releaseWrites (at' s b) ord).core.sb.isEmpty = true := by
    obtain ⟨ws, core, -⟩ := (recalls_released' s b ord).core
    have same : (releaseWrites (at' s b) ord).core.sb = (at' s b).core.sb := by
      rw [show (releaseWrites (at' s b) ord).core = _ from core]
    rw [same, sb_at', empty]
    rfl
  simp only [withOrd, checked, withCap_ok, released]
  refine if_congr Iff.rfl ?_ rfl
  show (if ((releaseWrites (at' s b) ord).core.sb.isEmpty && _) = true then _ else _) = _
  rw [sb, Bool.true_and]
  rfl

theorem withOrd_stalls (h : releaseReady (at' s b) ord = false) :
    withOrd s b ord bound ready f = .next (begins (at' s b) (fixes (at' s b) (bound (at' s b) o (off1 s b).toNat))) := by
  exact (withOrd_leaves leaves).trans (if_neg (by simp [h]))

variable (h : releaseReady (at' s b) ord = true)
include h

theorem withOrd_held (held : ready (released' s b ord) (fixes (at' s b) (bound (at' s b) o (off1 s b).toNat)) = false) :
    withOrd s b ord bound ready f = .next (begins (released' s b ord) (fixes (at' s b) (bound (at' s b) o (off1 s b).toNat))) := by
  exact (withOrd_leaves leaves).trans ((if_pos h).trans (if_neg (by simp [held])))

theorem withOrd_goes (hpa : paOf o (off1 s b).toNat = some pa)
    (go : ready (released' s b ord) (fixes (at' s b) (bound (at' s b) o (off1 s b).toNat)) = true) :
    withOrd s b ord bound ready f = f (releasedAt s b ord o pa) o (off1 s b).toNat (fixes (at' s b) (bound (at' s b) o (off1 s b).toNat)) := by
  refine (withOrd_leaves leaves).trans ((if_pos h).trans ((if_pos go).trans ?_))
  rw [sent, hpa]
  rfl

end

/-! ## ACQ and REL (12 R294, 10 R241, R242) -/

/-- The regions that ACQ and REL fix as they begin. -/
def syncRegions (s : State) (b : CReg) (pa : Nat) : List (BitVec 24) :=
  fixes (at' s b) (((at' s b).base.objs.filter (fun e => e.sync = pa)).map (fun e => e.oid))

section
variable {s : State} {b : CReg} {ord : Ord} {o : ObjEnt} {pa : Nat} {ready : State → List (BitVec 24) → Bool}
  {f : State → Nat → List (BitVec 24) → Out} (leaves : Leaves s b (off1 s b) 16 16 4 [1] o) (hpa : paOf o (off1 s b).toNat = some pa)

include hpa

theorem fixes_boundAt : fixes (at' s b) (boundAt (at' s b) o (off1 s b).toNat) = syncRegions s b pa := by
  simp only [boundAt, hpa, beq_eq_decide]
  rfl

include leaves

theorem atSync_stalls (h : releaseReady (at' s b) ord = false) :
    atSync b ord s ready f = .next (begins (at' s b) (syncRegions s b pa)) := by
  rw [← fixes_boundAt hpa]
  exact withOrd_stalls leaves h

variable (h : releaseReady (at' s b) ord = true)
include h

theorem atSync_held (held : ready (released' s b ord) (syncRegions s b pa) = false) :
    atSync b ord s ready f = .next (begins (released' s b ord) (syncRegions s b pa)) := by
  rw [← fixes_boundAt hpa] at held ⊢
  exact withOrd_held leaves h held

theorem atSync_goes (go : ready (released' s b ord) (syncRegions s b pa) = true) : atSync b ord s ready f =
    if liveSync (releasedAt s b ord o pa) pa then f (releasedAt s b ord o pa) pa (syncRegions s b pa)
    else .next (takeTrap (releasedAt s b ord o pa) (trapOperand 0 (word (off1 s b).toNat))) := by
  rw [← fixes_boundAt hpa] at go ⊢
  refine (withOrd_goes leaves h hpa go).trans ?_
  rw [hpa]

end

/-- What ACQ does at its home: the clean SOFT words of the bound regions go, and the acquire half follows. -/
def acqActs (ord : Ord) (t : State) (pa : Nat) (_ : List (BitVec 24)) : Out :=
  .next (past 1 (acquireHalf (waits (dropWords t t.core.id (acqDrops t pa)) .none) ord))

/-- No engine write is owed to the regions that REL has fixed. -/
def relReady (r : State) (bs : List (BitVec 24)) : Bool := !owes r (fun e => bs.contains e.oid)

/-- What REL does at its home: its regions' dirty words commit, and VER goes up. -/
def relActs (ord : Ord) (t : State) (pa : Nat) (bs : List (BitVec 24)) : Out :=
  let u := writeBack t t.core.id (fun w => bs.contains w.oid)
  .next (past 1 (acquireHalf (waits (homePutPa u pa (bytesOf (memNat u.base.mem pa 8 + 1) 8) false false) .none) ord))

theorem exec_acq (s : State) (b : CReg) (ord : Ord) : exec (.acq b ord) s = atSync b ord s (fun _ _ => true) (acqActs ord) := rfl

theorem exec_rel (s : State) (b : CReg) (ord : Ord) : exec (.rel b ord) s = atSync b ord s relReady (relActs ord) := rfl

end Sys2Proof.Machine

/-- Settles O30: the release half stalls or ends; after it FENCE acquires, and ACQ and REL act at their live sync object. -/
theorem orderingInstructionsComplete : Obligations.OrderingInstructionsComplete := by
  intro s b ord o pa
  refine ⟨exec_fence_stalls, exec_fence_completes, fun u ascope global ready => fence_leaves_coherent_clean ascope global ready,
    fun leaves hpa => ⟨fun stalls i hi => ?_, fun ready => ⟨fun live => ?_, fun owing => ?_, fun done live => ?_, fun dead => ?_⟩⟩⟩
  · simp only [List.mem_cons, List.not_mem_nil, or_false] at hi
    rcases hi with rfl | rfl
    · exact (exec_acq s b ord).trans (atSync_stalls leaves hpa stalls)
    · exact (exec_rel s b ord).trans (atSync_stalls leaves hpa stalls)
  · exact (exec_acq s b ord).trans ((atSync_goes leaves hpa ready rfl).trans (if_pos live))
  · exact (exec_rel s b ord).trans (atSync_held leaves hpa ready (congrArg not owing))
  · exact (exec_rel s b ord).trans ((atSync_goes leaves hpa ready (congrArg not done)).trans (if_pos live))
  · have dead : ¬ liveSync (releasedAt s b ord o pa) pa = true := ne_true_of_eq_false dead
    rw [exec_acq, atSync_goes leaves hpa ready rfl, if_neg dead, takeTrap_operand, word_off1]
    rfl
end

section
/-! Settled for the homes: live objects begin, change and end (12 R287, R288, R292, R293, 09 R222, R226). -/

open Sys2Proof Sys2Proof.Machine Sys2Proof.Claims

namespace Sys2Proof.Machine

/-! ## The bytes of a barrier (09 R222) -/

theorem Bar.Fits.barWrite_eq_put16 {v : Bar} (fits : v.Fits) (s : State) (pa : Nat) :
    barWrite s pa v = put16 s pa (barNat v.gen v.pend v.expect v.inb v.outb v.kind) := fits.barWrite_eq s pa

/-- The counts that BXFER takes from its operand. -/
theorem setWidth_eq_ofNat (v : Word) : v.setWidth 32 = BitVec.ofNat 32 v.toNat := (BitVec.ofNat_toNat ..).symm

theorem extractLsb_high_eq_ofNat (v : Word) : v.extractLsb' 32 32 = BitVec.ofNat 32 (v.toNat / 2 ^ 32) := by
  refine BitVec.eq_of_toNat_eq ?_
  rw [BitVec.extractLsb'_toNat, BitVec.toNat_ofNat, Nat.shiftRight_eq_div_pow]

/-- A barrier with other transfer counts. -/
theorem barRead_fits_with {s : State} {pa inb outb : Nat} (hin : inb < 2 ^ 32) (hout : outb < 2 ^ 32) :
    ({ barRead s pa with inb := inb, outb := outb } : Bar).Fits :=
  have fits := barRead_fits s pa
  ⟨fits.gen, fits.pend, fits.expect, hin, hout, fits.kind⟩

/-- `u` without a live object at `pa`. -/
def liveEnds (u : State) (pa : Nat) : State :=
  { u with base := { u.base with live := u.base.live.filter (fun k => k.pa ≠ pa) } }

/-! ## Instructions at the 16 bytes of a live object (12 R286) -/

section
variable {s : State} {b : CReg} {c : XReg} {o : ObjEnt} {pa : Nat} {f : State → ObjEnt → Nat → Out} (at16 : AtSyncObj s b o pa)
/-- The trap of an instruction that finds the wrong object, or one where there is to be none. -/
theorem takeTrap_asked_operand : takeTrap (asked s b o pa) (trapOperand 0 (word (off1 s b).toNat)) =
    trapped (asked s b o pa) 0x02 0 0 s.core.seq.c[b].cursor (asked s b o pa).core.seq.pc := by
  rw [takeTrap_operand, word_off1]

include at16

/-- An instruction without an ordering immediate goes on at its home. -/
theorem withOp_at16 : withOp s b (off1 s b) 16 16 4 [1] f = f (asked s b o pa) o (off1 s b).toNat := by
  obtain ⟨leaves, hpa⟩ := at16
  rw [withOp_leaves leaves, askedAt_eq_asked hpa]

theorem reg_asked (r : XReg) : reg (asked s b o pa) r = reg s r := by
  rw [← askedAt_eq_asked at16.2, reg_askedAt]

theorem exec_binit_kind_zero (expect : Fin 1048576) : exec (.binit b expect 0) s =
    .next (trapped (asked s b o pa) 0x02 0 0 0 (asked s b o pa).core.seq.pc) := by
  change execBinit b expect 0 s = _
  refine (withOp_at16 at16).trans ?_
  rw [← takeTrap_operand]
  rfl

theorem exec_binit {expect : Fin 1048576} {kind : Fin 256} (hk : kind ≠ 0) : exec (.binit b expect kind) s =
    .next (if (liveObj (asked s b o pa) pa).isSome then
        trapped (asked s b o pa) 0x16 0 0 s.core.seq.c[b].cursor (asked s b o pa).core.seq.pc
      else past 1 (withLive (put16 (asked s b o pa) pa (barNat 0 expect.val expect.val 0 0 kind.val)) ⟨pa, true, 0, 0, true, []⟩)) := by
  have fits : (Bar.mk 0 expect.val expect.val 0 0 kind.val).Fits :=
    ⟨(by decide : 0 < 2 ^ 4), expect.isLt, expect.isLt, (by decide : 0 < 2 ^ 32), (by decide : 0 < 2 ^ 32), kind.isLt⟩
  change execBinit b expect kind s = _
  refine (withOp_at16 at16).trans ?_
  simp only [hk, if_false, at16.2, takeTrap_clobber, word_off1, fits.barWrite_eq_put16]
  exact (apply_ite Host.Outcome.next _ _ _).symm

theorem exec_soinit : exec (.soinit b) s =
    .next (if (liveObj (asked s b o pa) pa).isSome then
        trapped (asked s b o pa) 0x16 0 0 s.core.seq.c[b].cursor (asked s b o pa).core.seq.pc
      else past 1 (withLive (homePutPa (asked s b o pa) pa (List.replicate 16 0) false false) ⟨pa, false, 0, 0, false, []⟩)) := by
  change execSoinit b s = _
  refine (withOp_at16 at16).trans ?_
  simp only [at16.2, takeTrap_clobber, word_off1]
  exact (apply_ite Host.Outcome.next _ _ _).symm

/-- An instruction at a barrier finds a live one, or traps. -/
theorem atBarrier_at16 (g : State → Nat → Nat → Out) : atBarrier b s g =
    if liveBar (asked s b o pa) pa then g (asked s b o pa) pa (off1 s b).toNat
    else .next (trapped (asked s b o pa) 0x02 0 0 s.core.seq.c[b].cursor (asked s b o pa).core.seq.pc) := by
  refine (withOp_at16 at16).trans ?_
  rw [barrierHome, at16.2, ← takeTrap_asked_operand]

theorem exec_bxfer {l : LiveObj} (live : liveObj (asked s b o pa) pa = some l) (bar : l.isBar = true) :
    let t := asked s b o pa
    let x := (reg s c).toNat
    let v := barRead t pa
    let u := if l.fresh then put16 t pa (barNat v.gen v.pend v.expect (x % 2 ^ 32) (x / 2 ^ 32) v.kind) else t
    exec (.bxfer b c) s = .next (past 1 (liveAt u pa
      (fun l => { l with xin := BitVec.ofNat 32 x, xout := BitVec.ofNat 32 (x / 2 ^ 32), fresh := false }))) := by
  intro t x v u
  have isLive : liveBar t pa = true := by rw [liveBar, live, Option.map_some, Option.getD_some, bar]
  have hx : x < 2 ^ 64 := (reg s c).isLt
  have same : rdX (asked s b o pa) c = reg s c := reg_asked at16 c
  have hin : (BitVec.ofNat 32 (reg s c).toNat).toNat = x % 2 ^ 32 := BitVec.toNat_ofNat ..
  have hout : (BitVec.ofNat 32 ((reg s c).toNat / 2 ^ 32)).toNat = x / 2 ^ 32 := by
    rw [BitVec.toNat_ofNat, Nat.mod_eq_of_lt (by omega)]
  have written : barWrite t pa { barRead t pa with inb := x % 2 ^ 32, outb := x / 2 ^ 32 } =
      put16 t pa (barNat v.gen v.pend v.expect (x % 2 ^ 32) (x / 2 ^ 32) v.kind) :=
    (barRead_fits_with (by omega) (by omega)).barWrite_eq_put16 t pa
  refine (atBarrier_at16 at16 _).trans ((if_pos isLive).trans ?_)
  simp only [same, setWidth_eq_ofNat, extractLsb_high_eq_ofNat, hin, hout, live, Option.map_some, Option.getD_some]
  rw [written]
  rfl

theorem exec_bfree {l : LiveObj} (live : liveObj (asked s b o pa) pa = some l)
    (free : if l.isBar then l.waiters = [] else memNat (asked s b o pa).base.mem (pa + 12) 2 = 0) :
    exec (.bfree b) s = .next (past 1 (liveEnds (homePutPa (asked s b o pa) pa (List.replicate 16 0) false false) pa)) := by
  change execBfree b s = _
  refine (withOp_at16 at16).trans ?_
  have others (ls : List LiveObj) : ls.filter (fun k => k.pa != pa) = ls.filter (fun k => k.pa ≠ pa) := by
    simp only [bne, beq_eq_decide, decide_not]
  simp only [at16.2, Option.bind_some, live, Option.map_some, others]
  refine (if_neg ?_).trans rfl
  have nreg : syncNreg (asked s b o pa) pa = memNat (asked s b o pa).base.mem (pa + 12) 2 := rfl
  cases bar : l.isBar
  · simpa [bar, nreg] using free
  · simpa [bar] using free

theorem exec_bfree_dead (dead : liveObj (asked s b o pa) pa = none) : exec (.bfree b) s =
    .next (trapped (asked s b o pa) 0x02 0 0 s.core.seq.c[b].cursor (asked s b o pa).core.seq.pc) := by
  change execBfree b s = _
  refine (withOp_at16 at16).trans ?_
  simp only [at16.2, Option.bind_some, dead, Option.map_none, takeTrap_asked_operand]

theorem exec_bxfer_dead (dead : liveObj (asked s b o pa) pa = none) : exec (.bxfer b c) s =
    .next (trapped (asked s b o pa) 0x02 0 0 s.core.seq.c[b].cursor (asked s b o pa).core.seq.pc) := by
  refine (atBarrier_at16 at16 _).trans (if_neg ?_)
  rw [liveBar, dead]
  decide

end

end Sys2Proof.Machine

/-- Settles O31: each instruction by the live object that it finds at its 16 bytes. -/
theorem liveObjectsBeginAndEnd : Obligations.LiveObjectsBeginAndEnd := by
  intro s b c expect kind o pa at16 t clobber refused x
  refine ⟨?_, exec_binit at16, exec_soinit at16, fun l live bar => ?_, fun l live free => ?_, fun dead i hi => ?_⟩
  · rintro rfl
    exact exec_binit_kind_zero at16 expect
  · exact exec_bxfer at16 live bar
  · refine (exec_bfree at16 live free).trans ?_
    refine congrArg (fun u => Host.Outcome.next (past 1 u)) ?_
    rfl
  · simp only [List.mem_cons, List.not_mem_nil, or_false] at hi
    rcases hi with rfl | rfl
    · exact exec_bxfer_dead at16 dead
    · exact exec_bfree_dead at16 dead
end

section
/-! Settled for the homes: arrivals and waits at barriers (12 R279, R280, R289 to R291, 09 R224, R225, 10 R240). -/

open Sys2Proof Sys2Proof.Machine Sys2Proof.Claims

namespace Sys2Proof.Machine

/-! ## An arrival (09 R224, R228) -/

theorem counts_of_lease {s t : State} {l : Lease} (h : Counts s l) (same : t.core.lease = s.core.lease) : Counts t l :=
  ⟨same.trans h.1, h.2⟩

theorem leaseOf_current (s : State) : leaseOf s s.core.id = s.core.lease := by
  rw [leaseOf, findCore, if_pos rfl]
  rfl

/-- The present or the last generation, as the home compares it. -/
theorem current_iff {g gen : Nat} (hg : g < 16) (hgen : gen < 16) : Current g gen ↔ ¬ (g ≠ gen ∧ g ≠ (gen + 15) % 16) := by
  unfold Current
  omega

section
variable {s : State} {pa g : Nat} {l : Lease} (counts : Counts s l)
include counts

/-- An arrival is refused with nothing pending or at another generation. -/
theorem barOp_arrival : barOp s s.core.id pa 0 g =
    if (barRead s pa).pend = 0 ∨ (g ≠ (barRead s pa).gen ∧ g ≠ ((barRead s pa).gen + 15) % 16) then none
    else some (Claims.arrived s pa, (barRead s pa).gen) := by
  obtain ⟨leased, first, room⟩ := counts
  obtain ⟨gen, pend, expect, inb, outb, kind⟩ := barRead_fits s pa
  have written : barWrite s pa { barRead s pa with pend := (barRead s pa).pend - 1 } = put16 s pa (barNat (barRead s pa).gen
      ((barRead s pa).pend - 1) (barRead s pa).expect (barRead s pa).inb (barRead s pa).outb (barRead s pa).kind) :=
    Bar.Fits.barWrite_eq_put16 (v := { barRead s pa with pend := (barRead s pa).pend - 1 })
      ⟨gen, (Nat.sub_le ..).trans_lt pend, expect, inb, outb, kind⟩ s pa
  have full : ¬ ((!l.abort) = true ∧ 8 ≤ l.journal.length) := by
    rintro ⟨limited, full⟩
    rcases room with abort | room
    · simp [abort] at limited
    · omega
  simp only [barOp, leaseOf_current, leased, Option.map_some, Option.getD_some, first, Bool.false_eq_true, if_false, full, or_false,
    true_and, written]
  rfl

theorem barOp_arrives (hg : g < 16) (pend : (barRead s pa).pend ≠ 0) (cur : Current g (barRead s pa).gen) :
    barOp s s.core.id pa 0 g = some (Claims.arrived s pa, (barRead s pa).gen) := by
  rw [barOp_arrival counts, if_neg (not_or.2 ⟨pend, (current_iff hg (barRead_fits s pa).gen).1 cur⟩)]

theorem barOp_refuses (hg : g < 16) (h : (barRead s pa).pend = 0 ∨ ¬ Current g (barRead s pa).gen) : barOp s s.core.id pa 0 g = none := by
  rw [current_iff hg (barRead_fits s pa).gen, not_not] at h
  rw [barOp_arrival counts, if_pos h]

end

/-! ## BARR (12 R289) -/

section
variable {s : State} {a : XReg} {b : CReg} {c : XReg} {o : ObjEnt} {pa : Nat} {l : Lease} (at16 : AtSyncObj s b o pa)
include at16

theorem lease_asked : (asked s b o pa).core.lease = s.core.lease := by
  rw [← askedAt_eq_asked at16.2, core_askedAt, lease_at']

/-- BARR at a live barrier whose home takes the arrival. -/
theorem exec_barr_arrives (live : liveBar (asked s b o pa) pa = true) {u : State} {g : Nat}
    (taken : barOp (asked s b o pa) (asked s b o pa).core.id pa 0 ((reg s c).toNat % 16) = some (u, g)) :
    exec (.barr a b c) s = .next (past 1 (put u a (BitVec.ofNat 64 g))) := by
  have same : rdX (asked s b o pa) c = reg s c := reg_asked at16 c
  change execBarr a b c s = _
  unfold execBarr
  dsimp only
  refine (withOp_at16 at16).trans ?_
  simp only [at16.2, Option.map_some, Option.getD_some, live, Bool.not_true, Bool.false_eq_true, if_false, Option.bind_some, same,
    taken, wrX_eq_put]
  rfl

/-- A refused arrival is reported at the next boundary when it was posted, with A = 0. -/
theorem exec_barr_refused (live : liveBar (asked s b o pa) pa = true)
    (refused : barOp (asked s b o pa) (asked s b o pa).core.id pa 0 ((reg s c).toNat % 16) = none) :
    exec (.barr a b c) s = .next (if a = 0 then past 1 { asked s b o pa with
        core := { (asked s b o pa).core with refusal := some (s.core.seq.c[b].cursor, (asked s b o pa).core.csr.mode) } }
      else trapped (asked s b o pa) 0x15 0 0 s.core.seq.c[b].cursor (asked s b o pa).core.seq.pc) := by
  have small : (Trap.mk 0x15 0 0 s.core.seq.c[b].cursor).Small := by simp [Trap.Small]
  have same : rdX (asked s b o pa) c = reg s c := reg_asked at16 c
  change execBarr a b c s = _
  unfold execBarr
  dsimp only
  refine (withOp_at16 at16).trans ?_
  simp only [at16.2, Option.map_some, Option.getD_some, live, Bool.not_true, Bool.false_eq_true, if_false, Option.bind_some, same,
    refused, word_off1, takeTrap_of_small _ small, apply_ite Host.Outcome.next]
  rfl

end

/-! ## BWAIT and BARRW at their barrier (12 R290, R291, 10 R240) -/

section
variable {s : State} {b : CReg} {ord : Ord} {o : ObjEnt} {pa : Nat} {f : State → Nat → Nat → Out} (at16 : AtSyncObj s b o pa)
include at16

theorem atBarrierOrd_stalls (h : releaseReady (at' s b) ord = false) :
    atBarrierOrd b ord s f = .next (begins (at' s b) (fixes (at' s b) [])) := withOrd_stalls at16.1 h

theorem atBarrierOrd_goes (h : releaseReady (at' s b) ord = true) (live : liveBar (releasedAt s b ord o pa) pa = true) :
    atBarrierOrd b ord s f = f (releasedAt s b ord o pa) pa (off1 s b).toNat := by
  refine (withOrd_goes at16.1 h at16.2 rfl).trans ?_
  rw [barrierHome, at16.2]
  exact if_pos live

end

section
variable {s : State} {a : XReg} {b : CReg} {c : XReg} {ord : Ord}

/-- What BWAIT does at its live barrier. -/
def bwaitActs (c : XReg) (ord : Ord) (t : State) (pa _off : Nat) : Out :=
  .next (if (barRead t pa).gen ≠ (reg t c).toNat % 16 then past 1 (waits (acquireHalf t ord) .none)
    else registered t pa (.bwait pa false))

/-- The arrival of BARRW: the one that its wait left when it was given up, or a new one. -/
def barrwArrival (c : XReg) (t : State) (pa : Nat) : Option (State × Nat) :=
  match t.core.lease.bind (fun l => l.resumeArr) with
  | some (q, h) =>
    if q = pa then some (onLease t t.core.id (fun l => { l with resumeArr := none }), h)
    else barOp t t.core.id pa 0 ((reg t c).toNat % 16)
  | none => barOp t t.core.id pa 0 ((reg t c).toNat % 16)

/-- What BARRW does once it has arrived at generation `gen`. -/
def barrwArrived (a : XReg) (ord : Ord) (u : State) (pa gen : Nat) : Out :=
  .next (if (barRead u pa).gen ≠ gen then past 1 (put (waits (acquireHalf u ord) .none) a (BitVec.ofNat 64 gen))
    else registered u pa (.barrw pa gen false))

/-- What BARRW does at its live barrier. -/
def barrwActs (a c : XReg) (ord : Ord) (t : State) (pa off : Nat) : Out :=
  match barrwArrival c t pa with
  | none => .next (takeTrap t ⟨0x15, 0, 0, word off⟩)
  | some (u, gen) => barrwArrived a ord u pa gen

theorem exec_bwait_enters (enters : ∀ p d, s.core.wait ≠ .bwait p d) :
    exec (.bwait b c ord) s = atBarrierOrd b ord s (bwaitActs c ord) := by
  have acts (t : State) (pa off : Nat) : bwaitActs c ord t pa off =
      if (barRead t pa).gen ≠ (rdX t c).toNat % 16 then .next (bwaitDone t ord)
      else .next (setWait (registerWaiter t pa) (.bwait pa false)) := apply_ite Host.Outcome.next _ _ _
  change execBwait b c ord s = _
  unfold execBwait
  split
  next h => exact absurd h (enters _ _)
  next h => exact absurd h (enters _ _)
  next => exact congrArg (atBarrierOrd b ord s) (funext fun t => funext fun pa => funext fun off => (acts t pa off).symm)

theorem barrwArrived_eq (a : XReg) (ord : Ord) (u : State) (pa gen : Nat) : barrwArrived a ord u pa gen =
    if (barRead u pa).gen ≠ gen then .next (barrwDone u a gen ord)
    else .next (setWait (registerWaiter u pa) (.barrw pa gen false)) := by
  rw [barrwDone, wrX_eq_put]
  exact apply_ite Host.Outcome.next _ _ _

theorem exec_barrw_enters (enters : ∀ p g d, s.core.wait ≠ .barrw p g d) :
    exec (.barrw a b c ord) s = atBarrierOrd b ord s (barrwActs a c ord) := by
  change execBarrw a b c ord s = _
  unfold execBarrw
  split
  next h => exact absurd h (enters _ _ _)
  next h => exact absurd h (enters _ _ _)
  next =>
    refine congrArg (atBarrierOrd b ord s) (funext fun t => funext fun pa => funext fun off => ?_)
    rw [barrwActs]
    simp only [barrwArrived_eq]
    rfl

/-- BARRW with no arrival to resume arrives anew. -/
theorem barrwActs_arrives {t u : State} {l : Lease} {pa gen : Nat} (leased : t.core.lease = some l) (fresh : l.resumeArr = none)
    (taken : barOp t t.core.id pa 0 ((reg t c).toNat % 16) = some (u, gen)) (off : Nat) :
    barrwActs a c ord t pa off = barrwArrived a ord u pa gen := by
  have none : (t.core.lease.bind fun l => l.resumeArr) = none := by rw [leased]; exact fresh
  rw [barrwActs, barrwArrival, none, taken]

/-- BARRW given up in its wait takes the arrival of its lease again (12 R280). -/
theorem barrwActs_resumes {t : State} {l : Lease} {pa gen : Nat} (leased : t.core.lease = some l)
    (left : l.resumeArr = some (pa, gen)) (off : Nat) :
    barrwActs a c ord t pa off = barrwArrived a ord (onLease t t.core.id (fun l => { l with resumeArr := none })) pa gen := by
  have some : (t.core.lease.bind fun l => l.resumeArr) = some (pa, gen) := by rw [leased]; exact left
  simp only [barrwActs, barrwArrival, some, if_true]

theorem barRead_onLease (t : State) (id : Nat) (f : Lease → Lease) (pa : Nat) : barRead (onLease t id f) pa = barRead t pa := by
  unfold onLease onCore
  split <;> rfl

theorem lease_releasedAt (s : State) (b : CReg) (ord : Ord) (o : ObjEnt) (pa : Nat) :
    (releasedAt s b ord o pa).core.lease = s.core.lease := (recalls_releasedAt ..).drains.lease.trans (lease_at' ..)

theorem reg_releasedAt (s : State) (b : CReg) (ord : Ord) (o : ObjEnt) (pa : Nat) (c : XReg) :
    reg (releasedAt s b ord o pa) c = reg s c := reg_eq_of_seq (seq_releasedAt ..) c

end

end Sys2Proof.Machine

/-- Settles O32: an arrival by what the home answers; the waits by what they are in: entered, released or still waiting. -/
theorem barrierArrivalsAndWaits : Obligations.BarrierArrivalsAndWaits := by
  intro s a b c ord o pa l g
  have gen : g < 16 := Nat.mod_lt _ (by decide)
  refine ⟨fun at16 live counts => ?_, fun at16 => ⟨fun enters => ⟨?_, fun ready live => ?_⟩, fun enters => ⟨?_,
    fun ready live counts fresh pend current => ?_, fun ready live counts left => ?_⟩⟩, fun p h => ?_, fun p q h => ?_, fun p h => ?_,
    fun p q h => ?_⟩
  · have counts := counts_of_lease counts (lease_asked at16)
    exact ⟨fun pend current => exec_barr_arrives at16 live (barOp_arrives counts gen pend current),
      fun refused => exec_barr_refused at16 live (barOp_refuses counts gen refused)⟩
  · intro stalls
    exact (exec_bwait_enters enters).trans (atBarrierOrd_stalls at16 stalls)
  · refine (exec_bwait_enters enters).trans ((atBarrierOrd_goes at16 ready live).trans ?_)
    rw [bwaitActs, reg_releasedAt]
    rfl
  · intro stalls
    exact (exec_barrw_enters enters).trans (atBarrierOrd_stalls at16 stalls)
  · have leased := (lease_releasedAt s b ord o pa).trans counts.1
    have same : (reg (releasedAt s b ord o pa) c).toNat % 16 = g := by rw [reg_releasedAt]
    have taken := barOp_arrives (counts_of_lease counts (lease_releasedAt s b ord o pa)) gen pend current
    rw [← same] at taken
    exact (exec_barrw_enters enters).trans ((atBarrierOrd_goes at16 ready live).trans (barrwActs_arrives leased fresh taken _))
  · have leased := (lease_releasedAt s b ord o pa).trans counts.1
    refine (exec_barrw_enters enters).trans ((atBarrierOrd_goes at16 ready live).trans ((barrwActs_resumes leased left _).trans ?_))
    rw [barrwArrived, barRead_onLease]
    exact congrArg Host.Outcome.next (if_neg (not_not.2 rfl))
  · change execBwait b c ord s = _
    rw [execBwait, h]
    rfl
  · change execBarrw a b c ord s = _
    simp only [execBarrw, h, barrwDone, wrX_eq_put]
    rfl
  · change execBwait b c ord s = _
    rw [execBwait, h]
  · change execBarrw a b c ord s = _
    simp only [execBarrw, h]
end

section
/-! Settled for the homes: the sync object and the coherence mode of a region (12 R279, R295, R296, 10 R237, R241). -/

open Sys2Proof Sys2Proof.Machine Sys2Proof.Claims

namespace Sys2Proof.Machine

/-! ## RBIND (12 R295) -/

section
variable {s : State} {b c : CReg} {o : ObjEnt}

/-- The null capability, as RBIND finds it. -/
theorem null_iff (k : Cap) : (!k.tag && decide (k.bits = 0)) = true ↔ k.tag = false ∧ k.bits = 0 := by
  rw [Bool.and_eq_true, Bool.not_eq_true', decide_eq_true_eq]

theorem bindObj_null (tag : s.core.seq.c[c].tag = false) (bits : s.core.seq.c[c].bits = 0) : bindObj s c = .ok none :=
  if_pos ((null_iff s.core.seq.c[c]).2 ⟨tag, bits⟩)

theorem bindObj_names (named : s.core.seq.c[c].tag = true ∨ s.core.seq.c[c].bits ≠ 0) :
    bindObj s c = (checkHome s c (off1 s c) 16 16 4 [1]).map some := by
  have names : ¬ (s.core.seq.c[c].tag = false ∧ s.core.seq.c[c].bits = 0) := by
    rintro ⟨tag, bits⟩
    exact named.elim (fun named => absurd (tag.symm.trans named) (by decide)) (fun named => named bits)
  refine (if_neg (mt (null_iff s.core.seq.c[c]).1 names)).trans ?_
  change _ = (checkHome s c (rdC s c).cursor.toNat 16 16 permA [1]).map some
  cases checkHome s c (rdC s c).cursor.toNat 16 16 permA [1] <;> rfl

/-- The region's entry names `new`, and both counts have moved (12 R295). -/
def rebound (t : State) (o : ObjEnt) (new : Nat) : State :=
  let e := onObj t o.oid (fun e => { e with sync := new })
  let f := if o.sync = 0 then e else syncPutNreg e o.sync (syncNreg e o.sync - 1)
  if new = 0 then f else syncPutNreg f new (syncNreg f new + 1)

/-- What RBIND does once its request has left. -/
def rbindActs (c : CReg) (o : ObjEnt) (p : Option ObjEnt) (t : State) : Out :=
  match bindTarget t c p with
  | .error f => .next (takeTrap t f)
  | .ok new =>
    if new = o.sync then .next (retire 1 t)
    else if new ≠ 0 ∧ syncNreg t new = 65535 then .next (takeTrap t (trapOperand 0 (rdC t c).cursor))
    else .next (retire 1 (rebound t o new))

/-- RBIND after the checks of cB. -/
theorem exec_rbind (leaves : Leaves s b (off1 s b) 1 1 3 [1, 2, 3] o) : exec (.rbind b c) s =
    match bindObj (at' s b) c with
    | .error f => .next (takeTrap (at' s b) f)
    | .ok p => leaving (if p.isSome then at' (at' s b) c else at' s b) (fun t => rbindActs c o p (sent t o (off1 s b).toNat)) := by
  obtain ⟨-, checked⟩ := leaves
  change execRbind b c s = _
  unfold execRbind
  dsimp only
  refine (congrArg (fun r => withCap s b r _) checked).trans ?_
  rw [withCap_ok]
  rfl

theorem rbindActs_null (c : CReg) (o : ObjEnt) (t : State) :
    rbindActs c o none t = .next (past 1 (if o.sync = 0 then t else rebound t o 0)) := by
  by_cases h : o.sync = 0
  · rw [if_pos h]
    exact if_pos h.symm
  · rw [if_neg h]
    exact (if_neg (Ne.symm h)).trans (if_neg (fun k => k.1 rfl))

theorem rbindActs_names {p : ObjEnt} {t : State} {pa : Nat} (at' : paOf p (off1 t c).toNat = some pa) (live : liveSync t pa = true)
    (new : o.sync ≠ pa) (room : syncNreg t pa ≠ 65535) : rbindActs c o (some p) t = .next (past 1 (rebound t o pa)) := by
  have target : bindTarget t c (some p) = .ok pa := by
    change (match paOf p (off1 t c).toNat with
      | none => Except.error _
      | some pa => if liveSync t pa then .ok pa else .error _) = _
    rw [at']
    exact if_pos live
  rw [rbindActs, target]
  exact (if_neg (Ne.symm new)).trans (if_neg (fun k => room k.2))

end

section
variable {s : State} {b c : CReg} {o : ObjEnt}

theorem off1_at' (s : State) (b c : CReg) : off1 (at' s b) c = off1 s c := by
  unfold off1
  rw [seq_at']

/-- RBIND of a capability that is not null, once its request may leave. -/
theorem exec_rbind_names (leaves : Leaves s b (off1 s b) 1 1 3 [1, 2, 3] o)
    (named : s.core.seq.c[c].tag = true ∨ s.core.seq.c[c].bits ≠ 0) : exec (.rbind b c) s =
      match checkHome (at' s b) c (off1 s c) 16 16 4 [1] with
      | .error f => .next (takeTrap (at' s b) f)
      | .ok p => rbindActs c o (some p) (askedBoth s b c o (off1 s b).toNat) := by
  have empty : (at' (at' s b) c).core.sb = [] := ((sb_at' ..).trans (sb_at' ..)).trans leaves.1
  rw [exec_rbind leaves, bindObj_names (by rwa [seq_at']), off1_at']
  cases checkHome (at' s b) c (off1 s c) 16 16 4 [1] with
  | error f => rfl
  | ok p => exact leaving_of_empty empty _

theorem exec_rbind_null (leaves : Leaves s b (off1 s b) 1 1 3 [1, 2, 3] o) (tag : s.core.seq.c[c].tag = false)
    (bits : s.core.seq.c[c].bits = 0) :
    exec (.rbind b c) s = rbindActs c o none (askedAt s b o (off1 s b).toNat) := by
  have empty : (at' s b).core.sb = [] := (sb_at' ..).trans leaves.1
  rw [exec_rbind leaves, bindObj_null (by rwa [seq_at']) (by rwa [seq_at']), ← sent_at']
  exact leaving_of_empty empty _

theorem seq_askedBoth (s : State) (b c : CReg) (o : ObjEnt) (k : Nat) : (askedBoth s b c o k).core.seq = s.core.seq := by
  unfold askedBoth
  dsimp only
  split
  · exact (congrArg Core.seq (Kept.serve ..).core).trans ((seq_at' ..).trans (seq_at' ..))
  · exact (seq_at' ..).trans (seq_at' ..)

end

/-! ## RMODE (12 R296, 10 R237) -/

theorem mem_insertBy {α : Type} {key : α → Nat} {a b : α} {l : List α} : a ∈ insertBy key b l ↔ a = b ∨ a ∈ l := by
  induction l with
  | nil => simp [insertBy]
  | cons c l ih =>
    rw [insertBy]
    split
    · rw [List.mem_cons]
    · rw [List.mem_cons, ih, List.mem_cons]
      tauto

theorem mem_sortBy {α : Type} {key : α → Nat} {a : α} {l : List α} (h : a ∈ l) : a ∈ sortBy key l := by
  have folded (l acc : List α) (h : a ∈ l ∨ a ∈ acc) : a ∈ l.foldl (fun acc a => insertBy key a acc) acc := by
    induction l generalizing acc with
    | nil => exact h.resolve_left (List.not_mem_nil)
    | cons b l ih =>
      refine ih _ ?_
      rw [mem_insertBy]
      rcases h with h | h
      · exact (List.mem_cons.1 h).elim (fun same => .inr (.inl same)) .inl
      · exact .inr (.inr h)
  exact folded l [] (.inl h)

/-- What a step of a fold reaches, the later steps keep. -/
theorem foldl_reaches {α β : Type} {f : α → β → α} {Q P : α → Prop} (holds : ∀ a b, Q a → Q (f a b)) (keeps : ∀ a b, Q a → P a → P (f a b))
    {b : β} (makes : ∀ a, Q a → P (f a b)) {l : List β} (h : b ∈ l) {a : α} (ha : Q a) : P (l.foldl f a) := by
  obtain ⟨xs, ys, rfl⟩ := List.append_of_mem h
  rw [List.foldl_append, List.foldl_cons]
  have before := foldl_keeps Q f holds xs a ha
  exact (foldl_keeps (fun a => Q a ∧ P a) f (fun a b h => ⟨holds a b h.1, keeps a b h.1 h.2⟩) ys _ ⟨holds _ _ before, makes _ before⟩).2

/-- No word of the object is dirty in the current core's L1. -/
def NoDirty (o : ObjEnt) (s : State) : Prop := ∀ w ∈ s.core.l1, w.oid = o.oid → w.dirty = false

section
variable {s t : State} {o : ObjEnt}

theorem Recalls.noDirty (h : Recalls s t) (clean : NoDirty o s) : NoDirty o t := by
  obtain ⟨ws, core, dirty⟩ := h.core
  intro w hw own
  rw [core] at hw
  by_contra hd
  exact hd (clean w (dirty w hw (by simpa using hd)) own)

theorem noDirty_writeBack (s : State) (o : ObjEnt) : NoDirty o (writeBack s s.core.id (fun w => w.oid == o.oid)) := by
  intro w hw own
  by_contra hd
  obtain ⟨v, -, -, asked, rfl⟩ := writeBack_cleans s _ w hw (by simpa using hd)
  exact absurd own (by simpa using asked)

/-- One turn of the sweep writes words back, and changes the directory besides. -/
theorem sweepCore_fst (acc : State × List Nat × Option Nat) (id : Nat) : (sweepCore o acc id).1 = acc.1 ∨
    ∃ dir, (sweepCore o acc id).1 = { writeBack acc.1 id (fun w => w.oid == o.oid) with
      base := { (writeBack acc.1 id (fun w => w.oid == o.oid)).base with dir := dir } } := by
  unfold sweepCore
  split
  · exact .inl rfl
  · exact .inr ⟨_, rfl⟩

theorem sweepCore_recalls (acc : State × List Nat × Option Nat) (id : Nat) :
    Recalls acc.1 (sweepCore o acc id).1 ∧ settled (sweepCore o acc id).1 = settled acc.1 := by
  rcases sweepCore_fst acc id with same | ⟨dir, swept⟩
  · rw [same]
    exact ⟨.refl _, rfl⟩
  · rw [swept]
    exact ⟨(Recalls.writeBack ..).trans (.of_core rfl), settled_writeBack ..⟩

/-- The current core's own turn leaves it no dirty word of the object. -/
theorem sweepCore_noDirty (acc : State × List Nat × Option Nat) : NoDirty o (sweepCore o acc acc.1.core.id).1 := by
  have found : findCore acc.1 acc.1.core.id = some acc.1.core := if_pos rfl
  unfold sweepCore
  rw [found]
  exact noDirty_writeBack acc.1 o

/-- The sweep of every L1, in ascending core id. -/
def sweep (s : State) (o : ObjEnt) : State × List Nat × Option Nat :=
  (allCores s).foldl (fun acc c => sweepCore o acc c.id) (s, [], none)

theorem sweep_recalls (s : State) (o : ObjEnt) : Recalls s (sweep s o).1 ∧ settled (sweep s o).1 = settled s :=
  foldl_keeps (fun a : State × List Nat × Option Nat => Recalls s a.1 ∧ settled a.1 = settled s) _
    (fun a c h => ⟨h.1.trans (sweepCore_recalls a c.id).1, (sweepCore_recalls a c.id).2.trans h.2⟩) _ _ ⟨.refl s, rfl⟩

theorem sweep_noDirty (s : State) (o : ObjEnt) : NoDirty o (sweep s o).1 := by
  refine foldl_reaches (Q := fun a : State × List Nat × Option Nat => Recalls s a.1) (P := fun a => NoDirty o a.1) (b := s.core)
    (fun a c h => h.trans (sweepCore_recalls a c.id).1) (fun a c _ => (sweepCore_recalls a c.id).1.noDirty) (fun a h => ?_)
    (mem_sortBy (List.mem_cons_self ..)) (.refl s)
  rw [← h.id]
  exact sweepCore_noDirty a

/-- The conflict that a sweep found, in the region's entry (10 R237). -/
def conflicted (s : State) (o : ObjEnt) (hit : Option Nat) : State :=
  match hit with
  | none => s
  | some off => onObj s o.oid (fun e => { e with conflict := true, caddr := off })

theorem conflicted_keeps (s : State) (o : ObjEnt) (hit : Option Nat) :
    (conflicted s o hit).core = s.core ∧ (conflicted s o hit).gtc = s.gtc := by
  cases hit <;> exact ⟨rfl, rfl⟩

/-- The region becomes COHERENT: its entry says so, every L1 is swept, and the conflict found is kept. -/
def madeCoherent (s : State) (o : ObjEnt) : State :=
  let u := onObj s o.oid (fun e => { e with coh := true })
  conflicted (sweep u o).1 o (sweep u o).2.2

/-- The entries of the object are COHERENT. -/
def Coherent (s : State) (oid : BitVec 24) : Prop := ∀ e ∈ s.base.objs, e.oid = oid → e.coh = true

theorem coherent_onObj (s : State) (oid : BitVec 24) {f : ObjEnt → ObjEnt}
    (coh : ∀ e ∈ s.base.objs, e.oid = oid → (f e).coh = true) : Coherent (onObj s oid f) oid := by
  intro e he own
  obtain ⟨e', he', rfl⟩ := List.mem_map.1 he
  by_cases h : e'.oid = oid
  · rw [if_pos h]
    exact coh e' he' h
  · rw [if_neg h] at own
    exact absurd own h

theorem Coherent.conflicted (h : Coherent s o.oid) (hit : Option Nat) : Coherent (conflicted s o hit) o.oid := by
  cases hit with
  | none => exact h
  | some off => exact coherent_onObj s o.oid h

end

/-- The directory entries that lie outside a region's extents. -/
theorem not_within_iff (o : ObjEnt) (a : Nat) : (!o.exts.any (fun e => e.pa ≤ a && a < e.pa + e.npg * 4096)) =
    decide (¬ ∃ e ∈ o.exts, e.pa ≤ a ∧ a < e.pa + e.npg * 4096) := by
  rw [Bool.eq_iff_iff]
  simp

section
variable {s : State} {b : CReg} {mode : Bool} {o : ObjEnt} (leaves : Leaves s b (off1 s b) 1 1 3 [2, 3] o)
include leaves

/-- RMODE once its request has left. -/
theorem exec_rmode : exec (.rmode b mode) s =
    let t := askedAt s b o (off1 s b).toNat
    let u := onObj t o.oid (fun e => { e with coh := false })
    .next (past 1 (if o.coh = mode then t else if mode then madeCoherent t o else { u with base := { u.base with
      dir := u.base.dir.filter (fun d => ¬ ∃ e ∈ o.exts, e.pa ≤ d.block * 128 ∧ d.block * 128 < e.pa + e.npg * 4096) } })) := by
  change execRmode b mode s = _
  refine (withOp_leaves leaves _).trans ?_
  by_cases h : o.coh = mode
  · simp only [h]
    rfl
  · cases mode with
    | false =>
      simp only [h, if_false, Bool.false_eq_true, not_within_iff]
      rfl
    | true =>
      simp only [h, if_true]
      rfl

end

theorem pinFrame_at' (s : State) (b : CReg) : PinFrame s (at' s b) := (touches_touchObj ..).pinFrame

theorem gtc_at' (s : State) (b : CReg) : (at' s b).gtc = s.gtc := by
  obtain ⟨tc, objs, ls, h, -⟩ := pinFrame_at' s b
  rw [h]

theorem gtc_askedAt (s : State) (b : CReg) (o : ObjEnt) (k : Nat) : (askedAt s b o k).gtc = s.gtc :=
  (congrArg Prod.fst (kept_askedAt s b o k).settled).trans (gtc_at' ..)

/-- What RMODE to COHERENT leaves: the sweep has written the region's words back, and its entry says COHERENT. -/
theorem madeCoherent_leaves (t : State) (o : ObjEnt) :
    let v := madeCoherent t o
    NoDirty o v ∧ v.core.seq = t.core.seq ∧ v.core.csr = t.core.csr ∧ v.gtc = t.gtc ∧ Coherent v o.oid := by
  let u := onObj t o.oid (fun e => { e with coh := true })
  obtain ⟨recalls, settled⟩ := sweep_recalls u o
  obtain ⟨core, gtc⟩ := conflicted_keeps (sweep u o).1 o (sweep u o).2.2
  obtain ⟨ws, swept, -⟩ := recalls.core
  have clean := sweep_noDirty u o
  have coherent : Coherent (sweep u o).1 o.oid := by
    have objs : (sweep u o).1.base.objs = u.base.objs := congrArg (fun p => p.2.1) settled
    unfold Coherent
    rw [objs]
    exact coherent_onObj t o.oid (fun _ _ _ => rfl)
  unfold madeCoherent
  refine ⟨?_, ?_, ?_, gtc.trans (congrArg Prod.fst settled), coherent.conflicted _⟩
  · unfold NoDirty
    rwa [core]
  · rw [core, swept]
    rfl
  · rw [core, swept]
    rfl

end Sys2Proof.Machine

/-- Settles O34: RBIND by what cC names and its checks; RMODE by the mode that the region has and gets. -/
theorem regionsBindAndChangeMode : Obligations.RegionsBindAndChangeMode := by
  intro s b c mode o
  refine ⟨fun leaves tag bits => ?_, fun leaves named f refused => ?_, fun leaves named p pa checked at' target live new room => ?_,
    fun leaves => ⟨fun same => ?_, fun coh soft => ?_, fun soft coh => ?_⟩⟩
  · refine (exec_rbind_null leaves tag bits).trans ((rbindActs_null ..).trans ?_)
    by_cases none : o.sync = 0
    · rw [if_pos none, if_pos none]
    · rw [if_neg none, if_neg none, rebound, if_neg none]
      rfl
  · rw [exec_rbind_names leaves named, refused]
  · rw [exec_rbind_names leaves named, checked]
    have off : off1 (askedBoth s b c o (off1 s b).toNat) c = off1 s c := by
      unfold off1
      rw [seq_askedBoth]
    refine (rbindActs_names (off ▸ target) live new room).trans ?_
    rw [rebound, if_neg at']
    rfl
  · refine (exec_rmode leaves).trans ?_
    simp only [same, if_true]
  · subst soft
    refine (exec_rmode leaves).trans ?_
    simp only [coh, Bool.true_eq_false, Bool.false_eq_true, if_false]
    rfl
  · subst coh
    obtain ⟨clean, seq, csr, gtc, coherent⟩ := madeCoherent_leaves (askedAt s b o (off1 s b).toNat) o
    refine ⟨madeCoherent (askedAt s b o (off1 s b).toNat) o, (exec_rmode leaves).trans ?_, ?_⟩
    · simp only [soft, Bool.false_eq_true, if_false, if_true]
    · exact ⟨clean, seq.trans (seq_askedAt ..), csr.trans ((congrArg Core.csr (core_askedAt ..)).trans (csr_at' ..)),
        gtc.trans (gtc_askedAt ..), coherent⟩
end

section
/-! Settled for the homes: digests are configured, read and rebuilt (12 R297 to R299, 11 R255, R256, R265, R266). -/

open Sys2Proof Sys2Proof.Machine Sys2Proof.Claims

namespace Sys2Proof.Machine

/-! ## Reads of the array without errors and without retries (08 R191, R192, 09 R206 to R208) -/

/-- `t` is `s` but for its lines, its buckets and its ports. -/
def Lined (s t : State) : Prop := ∃ ls lv ps, t = { s with base := { s.base with lines := ls, plvl := lv, ports := ps } }

theorem Lined.refl (s : State) : Lined s s := ⟨_, _, _, rfl⟩

theorem Lined.trans {s t u : State} (h : Lined s t) (g : Lined t u) : Lined s u := by
  obtain ⟨ls, lv, ps, rfl⟩ := h
  obtain ⟨ls', lv', ps', rfl⟩ := g
  exact ⟨_, _, _, rfl⟩

theorem Lined.serve (s : State) (g up down : Nat) (p : Fin 16) (k : PacketKind) (src : Option Nat) :
    Lined s (serve s g up down p k src) := by
  obtain ⟨lv, ps, h⟩ := serve_levels_ports s g up down p k src
  exact ⟨_, _, _, h⟩

/-- The array holds no error, no channel retries, and no page is in host bias. -/
structure Calm (s : State) : Prop where
  bias : s.base.bias = []
  ecc : s.base.ecc = []
  vbus : s.base.vbus = []

theorem Lined.calm {s t : State} (h : Lined s t) (calm : Calm s) : Calm t := by
  obtain ⟨ls, lv, ps, rfl⟩ := h
  exact ⟨calm.bias, calm.ecc, calm.vbus⟩

theorem Lined.cores {s t : State} (h : Lined s t) : t.core = s.core ∧ t.others = s.others := by
  obtain ⟨ls, lv, ps, rfl⟩ := h
  exact ⟨rfl, rfl⟩

theorem eccWritten_of_empty {b : Base} (h : b.ecc = []) (pa n : Nat) : eccWritten b pa n = b := by
  have none : b.ecc.filter (fun e => !(pa ≤ e.pa && e.pa + 32 ≤ pa + n)) = b.ecc := by
    rw [h]
    rfl
  rw [eccWritten, none]

theorem onBase_eccWritten {s : State} (h : s.base.ecc = []) (pa n : Nat) : onBase s (fun b => eccWritten b pa n) = s :=
  congrArg (fun b => { s with base := b }) (eccWritten_of_empty h pa n)

theorem uncorrectable_of_empty {b : Base} (h : b.ecc = []) (pa n : Nat) : uncorrectable b pa n = false := by
  rw [uncorrectable, eccIn, h]
  rfl

theorem vchanOf_of_empty {b : Base} (h : b.vbus = []) (d : Fin 8) (ch : Fin 16) : vchanOf b d ch = ⟨d, ch, 0, none, []⟩ := by
  rw [vchanOf, h]
  rfl

section
variable {s : State} (calm : Calm s)
include calm

theorem Calm.lineBack (l : CLine) : Lined s (lineBack s l) := by
  have served := Lined.serve s l.home 256 0 l.pid .request none
  unfold Machine.lineBack
  split
  · rw [onBase_eccWritten (served.calm calm).ecc]
    exact served
  · exact .refl s

theorem Calm.useLine (home gran kind : Nat) (pid : Fin 16) (dirty : Bool) : Lined s (useLine s home gran kind pid dirty) := by
  unfold Machine.useLine
  dsimp only
  split
  · exact ⟨_, _, _, rfl⟩
  · split
    · exact ⟨_, _, _, rfl⟩
    · split
      · exact (calm.lineBack _).trans ⟨_, _, _, rfl⟩
      · exact .refl s

theorem Calm.wayAsk (home kind : Nat) (chan : Option (Fin 8 × Fin 16)) (gran core : Nat) (pid : Fin 16) :
    wayAsk s home kind chan gran core pid = (s, .ok) := by
  unfold Machine.wayAsk
  split
  · rfl
  · cases chan with
    | none => rfl
    | some c =>
      simp only [vchanOf_of_empty calm.vbus]
      rfl

theorem Calm.wayRead (home kind : Nat) (chan : Option (Fin 8 × Fin 16)) (pa n core : Nat) (pid : Fin 16) :
    wayRead s home kind chan pa n core pid = (Machine.useLine s home (pa / 256) kind pid false, .ok) := by
  have array (d : Fin 8) (ch : Fin 16) (gran : Nat) : arrayRead s d ch home gran core = s := by
    rw [arrayRead, eccIn, calm.ecc]
    rfl
  unfold Machine.wayRead
  simp only [calm.wayAsk]
  split
  · rfl
  · simp only [array, uncorrectable_of_empty calm.ecc, Bool.false_eq_true, if_false]

theorem Calm.wayWrite (home kind : Nat) (chan : Option (Fin 8 × Fin 16)) (pa n core : Nat) (pid : Fin 16) :
    Lined s (wayWrite s home kind chan pa n core pid) := by
  have read (c : Prop) [Decidable c] : Lined s (if c then s else (Machine.wayRead s home kind chan pa n core pid).1) := by
    split
    · exact .refl s
    · rw [calm.wayRead]
      exact calm.useLine ..
  have open_ : ((chan.map (fun c => vchanOf s.base c.1 c.2)).map (fun v => v.width != 3 && v.vseq.isNone)).getD true = true := by
    cases chan with
    | none => rfl
    | some c =>
      rw [Option.map_some, vchanOf_of_empty calm.vbus]
      rfl
  unfold Machine.wayWrite
  dsimp only
  rw [open_]
  have lined := read ((s.base.lines.any (fun l => l.is home (pa / 256)) || !true || n = 256) = true)
  generalize (if (s.base.lines.any (fun l => l.is home (pa / 256)) || !true || n = 256) = true then s
    else (Machine.wayRead s home kind chan pa n core pid).1) = u at lined ⊢
  have calm' := lined.calm calm
  rw [onBase_eccWritten calm'.ecc, uncorrectable_of_empty calm'.ecc, Bool.not_false, Bool.and_true, Bool.or_true, if_pos rfl]
  exact lined.trans (calm'.useLine ..)

/-- An access that changes lines and ports only, and succeeds. -/
theorem Calm.digLine (o : ObjEnt) (home pa core : Nat) (pid : Fin 16) :
    Lined s (digLine s o home pa core pid).1 ∧ (digLine s o home pa core pid).2 = .ok := by
  unfold Machine.digLine
  rw [calm.wayRead]
  exact ⟨calm.useLine .., rfl⟩

end

/-- A fold over accesses each of which changes lines and ports only, and succeeds. -/
theorem lined_foldl {β : Type} {P : State → Prop} (kept : ∀ {s t}, Lined s t → P s → P t) {f : State × Fetch → β → State × Fetch}
    (hf : ∀ a b, P a.1 → a.2 = .ok → Lined a.1 (f a b).1 ∧ (f a b).2 = .ok) (l : List β) {s : State} (hs : P s) :
    Lined s (l.foldl f (s, .ok)).1 ∧ (l.foldl f (s, .ok)).2 = .ok := by
  have all := foldl_keeps (fun a : State × Fetch => P a.1 ∧ Lined s a.1 ∧ a.2 = .ok) f
    (fun a b ⟨pa, lined, ok⟩ => ⟨kept (hf a b pa ok).1 pa, lined.trans (hf a b pa ok).1, (hf a b pa ok).2⟩) l (s, .ok) ⟨hs, .refl s, rfl⟩
  exact all.2

theorem Calm.digLines {s : State} (calm : Calm s) (o : ObjEnt) (j core : Nat) (pid : Fin 16) (write : Bool) :
    Lined s (digLines s o j core pid write).1 ∧ (digLines s o j core pid write).2 = .ok := by
  refine lined_foldl Lined.calm (fun a p calm ok => ?_) _ calm
  obtain ⟨lined, read⟩ := calm.digLine o (digHome o j) p.1 core pid
  refine ⟨?_, (Fetch.and_ok ..).2 ⟨ok, read⟩⟩
  cases write with
  | false => exact lined
  | true => exact lined.trans ((lined.calm calm).wayWrite ..)

theorem Calm.digRecall {s : State} (calm : Calm s) (o : ObjEnt) (j : Nat) : digRecall s o j = s := by
  refine foldl_eq_self (fun g _ => ?_)
  cases paOf o g.1 with
  | none => rfl
  | some pa => exact hostRecall_unbiased (by simp [calm.bias])

/-! ## DREBUILD (12 R299, 11 R265) -/

/-- No core is power-gated, and the array is calm. -/
structure Awake (s : State) : Prop extends Calm s where
  awake : ∀ c ∈ s.core :: s.others, c.gated = false

theorem Lined.awake {s t : State} (h : Lined s t) (awake : Awake s) : Awake t := by
  refine ⟨h.calm awake.toCalm, ?_⟩
  rw [h.cores.1, h.cores.2]
  exact awake.awake

section
variable {s : State} (awake : Awake s)
include awake

theorem Awake.wakeAsk (o : ObjEnt) (off n : Nat) : wakeAsk s o off n = (s, .ok) := by
  have sleeps (pa n : Nat) : (s.core :: s.others).filter (retains s pa n) = [] := by
    rw [List.filter_eq_nil_iff]
    intro c hc
    simp [retains, awake.awake c hc]
  unfold Machine.wakeAsk eachGranule
  split
  · refine foldl_eq_self (fun g _ => ?_)
    simp only [sleeps]
    cases paOf o g.1 <;> rfl
  · rfl

theorem Awake.dramRead (o : ObjEnt) (off n core : Nat) (pid : Fin 16) :
    Lined s (dramRead s o off n core pid).1 ∧ (dramRead s o off n core pid).2 = .ok := by
  unfold Machine.dramRead
  split
  · exact ⟨.refl s, rfl⟩
  · dsimp only
    rw [awake.wakeAsk, Fetch.ok_and]
    refine lined_foldl Lined.awake (fun a g awake ok => ?_) _ awake
    cases paOf o g.1 with
    | none => exact ⟨.refl _, ok⟩
    | some pa =>
      dsimp only
      rw [awake.toCalm.wayRead]
      exact ⟨awake.toCalm.useLine .., (Fetch.and_ok ..).2 ⟨ok, rfl⟩⟩

theorem Awake.rebuildRead (o : ObjEnt) (j : Nat) : Lined s (rebuildRead s o j).1 ∧ (rebuildRead s o j).2 = .ok := by
  unfold Machine.rebuildRead
  dsimp only
  rw [awake.toCalm.digRecall]
  obtain ⟨lined, ok⟩ := awake.dramRead o (j * dcfgB o.dcfg) (min (dcfgB o.dcfg) (o.len - j * dcfgB o.dcfg)) s.core.id s.core.csr.pid
  obtain ⟨lined', ok'⟩ := (lined.calm awake.toCalm).digLines o j s.core.id s.core.csr.pid false
  exact ⟨lined.trans lined', (Fetch.and_ok ..).2 ⟨ok, ok'⟩⟩

end

/-- The read of one block more, before the first is rebuilt. -/
def readNext (o : ObjEnt) (acc : State × Fetch) (j : Nat) : State × Fetch :=
  ((rebuildRead acc.1 o j).1, acc.2.and (rebuildRead acc.1 o j).2)

theorem lined_readNext {o : ObjEnt} {acc : State × Fetch} (awake : Awake acc.1) (ok : acc.2 = .ok) (j : Nat) :
    Lined acc.1 (readNext o acc j).1 ∧ (readNext o acc j).2 = .ok := by
  obtain ⟨lined, read⟩ := awake.rebuildRead o j
  unfold readNext
  dsimp only
  exact ⟨lined, (Fetch.and_ok ..).2 ⟨ok, read⟩⟩

/-- `t` is `s` with memory `m`, but for its lines, its buckets and its ports. -/
def LinedMem (s : State) (m : Mem) (t : State) : Prop :=
  ∃ ls lv ps, t = { s with base := { s.base with mem := m, lines := ls, plvl := lv, ports := ps } }

theorem LinedMem.calm {s t : State} {m : Mem} (h : LinedMem s m t) (calm : Calm s) : Calm t := by
  obtain ⟨ls, lv, ps, rfl⟩ := h
  exact ⟨calm.bias, calm.ecc, calm.vbus⟩

theorem LinedMem.lined {s t u : State} {m : Mem} (h : LinedMem s m t) (g : Lined t u) : LinedMem s m u := by
  obtain ⟨ls, lv, ps, rfl⟩ := h
  obtain ⟨ls', lv', ps', rfl⟩ := g
  exact ⟨_, _, _, rfl⟩

theorem LinedMem.rebuildBlock {s t : State} {m : Mem} (h : LinedMem s m t) (calm : Calm s) (o : ObjEnt) (j : Nat) :
    LinedMem s (digRebuild m o j) (Machine.rebuildBlock t o j) := by
  have served := Lined.serve t (digHome o j) 0 0 t.core.csr.pid .request (some t.core.id)
  have read := ((served.calm (h.calm calm)).digLines o j t.core.id t.core.csr.pid true).1
  obtain ⟨ls, lv, ps, lines⟩ := h.lined (served.trans read)
  unfold Machine.rebuildBlock
  dsimp only
  rw [lines]
  exact ⟨_, _, _, rfl⟩

theorem LinedMem.rebuildBlocks {s t : State} {m : Mem} (h : LinedMem s m t) (calm : Calm s) (o : ObjEnt) (js : List Nat) :
    LinedMem s (js.foldl (fun m j => digRebuild m o j) m) (js.foldl (fun s j => Machine.rebuildBlock s o j) t) := by
  induction js generalizing m t with
  | nil => exact h
  | cons j js ih =>
    rw [List.foldl_cons, List.foldl_cons]
    exact ih (h.rebuildBlock calm o j)

/-- Awake and calm, the blocks of a range are read and rebuilt. -/
theorem Awake.rebuildBlocks {s : State} (awake : Awake s) (b : CReg) (o : ObjEnt) (off : Nat) (js : List Nat) :
    ∃ u, Machine.rebuildBlocks b o off js s = .ok u () ∧ LinedMem s (js.foldl (fun m j => digRebuild m o j) s.base.mem) u := by
  obtain ⟨lined, ok⟩ := lined_foldl (P := Awake) Lined.awake (f := readNext o) (fun _ j awake ok => lined_readNext awake ok j) js awake
  obtain ⟨ls, lv, ps, read⟩ := lined
  refine ⟨_, ?_, LinedMem.rebuildBlocks (m := s.base.mem) ⟨ls, lv, ps, rfl⟩ awake.toCalm o js⟩
  change (match js.foldl (readNext o) (s, .ok) with
    | (s, .busy) => Res.stall (setWait s .channel)
    | (s, .bad) => .stall (responseTrap s (trapUnresolved 2 b (word off)))
    | (s, .ok) => .ok (js.foldl (fun s j => rebuildBlock s o j) s) ()) = _
  rw [← Prod.mk.eta (p := js.foldl (readNext o) (s, .ok)), ok, read]

section
variable {s : State} {a : XReg} {b : CReg} {c : XReg} {imm : BitVec 32} {o : ObjEnt}

theorem calm_at' (b : CReg) (bias : s.base.bias = []) (ecc : s.base.ecc = []) (vbus : s.base.vbus = []) : Calm (at' s b) := by
  obtain ⟨tc, objs, ls, h, -⟩ := pinFrame_at' s b
  rw [h]
  exact ⟨bias, ecc, vbus⟩

theorem awake_at' (b : CReg) (calm : Calm (at' s b)) (awake : ∀ c ∈ s.core :: s.others, c.gated = false) :
    Awake (waits (at' s b) .none) := by
  refine ⟨⟨calm.bias, calm.ecc, calm.vbus⟩, ?_⟩
  obtain ⟨tc, objs, ls, h, -⟩ := pinFrame_at' s b
  rw [h]
  exact List.forall_mem_cons.2 (List.forall_mem_cons.1 awake)

/-! ## DCFG (12 R297, 11 R255, R256) -/

theorem dropStore_eq (s : State) (o : ObjEnt) : dropStore s o = { s with base := (dropStore s o).base } := by
  unfold dropStore
  dsimp only
  split <;> rfl

/-- The memory under a digest store that leaves the digest ways. -/
theorem mem_dropStore (s : State) (o : ObjEnt) : (dropStore s o).base.mem = s.base.mem := by
  unfold dropStore
  dsimp only
  split <;> rfl

/-- What DCFG does once its request has left. -/
def dcfgActs (c : XReg) (t : State) (o : ObjEnt) : Out :=
  let w := reg t c
  if w.getLsbD 0 then
    if dcfgValid o w then
      let u := onBase (dropStore t o) (fun b => { eccWritten b (dcfgStore w) (digStoreLen o w) with mem := digInit b.mem { o with dcfg := w } })
      .next (retire 1 (onObj u o.oid (fun e => { e with dcfg := w })))
    else .next (takeTrap t (trapOperand 0 w))
  else .next (retire 1 (onObj (dropStore t o) o.oid (fun e => { e with dcfg := 0 })))

theorem exec_dcfg (kernel : s.core.csr.mode = true) (leaves : Leaves s b (off1 s b) 1 1 2 [2, 3] o) :
    exec (.dcfg b c) s = dcfgActs c (askedAt s b o (off1 s b).toNat) o := by
  change execDcfg b c s = _
  rw [execDcfg, kernelOnly_kernel s _ kernel]
  exact withOp_leaves leaves _

/-! ## DQ (12 R298, 11 R266) -/

/-- What DQ does with a digest, or while its line waits. -/
def dqAnswer (a : XReg) (o : ObjEnt) (j : Nat) (got : State × Option Digest) : Out :=
  match got.2 with
  | none => .next (waits got.1 .channel)
  | some d =>
    let r := serve (waits got.1 .none) (digHome o j) 0 16 got.1.core.csr.pid
    let u := put (put r a (BitVec.ofNat 64 d.a)) (a + 1) (BitVec.ofNat 64 d.b)
    .next (past 1 { u with core := { u.core with csr := { u.core.csr with
      dstat := u.core.csr.dstat ||| (if d.st = 1 then 2 else if d.st = 2 then 4 else 0) } } })

/-- What DQ does after its checks. -/
def dqActs (a : XReg) (b : CReg) (t : State) (o : ObjEnt) (k : Nat) : Out :=
  if dcfgEn o.dcfg then dqAnswer a o (k / dcfgB o.dcfg) (digGet t o (k / dcfgB o.dcfg) t.core.id)
  else .next (takeTrap t (trapUnresolved 1 b (word k)))

theorem exec_dq (leaves : Leaves s b (off2 s b imm) 1 1 8 [2, 3] o) :
    exec (.dq a b imm) s = dqActs a b (at' s b) o (off2 s b imm).toNat := by
  change execDq a b imm s = _
  refine (withHome_leaves leaves _).trans ?_
  unfold dqActs
  dsimp only
  generalize digGet (at' s b) o ((off2 s b imm).toNat / dcfgB o.dcfg) (at' s b).core.id = got
  obtain ⟨u, d⟩ := got
  cases d with
  | none => rfl
  | some d =>
    simp only [wrX_eq_put]
    rfl

theorem Calm.digGet {s : State} (calm : Calm s) (o : ObjEnt) (j core : Nat) : (digGet s o j core).2 = some (digRead s.base.mem o j) := by
  obtain ⟨⟨ls, lv, ps, lines⟩, ok⟩ := calm.digLines o j core s.core.csr.pid false
  unfold Machine.digGet
  dsimp only
  rw [calm.digRecall, ok, lines]
  rfl

/-! ## DREBUILD after its checks (12 R299) -/

/-- What DREBUILD of a length does after its checks. -/
def drebuildActs (b : CReg) (n : Nat) (t : State) (o : ObjEnt) (off : Nat) : Out :=
  if dcfgEn o.dcfg then
    let w := dcfgB o.dcfg
    let j := off / w
    let m := (off + n - 1) / w + 1 - j
    match nonResident o (j * w) (min (m * w) (o.len - j * w)) with
    | some x => finish (residencyWait t b o x) (fun s _ => .next s)
    | none => finish (rebuildBlocks b o off ((List.range m).map (fun k => j + k)) (waits t .none)) (fun s _ => .next (past 1 s))
  else .next (takeTrap t (trapUnresolved 1 b (word off)))

theorem exec_drebuild (some : reg s c ≠ 0) (leaves : Leaves s b (off1 s b) (reg s c).toNat 1 3 [2, 3] o) :
    exec (.drebuild b c) s = drebuildActs b (reg s c).toNat (at' s b) o (off1 s b).toNat := by
  have length : ¬ (reg s c).toNat = 0 := fun h => some (BitVec.eq_of_toNat_eq h)
  change execDrebuild b c s = _
  unfold execDrebuild
  dsimp only
  rw [rdX_eq_reg, if_neg length]
  exact withHome_leaves leaves (drebuildActs b (reg s c).toNat)

end

end Sys2Proof.Machine

/-- Settles O35: DCFG by its word; DQ by what the digest's lines answer; DREBUILD block by block, as the array is calm. -/
theorem digestInstructions : Obligations.DigestInstructions := by
  intro s a b c imm o t d w cfg mem k lo size
  have same : reg d c = w := reg_askedAt ..
  have disabled (without : o.dcfg.getLsbD 0 = false) : ¬ dcfgEn o.dcfg = true := by rw [dcfgEn, without]; decide
  refine ⟨fun kernel leaves => ?_, fun leaves digests => ⟨fun bias ecc vbus => ?_, fun busy => ?_, fun g got => ?_⟩, fun none => ?_,
    fun some leaves digests => ?_, fun without => ⟨fun leaves => ?_, fun some leaves => ?_⟩⟩
  · refine (exec_dcfg kernel leaves).trans ?_
    rw [dcfgActs, same]
    cases enabled : w.getLsbD 0 with
    | false => rfl
    | true =>
      by_cases valid : dcfgValid o w = true
      · rw [if_pos rfl, if_pos valid, if_neg (by decide), if_pos valid, ← mem_dropStore d o]
        dsimp only
        rw [dropStore_eq]
        rfl
      · rw [if_pos rfl, if_neg valid, if_neg (by decide), if_neg valid, takeTrap_operand]
  · exact (calm_at' b bias ecc vbus).digGet ..
  · refine (exec_dq leaves).trans ((if_pos digests).trans ?_)
    rw [dqAnswer, busy]
  · refine (exec_dq leaves).trans ((if_pos digests).trans ?_)
    rw [dqAnswer, got]
  · have length : (rdX s c).toNat = 0 := congrArg BitVec.toNat none
    exact if_pos length
  · intro j n resident bias ecc vbus awake
    obtain ⟨u, rebuilt, ls, lv, ps, rfl⟩ := (awake_at' b (calm_at' b bias ecc vbus) awake).rebuildBlocks b o lo
      ((List.range n).map (fun i => j + i))
    refine ⟨ls, lv, ps, (exec_drebuild some leaves).trans ((if_pos digests).trans ?_)⟩
    dsimp only
    rw [resident]
    dsimp only
    rw [rebuilt, List.foldl_map]
    rfl
  · refine (exec_dq leaves).trans ((if_neg (disabled without)).trans ?_)
    rw [takeTrap_unresolved]
  · refine (exec_drebuild some leaves).trans ((if_neg (disabled without)).trans ?_)
    rw [takeTrap_unresolved]
end

section
/-! Settled for the homes: span tables and fetches of pages (12 R279, R300 to R307, 11 R273, 04 R106, 22 R394). -/

open Sys2Proof Sys2Proof.Machine Sys2Proof.Claims

namespace Sys2Proof.Machine

/-! ## At a span table (12 R279, R300, 11 R273) -/

/-- A span table is read from the memory alone. -/
theorem spanRead_of_mem {s t : State} (h : t.base.mem = s.base.mem) (o : ObjEnt) : spanRead t o = spanRead s o := by
  unfold spanRead
  rw [h]

theorem mem_at' (s : State) (b : CReg) : (at' s b).base.mem = s.base.mem := by
  obtain ⟨tc, objs, ls, h, -⟩ := pinFrame_at' s b
  rw [h]

theorem mem_serve (s : State) (g up down : Nat) (p : Fin 16) (k : PacketKind) (src : Option Nat) :
    (serve s g up down p k src).base.mem = s.base.mem := by
  obtain ⟨lv, ps, h⟩ := serve_levels_ports s g up down p k src
  rw [h]

/-- The table of cB, rewritten with VER one higher if anything changed (11 R273). -/
def rewritten (u : State) (o : ObjEnt) (t t' : Span) : State := spanWrite u o (spanBump t t')

section
variable {s : State} {a : XReg} {b c : CReg} {x : XReg} {tag : Fin 16} {mode : Bool} {o p : ObjEnt} {pa : Nat}

variable (leaves : Leaves s b (off1 s b) 1 1 16 [1] o)
include leaves

/-- A PAGE instruction after the checks of cB. -/
theorem atSpanWith_leaves {α : Type} (also : State → (State → α → Out) → Out) (k : State → α → ObjEnt → Span → Out) :
    atSpanWith b s also k = if o.span then also (at' s b) (fun t q => leaving t (fun t =>
        k (sent t o (off1 s b).toNat) q o (spanRead t o)))
      else .next (trapped (at' s b) 0x02 0 0 s.core.seq.c[b].cursor s.core.seq.pc) := by
  obtain ⟨-, checked⟩ := leaves
  have refused : takeTrap (at' s b) (trapOperand 0 (word (off1 s b).toNat)) =
      trapped (at' s b) 0x02 0 0 s.core.seq.c[b].cursor s.core.seq.pc := by
    rw [takeTrap_operand, word_off1, seq_at']
  rw [← refused]
  unfold atSpanWith
  dsimp only
  refine (congrArg (fun r => withCap s b r _) checked).trans ?_
  rw [withCap_ok]
  rfl

theorem atSpanWith_refuses (span : o.span = false) {α : Type} (also : State → (State → α → Out) → Out)
    (k : State → α → ObjEnt → Span → Out) :
    atSpanWith b s also k = .next (trapped (at' s b) 0x02 0 0 s.core.seq.c[b].cursor s.core.seq.pc) := by
  rw [atSpanWith_leaves leaves, span]
  rfl

theorem atSpan_refuses (span : o.span = false) (k : State → ObjEnt → Span → Out) :
    atSpan b s k = .next (trapped (at' s b) 0x02 0 0 s.core.seq.c[b].cursor s.core.seq.pc) :=
  atSpanWith_refuses leaves span _ _

theorem exec_at_no_span (span : o.span = false) : ∀ i ∈ [Instr.pgunmap a b x, .spret a b tag mode, .sptrunc a b x, .spposSet a b x,
    .sptag b x tag, .spposGet a b x, .pgmap a b c tag],
    exec i s = .next (trapped (at' s b) 0x02 0 0 s.core.seq.c[b].cursor s.core.seq.pc) := by
  intro i hi
  simp only [List.mem_cons, List.not_mem_nil, or_false] at hi
  rcases hi with rfl | rfl | rfl | rfl | rfl | rfl | rfl
  · exact (atSpan_refuses leaves span _ : execPgunmap a b x s = _)
  · exact (atSpan_refuses leaves span _ : execSpret a b tag mode s = _)
  · exact (atSpan_refuses leaves span _ : execSptrunc a b x s = _)
  · exact (atSpan_refuses leaves span _ : execSpposSet a b x s = _)
  · exact (atSpan_refuses leaves span _ : execSptag b x tag s = _)
  · exact (atSpan_refuses leaves span _ : execSpposGet a b x s = _)
  · change execPgmap a b c tag s = _
    unfold execPgmap
    exact atSpanWith_refuses leaves span _ _

variable (span : o.span = true) (hpa : paOf o (off1 s b).toNat = some pa)
include span hpa

theorem atSpan_leaves (k : State → ObjEnt → Span → Out) :
    atSpan b s k = k (asked s b o pa) o (spanRead (asked s b o pa) o) := by
  have empty : (at' s b).core.sb = [] := (sb_at' ..).trans leaves.1
  have table : spanRead (at' s b) o = spanRead (asked s b o pa) o := spanRead_of_mem (mem_serve ..).symm o
  rw [← table, ← askedAt_eq_asked hpa, ← sent_at', atSpan, atSpanWith_leaves leaves, if_pos span]
  exact leaving_of_empty empty _

/-- An instruction that returns a status or a count of the new table. -/
theorem atSpan_returns (f : State → Span → Span × Nat) :
    atSpan b s (fun t o v => .next (retire 1 (wrX (spanWrite t o (spanBump v (f t v).1)) a (word (f t v).2)))) =
      let t := asked s b o pa
      let v := spanRead t o
      .next (past 1 (put (rewritten t o v (f t v).1) a (BitVec.ofNat 64 (f t v).2))) := by
  rw [atSpan_leaves leaves span hpa, wrX_eq_put]
  rfl

/-! ## SPTAG and SPPOS GET (12 R304, R307) -/

/-- What SPTAG does at its table. -/
def sptagActs (x : XReg) (tag : Fin 16) (t : State) (o : ObjEnt) (v : Span) : Out :=
  let i := (reg t x).toNat % 65536
  let v' := { v with h := { v.h with curtag := tag.val } }
  if i = 0xFFFF then .next (past 1 (rewritten t o v v'))
  else match v.es[i]? with
    | some e =>
      if e.state = 1 ∧ e.count = 0 then .next (past 1 (rewritten t o v { v' with es := v.es.set i { e with tag := tag.val } }))
      else .next (takeTrap t (trapOperand 0 (reg t x)))
    | none => .next (takeTrap t (trapOperand 0 (reg t x)))

theorem exec_sptag : exec (.sptag b x tag) s = sptagActs x tag (asked s b o pa) o (spanRead (asked s b o pa) o) :=
  (atSpan_leaves leaves span hpa _ : execSptag b x tag s = _)

omit leaves span in
theorem reg_asked_span (x : XReg) : reg (asked s b o pa) x = reg s x := by
  rw [← askedAt_eq_asked hpa, reg_askedAt]

theorem exec_sptag_refused (names : (reg s x).toNat % 65536 ≠ 0xFFFF)
    (spare : ∀ e, (spanRead (asked s b o pa) o).es[(reg s x).toNat % 65536]? = some e → e.state ≠ 1 ∨ e.count ≠ 0) :
    exec (.sptag b x tag) s = .next (trapped (asked s b o pa) 0x02 0 0 (reg s x) (asked s b o pa).core.seq.pc) := by
  rw [exec_sptag leaves span hpa, sptagActs, reg_asked_span hpa, if_neg names, ← takeTrap_operand]
  cases entry : (spanRead (asked s b o pa) o).es[(reg s x).toNat % 65536]? with
  | none => rfl
  | some e =>
    have used : ¬ (e.state = 1 ∧ e.count = 0) := fun h => (spare e entry).elim (fun k => k h.1) (fun k => k h.2)
    exact if_neg used

theorem exec_spposGet : exec (.spposGet a b x) s =
    .next (past 1 (put (asked s b o pa) a (BitVec.ofNat 64 (spanRead (asked s b o pa) o).h.nextpos))) := by
  change execSpposGet a b x s = _
  rw [execSpposGet, atSpan_leaves leaves span hpa, wrX_eq_put]
  rfl

/-- Each of the other PAGE instructions writes its table and returns its value. -/
theorem exec_of_mem_spanOps {q : Instr × Span × Option Nat}
    (hq : q ∈ spanOps s a b x tag mode (spanRead (asked s b o pa) o)) :
    exec q.1 s = .next (past 1 (match q.2.2 with
      | none => rewritten (asked s b o pa) o (spanRead (asked s b o pa) o) q.2.1
      | some r => put (rewritten (asked s b o pa) o (spanRead (asked s b o pa) o) q.2.1) a (BitVec.ofNat 64 r))) := by
  have same : rdX (asked s b o pa) x = reg s x := reg_asked_span hpa x
  have tagged : exec (.sptag b x tag) s = _ := exec_sptag leaves span hpa
  rw [sptagActs, reg_asked_span hpa] at tagged
  rcases List.mem_append.1 hq with hq | hq
  · simp only [List.mem_cons, List.not_mem_nil, or_false] at hq
    rcases hq with rfl | rfl | rfl | rfl
    · refine (atSpan_returns leaves span hpa (fun t v => spanUnmap v (rdX t x).toNat)).trans ?_
      dsimp only
      rw [same]
    · exact atSpan_returns leaves span hpa (fun _ v => spanRetire v tag.val mode)
    · refine (atSpan_returns leaves span hpa (fun t v => spanTrunc v (rdX t x).toNat)).trans ?_
      dsimp only
      rw [same]
    · refine (atSpan_returns leaves span hpa (fun t v => spanSetPos v (rdX t x).toNat)).trans ?_
      dsimp only
      rw [same]
  · split at hq
    next all =>
      cases List.mem_singleton.1 hq
      rw [if_pos all] at tagged
      exact tagged
    next names =>
      rw [if_neg names] at tagged
      split at hq
      next e entry =>
        rw [entry] at tagged
        split at hq
        next spare =>
          cases List.mem_singleton.1 hq
          exact tagged.trans (if_pos spare)
        next => exact absurd hq (List.not_mem_nil)
      next => exact absurd hq (List.not_mem_nil)

/-! ## PGMAP (12 R301) -/

omit leaves span hpa in
/-- What PGMAP refuses with status 3, said of what it takes. -/
theorem pgmap_takes_iff {page : Nat} {v : Span} :
    ¬ (page % 4096 ≠ 0 ∨ (p.space ≠ 1 ∧ p.space ≠ 2) ∨ (v.h.pset ∧ p.oid.toNat ≠ v.h.pool)) ↔
      page % 4096 = 0 ∧ (p.space = 1 ∨ p.space = 2) ∧ (v.h.pset = true → p.oid.toNat = v.h.pool) := by
  tauto

omit hpa in
theorem exec_pgmap (pa : Nat) : exec (.pgmap a b c tag) s =
    match checkCap (at' s b) c (off1 s c) 4096 1 3 none with
    | .error f => .next (takeTrap (at' s b) f)
    | .ok p =>
      let u := askedBoth s b c o (off1 s b).toNat
      let v := spanRead (asked s b o pa) o
      let page := (off1 s c).toNat
      let m := spanMap v p.oid.toNat (page / 4096) tag.val
      if page % 4096 ≠ 0 ∨ (p.space ≠ 1 ∧ p.space ≠ 2) ∨ (v.h.pset ∧ p.oid.toNat ≠ v.h.pool) then .next (past 1 (put u a 3))
      else .next (past 1 (put (rewritten u o v m.1) a (BitVec.ofNat 64 (m.2.1 + m.2.2 * 65536)))) := by
  have empty : (at' (at' s b) c).core.sb = [] := ((sb_at' ..).trans (sb_at' ..)).trans leaves.1
  change execPgmap a b c tag s = _
  unfold execPgmap
  refine (atSpanWith_leaves leaves _ _).trans ((if_pos span).trans ?_)
  change withCap (at' s b) c (checkCap (at' s b) c (off1 s c) 4096 1 3 none) _ = _
  cases checkCap (at' s b) c (off1 s c) 4096 1 3 none with
  | error f => rfl
  | ok p =>
    have table : spanRead (at' (at' s b) c) o = spanRead (asked s b o pa) o :=
      spanRead_of_mem ((mem_at' ..).trans (mem_serve ..).symm) o
    rw [withCap_ok]
    refine (leaving_of_empty empty _).trans ?_
    change (if _ then Host.Outcome.next (retire 1 (wrX (askedBoth s b c o (off1 s b).toNat) a 3)) else _) = _
    rw [table]
    simp only [wrX_eq_put]
    rfl

end

/-! ## PGFETCH (12 R303, 04 R106, 22 R394) -/

/-- PGFETCH ends its wait and returns `v`. -/
def pgfetched (a : XReg) (u : State) (v : Word) : Out := .next (past 1 (put (waits u .none) a v))

/-- PGFETCH that waits for nothing yet, at an extent or at none. -/
def pgfetchAsks (a : XReg) (t : State) (o : ObjEnt) (k : Nat) : Out :=
  match extOf o k with
  | none => pgfetched a (sent t o k) 1
  | some (x, e, _) =>
    if e.res then pgfetched a (sent t o k) 0
    else if a = 0 then
      let u := askFetch t o k
      pgfetched a { u with core := { u.core with posted := u.core.posted ++ [(o.oid, x)] } } 0
    else .next (waits (askFetch t o k) (.pgfetch o.oid x false))

/-- What PGFETCH does after its checks. -/
def pgfetchActs (a : XReg) (t : State) (o : ObjEnt) (k : Nat) : Out :=
  if o.space = 1 then pgfetched a (sent t o k) 0
  else match t.core.wait with
    | .pgfetch _ _ failed => if residentAt o k then pgfetched a t 0 else if failed then pgfetched a t 1 else .next t
    | _ => pgfetchAsks a t o k

section
variable {s t : State} {a : XReg} {b : CReg} {imm : BitVec 32} {o : ObjEnt} {k : Nat}

theorem exec_pgfetch (leaves : Leaves s b (off2 s b imm) 1 1 16 [1, 2, 3] o) :
    exec (.pgfetch a b imm) s = pgfetchActs a (at' s b) o (off2 s b imm).toNat := by
  change execPgfetch a b imm s = _
  refine (withHome_leaves leaves _).trans ?_
  unfold pgfetchActs
  dsimp only
  split
  · rw [wrX_eq_put]
    rfl
  · cases (at' s b).core.wait with
    | pgfetch => simp only [wrX_eq_put]; rfl
    | _ =>
      unfold pgfetchAsks
      simp only [wrX_eq_put]
      cases extOf o (off2 s b imm).toNat <;> rfl

theorem pgfetchActs_asks (space : o.space ≠ 1) (enters : ∀ q x f, t.core.wait ≠ .pgfetch q x f) :
    pgfetchActs a t o k = pgfetchAsks a t o k := by
  refine (if_neg space).trans ?_
  split
  next h => exact absurd h (enters _ _ _)
  next => rfl

theorem pgfetchActs_waits (space : o.space ≠ 1) {q : BitVec 24} {x : Nat} {f : Bool} (wait : t.core.wait = .pgfetch q x f) :
    pgfetchActs a t o k = if residentAt o k then pgfetched a t 0 else if f then pgfetched a t 1 else .next t := by
  refine (if_neg space).trans ?_
  rw [wait]

theorem pgfetchAsks_resident (resident : residentAt o k = true) : pgfetchAsks a t o k = pgfetched a (sent t o k) 0 := by
  unfold pgfetchAsks
  cases found : extOf o k with
  | none => exact absurd ((residentAt_none found).symm.trans resident) (by decide)
  | some q => exact if_pos ((residentAt_some found).symm.trans resident)

theorem pgfetchAsks_uncovered (none : extOf o k = none) : pgfetchAsks a t o k = pgfetched a (sent t o k) 1 := by
  rw [pgfetchAsks, none]

theorem pgfetchAsks_away {x st : Nat} {e : Extent} (found : extOf o k = some (x, e, st)) (away : e.res = false) :
    pgfetchAsks a t o k = if a = 0 then
        pgfetched a { askFetch t o k with core := { (askFetch t o k).core with posted := (askFetch t o k).core.posted ++ [(o.oid, x)] } } 0
      else .next (waits (askFetch t o k) (.pgfetch o.oid x false)) := by
  simp only [pgfetchAsks, found, away, Bool.false_eq_true, if_false]

/-- The host is asked for an extent. -/
theorem askFetch_at' : askFetch (at' s b) o k = logEvent (askedAt s b o k) 1 (o.oid.toNat * 2 ^ 40 + k)
    (dieOf (askedAt s b o k).core.id).val (askedAt s b o k).core.csr.pid.val := by
  rw [askFetch, sent_at']
  rfl

end

end Sys2Proof.Machine

/-- Settles O36: every PAGE instruction through the one shape at its table; PGFETCH by its wait and its extent. -/
theorem pageInstructionsChangeTablesAndFetch : Obligations.PageInstructionsChangeTablesAndFetch := by
  intro s a b c x tag mode o p pa
  refine ⟨fun leaves hpa => ⟨fun span => ⟨fun q hq => ?_, ?_, fun names spare => ?_, fun f refused => ?_, fun checked => ?_⟩,
    fun span => ?_⟩, fun imm leaves => ⟨fun space => ?_, fun space enters => ⟨fun resident => ?_, fun none => ?_,
    fun y e st found away => ?_⟩, fun space q y f wait => ?_⟩⟩
  · exact exec_of_mem_spanOps leaves span hpa hq
  · exact exec_spposGet leaves span hpa
  · exact exec_sptag_refused leaves span hpa names spare
  · rw [exec_pgmap leaves span pa, refused]
  · rw [exec_pgmap leaves span pa, checked]
    dsimp only
    split
    next refused =>
      rw [if_neg (fun takes => pgmap_takes_iff.2 takes refused)]
    next taken =>
      rw [if_pos (pgmap_takes_iff.1 taken)]
      rfl
  · exact exec_at_no_span leaves span
  · refine (exec_pgfetch leaves).trans ((if_pos space).trans ?_)
    rw [sent_at']
    rfl
  · have entering : ∀ q y f, (at' s b).core.wait ≠ .pgfetch q y f := by rwa [wait_at']
    refine (exec_pgfetch leaves).trans ((pgfetchActs_asks space entering).trans ((pgfetchAsks_resident resident).trans ?_))
    rw [sent_at']
    rfl
  · have entering : ∀ q y f, (at' s b).core.wait ≠ .pgfetch q y f := by rwa [wait_at']
    refine (exec_pgfetch leaves).trans ((pgfetchActs_asks space entering).trans ((pgfetchAsks_uncovered none).trans ?_))
    rw [sent_at']
    rfl
  · have entering : ∀ q y f, (at' s b).core.wait ≠ .pgfetch q y f := by rwa [wait_at']
    have asks := (exec_pgfetch leaves).trans ((pgfetchActs_asks (a := a) space entering).trans (pgfetchAsks_away found away))
    rw [askFetch_at'] at asks
    exact ⟨fun posted => asks.trans (if_pos posted), fun named => asks.trans (if_neg named)⟩
  · exact (exec_pgfetch leaves).trans (pgfetchActs_waits space ((wait_at' s b).trans wait))
end

section
/-! What the model does at the issue of the matrix engine's commands when their state checks pass (15 R315 to R331, 16 R334 to R350). -/

open Sys2Proof Sys2Proof.Machine Sys2Proof.Claims

namespace Sys2Proof.Machine

section
variable {s : State} {tile : Fin 16} {n : Nat} {f : Word}

/-! ## The checks of an issue (16 R334) -/

/-- The snapshot of a command keeps the format word that it pops. -/
theorem snap0_fmt_of_fmtHead (head : fmtHead s = some f) : (snap0 s).fmt = f := by
  show (fmtHead s).getD 0 = f
  rw [head, Option.getD_some]

/-- A matrix command that is legal, has a word to pop if it pops one, and has no slot fault issues when it is admitted. -/
theorem matIssue_of_admitted {j : Job} {bad pop bad2 : Bool} {flt : Option CmdFault} {occ : Nat} {eff : State → Job → State}
    (legal : bad = false) (word : pop = true → fmtHead s ≠ none) (legal2 : bad2 = false) (allowed : flt = none)
    (admitted : Admitted s j) :
    matIssue s j bad pop bad2 flt occ eff = .next (eff (issued s .matrix j occ pop) (Claims.begun s .matrix j)) := by
  obtain ⟨slot, checked, port, space⟩ := admitted
  refine (commandsIssueAfterTheirChecks s _).1 ?_
  simpa [issueChecks, legal, legal2, allowed, slot, port, space] using And.intro word checked

/-- A command that pops the word `f` issues when its checks of it pass and it is admitted. -/
theorem popIssue_of_admitted {j : Job} {bad2 : Bool} {occ : Nat} {eff : State → Job → State} (head : fmtHead s = some f)
    (legal2 : bad2 = false) (admitted : Admitted s j) :
    matIssue s j false true bad2 none occ eff = .next (eff (issued s .matrix j occ true) (Claims.begun s .matrix j)) :=
  matIssue_of_admitted rfl (fun _ => by rw [head]; exact nofun) legal2 rfl admitted

/-- The tile has the accumulator type of `f` or none, and `n` rows from the word's row origin lie in it. -/
def FitsTile (s : State) (tile : Fin 16) (n : Nat) (f : Word) : Prop :=
  ((s.core.eng.tiles[tile]).ttype = 15 ∨ ((s.core.eng.tiles[tile]).ttype).val = fwTC f) ∧ fwRow0 f + n ≤ 128

/-- A tile type that is none or the accumulator type passes the model's test. -/
theorem typeFits_of_eq {t : Fin 16} {c : Nat} (type : t = 15 ∨ t.val = c) : (t.val == 15 || t.val == c) = true := by
  obtain rfl | rfl := type
  · rfl
  · rw [beq_self_eq_true, Bool.or_true]

/-! ## The multiplies (15 R317, R322, R328, R330, 16 R342) -/

/-- The checks of a multiply: the types, the entry's tag, the rows and the tile's type. -/
theorem mmaBad_eq_false {we : Fin 128} (triple : tripleOk f = true) (tag : s.core.eng.wtag[we] = some (Fin.ofNat 16 (fwTB f)))
    (fits : FitsTile s tile n f) : mmaBad s tile we n f = false := by
  obtain ⟨type, rows⟩ := fits
  simp only [mmaBad, triple, tag, rows, typeFits_of_eq type, beq_self_eq_true, decide_true, Bool.and_true, Bool.not_true]

/-- What a multiply does in its cycle: its slot is taken, its tile gets the accumulator type, and it completes no earlier than its last row
performs. -/
def multiplied (u : State) (j : Job) (tile : Fin 16) (lbl : Fin 256) (f : Word) (a : Alloc) (n lead : Nat) : State :=
  onJob (withTile (takeAlloc u j tile lbl a) tile (fun t => { t with ttype := Fin.ofNat 16 (fwTC f) })) j.id
    (fun j => { j with minDone := j.iss + lead + mmaD f + n - 1 })

/-- Each multiply issues, MMAT with its rows after the cycles of its reads. -/
theorem exec_multiply_issued {h : Hdr} {spa : Fin 16384} {we : Fin 128} {lbl : Fin 256} {nrow : Fin 128} {a : Alloc}
    (head : fmtHead s = some f) (triple : tripleOk f = true) (tag : s.core.eng.wtag[we] = some (Fin.ofNat 16 (fwTB f)))
    (fits : FitsTile s tile (nrows nrow) f) (slot : allocate s tile lbl f = .ok a) :
    ∀ x ∈ multiplies h tile spa we lbl nrow f,
      let j := job0 .matrix x.1 { snap0 s with slot := a.slot } (x.2.2 + nrows nrow)
      Admitted s j → exec x.1 s = .next
        (multiplied (issued s .matrix j (x.2.1 + nrows nrow) true) (Claims.begun s .matrix j) tile lbl f a (nrows nrow) x.2.1) := by
  obtain rfl := snap0_fmt_of_fmtHead head
  have legal := mmaBad_eq_false triple tag fits
  simp only [multiplies, List.forall_mem_cons]
  refine ⟨fun admitted => (execMma.eq_def ..).trans ?_, fun admitted => (execMmaz.eq_def ..).trans ?_,
    fun admitted => (execMmat.eq_def ..).trans ?_, nofun⟩
  all_goals
    conv_lhs =>
      unfold mmaIssue
      zeta
    rw [slot]
  · exact popIssue_of_admitted head legal admitted
  · rw [Nat.add_comm 1] at admitted ⊢
    exact popIssue_of_admitted head legal admitted
  · exact popIssue_of_admitted head legal admitted

/-! ## The drains (15 R327, R329, 16 R349, R350) -/

theorem drainBad_eq_false (fits : FitsTile s tile n f) : drainBad s tile n f = false := by
  obtain ⟨type, rows⟩ := fits
  have other := congrArg (!·) (typeFits_of_eq type)
  simp only [Bool.not_or] at other
  simp only [drainBad, bne, other, Nat.not_lt.2 rows, decide_false, Bool.or_false, Bool.not_true]

section
variable {h : Hdr} {spa : Fin 16384} {nrow : Fin 128}

/-- DRAIN issues when its word fits the tile and has types that it converts from and to. -/
theorem exec_drain_issued (head : fmtHead s = some f) (fits : FitsTile s tile (nrows nrow) f)
    (source : fwTC f = 0 ∨ fwTC f = 1 ∨ fwTC f = 9) (notGlq : fwOT f ≠ 6) (typed : fwOT f ≠ 15) :
    let j := job0 .matrix (.drain h tile spa nrow) (snap0 s) (nrows nrow)
    Admitted s j → exec (.drain h tile spa nrow) s = .next (issued s .matrix j (nrows nrow) true) := by
  intro j admitted
  refine (execDrain.eq_def ..).trans (popIssue_of_admitted head ?_ admitted)
  rw [snap0_fmt_of_fmtHead head, drainBad_eq_false fits]
  obtain type | type | type := source <;> simp [type, notGlq, typed]

/-- DRAINQ issues, and sets DSTAT.SSUB when its super-scale is substituted. -/
theorem exec_drainq_issued (head : fmtHead s = some f) (fits : FitsTile s tile (nrows nrow) f) (source : fwTC f = 0 ∨ fwTC f = 1)
    (even : nrows nrow % 2 = 0) :
    let j := job0 .matrix (.drainq h tile spa nrow) (snap0 s) (nrows nrow)
    Admitted s j → exec (.drainq h tile spa nrow) s = .next (
      let u := issued s .matrix j (nrows nrow) true
      if (glqSuper (fwS f)).2 then onCsr u (fun r => { r with dstat := r.dstat ||| 1 }) else u) := by
  intro j admitted
  refine (execDrainq.eq_def ..).trans ((popIssue_of_admitted head ?_ admitted).trans ?_)
  · rw [snap0_fmt_of_fmtHead head, drainBad_eq_false fits]
    obtain type | type := source <;> simp [type, even]
  · rw [snap0_fmt_of_fmtHead head]

end

/-! ## The weight entries (15 R318, R331, 16 R339, R340) -/

section
variable {h : Hdr} {we : Fin 128}

/-- WLOAD issues with the read steps of the word's B type. -/
theorem exec_wload_issued {spa : Fin 16384} (head : fmtHead s = some f) (type : weightType (fwTB f) = true) :
    let j := job0 .matrix (.wload h spa we) (snap0 s) (wloadSteps (fwTB f))
    Admitted s j → exec (.wload h spa we) s = .next (issued s .matrix j (wloadSteps (fwTB f)) true) := by
  intro j admitted
  refine (execWload.eq_def ..).trans ?_
  rw [snap0_fmt_of_fmtHead head]
  exact popIssue_of_admitted head (by rw [type]; rfl) admitted

/-- WCONST writes its block of the Sylvester matrix when its type is not glq4 and the block begins inside the matrix. -/
theorem exec_wconst_issued {ty : Fin 16} {ord : Fin 4} {cb kb : Fin 8} (type : weightType ty.val = true) (notGlq : ty ≠ 6)
    (row : kb.val * weightK ty.val < 16 * 2 ^ ord.val) (column : cb.val * weightN ty.val < 16 * 2 ^ ord.val) :
    let j := job0 .matrix (.wconst h ty we ord cb kb) (snap0 s) 0
    Admitted s j → exec (.wconst h ty we ord cb kb) s = .next (addPend (issued s .matrix j 1 false) (Claims.begun s .matrix j) false
      s.core.csr.scc 0 0 (.weight we (sylvester ty.val (16 * 2 ^ ord.val) kb.val cb.val) [] ty)) := by
  intro j admitted
  have other : ty.val ≠ 6 := fun glq => notGlq (Fin.ext glq)
  exact (execWconst.eq_def ..).trans (matIssue_of_admitted (by simp [type, other, row, column]) nofun rfl rfl admitted)

end

/-! ## The slots of a tile (15 R322, R323, R325, R326, 16 R344 to R348) -/

section
variable {h : Hdr} {slot : Fin 8} {lbl : Fin 256}

/-- SLMAP of the slot that holds the label makes it the most recent. -/
theorem exec_slmap_held (held : (s.core.eng.tiles[tile]).slots[slot] = some lbl) :
    let j := job0 .matrix (.slmap h tile slot lbl) (snap0 s) 0
    Admitted s j → exec (.slmap h tile slot lbl) s =
      .next (takeAlloc (issued s .matrix j 1 false) (Claims.begun s .matrix j) tile lbl (.have slot)) := by
  intro j admitted
  have here : ((s.core.eng.tiles[tile]).slots[slot] == some lbl) = true := beq_iff_eq.2 held
  refine (execSlmap.eq_def ..).trans ?_
  simp only [here]
  exact matIssue_of_admitted rfl nofun (by simp) rfl admitted

/-- SLMAP of a free slot takes it for a label that the tile neither maps nor has spilled. -/
theorem exec_slmap_free (free : (s.core.eng.tiles[tile]).slots[slot] = none) (unmapped : slotOf s.core.eng.tiles[tile] lbl = none)
    (unspilled : isSpilled s.core.eng.tiles[tile] lbl = false) :
    let j := job0 .matrix (.slmap h tile slot lbl) (snap0 s) 0
    Admitted s j → exec (.slmap h tile slot lbl) s =
      .next (takeAlloc (issued s .matrix j 1 false) (Claims.begun s .matrix j) tile lbl (.take slot)) := by
  intro j admitted
  refine (execSlmap.eq_def ..).trans ?_
  simp only [free, unmapped, unspilled]
  exact matIssue_of_admitted rfl nofun rfl rfl admitted

/-- SLSPILL spills the slot of its label, into which no command writes any more. -/
theorem exec_slspill_issued {o : ObjEnt} (mapped : slotOf s.core.eng.tiles[tile] lbl = some slot) (settled : slotBusy s tile slot = false)
    (record : spillRecord s tile lbl permW = .ok o) :
    let j := job0 .matrix (.slspill h tile lbl) (snap0 s) 0
    Admitted s j → exec (.slspill h tile lbl) s =
      .next (spillSlot (issued s .matrix j 1 false) (Claims.begun s .matrix j) tile slot lbl o) := by
  intro j admitted
  refine (execSlspill.eq_def ..).trans ?_
  simp only [mapped, settled, record]
  exact matIssue_of_admitted rfl nofun rfl rfl admitted

/-- SLFILL takes the lowest free slot for a spilled label, and completes no earlier than its last byte arrives. -/
theorem exec_slfill_issued {o : ObjEnt} (spilled : isSpilled s.core.eng.tiles[tile] lbl = true)
    (free : freeSlot s.core.eng.tiles[tile] = some slot) (record : spillRecord s tile lbl permR = .ok o) :
    let j := job0 .matrix (.slfill h tile lbl) { snap0 s with slot := slot, objX := some o } 1
    Admitted s j → exec (.slfill h tile lbl) s = .next (onJob
      (withTile (clearSlot (touchSpill (issued s .matrix j 1 false) (Claims.begun s .matrix j) o) (Claims.begun s .matrix j) tile slot) tile
        (fun t => setSpilled (mapSlot t slot lbl) lbl false))
      (s.core.eng.nextJob + 1) (fun j => { j with minDone := j.iss + fillLat j.snap.mxspill + 255 })) := by
  intro j admitted
  refine (execSlfill.eq_def ..).trans ?_
  simp only [spilled, free, record]
  exact matIssue_of_admitted rfl nofun rfl rfl admitted

/-- The occupied slots of a tile with their labels, in the order of the labels. -/
def occupied (t : Tile) : List (Fin 8 × Fin 256) :=
  sortBy (fun (p : Fin 8 × Fin 256) => p.2.val) ((List.finRange 8).filterMap (fun i => (t.slots[i]).map (fun l => (i, l))))

/-- BIND keeps the labels and the type of its tile, and its target is free. -/
theorem exec_bind_issued {spa : Fin 16384} {acc : Bool} {cstr : Fin 256} {nrow : Fin 128} (stride : cstr ≠ 0)
    (typed : (s.core.eng.tiles[tile]).ttype ≠ 15) (free : (s.core.eng.tiles[tile]).slots[slot] = none) :
    let j := job0 .matrix (.bind h tile spa slot acc cstr nrow)
      { snap0 s with labels := occupied s.core.eng.tiles[tile], ttype := (s.core.eng.tiles[tile]).ttype } (nrows nrow)
    Admitted s j → exec (.bind h tile spa slot acc cstr nrow) s = .next (issued s .matrix j (nrows nrow) false) := by
  intro j admitted
  refine (execBind.eq_def ..).trans (matIssue_of_admitted (beq_eq_false_iff_ne.2 stride) nofun ?_ rfl admitted)
  rw [free, beq_eq_false_iff_ne.2 typed]
  rfl

end
end
end Sys2Proof.Machine

/-- Settles O45: each command by the checks that it makes of its word, its weight entry and its tile. -/
theorem matrixCommandsIssue : Obligations.MatrixCommandsIssue := by
  intro s h tile spa we lbl nrow ty ord cb kb slot acc cstr f a o sl tl sn n scc id job go own fits order
  refine ⟨fun head => ⟨exec_wload_issued head, fun triple tag rows found => exec_multiply_issued head triple tag rows found,
    fun rows => exec_drain_issued head rows, fun rows => exec_drainq_issued head rows⟩, exec_wconst_issued, ?_, ?_, ?_, ?_, ?_, ?_, ?_⟩
  · exact fun admitted => (execWfree.eq_def ..).trans (matIssue_of_admitted rfl nofun rfl rfl admitted)
  · exact fun admitted => (execAccz.eq_def ..).trans (matIssue_of_admitted rfl nofun rfl rfl admitted)
  · exact fun admitted => ⟨fun held => exec_slmap_held held admitted,
      fun free unmapped unspilled => exec_slmap_free free unmapped unspilled admitted⟩
  · exact fun admitted => (execSlclr.eq_def ..).trans (matIssue_of_admitted rfl nofun rfl rfl admitted)
  · exact fun admitted mapped settled record => exec_slspill_issued mapped settled record admitted
  · exact fun admitted spilled free record => exec_slfill_issued spilled free record admitted
  · exact fun stride typed free admitted => exec_bind_issued stride typed free admitted
end

section
/-! What the model does at the issue of the vector engine's commands, and of the NOPs, the hints and QLD (20 R365 to R386, 19 R354, R359,
R362, 02 R49, R50, 07 R174, R175). -/

open Sys2Proof Sys2Proof.Machine Sys2Proof.Claims

namespace Sys2Proof.Machine

/-! ## The type classes (20 R365) -/

section
variable {t t2 : Fin 16}

theorem clsA_iff_tyA : clsA t = true ↔ tyA t := by simp [clsA, tyA]

theorem clsF_iff_tyF : clsF t = true ↔ tyF t := decide_eq_true_iff

theorem clsI_iff_tyI : clsI t = true ↔ tyI t := by simp [clsI, tyInt, tyI]

/-- An element of class A has a byte at least. -/
theorem tySize_pos_of_tyA (h : tyA t) : 0 < tySize t.val := by
  revert t
  unfold tyA
  decide

theorem lanes_eq_of_tyA (h : tyA t) : lanes t.val = 128 / tySize t.val := by
  rw [lanes, Nat.max_eq_right (tySize_pos_of_tyA h)]

/-- The parts of VCVT: how many rows of the narrow type one row of the wide type makes (20 R374). -/
theorem lanes_ratio_of_tyA (h : tyA t) (h2 : tyA t2) :
    max (lanes t2.val) (lanes t.val) / max 1 (min (lanes t2.val) (lanes t.val)) =
      max (tySize t.val) (tySize t2.val) / min (tySize t.val) (tySize t2.val) := by
  revert t t2
  unfold tyA
  decide

end

/-! ## The first check of an issue (02 R50) -/

section
variable {s : State} {i : Instr} {p : Prop} {ok : Bool}

/-- A command whose word is bad is an illegal command, whatever its other checks say. -/
theorem issue_of_bad {q : Prep} (bad : q.bad = true) : issue s q = .next (raiseEFault s ⟨0x10, 0, q.eng, headOf s q.eng, 0, 0⟩) := by
  refine (commandsIssueAfterTheirChecks s q).2 0 _ _ rfl (fun legal => ?_) (fun j x hj => absurd hj (Nat.not_lt_zero j))
  exact absurd (bad.symm.trans legal.1) (by decide)

/-- The claim about a vector command `i` that is legal when `p` holds. -/
def VecIssues (s : State) (x : Instr × Prop) : Prop :=
  let j := job0 .vector x.1 (snap0 s) 1
  (x.2 → Admitted s j → exec x.1 s = .next (issued s .vector j 1 false)) ∧
    (¬ x.2 → exec x.1 s = .next (raiseEFault s ⟨0x10, 0, .vector, headOf s .vector, 0, 0⟩))

/-- A command that the model issues as a `vecIssue`, with a test that says `p`. -/
theorem VecIssues.of_vecIssue (arm : exec i s = vecIssue s i ok) (test : ok = true ↔ p) : VecIssues s (i, p) := by
  refine ⟨fun legal admitted => arm.trans ?_, fun illegal => arm.trans ?_⟩
  · have passes : (!ok) = false := by rw [test.2 legal]; rfl
    exact issue_of_admitted passes rfl rfl rfl admitted
  · have fails : (!ok) = true := by rw [Bool.eq_false_iff.2 (mt test.1 illegal)]; rfl
    exact issue_of_bad fails

end

/-! ## The commands on rows and masks (20 R369 to R386) -/

/-- Every command on rows and masks issues when its operands are legal, and is illegal else. -/
theorem rowCommands_issue (s : State) (h : Hdr) (vd va vb : Fin 64) (m mk mi mj part op pred : Fin 8) (t t2 : Fin 16) (rm : Fin 4)
    (f f2 : Bool) (count : Fin 64) (off : Fin 32768) (val : Fin 16384) :
    ∀ x ∈ rowCommands h vd va vb m mk mi mj part op pred t t2 rm f f2 count off val, VecIssues s x := by
  have names : (mk != 0) = true ↔ mk ≠ 0 := bne_iff_ne
  unfold rowCommands
  dsimp only [List.cons_append, List.nil_append]
  simp only [List.forall_mem_cons]
  refine ⟨.of_vecIssue (execVmov.eq_def ..) ?vmov, .of_vecIssue (execVadd.eq_def ..) clsA_iff_tyA,
    .of_vecIssue (execVsub.eq_def ..) clsA_iff_tyA, .of_vecIssue (execVmul.eq_def ..) clsA_iff_tyA,
    .of_vecIssue (execVfma.eq_def ..) clsA_iff_tyA, .of_vecIssue (execVmin.eq_def ..) clsA_iff_tyA,
    .of_vecIssue (execVmax.eq_def ..) clsA_iff_tyA, .of_vecIssue (execVabs.eq_def ..) clsA_iff_tyA,
    .of_vecIssue (execVneg.eq_def ..) clsA_iff_tyA, .of_vecIssue (execVdiv.eq_def ..) clsF_iff_tyF,
    .of_vecIssue (execVsqrt.eq_def ..) clsF_iff_tyF, .of_vecIssue (execVrsq.eq_def ..) clsF_iff_tyF,
    .of_vecIssue (execVrcp.eq_def ..) clsF_iff_tyF, .of_vecIssue (execVexp2.eq_def ..) clsF_iff_tyF,
    .of_vecIssue (execVlog2.eq_def ..) clsF_iff_tyF, .of_vecIssue (execVcvt.eq_def ..) ?vcvt,
    .of_vecIssue (execVand.eq_def ..) clsI_iff_tyI, .of_vecIssue (execVor.eq_def ..) clsI_iff_tyI,
    .of_vecIssue (execVxor.eq_def ..) clsI_iff_tyI, .of_vecIssue (execVshl.eq_def ..) clsI_iff_tyI,
    .of_vecIssue (execVshr.eq_def ..) clsI_iff_tyI, .of_vecIssue (execVshra.eq_def ..) clsI_iff_tyI,
    .of_vecIssue (execVpopc.eq_def ..) clsI_iff_tyI, .of_vecIssue (execVctz.eq_def ..) clsI_iff_tyI,
    .of_vecIssue (execVclmul.eq_def ..) clsI_iff_tyI, .of_vecIssue (execVpxor.eq_def ..) clsI_iff_tyI,
    .of_vecIssue (execVpsum.eq_def ..) clsA_iff_tyA, .of_vecIssue (execVred.eq_def ..) ?vred,
    .of_vecIssue (execVcmp.eq_def ..) ?vcmp, .of_vecIssue (execVsel.eq_def ..) clsA_iff_tyA,
    .of_vecIssue (execVbcast.eq_def ..) ?vbcast, .of_vecIssue (execViota.eq_def ..) clsI_iff_tyI,
    .of_vecIssue (execVperm.eq_def ..) clsI_iff_tyI, .of_vecIssue (execVcompr.eq_def ..) clsA_iff_tyA,
    .of_vecIssue (execVld.eq_def ..) clsA_iff_tyA, .of_vecIssue (execVmtest.eq_def ..) ?vmtest,
    .of_vecIssue (execMand.eq_def ..) names, .of_vecIssue (execMor.eq_def ..) names, .of_vecIssue (execMnot.eq_def ..) names,
    .of_vecIssue (execMpop.eq_def ..) clsI_iff_tyI, List.forall_mem_nil _⟩
  case vmov => rw [Bool.or_eq_true, clsA_iff_tyA]
  case vcvt =>
    simp only [Bool.and_eq_true, clsA_iff_tyA, decide_eq_true_eq, and_assoc]
    refine and_congr_right fun dest => and_congr_right fun source => ?_
    rw [lanes_ratio_of_tyA dest source]
  case vred =>
    simp only [Bool.and_eq_true, Bool.or_eq_true, clsA_iff_tyA, clsI_iff_tyI, decide_eq_true_eq, and_assoc]
    refine and_congr_right fun _ => ⟨fun ⟨known, kind⟩ => kind.imp_right (And.intro known), fun kind => ?_⟩
    obtain sum | ⟨known, type⟩ := kind
    · exact ⟨by omega, .inl sum⟩
    · exact ⟨known, .inr type⟩
  case vcmp => simp only [Bool.and_eq_true, Bool.or_eq_true, clsA_iff_tyA, clsF_iff_tyF, bne_iff_ne, decide_eq_true_eq, and_assoc]
  case vbcast =>
    simp only [Bool.and_eq_true, Bool.or_eq_true, clsA_iff_tyA, decide_eq_true_eq]
    refine and_congr_right fun type => ?_
    rw [lanes_eq_of_tyA type]
  case vmtest => rw [Bool.and_eq_true, Bool.or_eq_true, clsI_iff_tyI, names]

/-! ## NOPs and hints (02 R49, R50) -/

/-- The NOP of every engine issues, and a hint as its engine's NOP. -/
theorem engineNops_issue (s : State) (h : Hdr) (e : Eng) (k : Fin 16) :
    ∀ x ∈ engineNops h e k, let j := job0 x.1 x.2.2 (snap0 s) 0
      Admitted s j → exec x.2.1 s = .next (issued s x.1 j 1 false) := by
  unfold engineNops
  simp only [List.forall_mem_cons]
  refine ⟨fun admitted => (execCnop.eq_def ..).trans ?_, fun admitted => (execMnop.eq_def ..).trans ?_,
    fun admitted => (execVnop.eq_def ..).trans ?_, fun admitted => (execEngineHint.eq_def ..).trans ?_, List.forall_mem_nil _⟩
  all_goals exact issue_of_admitted rfl rfl rfl rfl admitted

/-! ## VWIN and VST (19 R354, R356, 20 R368, R383) -/

section
variable {s : State} {h : Hdr}

/-- VWIN is legal when its window ends within the accumulator store's rows, and moves the window. -/
theorem exec_vwin_issued {wt : Fin 16} {f : Bool} {wr : Fin 128} {ws : Fin 8} (fits : wr.val ≤ if f then 120 else 64)
    (admitted : Admitted s (job0 .vector (.vwin h wt f wr ws) (snap0 s) 0)) :
    let u := issued s .vector (job0 .vector (.vwin h wt f wr ws) (snap0 s) 0) 1 false
    exec (.vwin h wt f wr ws) s = .next (withEng u { u.core.eng with
      vwst := BitVec.ofNat 64 (wt.val + (if f then 16 else 0) + wr.val * 2 ^ 8 + ws.val * 2 ^ 16) }) :=
  (execVwin.eq_def ..).trans (issue_of_admitted (decide_eq_false (Nat.not_lt.2 fits)) rfl rfl rfl admitted)

theorem exec_vwin_illegal {wt : Fin 16} {f : Bool} {wr : Fin 128} {ws : Fin 8} (beyond : (if f then 120 else 64) < wr.val) :
    exec (.vwin h wt f wr ws) s = .next (raiseEFault s ⟨0x10, 0, .vector, headOf s .vector, 0, 0⟩) :=
  (execVwin.eq_def ..).trans (issue_of_bad (decide_eq_true beyond))

/-- VST issues with its mask, whose lanes count against the port budget. -/
theorem exec_vst_issued {va : Fin 64} {m : Fin 8} {t : Fin 16} {off : Fin 32768} (type : tyA t) :
    let j := { job0 .vector (.vst h va m t off) (snap0 s) 1 with buf := bytesOf (maskBits s.core.eng m).toNat 16 }
    Admitted s j → exec (.vst h va m t off) s = .next (issued s .vector j 1 false) := by
  intro j admitted
  have legal : (!clsA t) = false := by rw [clsA_iff_tyA.2 type]; rfl
  exact (execVst.eq_def ..).trans (issue_of_admitted legal rfl rfl rfl admitted)

theorem exec_vst_illegal {va : Fin 64} {m : Fin 8} {t : Fin 16} {off : Fin 32768} (type : ¬ tyA t) :
    exec (.vst h va m t off) s = .next (raiseEFault s ⟨0x10, 0, .vector, headOf s .vector, 0, 0⟩) := by
  have bad : (!clsA t) = true := by rw [Bool.eq_false_iff.2 (mt clsA_iff_tyA.1 type)]; rfl
  exact (execVst.eq_def ..).trans (issue_of_bad bad)

end

/-! ## Global accesses (19 R359, 20 R384) -/

section
variable {s : State} {i : Instr} {g : Fin 4} {m : Fin 8} {t : Fin 16} {off : Fin 4096} {need : BitVec 8} {mine : Bool}

/-- The space of a g register. -/
def gSpace (s : State) (g : Fin 4) : Nat := bitsOf (s.core.eng.eff.gctl[g]).toNat 46 43

/-- The timing class of a g register. -/
def gCls (s : State) (g : Fin 4) : Nat := bitsOf (s.core.eng.eff.gctl[g]).toNat 49 47

/-- The number of the capability register that a g register names. -/
def gCreg (s : State) (g : Fin 4) : Nat := bitsOf (s.core.eng.eff.gctl[g]).toNat 38 35

/-- The capability of a g register. -/
def gCap (s : State) (g : Fin 4) : Cap := s.core.seq.c[Fin.ofNat 16 (gCreg s g)]

/-- What a global access keeps of its g register (19 R359). -/
def gSnap (s : State) (g : Fin 4) : Snap :=
  { snap0 s with gctl := s.core.eng.eff.gctl[g], gbase := s.core.eng.eff.gbase[g], capS := gCap s g }

/-- The operands of a global access are legal. -/
def GLegal (s : State) (g : Fin 4) (t : Fin 16) : Prop :=
  tyA t ∧ 2 ≤ gSpace s g ∧ gSpace s g ≤ 4 ∧ clsAdmits (gCls s g) (gSpace s g) = true

/-- The model's test of the operands of a global access. -/
def gLegal (s : State) (g : Fin 4) (t : Fin 16) : Bool :=
  clsA t && 2 ≤ gSpace s g && gSpace s g ≤ 4 && clsAdmits (gCls s g) (gSpace s g)

theorem gLegal_iff : gLegal s g t = true ↔ GLegal s g t := by
  simp only [gLegal, GLegal, Bool.and_eq_true, decide_eq_true_eq, clsA_iff_tyA, and_assoc]

/-- `u` with the object of a global access in the translation cache, if it has one. -/
def gTouched (s : State) (g : Fin 4) (u : State) : Option ObjEnt → State
  | some o => touchObj u o.oid ((gCap s g).bits.getLsbD 103)
  | none => u

theorem gIssue_illegal (illegal : ¬ GLegal s g t) :
    gIssue s i g m t off need mine = .next (raiseEFault s ⟨0x10, 0, .vector, headOf s .vector, 0, 0⟩) := by
  have bad : (!gLegal s g t) = true := by rw [Bool.eq_false_iff.2 (mt gLegal_iff.1 illegal)]; rfl
  exact issue_of_bad bad

/-- A global access with legal operands, whose check answers the object `o`, issues with its snapshot and its object. -/
theorem gIssue_issued {o : Option ObjEnt} (legal : GLegal s g t)
    (check : gCheck s (job0 .vector i (gSnap s g) 1) (gCap s g) (gCreg s g) m t.val off need (gSpace s g) = .ok o) :
    let j := job0 .vector i { gSnap s g with objS := o } 1
    let u := gTouched s g (issued s .vector j 1 false) o
    Admitted s j → gIssue s i g m t off need mine = .next (if mine then
      onJob u (s.core.eng.nextJob + 1)
        (fun j => { j with minDone := j.iss + clsLat (gCls s g) (bitsOf (s.core.eng.eff.gctl[g]).toNat 55 50) + 1 }) else u) := by
  intro j u admitted
  have passes : (!gLegal s g t) = false := by rw [gLegal_iff.2 legal]; rfl
  unfold gIssue
  dsimp only
  generalize answers : gCheck s _ _ _ m _ off need _ = r
  obtain rfl : r = .ok o := answers.symm.trans check
  cases o with
  | none => cases mine <;> exact issue_of_admitted passes rfl rfl rfl admitted
  | some o => cases mine <;> exact issue_of_admitted passes rfl rfl rfl admitted

end

end Sys2Proof.Machine

/-- Settles O44: each command by the test that the model makes of its operands. -/
theorem vectorCommandsIssue : Obligations.VectorCommandsIssue := by
  intro s h vd va vb m mk mi mj part op pred t t2 rm f f2 count off val e k wt wr ws g goff mr qd qoff o plain illegal
  refine ⟨rowCommands_issue s h vd va vb m mk mi mj part op pred t t2 rm f f2 count off val, engineNops_issue s h e k,
    fun admitted => ?_, fun fits admitted => exec_vwin_issued fits admitted, exec_vwin_illegal, exec_vst_illegal, exec_vst_issued,
    fun illegal => ?_, fun legal => ⟨fun check admitted => ?_, fun check admitted => ?_⟩⟩
  · exact (execQld.eq_def ..).trans (issue_of_admitted rfl rfl rfl rfl admitted)
  · simp only [List.forall_mem_cons]
    exact ⟨gIssue_illegal illegal, gIssue_illegal illegal, List.forall_mem_nil _⟩
  · have issues := gIssue_issued (mine := false) legal check admitted
    cases o <;> exact issues
  · have issues := gIssue_issued (mine := true) legal check admitted
    cases o <;> exact issues
end

section
/-! What the integer vector commands make of the lanes of their rows (19 R353, R357, R361, 20 R371, R375, 03 R63, R64). -/

open Sys2Proof Sys2Proof.Machine Sys2Proof.Claims

namespace Sys2Proof.Machine

/-! ## Lanes and masks (19 R353, R357) -/

section
variable {t : Fin 16}

/-- An integer has a byte at least. -/
theorem tySize_pos_of_tyI (h : tyI t) : 0 < tySize t.val := by
  revert t
  unfold tyI
  decide

theorem tyFloat_of_tyI (h : tyI t) : tyFloat t.val = false := decide_eq_false (by have := h.1; omega)

theorem lanes_eq_of_tyI (h : tyI t) : lanes t.val = 128 / tySize t.val := by
  rw [lanes, Nat.max_eq_right (tySize_pos_of_tyI h)]

end

/-- The active lanes of a type are those that the mask selects, and all of them under m0. -/
theorem mem_active {e : Engines} {m : Fin 8} {t i : Nat} :
    i ∈ active e m t ↔ i < lanes t ∧ (m = 0 ∨ (e.masks[m]).getLsbD i = true) := by
  rw [active, List.mem_filter, List.mem_range]
  refine and_congr_right fun lane => ?_
  unfold maskBits
  split
  next zero =>
    have bit : i < 128 := lane.trans_le (Nat.div_le_self ..)
    rw [BitVec.getLsbD_allOnes]
    simp [zero, bit]
  next named => simp [named]

/-- A part of the bytes read is a read of that part. -/
theorem take_drop_memReadN (m : Mem) (a : Nat) {k n len : Nat} (within : k + n ≤ len) :
    ((memReadN m a len).drop k).take n = memReadN m (a + k) n := by
  refine List.ext_getElem (by simp [memReadN]; omega) fun i _ _ => ?_
  simp [memReadN, Nat.add_assoc]

section
variable (s : State) (j : Job) (v : Fin 64) {t i : Nat}

/-- A lane of a row is the little-endian number of its bytes. -/
theorem getD_rowLanes (typed : 0 < tySize t) (lane : i < 128 / tySize t) : (rowLanes s j v t).getD i 0 = laneAt s j t v i := by
  have within : i * tySize t + tySize t ≤ 128 := by
    rw [← Nat.succ_mul]
    exact (Nat.mul_le_mul_right _ lane).trans (Nat.div_mul_le_self ..)
  have count : i < (memReadN s.core.eng.acc (rowOff j v) 128).length / max 1 (tySize t) := by
    rw [Nat.max_eq_right typed]
    simpa [memReadN] using lane
  rw [rowLanes, splitNats, List.getD_eq_getElem?_getD, List.getElem?_map, List.getElem?_range count]
  simp only [Option.map_some, Option.getD_some]
  rw [take_drop_memReadN _ _ within, bytesNat_memReadN, laneAt]

theorem laneAt_lt : laneAt s j t v i < 2 ^ tyBits t := by
  have bound := bytesNat_lt (memReadN s.core.eng.acc (rowOff j v + i * tySize t) (tySize t))
  rwa [bytesNat_memReadN, memReadN, List.length_map, List.length_range] at bound

end

/-! ## Numbers of `w` bits (03 R63, R64) -/

section
variable {w a : Nat}

theorem coe_wrapN (w : Nat) (z : Int) : (wrapN w z : Int) = z % 2 ^ w := by
  rw [wrapN, Int.toNat_of_nonneg (Int.emod_nonneg _ (by positivity))]
  push_cast
  rfl

theorem sextN_eq_signedLane (h : a < 2 ^ w) : sextN w a = signedLane w a := by
  unfold sextN signedLane
  rw [Nat.mod_eq_of_lt h]
  push_cast
  rfl

theorem coe_emod_of_lt (h : a < 2 ^ w) : (a : Int) % 2 ^ w = a := by
  exact_mod_cast congrArg Nat.cast (Nat.mod_eq_of_lt h)

/-- A lane's value stands for its bits. -/
theorem signedLane_emod (h : a < 2 ^ w) : signedLane w a % 2 ^ w = a := by
  unfold signedLane
  split
  · exact coe_emod_of_lt h
  · rw [Int.sub_emod_right, coe_emod_of_lt h]

end

section
variable {t : Nat}

theorem tySigned_iff : tySigned t = true ↔ 7 ≤ t ∧ t ≤ 10 := by simp [tySigned]

theorem intVal_eq_laneVal {a : Nat} (h : a < 2 ^ tyBits t) : intVal t a = laneVal t a := by
  simp only [intVal, laneVal, tySigned_iff, sextN_eq_signedLane h, Nat.mod_eq_of_lt h]

theorem laneVal_emod {a : Nat} (h : a < 2 ^ tyBits t) : laneVal t a % 2 ^ tyBits t = a := by
  unfold laneVal
  split
  · exact signedLane_emod h
  · exact coe_emod_of_lt h

/-- Clamping gives the bits of the nearest value. -/
theorem coe_clampBits (z : Int) : (clampBits t z : Int) = nearest t z % 2 ^ tyBits t := by
  rw [clampBits, coe_wrapN]
  congr 1
  simp only [intMin, intMax, nearest, tySigned_iff]
  split
  · push_cast
    rfl
  · push_cast
    rfl

end

/-! ## What a lane becomes (20 R371, R375) -/

section
variable {t : Fin 16} {vf rm a b d c : Nat} (int : tyI t) (ha : a < 2 ^ tyBits t.val) (hb : b < 2 ^ tyBits t.val)

/-- No lane of an integer type is flushed. -/
theorem flushOut_of_tyI (int : tyI t) (v : Nat) : flushOut vf t.val v = v := by
  simp [flushOut, subnormal?, tyFloat_of_tyI int]

section
include int ha hb

/-- VADD and VSUB, wrapping or saturating. -/
theorem coe_laneAdd (sat sub : Bool) : (laneAdd vf t.val rm sat sub a b : Int) =
    (let z := if sub then laneVal t.val a - laneVal t.val b else laneVal t.val a + laneVal t.val b
     if sat then nearest t.val z else z) % 2 ^ tyBits t.val := by
  rw [laneAdd, tyFloat_of_tyI int, intVal_eq_laneVal ha, intVal_eq_laneVal hb]
  cases sat with
  | false => exact coe_wrapN _ _
  | true => exact coe_clampBits _

/-- VMIN takes the lane of the smaller value. -/
theorem coe_laneMin_min : (laneMin vf t.val false a b : Int) = min (laneVal t.val a) (laneVal t.val b) % 2 ^ tyBits t.val := by
  rw [laneMin, flushOut_of_tyI int, pickMin, tyFloat_of_tyI int, intVal_eq_laneVal ha, intVal_eq_laneVal hb]
  simp only [Bool.false_eq_true, if_false]
  split
  next less => rw [min_eq_right less.le, laneVal_emod hb]
  next le => rw [min_eq_left (not_lt.1 le), laneVal_emod ha]

/-- VMAX takes the lane of the greater value. -/
theorem coe_laneMin_max : (laneMin vf t.val true a b : Int) = max (laneVal t.val a) (laneVal t.val b) % 2 ^ tyBits t.val := by
  rw [laneMin, flushOut_of_tyI int, pickMin, tyFloat_of_tyI int, intVal_eq_laneVal ha, intVal_eq_laneVal hb]
  simp only [Bool.false_eq_true, if_false, if_true]
  split
  next less => rw [max_eq_right less.le, laneVal_emod hb]
  next le => rw [max_eq_left (not_lt.1 le), laneVal_emod ha]

end

include int in
theorem coe_laneMul : (laneMul vf t.val rm a b : Int) = (a * b : Int) % 2 ^ tyBits t.val := by
  rw [laneMul, tyFloat_of_tyI int]
  push_cast
  rfl

include int in
theorem coe_laneFma : (laneFma vf t.val rm a b d : Int) = (a * b + d : Int) % 2 ^ tyBits t.val := by
  rw [laneFma, tyFloat_of_tyI int]
  push_cast
  rfl

include int ha in
theorem coe_laneAbs : (laneAbs t.val a : Int) = (laneVal t.val a).natAbs % 2 ^ tyBits t.val := by
  rw [laneAbs, tyFloat_of_tyI int, intVal_eq_laneVal ha]
  by_cases signed : tySigned t.val = true
  · simp only [Bool.false_eq_true, if_false, if_pos signed]
    exact coe_wrapN _ _
  · have value : laneVal t.val a = a := if_neg (mt tySigned_iff.2 signed)
    rw [Bool.eq_false_iff.2 signed, value, Int.natAbs_natCast, coe_emod_of_lt ha]
    rfl

include int in
theorem coe_laneNeg : (laneNeg t.val a : Int) = -(a : Int) % 2 ^ tyBits t.val := by
  rw [laneNeg, tyFloat_of_tyI int]
  exact coe_wrapN _ _

/-- VSHL: a shift by the lane's width or more leaves 0. -/
theorem coe_laneShift_left : (laneShift 0 t.val a c : Int) = (a * 2 ^ min (tyBits t.val) c : Int) % 2 ^ tyBits t.val := by
  show ((if tyBits t.val ≤ c then 0 else a * 2 ^ c % 2 ^ tyBits t.val : Nat) : Int) = _
  split
  next far => rw [min_eq_left far, Int.mul_emod_left]; rfl
  next near => rw [min_eq_right (not_le.1 near).le]; push_cast; rfl

include ha in
/-- VSHR: a shift by the lane's width or more leaves 0. -/
theorem coe_laneShift_right : (laneShift 1 t.val a c : Int) = (a / 2 ^ min (tyBits t.val) c : Int) % 2 ^ tyBits t.val := by
  have shifted : (laneShift 1 t.val a c : Nat) = a / 2 ^ min (tyBits t.val) c := by
    show (if tyBits t.val ≤ c then 0 else a / 2 ^ c) = _
    split
    next far => rw [min_eq_left far, Nat.div_eq_of_lt ha]
    next near => rw [min_eq_right (not_le.1 near).le]
  have bound : a / 2 ^ min (tyBits t.val) c < 2 ^ tyBits t.val := (Nat.div_le_self ..).trans_lt ha
  rw [shifted, ← coe_emod_of_lt bound]
  push_cast
  rfl

include ha in
/-- VSHRA: a shift by the lane's width or more leaves the sign. -/
theorem coe_laneShift_arithmetic :
    (laneShift 2 t.val a c : Int) = signedLane (tyBits t.val) a / 2 ^ min (tyBits t.val) c % 2 ^ tyBits t.val := by
  show (wrapN (tyBits t.val) (sextN (tyBits t.val) a / (2 ^ min c (tyBits t.val) : Nat)) : Int) = _
  rw [coe_wrapN, sextN_eq_signedLane ha, min_comm]
  push_cast
  rfl

end

/-! ## The rows -/

/-- The claim about one entry of `laneCommands`. -/
def LanesCompute (s : State) (j : Job) (vd va vb : Fin 64) (m : Fin 8) (t : Fin 16)
    (p : Instr × Nat × (Nat → Nat → Nat → Int)) : Prop :=
  let v := { j with cmd := p.1, eng := .vector }
  let at0 (v : Fin 64) := laneAt s j t.val v
  ∃ vs, stepForm s v 0 = .done (addLanes s v false (j.iss + p.2.1) 0 1 vd t.val vs) ∧
    ∀ q : Nat × Nat, q ∈ vs ↔ q.1 < 128 / tySize t.val ∧ (m = 0 ∨ (s.core.eng.masks[m]).getLsbD q.1 = true) ∧
      (q.2 : Int) = p.2.2 (at0 va q.1) (at0 vb q.1) (at0 vd q.1) % 2 ^ tyBits t.val

/-- The lanes that `g` makes of the lanes of three rows. -/
def lanesBy (s : State) (j : Job) (vd va vb : Fin 64) (m : Fin 8) (t : Nat) (g : Nat → Nat → Nat → Nat) : List (Nat × Nat) :=
  (active s.core.eng m t).map (fun i =>
    (i, g ((rowLanes s j va t).getD i 0) ((rowLanes s j vb t).getD i 0) ((rowLanes s j vd t).getD i 0)))

/-- `g` makes of lanes what `f` says, modulo 2^w. -/
def Wraps (t : Nat) (g : Nat → Nat → Nat → Nat) (f : Nat → Nat → Nat → Int) : Prop :=
  ∀ a b d, a < 2 ^ tyBits t → b < 2 ^ tyBits t → (g a b d : Int) = f a b d % 2 ^ tyBits t

/-- A command computes its lanes when its step writes those that `g` makes, and `g` is what the claim says modulo 2^w. -/
theorem LanesCompute.of_wraps {s : State} {j : Job} {vd va vb : Fin 64} {m : Fin 8} {t : Fin 16} {i : Instr} {cyc : Nat}
    {f : Nat → Nat → Nat → Int} (g : Nat → Nat → Nat → Nat) (int : tyI t)
    (forms : let v := { j with cmd := i, eng := .vector }
      vecRun s v = .done (addLanes s v false (j.iss + vecD i) 0 1 vd t.val (lanesBy s v vd va vb m t.val g)))
    (delay : vecD i = cyc) (wraps : Wraps t.val g f) : LanesCompute s j vd va vb m t (i, cyc, f) := by
  subst delay
  refine ⟨_, forms, fun ⟨k, x⟩ => ?_⟩
  rw [lanesBy, List.mem_map, ← lanes_eq_of_tyI int, ← and_assoc, ← mem_active]
  have made (lane : k ∈ active s.core.eng m t.val) (v : Fin 64) :
      (rowLanes s { j with cmd := i, eng := .vector } v t.val).getD k 0 = laneAt s j t.val v k :=
    getD_rowLanes s _ v (tySize_pos_of_tyI int) (lanes_eq_of_tyI int ▸ (mem_active.1 lane).1)
  constructor
  · rintro ⟨_, lane, h⟩
    cases h
    rw [made lane, made lane, made lane]
    exact ⟨lane, wraps _ _ _ (laneAt_lt ..) (laneAt_lt ..)⟩
  · rintro ⟨lane, value⟩
    refine ⟨k, lane, ?_⟩
    rw [made lane, made lane, made lane, Prod.mk.injEq]
    exact ⟨rfl, Int.ofNat_inj.1 ((wraps _ _ _ (laneAt_lt ..) (laneAt_lt ..)).trans value.symm)⟩

/-- Every integer command on lanes computes its active lanes. -/
theorem laneCommands_compute (s : State) (j : Job) (h : Hdr) (vd va vb : Fin 64) (m : Fin 8) (t : Fin 16) (rm : Fin 4) (n : Fin 64)
    (imf : Bool) (int : tyI t) : ∀ p ∈ laneCommands h vd va vb m t rm n imf, LanesCompute s j vd va vb m t p := by
  have arithmetic : (if tyFloat t.val then 4 else 2) = 2 := by rw [tyFloat_of_tyI int]; rfl
  unfold laneCommands
  simp only [List.forall_mem_cons]
  let vf := j.snap.vfcr.toNat
  let count (b : Nat) : Nat := if imf then n.val else b
  exact ⟨.of_wraps (fun a b _ => laneAdd vf t.val rm.val false false a b) int rfl arithmetic
      fun _ _ _ ha hb => coe_laneAdd int ha hb false false,
    .of_wraps (fun a b _ => laneAdd vf t.val rm.val true false a b) int rfl arithmetic
      fun _ _ _ ha hb => coe_laneAdd int ha hb true false,
    .of_wraps (fun a b _ => laneAdd vf t.val rm.val false true a b) int rfl arithmetic
      fun _ _ _ ha hb => coe_laneAdd int ha hb false true,
    .of_wraps (fun a b _ => laneAdd vf t.val rm.val true true a b) int rfl arithmetic
      fun _ _ _ ha hb => coe_laneAdd int ha hb true true,
    .of_wraps (fun a b _ => laneMul vf t.val rm.val a b) int rfl rfl fun _ _ _ _ _ => coe_laneMul int,
    .of_wraps (laneFma vf t.val rm.val) int rfl rfl fun _ _ _ _ _ => coe_laneFma int,
    .of_wraps (fun a b _ => laneMin vf t.val false a b) int rfl arithmetic fun _ _ _ ha hb => coe_laneMin_min int ha hb,
    .of_wraps (fun a b _ => laneMin vf t.val true a b) int rfl arithmetic fun _ _ _ ha hb => coe_laneMin_max int ha hb,
    .of_wraps (fun a _ _ => laneAbs t.val a) int rfl arithmetic fun _ _ _ ha _ => coe_laneAbs int ha,
    .of_wraps (fun a _ _ => laneNeg t.val a) int rfl arithmetic fun _ _ _ _ _ => coe_laneNeg int,
    .of_wraps (fun a b _ => laneShift 0 t.val a (count b)) int rfl rfl fun _ _ _ _ _ => coe_laneShift_left,
    .of_wraps (fun a b _ => laneShift 1 t.val a (count b)) int rfl rfl fun _ _ _ ha _ => coe_laneShift_right ha,
    .of_wraps (fun a b _ => laneShift 2 t.val a (count b)) int rfl rfl fun _ _ _ ha _ => coe_laneShift_arithmetic ha,
    List.forall_mem_nil _⟩

end Sys2Proof.Machine

/-- Settles O58: each command by what it makes of one lane. -/
theorem integerLanesCompute : Obligations.IntegerLanesCompute := by
  intro s j h vd va vb m t rm n imf int
  exact laneCommands_compute s j h vd va vb m t rm n imf int
end
